-- ==== Sys2Proof/Word.lean ====
section
/-! DEFINITION. Word.lean: the word types of Thearo-2 (R12, R58) and nothing else.
Values that software sees as bits are bit vectors; counts, indexes and exact arithmetic are Nat and Int. -/
namespace Sys2Proof

/-- One byte of memory. -/
abbrev Byte := BitVec 8
/-- An aligned 4-byte unit of memory, and one lane of a v register (R58, R160). -/
abbrev Word := BitVec 32
/-- An address, an s register and an instruction word (R12, R58). -/
abbrev DWord := BitVec 64
/-- One bit per lane of a group: bit L is lane L (R8). -/
abbrev Mask := BitVec 32
/-- A fault cause: class × 64 + detail (R394). -/
abbrev Cause := BitVec 10

/-- The mask that holds no lane. -/
abbrev Mask.none : Mask := 0#32
/-- The mask that holds all 32 lanes. -/
abbrev Mask.all : Mask := 0xFFFFFFFF#32

/-- Lane `l` is in the mask. -/
abbrev Mask.has (m : Mask) (l : Nat) : Bool := m.getLsbD l

/-- A Boolean as one bit of an n-bit vector. -/
abbrev bit (n : Nat) (b : Bool) : BitVec n := BitVec.ofNat n b.toNat

end Sys2Proof
end

