-- ==== Sys2Proof/Config.lean ====
section
/-! DEFINITION. Config.lean: the free values, each an opaque constant with no body, so that no proof can see it.
Each is applied to the plain counter `Mach.draw` (which every step advances) and to what tells the uses within one
step apart. Log entries 4, 5, 6, 7 say where each stands. -/
namespace Sys2Proof.Config

/-- The choice that R17 and R54 leave free: the index of the candidate taken. `draw` is the step's counter, `slot`
the operand or byte it is made for, `lane` the lane. A user of it takes the value modulo the number of candidates. -/
opaque pick : (draw slot lane : Nat) → Nat

/-- A 64-bit value that the spec leaves open: an image size, a digest word, an unwritten byte of an image. -/
opaque freeWord : (draw slot : Nat) → BitVec 64

/-- The ML-DSA-44 signature that the device's identity key makes of a message (R471): the key is a fused secret,
so the spec gives no value of it. -/
opaque identitySign : List (BitVec 8) → BitVec 19360

/-- The revision of a record of the capability chain, and its offset in configuration space (R473): no rule gives them. -/
opaque capRev : (id : Nat) → BitVec 4
opaque capOffset : (id : Nat) → BitVec 16

/-- The reset value of a register of the CXL 2.0 layout (`old`) or the CXL 3.1 layout (R473): no rule gives them. -/
opaque cxlReset : (old : Bool) → (off : Nat) → BitVec 64

end Sys2Proof.Config
end

