-- ==== Sys2Proof/Syntax.lean ====
section
/-! DEFINITION. Syntax.lean: the instructions and events of the opcode table (spec/opcode_table.json), one
constructor per row, with the operand forms of R58, R226 and R229 as types. -/
namespace Sys2Proof

/-- The execution scope, bits [62:61] (R31). -/
inductive Scope where | lane | group | set | team
deriving DecidableEq, Repr

/-- The memory scope, MSCOPE[1:0] (R233). -/
inductive MScope where | team | die | dev | sys
deriving DecidableEq, Repr

/-- The type codes of R230. -/
inductive Ty where
  | b32 | i32 | n32 | f32 | f64 | i64 | n64 | f16 | bf16 | i16 | n16 | e4 | e5 | i8 | n8 | i4 | n4 | q4 | b1 | b64
deriving DecidableEq, Repr

/-- The condition of `gset`, SUB 0x00 to 0x05 (R315). -/
inductive Cond where | eq | ne | lt | le | gt | ge
deriving DecidableEq, Repr

/-- How LD and ST form an address, SPACE (R233). -/
inductive Space where | generic | global | scratch | cscratch | stack
deriving DecidableEq, Repr

/-- The rounding override of a modifier word, RMODE (R236). -/
inductive RMode where | own | rne | rz | ru | rd
deriving DecidableEq, Repr

/-- One place of the unified operand space (R58); `bad` is 384 + n, reserved. -/
inductive Opnd where
  | v (n : BitVec 8) | s (n : BitVec 6) | p (n : BitVec 3) | x (n : BitVec 2)
  | h (n : BitVec 4) | a (n : BitVec 2) | c (n : BitVec 5) | bad (n : BitVec 7)
deriving DecidableEq, Repr

/-- A modifier word without its MARK and reserved bits (R236). -/
structure Mod where
  setn : BitVec 3
  rmode : RMode
  scale : BitVec 6
  sat : Bool
  clamp : Bool
  absA : Bool
  negA : Bool
  absB : Bool
  negB : Bool
  absC : Bool
  negC : Bool
  ext : BitVec 32
deriving DecidableEq, Repr

/-- The common fields of an instruction word (R226). `resv` says that the word, or its modifier word, fails check 5
of R241; the trap is raised when the instruction runs, since a set-wide instruction makes that check only after its
rendezvous. -/
structure Hd where
  w : Bool
  scope : Scope
  pneg : Bool
  pred : BitVec 3
  mod : Option Mod
  resv : Bool
deriving DecidableEq, Repr

/-- A group of a team: the team's number in State and the group number in the team. -/
structure GRef where
  tid : Nat
  gno : Nat
deriving DecidableEq, Repr

/-- Where a REGISTER_WRITE goes (R14): an offset of the management space (R466), an offset of one of the two CXL layouts of
configuration space (R473), or a register of a context that its supervisor writes, by its SREAD index (R386, R441). -/
inductive RegSpace where
  | mgmt (off : BitVec 20)
  | cxl31 (off : BitVec 16)
  | cxl20 (off : BitVec 16)
  | context (ctx : BitVec 12) (idx : BitVec 8)
deriving DecidableEq, Repr

/-- One constructor per row of the opcode table. The first 226 are program instructions, which the decoder gives;
the others are events: steps of engines, caches, the distributor, context commands, the host and firmware, which
enter through State's agenda. -/
inductive Instr where
  /-- BR, R253. -/
  | br (h : Hd) (off : BitVec 32)
  /-- CALL, R253. -/
  | call (h : Hd) (off : BitVec 32)
  /-- BRD, R47. -/
  | brd (h : Hd) (off : BitVec 32) (join16 : BitVec 16)
  /-- JOIN, R48. -/
  | join (h : Hd)
  /-- EXIT, R51. -/
  | exit (h : Hd)
  /-- RET, R253. -/
  | ret (h : Hd)
  /-- CALLT, R254. -/
  | callt (h : Hd) (idx : BitVec 17)
  /-- CALLR, R253. -/
  | callr (h : Hd) (a : Opnd)
  /-- TRAP, R256. -/
  | trap (h : Hd) (n : BitVec 6)
  /-- NOP, R255. -/
  | nop (h : Hd)
  /-- ADD, R257. -/
  | add (h : Hd) (ty : Ty) (d a b : Opnd)
  /-- SUB, R257. -/
  | sub (h : Hd) (ty : Ty) (d a b : Opnd)
  /-- MUL, R257. -/
  | mul (h : Hd) (ty : Ty) (d a b : Opnd)
  /-- MULHI, R257. -/
  | mulhi (h : Hd) (ty : Ty) (d a b : Opnd)
  /-- MAD, R257. -/
  | mad (h : Hd) (ty : Ty) (d a b c : Opnd)
  /-- MIN, R257. -/
  | min (h : Hd) (ty : Ty) (d a b : Opnd)
  /-- MAX, R257. -/
  | max (h : Hd) (ty : Ty) (d a b : Opnd)
  /-- ABS, R257. -/
  | abs (h : Hd) (ty : Ty) (d a : Opnd)
  /-- NEG, R257. -/
  | neg (h : Hd) (ty : Ty) (d a : Opnd)
  /-- DIV, R258. -/
  | div (h : Hd) (ty : Ty) (d a b : Opnd)
  /-- REM, R258. -/
  | rem (h : Hd) (ty : Ty) (d a b : Opnd)
  /-- ADD_IMM, R257, R232. -/
  | addImm (h : Hd) (ty : Ty) (d a : Opnd) (imm : BitVec 20)
  /-- SUB_IMM, R257, R232. -/
  | subImm (h : Hd) (ty : Ty) (d a : Opnd) (imm : BitVec 20)
  /-- MUL_IMM, R257, R232. -/
  | mulImm (h : Hd) (ty : Ty) (d a : Opnd) (imm : BitVec 20)
  /-- MULHI_IMM, R257, R232. -/
  | mulhiImm (h : Hd) (ty : Ty) (d a : Opnd) (imm : BitVec 20)
  /-- MIN_IMM, R257, R232. -/
  | minImm (h : Hd) (ty : Ty) (d a : Opnd) (imm : BitVec 20)
  /-- MAX_IMM, R257, R232. -/
  | maxImm (h : Hd) (ty : Ty) (d a : Opnd) (imm : BitVec 20)
  /-- AND, R259. -/
  | and (h : Hd) (ty : Ty) (d a b : Opnd)
  /-- OR, R259. -/
  | or (h : Hd) (ty : Ty) (d a b : Opnd)
  /-- XOR, R259. -/
  | xor (h : Hd) (ty : Ty) (d a b : Opnd)
  /-- NOT, R259. -/
  | not (h : Hd) (ty : Ty) (d a : Opnd)
  /-- ANDN, R259. -/
  | andn (h : Hd) (ty : Ty) (d a b : Opnd)
  /-- SHL, R259. -/
  | shl (h : Hd) (ty : Ty) (d a b : Opnd)
  /-- SHR, R259. -/
  | shr (h : Hd) (ty : Ty) (d a b : Opnd)
  /-- SAR, R259. -/
  | sar (h : Hd) (ty : Ty) (d a b : Opnd)
  /-- ROTL, R259. -/
  | rotl (h : Hd) (ty : Ty) (d a b : Opnd)
  /-- POPC, R259. -/
  | popc (h : Hd) (ty : Ty) (d a : Opnd)
  /-- CLZ, R259. -/
  | clz (h : Hd) (ty : Ty) (d a : Opnd)
  /-- BFE, R260. -/
  | bfe (h : Hd) (ty : Ty) (d a c : Opnd)
  /-- BFI, R260. -/
  | bfi (h : Hd) (ty : Ty) (d a b c : Opnd)
  /-- BREV, R259. -/
  | brev (h : Hd) (ty : Ty) (d a : Opnd)
  /-- AND_IMM, R259, R232. -/
  | andImm (h : Hd) (ty : Ty) (d a : Opnd) (imm : BitVec 20)
  /-- OR_IMM, R259, R232. -/
  | orImm (h : Hd) (ty : Ty) (d a : Opnd) (imm : BitVec 20)
  /-- XOR_IMM, R259, R232. -/
  | xorImm (h : Hd) (ty : Ty) (d a : Opnd) (imm : BitVec 20)
  /-- ANDN_IMM, R259, R232. -/
  | andnImm (h : Hd) (ty : Ty) (d a : Opnd) (imm : BitVec 20)
  /-- SHL_IMM, R259, R232. -/
  | shlImm (h : Hd) (ty : Ty) (d a : Opnd) (imm : BitVec 20)
  /-- SHR_IMM, R259, R232. -/
  | shrImm (h : Hd) (ty : Ty) (d a : Opnd) (imm : BitVec 20)
  /-- SAR_IMM, R259, R232. -/
  | sarImm (h : Hd) (ty : Ty) (d a : Opnd) (imm : BitVec 20)
  /-- ROTL_IMM, R259, R232. -/
  | rotlImm (h : Hd) (ty : Ty) (d a : Opnd) (imm : BitVec 20)
  /-- SET_EQ, R261. -/
  | setEq (h : Hd) (ty : Ty) (d a b : Opnd)
  /-- SET_NE, R261. -/
  | setNe (h : Hd) (ty : Ty) (d a b : Opnd)
  /-- SET_LT, R261. -/
  | setLt (h : Hd) (ty : Ty) (d a b : Opnd)
  /-- SET_LE, R261. -/
  | setLe (h : Hd) (ty : Ty) (d a b : Opnd)
  /-- SET_GT, R261. -/
  | setGt (h : Hd) (ty : Ty) (d a b : Opnd)
  /-- SET_GE, R261. -/
  | setGe (h : Hd) (ty : Ty) (d a b : Opnd)
  /-- SET_EQ_IMM, R261, R232. -/
  | setEqImm (h : Hd) (ty : Ty) (d a : Opnd) (imm : BitVec 20)
  /-- SET_NE_IMM, R261, R232. -/
  | setNeImm (h : Hd) (ty : Ty) (d a : Opnd) (imm : BitVec 20)
  /-- SET_LT_IMM, R261, R232. -/
  | setLtImm (h : Hd) (ty : Ty) (d a : Opnd) (imm : BitVec 20)
  /-- SET_LE_IMM, R261, R232. -/
  | setLeImm (h : Hd) (ty : Ty) (d a : Opnd) (imm : BitVec 20)
  /-- SET_GT_IMM, R261, R232. -/
  | setGtImm (h : Hd) (ty : Ty) (d a : Opnd) (imm : BitVec 20)
  /-- SET_GE_IMM, R261, R232. -/
  | setGeImm (h : Hd) (ty : Ty) (d a : Opnd) (imm : BitVec 20)
  /-- MOV, R262. -/
  | mov (h : Hd) (ty : Ty) (d a : Opnd)
  /-- SEL, R262. -/
  | sel (h : Hd) (ty : Ty) (d a b c : Opnd)
  /-- MOVI, R263. -/
  | movi (h : Hd) (ty : Ty) (d : Opnd) (imm : BitVec 20)
  /-- MOVHI, R263. -/
  | movhi (h : Hd) (ty : Ty) (d : Opnd) (imm : BitVec 20)
  /-- ADDPC, R238. -/
  | addpc (h : Hd) (ty : Ty) (d : Opnd) (imm : BitVec 20)
  /-- ADDLO, R238. -/
  | addlo (h : Hd) (ty : Ty) (d a : Opnd) (imm : BitVec 20)
  /-- ADD2, R264. -/
  | add2 (h : Hd) (ty : Ty) (d a b : Opnd)
  /-- SUB2, R264. -/
  | sub2 (h : Hd) (ty : Ty) (d a b : Opnd)
  /-- MIN2, R264. -/
  | min2 (h : Hd) (ty : Ty) (d a b : Opnd)
  /-- MAX2, R264. -/
  | max2 (h : Hd) (ty : Ty) (d a b : Opnd)
  /-- MAXD2, R265. -/
  | maxd2 (h : Hd) (ty : Ty) (d a b c : Opnd)
  /-- SHFL, R267. -/
  | shfl (h : Hd) (ty : Ty) (d a b : Opnd)
  /-- SHFL_UP, R267. -/
  | shflUp (h : Hd) (ty : Ty) (d a b : Opnd)
  /-- SHFL_DN, R267. -/
  | shflDn (h : Hd) (ty : Ty) (d a b : Opnd)
  /-- SHFL_XOR, R267. -/
  | shflXor (h : Hd) (ty : Ty) (d a b : Opnd)
  /-- VOTE_ANY, R268. -/
  | voteAny (h : Hd) (ty : Ty) (d a : Opnd)
  /-- VOTE_ALL, R268. -/
  | voteAll (h : Hd) (ty : Ty) (d a : Opnd)
  /-- BALLOT, R268. -/
  | ballot (h : Hd) (ty : Ty) (d a : Opnd)
  /-- XRED_ADD, R269. -/
  | xredAdd (h : Hd) (ty : Ty) (d a : Opnd)
  /-- XRED_MIN, R269. -/
  | xredMin (h : Hd) (ty : Ty) (d a : Opnd)
  /-- XRED_MAX, R269. -/
  | xredMax (h : Hd) (ty : Ty) (d a : Opnd)
  /-- XRED_AND, R269. -/
  | xredAnd (h : Hd) (ty : Ty) (d a : Opnd)
  /-- XRED_OR, R269. -/
  | xredOr (h : Hd) (ty : Ty) (d a : Opnd)
  /-- XRED_XOR, R269. -/
  | xredXor (h : Hd) (ty : Ty) (d a : Opnd)
  /-- XSCAN_ADD, R270. -/
  | xscanAdd (h : Hd) (ty : Ty) (d a : Opnd)
  /-- XSCAN_MAX, R270. -/
  | xscanMax (h : Hd) (ty : Ty) (d a : Opnd)
  /-- BCAST, R271. -/
  | bcast (h : Hd) (ty : Ty) (d a b : Opnd)
  /-- MOVX, R272. -/
  | movx (h : Hd) (ty : Ty) (d a b c : Opnd)
  /-- MOVXW, R272. -/
  | movxw (h : Hd) (ty : Ty) (d a b c : Opnd)
  /-- FADD, R280. -/
  | fadd (h : Hd) (ty : Ty) (d a b : Opnd)
  /-- FSUB, R280. -/
  | fsub (h : Hd) (ty : Ty) (d a b : Opnd)
  /-- FMUL, R280. -/
  | fmul (h : Hd) (ty : Ty) (d a b : Opnd)
  /-- FMA, R280. -/
  | fma (h : Hd) (ty : Ty) (d a b c : Opnd)
  /-- FMIN, R283. -/
  | fmin (h : Hd) (ty : Ty) (d a b : Opnd)
  /-- FMAX, R283. -/
  | fmax (h : Hd) (ty : Ty) (d a b : Opnd)
  /-- FSET_EQ, R284. -/
  | fsetEq (h : Hd) (ty : Ty) (d a b : Opnd)
  /-- FSET_NE, R284. -/
  | fsetNe (h : Hd) (ty : Ty) (d a b : Opnd)
  /-- FSET_LT, R284. -/
  | fsetLt (h : Hd) (ty : Ty) (d a b : Opnd)
  /-- FSET_LE, R284. -/
  | fsetLe (h : Hd) (ty : Ty) (d a b : Opnd)
  /-- FSET_GT, R284. -/
  | fsetGt (h : Hd) (ty : Ty) (d a b : Opnd)
  /-- FSET_GE, R284. -/
  | fsetGe (h : Hd) (ty : Ty) (d a b : Opnd)
  /-- FSET_UNORD, R284. -/
  | fsetUnord (h : Hd) (ty : Ty) (d a b : Opnd)
  /-- FSET_ORD, R284. -/
  | fsetOrd (h : Hd) (ty : Ty) (d a b : Opnd)
  /-- FRCP, R285. -/
  | frcp (h : Hd) (ty : Ty) (d a : Opnd)
  /-- FSQRT, R285. -/
  | fsqrt (h : Hd) (ty : Ty) (d a : Opnd)
  /-- FRSQRT, R285. -/
  | frsqrt (h : Hd) (ty : Ty) (d a : Opnd)
  /-- FEXP2, R285. -/
  | fexp2 (h : Hd) (ty : Ty) (d a : Opnd)
  /-- FLOG2, R285. -/
  | flog2 (h : Hd) (ty : Ty) (d a : Opnd)
  /-- FCLASS, R287. -/
  | fclass (h : Hd) (ty : Ty) (d a : Opnd)
  /-- FRINT, R288. -/
  | frint (h : Hd) (ty : Ty) (d a : Opnd)
  /-- FDIV, R285. -/
  | fdiv (h : Hd) (ty : Ty) (d a b : Opnd)
  /-- FADD2, R289. -/
  | fadd2 (h : Hd) (ty : Ty) (d a b : Opnd)
  /-- FSUB2, R289. -/
  | fsub2 (h : Hd) (ty : Ty) (d a b : Opnd)
  /-- FMUL2, R289. -/
  | fmul2 (h : Hd) (ty : Ty) (d a b : Opnd)
  /-- FMA2, R289. -/
  | fma2 (h : Hd) (ty : Ty) (d a b c : Opnd)
  /-- FMIN2, R289. -/
  | fmin2 (h : Hd) (ty : Ty) (d a b : Opnd)
  /-- FMAX2, R289. -/
  | fmax2 (h : Hd) (ty : Ty) (d a b : Opnd)
  /-- CVT, R290. -/
  | cvt (h : Hd) (ty src : Ty) (d a b c : Opnd)
  /-- CVTEF, R293. -/
  | cvtef (h : Hd) (ty : Ty) (d a b c : Opnd)
  /-- CVTEF_X2, R293. -/
  | cvtefX2 (h : Hd) (ty : Ty) (d a b c : Opnd)
  /-- LD, R303. -/
  | ld (h : Hd) (ty : Ty) (d base : Opnd) (off : BitVec 20) (sp : Space) (ord : Bool) (sc : MScope)
  /-- ST, R303. -/
  | st (h : Hd) (ty : Ty) (d base : Opnd) (off : BitVec 20) (sp : Space) (ord : Bool) (sc : MScope)
  /-- LDNF, R304. -/
  | ldnf (h : Hd) (ty : Ty) (d a c : Opnd)
  /-- ATM_ADD, R307. -/
  | atmAdd (h : Hd) (ty : Ty) (d a b : Opnd) (ord : Bool) (sc : MScope)
  /-- ATM_SUB, R307. -/
  | atmSub (h : Hd) (ty : Ty) (d a b : Opnd) (ord : Bool) (sc : MScope)
  /-- ATM_MIN, R307. -/
  | atmMin (h : Hd) (ty : Ty) (d a b : Opnd) (ord : Bool) (sc : MScope)
  /-- ATM_MAX, R307. -/
  | atmMax (h : Hd) (ty : Ty) (d a b : Opnd) (ord : Bool) (sc : MScope)
  /-- ATM_AND, R307. -/
  | atmAnd (h : Hd) (ty : Ty) (d a b : Opnd) (ord : Bool) (sc : MScope)
  /-- ATM_OR, R307. -/
  | atmOr (h : Hd) (ty : Ty) (d a b : Opnd) (ord : Bool) (sc : MScope)
  /-- ATM_XOR, R307. -/
  | atmXor (h : Hd) (ty : Ty) (d a b : Opnd) (ord : Bool) (sc : MScope)
  /-- ATM_EXCH, R307. -/
  | atmExch (h : Hd) (ty : Ty) (d a b : Opnd) (ord : Bool) (sc : MScope)
  /-- ATM_CAS, R307. -/
  | atmCas (h : Hd) (ty : Ty) (d a b c : Opnd) (ord : Bool) (sc : MScope)
  /-- ATM_INC, R307. -/
  | atmInc (h : Hd) (ty : Ty) (d a b : Opnd) (ord : Bool) (sc : MScope)
  /-- ATM_DEC, R307. -/
  | atmDec (h : Hd) (ty : Ty) (d a b : Opnd) (ord : Bool) (sc : MScope)
  /-- ATM_FADD, R307. -/
  | atmFadd (h : Hd) (ty : Ty) (d a b : Opnd) (ord : Bool) (sc : MScope)
  /-- RED_ADD, R307. -/
  | redAdd (h : Hd) (ty : Ty) (a b : Opnd) (ord : Bool) (sc : MScope)
  /-- RED_SUB, R307. -/
  | redSub (h : Hd) (ty : Ty) (a b : Opnd) (ord : Bool) (sc : MScope)
  /-- RED_MIN, R307. -/
  | redMin (h : Hd) (ty : Ty) (a b : Opnd) (ord : Bool) (sc : MScope)
  /-- RED_MAX, R307. -/
  | redMax (h : Hd) (ty : Ty) (a b : Opnd) (ord : Bool) (sc : MScope)
  /-- RED_AND, R307. -/
  | redAnd (h : Hd) (ty : Ty) (a b : Opnd) (ord : Bool) (sc : MScope)
  /-- RED_OR, R307. -/
  | redOr (h : Hd) (ty : Ty) (a b : Opnd) (ord : Bool) (sc : MScope)
  /-- RED_XOR, R307. -/
  | redXor (h : Hd) (ty : Ty) (a b : Opnd) (ord : Bool) (sc : MScope)
  /-- RED_INC, R307. -/
  | redInc (h : Hd) (ty : Ty) (a b : Opnd) (ord : Bool) (sc : MScope)
  /-- RED_DEC, R307. -/
  | redDec (h : Hd) (ty : Ty) (a b : Opnd) (ord : Bool) (sc : MScope)
  /-- RED_FADD, R307. -/
  | redFadd (h : Hd) (ty : Ty) (a b : Opnd) (ord : Bool) (sc : MScope)
  /-- FENCE, R311. -/
  | fence (h : Hd) (sc : MScope)
  /-- ACQ, R311. -/
  | acq (h : Hd) (sc : MScope)
  /-- REL, R311. -/
  | rel (h : Hd) (sc : MScope)
  /-- INVR, R311, R313. -/
  | invr (h : Hd) (len base : Opnd) (sc : MScope)
  /-- WBR, R311, R313. -/
  | wbr (h : Hd) (len base : Opnd) (sc : MScope)
  /-- PGREQ, R305. -/
  | pgreq (h : Hd) (base : Opnd) (off : BitVec 20) (sp : Space)
  /-- GLD, R318. -/
  | gld (h : Hd) (d a : Opnd) (site : BitVec 13) (off : BitVec 9)
  /-- GST, R319. -/
  | gst (h : Hd) (a b : Opnd) (site : BitVec 13) (off : BitVec 9)
  /-- GATM_ADD, R320. -/
  | gatmAdd (h : Hd) (d a b : Opnd) (site : BitVec 13) (ord : Bool) (sc : MScope)
  /-- GATM_SUB, R320. -/
  | gatmSub (h : Hd) (d a b : Opnd) (site : BitVec 13) (ord : Bool) (sc : MScope)
  /-- GATM_MIN, R320. -/
  | gatmMin (h : Hd) (d a b : Opnd) (site : BitVec 13) (ord : Bool) (sc : MScope)
  /-- GATM_MAX, R320. -/
  | gatmMax (h : Hd) (d a b : Opnd) (site : BitVec 13) (ord : Bool) (sc : MScope)
  /-- GATM_AND, R320. -/
  | gatmAnd (h : Hd) (d a b : Opnd) (site : BitVec 13) (ord : Bool) (sc : MScope)
  /-- GATM_OR, R320. -/
  | gatmOr (h : Hd) (d a b : Opnd) (site : BitVec 13) (ord : Bool) (sc : MScope)
  /-- GATM_XOR, R320. -/
  | gatmXor (h : Hd) (d a b : Opnd) (site : BitVec 13) (ord : Bool) (sc : MScope)
  /-- GATM_EXCH, R320. -/
  | gatmExch (h : Hd) (d a b : Opnd) (site : BitVec 13) (ord : Bool) (sc : MScope)
  /-- GADD, R321. -/
  | gadd (h : Hd) (d a b : Opnd) (site : BitVec 13)
  /-- GSUB, R321. -/
  | gsub (h : Hd) (d a b : Opnd) (site : BitVec 13)
  /-- GMUL, R321. -/
  | gmul (h : Hd) (d a b : Opnd) (site : BitVec 13)
  /-- GFMA, R321. -/
  | gfma (h : Hd) (d a b : Opnd) (site : BitVec 13)
  /-- GMIN, R321. -/
  | gmin (h : Hd) (d a b : Opnd) (site : BitVec 13)
  /-- GMAX, R321. -/
  | gmax (h : Hd) (d a b : Opnd) (site : BitVec 13)
  /-- GSET, R322. -/
  | gset (h : Hd) (d a b : Opnd) (site : BitVec 13) (cc : Cond)
  /-- GCVT, R323. -/
  | gcvt (h : Hd) (d a : Opnd) (site : BitVec 13) (ty : Ty)
  /-- STAGE, R329. -/
  | stage (h : Hd) (a : Opnd) (cnt : BitVec 8)
  /-- CPY, R330. -/
  | cpy (h : Hd) (d a b : Opnd)
  /-- CPY_BAR, R330. -/
  | cpyBar (h : Hd) (d a b : Opnd) (bar : BitVec 7)
  /-- CPYL_4, R331. -/
  | cpyl4 (h : Hd) (d a : Opnd)
  /-- CPYL_8, R331. -/
  | cpyl8 (h : Hd) (d a : Opnd)
  /-- CPYL_16, R331. -/
  | cpyl16 (h : Hd) (d a : Opnd)
  /-- SEAL, R332. -/
  | seal (h : Hd) (d : Opnd)
  /-- WAITB, R333. -/
  | waitb (h : Hd) (a : Opnd)
  /-- BULK_LD, R334. -/
  | bulkLd (h : Hd) (ha : BitVec 4)
  /-- BULK_ST, R334. -/
  | bulkSt (h : Hd) (ha : BitVec 4)
  /-- BULK_LD_BAR, R334. -/
  | bulkLdBar (h : Hd) (ha : BitVec 4) (bar : BitVec 7)
  /-- BULK_ST_BAR, R334. -/
  | bulkStBar (h : Hd) (ha : BitVec 4) (bar : BitVec 7)
  /-- WAITM, R335. -/
  | waitm (h : Hd) (ha : BitVec 4) (a : Opnd)
  /-- TESTM, R336. -/
  | testm (h : Hd) (d : Opnd) (ha : BitVec 4) (a : Opnd)
  /-- MCAST, R337. -/
  | mcast (h : Hd) (d a b : Opnd)
  /-- MCAST_BAR, R337. -/
  | mcastBar (h : Hd) (d a b : Opnd) (bar : BitVec 7)
  /-- ROWCPY, R338. -/
  | rowcpy (h : Hd) (d a : Opnd)
  /-- ROWFILL, R338. -/
  | rowfill (h : Hd) (d a : Opnd)
  /-- ROWAND, R338. -/
  | rowand (h : Hd) (d a b : Opnd)
  /-- ROWOR, R338. -/
  | rowor (h : Hd) (d a b : Opnd)
  /-- ROWXOR, R338. -/
  | rowxor (h : Hd) (d a b : Opnd)
  /-- ROWNOT, R338. -/
  | rownot (h : Hd) (d a : Opnd)
  /-- ROWMATE, R339. -/
  | rowmate (h : Hd) (d a : Opnd)
  /-- BAR_ARRIVE, R341. -/
  | barArrive (h : Hd) (bar : BitVec 7) (ord : Option MScope)
  /-- BAR_WAIT, R341. -/
  | barWait (h : Hd) (bar : BitVec 7) (ord : Option MScope)
  /-- BAR_SYNC, R341. -/
  | barSync (h : Hd) (bar : BitVec 7) (ord : Option MScope)
  /-- BAR_EXPECT, R341. -/
  | barExpect (h : Hd) (bar : BitVec 7) (a : Opnd)
  /-- BAR_INIT, R341. -/
  | barInit (h : Hd) (bar : BitVec 7) (a : Opnd)
  /-- SETDECL, R344. -/
  | setdecl (h : Hd) (k : BitVec 3) (a : Opnd)
  /-- SHLD, R345. -/
  | shld (h : Hd) (ha : BitVec 4) (a : Opnd)
  /-- SHST, R345. -/
  | shst (h : Hd) (ha : BitVec 4) (a : Opnd)
  /-- SHSET, R346. -/
  | shset (h : Hd) (ha : BitVec 4) (f : BitVec 5) (a : Opnd)
  /-- SHGET, R346. -/
  | shget (h : Hd) (d : Opnd) (ha : BitVec 4) (f : BitVec 5)
  /-- MACQ, R347. -/
  | macq (h : Hd) (t : BitVec 2)
  /-- MREL, R347. -/
  | mrel (h : Hd) (t : BitVec 2)
  /-- MZERO_F32, R347. -/
  | mzeroF32 (h : Hd) (t : BitVec 2)
  /-- MZERO_I32, R347. -/
  | mzeroI32 (h : Hd) (t : BitVec 2)
  /-- MZERO_I32S, R347. -/
  | mzeroI32s (h : Hd) (t : BitVec 2)
  /-- MWAIT, R347. -/
  | mwait (h : Hd) (t : BitVec 2)
  /-- MLOOP, R348. -/
  | mloop (h : Hd) (t : BitVec 2) (ha hb : BitVec 4) (a : Opnd)
  /-- MLDA_SP, R349. -/
  | mldaSp (h : Hd) (t : BitVec 2) (ha : BitVec 4)
  /-- MLDA_REG, R349. -/
  | mldaReg (h : Hd) (t : BitVec 2) (d a : Opnd)
  /-- MDRAIN_SP, R349. -/
  | mdrainSp (h : Hd) (t : BitVec 2) (ha : BitVec 4)
  /-- MDRAIN_REG, R349. -/
  | mdrainReg (h : Hd) (t : BitVec 2) (d a : Opnd)
  /-- SACC_R, R350. -/
  | saccR (h : Hd) (t : BitVec 2) (a b : Opnd)
  /-- SACC_RC, R350. -/
  | saccRc (h : Hd) (t : BitVec 2) (d a b : Opnd)
  /-- PLANE, R351. -/
  | plane (h : Hd) (ha hb : BitVec 4)
  /-- UNPLANE, R351. -/
  | unplane (h : Hd) (ha hb : BitVec 4)
  /-- HCLR, R352. -/
  | hclr (h : Hd) (k : BitVec 3) (a : Opnd)
  /-- HRD, R352. -/
  | hrd (h : Hd) (d : Opnd) (k : BitVec 3) (a : Opnd)
  /-- LAUNCH, R353. -/
  | launch (h : Hd) (a : Opnd) (q : BitVec 17)
  /-- SREAD, R354. -/
  | sread (h : Hd) (d : Opnd) (idx : BitVec 8)
  /-- SWRITE, R354. -/
  | swrite (h : Hd) (idx : BitVec 8) (a : Opnd)
  /-- BKPT, R355. -/
  | bkpt (h : Hd) (code : BitVec 17)
  /-- MARK, R356. -/
  | mark (h : Hd) (a : Opnd) (tag : BitVec 17)
  /-- SITERST, R357. -/
  | siterst (h : Hd) (d a : Opnd)
  -- events
  /-- FATAL_FAULT, R438. -/
  | fatalFault (ctx : BitVec 12) (cause : BitVec 10) (r : GRef)
  /-- DUMP_START, R439. -/
  | dumpStart
  /-- SAVE_PHASE2, R435. -/
  | savePhase2 (ctx : BitVec 12) (tid : Nat)
  /-- SAVE_CACHE_FLUSH, R436. -/
  | saveCacheFlush (ctx : BitVec 12)
  /-- RENDEZVOUS_ISSUE, R39. -/
  | rendezvousIssue (tid : Nat) (k : Option (BitVec 3))
  /-- RENDEZVOUS_TIMEOUT, R41. -/
  | rendezvousTimeout (tid : Nat) (k : Option (BitVec 3))
  /-- REGISTER_RESULT_RETURN, R52. -/
  | registerResultReturn (r : GRef) (i : Nat)
  /-- GROUP_RESOURCES_FREED, R25. -/
  | groupResourcesFreed (r : GRef)
  /-- TEAM_RETIRE, R26. -/
  | teamRetire (tid : Nat)
  /-- GRID_COMPLETION, R402. -/
  | gridCompletion (gid : Nat)
  /-- CARVE_CHANGE, R111. -/
  | carveChange (core : Nat)
  /-- CTX_SAVE, R432. -/
  | ctxSave (ctx : BitVec 12)
  /-- RELEASE_COMPLETE, R119. -/
  | releaseComplete (r : GRef)
  /-- LAUNCH_ACCEPT, R401. -/
  | launchAccept (ctx : BitVec 12) (q : BitVec 4)
  /-- COPY_COMPLETE, R141. -/
  | copyComplete (tid wid : Nat)
  /-- ENGINE_WORK_STOP, R142. -/
  | engineWorkStop (tid wid : Nat) (cause : BitVec 10) (addr : BitVec 64)
  /-- BULK_CHUNK_COMPLETE, R144. -/
  | bulkChunkComplete (tid wid : Nat) (chunk : Nat)
  /-- MCAST_CHUNK_ARRIVE, R337. -/
  | mcastChunkArrive (tid wid : Nat) (rcv chunk : Nat)
  /-- BARRIER_TIMEOUT, R151. -/
  | barrierTimeout (r : GRef)
  /-- CHUNK_WAIT_TIMEOUT, R335. -/
  | chunkWaitTimeout (r : GRef)
  /-- ROW_FRAME_COMPLETE, R155. -/
  | rowFrameComplete (tid wid : Nat) (frame : Nat)
  /-- PLANE_COMPLETE, R209. -/
  | planeComplete (tid wid : Nat)
  /-- PAIRING_TIMEOUT, R224. -/
  | pairingTimeout (r : GRef)
  /-- TOKEN_TIMEOUT, R217. -/
  | tokenTimeout (r : GRef)
  /-- DAMASK_LOOP_START, R215. -/
  | damaskLoopStart (core : Nat)
  /-- DAMASK_LOOP_COMPLETE, R215. -/
  | damaskLoopComplete (core : Nat)
  /-- ENGINE_PLACE_FREE, R216. -/
  | enginePlaceFree (core : Nat)
  /-- SACC_COMPLETE, R220. -/
  | saccComplete (core : Nat)
  /-- CACHE_EVICTION, R123. -/
  | cacheEviction (who : BitVec 8) (ctx : BitVec 12) (va : BitVec 64)
  /-- OWNER_TIMEOUT, R130. -/
  | ownerTimeout (ctx : BitVec 12) (va : BitVec 64) (rd : Option GRef) (lanes : BitVec 32)
  /-- REGISTRY_ERROR, R131. -/
  | registryError (ctx : BitVec 12) (va : BitVec 64)
  /-- ROLL_CALL_TIMEOUT, R131. -/
  | rollCallTimeout (ctx : BitVec 12) (va : BitVec 64)
  /-- SITE_REWRITE_CAS, R198. -/
  | siteRewriteCas (i : Nat)
  /-- PAGE_WALK_COMPLETE, R417. -/
  | pageWalkComplete (ctx : BitVec 12) (va : BitVec 64)
  /-- HELD_WRITEBACK_RELEASE, R419. -/
  | heldWritebackRelease (i : Nat)
  /-- FQHEAD_WRITE, R388. -/
  | fqheadWrite (ctx : BitVec 12) (v : BitVec 64)
  /-- SVDONE_REEXECUTE, R392. -/
  | svdoneReexecute (ctx : BitVec 12) (seq : BitVec 32)
  /-- SVDONE_RESUME, R392. -/
  | svdoneResume (ctx : BitVec 12) (seq : BitVec 32)
  /-- SVDONE_TERMINATE, R392. -/
  | svdoneTerminate (ctx : BitVec 12) (seq : BitVec 32)
  /-- SVDONE_REFUSE, R392. -/
  | svdoneRefuse (ctx : BitVec 12) (seq : BitVec 32)
  /-- REGISTER_WRITE, R14. -/
  | registerWrite (reg : RegSpace) (v : BitVec 64)
  /-- DOORBELL, R400. -/
  | doorbell (v : BitVec 64)
  /-- DEPENDENCE_READ, R401. -/
  | dependenceRead (ctx : BitVec 12) (q : BitVec 4)
  /-- TEAM_PLACE, R404. -/
  | teamPlace (gid die core : Nat) (slices : List Nat)
  /-- PRIORITY_AGING, R406. -/
  | priorityAging (gid : Nat)
  /-- CTX_CREATE, R468. -/
  | ctxCreate (ctx : BitVec 12)
  /-- CTX_DESTROY, R468. -/
  | ctxDestroy (ctx : BitVec 12)
  /-- CTX_RESTORE, R437. -/
  | ctxRestore (ctx : BitVec 12) (place : List (Nat × Nat))
  /-- CTX_DUMP, R438. -/
  | ctxDump (ctx : BitVec 12)
  /-- CXL_LINK_DOWN, R429. -/
  | cxlLinkDown (tgt : BitVec 5)
  /-- CXL_COMPLETION_TIMEOUT, R429. -/
  | cxlCompletionTimeout (tgt : BitVec 5)
  /-- TARGET_RESTORED, R467. -/
  | targetRestored (tgt : BitVec 5)
  /-- NIRBIOR_LINK_FAULT, R469. -/
  | nirbiorLinkFault (link : BitVec 4)
  /-- LINK_LANE_REMAP, R469. -/
  | linkLaneRemap (link : BitVec 4)
  /-- HOST_MEM_READ, R463: a word of a 128-byte line of HBM. -/
  | hostMemRead (line : BitVec 32) (word : BitVec 5)
  /-- HOST_MEM_WRITE, R463. -/
  | hostMemWrite (line : BitVec 32) (word : BitVec 5) (data : BitVec 32)
  /-- HOST_SNOOP, R464: a 128-byte line of a 4 KiB page of host memory. -/
  | hostSnoop (page : BitVec 32) (line : BitVec 5)
  /-- BOOT, R470. -/
  | boot (digests : List (BitVec 256)) (fail : Option (BitVec 4 × BitVec 4))
  /-- ATTESTATION_REQUEST, R471. -/
  | attestationRequest (nonce : BitVec 256)
  /-- PC_SAMPLE, R448. -/
  | pcSample (core slice : Nat)
  /-- CCLR, R444. -/
  | cclr (part : BitVec 3)
  /-- FABRIC_TIME_CORRECTION, R461. -/
  | fabricTimeCorrection (corr : Int)
  /-- THERMAL_THROTTLE, R476. -/
  | thermalThrottle (steps : Nat)
  /-- CRITICAL_TEMPERATURE, R476. -/
  | criticalTemperature
  /-- CORE_FAILURE, R475. -/
  | coreFailure (core : Nat)
  /-- REGISTRY_REBUILT, R131. -/
  | registryRebuilt (ctx : BitVec 12) (va : BitVec 64)
  /-- HOST_LINK_TRAINING, R462. -/
  | hostLinkTraining (mode : BitVec 2)
  /-- TEMPERATURE_FALLS, R476. -/
  | temperatureFalls
deriving DecidableEq, Repr

end Sys2Proof
end

