-- ==== Sys2Proof/WellFormed.lean ====
section
/-! DEFINITION. WellFormed.lean: which instruction terms an instruction word can hold: the scopes, type codes and
modifier fields that each mnemonic accepts (R241 checks 2 to 6). Operand classes and register bounds (checks 7 and 8)
depend on the group and stand in Machine/Operands.lean. -/
namespace Sys2Proof

/-- Scopes L G S T. -/
def allScopes : Scope → Bool := fun _ => true
/-- Scopes L S T. -/
def lstScopes (s : Scope) : Bool := s != .group
/-- Scope G. -/
def gScope (s : Scope) : Bool := s == .group
/-- Scope L. -/
def lScope (s : Scope) : Bool := s == .lane
/-- Scopes L G. -/
def lgScopes (s : Scope) : Bool := s == .lane || s == .group
/-- Scope T. -/
def tScope (s : Scope) : Bool := s == .team

/-- The integer type codes (R243). -/
def intTy : Ty → Bool
  | .i32 | .n32 | .i64 | .n64 | .i16 | .n16 | .i8 | .n8 => true | _ => false
/-- LOGIC's types: integer and bit codes (R250). -/
def logicTy (t : Ty) : Bool := intTy t || t == .b32 || t == .b64
/-- `bfe` and `bfi` (R250). -/
def bfTy : Ty → Bool
  | .b32 | .i32 | .n32 | .i64 | .n64 | .b64 => true | _ => false
/-- Codes 0x00 to 0x0E and 0x14 (R250). -/
def selTy : Ty → Bool
  | .i4 | .n4 | .q4 | .b1 => false | _ => true
/-- `mov` (R250). -/
def movTy (t : Ty) : Bool := selTy t || t == .b1
/-- `movi` and `movhi` (R250). -/
def moviTy : Ty → Bool
  | .b32 | .i32 | .n32 | .f32 | .i64 | .n64 | .b64 => true | _ => false
/-- `addpc` and `addlo` (R238). -/
def n64Ty (t : Ty) : Bool := t == .n64
/-- PK16 (R250). -/
def pk16Ty (t : Ty) : Bool := t == .i16 || t == .n16
/-- Votes and `ballot` (R250). -/
def b1Ty (t : Ty) : Bool := t == .b1
/-- `xred.add`, `min`, `max` and the scans (R250). -/
def xredTy : Ty → Bool
  | .i32 | .n32 | .f32 | .f64 | .i64 | .n64 => true | _ => false
/-- The bitwise reductions and atomics (R250, R307). -/
def xbitTy : Ty → Bool
  | .b32 | .i32 | .n32 | .i64 | .n64 | .b64 => true | _ => false
/-- FARITH, FCMP, FFUNC, `fadd` atomics (R279, R307). -/
def fTy (t : Ty) : Bool := t == .f32 || t == .f64
/-- FPACK (R279). -/
def fpackTy (t : Ty) : Bool := t == .f16 || t == .bf16
/-- CVT targets (R290): 0x01 to 0x0E, .i4 and .n4. -/
def cvtTgtTy : Ty → Bool
  | .b32 | .q4 | .b1 | .b64 => false | _ => true
/-- CVT sources (R290): the targets and .q4. -/
def cvtSrcTy (t : Ty) : Bool := cvtTgtTy t || t == .q4
/-- CVTEF targets (R279). -/
def cvtefTy : Ty → Bool
  | .f16 | .bf16 | .e4 | .e5 | .q4 => true | _ => false
/-- LD, ST and LDNF (R299). -/
def memTy (t : Ty) : Bool := selTy t
/-- `add`, `sub`, `min`, `max` atomics (R307). -/
def atmIntTy : Ty → Bool
  | .i32 | .n32 | .i64 | .n64 => true | _ => false
/-- `exch` and `cas` (R307): 0x00 to 0x06 and 0x14. -/
def atmExchTy : Ty → Bool
  | .b32 | .i32 | .n32 | .f32 | .f64 | .i64 | .n64 | .b64 => true | _ => false
/-- `inc` and `dec` (R307). -/
def atmIncTy (t : Ty) : Bool := t == .n32 || t == .n64
/-- `gcvt` targets (R315): 0x01 to 0x0E. -/
def gcvtTy : Ty → Bool
  | .b32 | .i4 | .n4 | .q4 | .b1 | .b64 => false | _ => true

/-- A float format of R87. -/
def Ty.isFloat : Ty → Bool
  | .f32 | .f64 | .f16 | .bf16 | .e4 | .e5 => true | _ => false

/-- The modifier fields that a mnemonic accepts (R237): `srcs` is how many of the sources A, B, C take ABSx and NEGx;
`ext` are the EXT bits accepted; `hist` is the rule of `mdrain` (R349) that EXT[2:0] needs EXT[3]. -/
structure ModAcc where
  rmode : Bool := false
  scale : Bool := false
  sat : Bool := false
  clamp : Bool := false
  srcs : Nat := 0
  ext : BitVec 32 := 0#32
  hist : Bool := false

/-- No modifier field but SETN. -/
def noAcc : ModAcc := {}
/-- SAT alone (R257). -/
def satAcc : ModAcc := { sat := true }
/-- `xred.add` and `xscan.add` take SAT at an integer type (R269, R270). -/
def satIntAcc (t : Ty) : ModAcc := { sat := !t.isFloat }
/-- ABSx and NEGx of n sources (R278). -/
def absAcc (n : Nat) : ModAcc := { srcs := n }
/-- The rounding instructions with n sources (R278). -/
def fAcc (n : Nat) : ModAcc := { rmode := true, scale := true, sat := true, clamp := true, srcs := n }
/-- `frint` (R278). -/
def frintAcc : ModAcc := { rmode := true, srcs := 1 }
/-- `cvt` (R278). -/
def cvtAcc (tgt src : Ty) : ModAcc :=
  { rmode := true, scale := tgt.isFloat || src.isFloat || src == .q4, sat := true, clamp := tgt.isFloat,
    srcs := if src.isFloat || src == .q4 then 1 else 0, ext := 7#32 }
/-- `cvtef` (R278). -/
def partAcc : ModAcc := { ext := 7#32 }
/-- `mdrain` (R325, R349). -/
def histAcc : ModAcc := { ext := 15#32, hist := true }

/-- Every nonzero field of the modifier is one that the mnemonic accepts (R237). -/
def ModAcc.ok (a : ModAcc) (m : Mod) : Bool :=
  (a.rmode || m.rmode == .own) && (a.scale || m.scale == 0#6) && (a.sat || !m.sat) && (a.clamp || !m.clamp)
    && (a.srcs > 0 || !(m.absA || m.negA)) && (a.srcs > 1 || !(m.absB || m.negB))
    && (a.srcs > 2 || !(m.absC || m.negC)) && (m.ext &&& ~~~a.ext == 0#32)
    && (!a.hist || m.ext.getLsbD 3 || m.ext == 0#32)

/-- The operand is one of the allocated places (R59). -/
def Opnd.isBad : Opnd → Bool
  | .bad _ => true | _ => false

/-- What the checks of an encodable instruction look at. -/
structure Parts where
  h : Hd
  scopes : Scope → Bool
  ty : Bool
  ops : List Opnd
  acc : ModAcc
  extra : Bool

/-- The head of the instruction, its accepted scopes, whether its type code is allocated, its operands, its accepted
modifier fields and its own reserved-field rules; none for an event, which no word encodes. -/
def Instr.parts : Instr → Option Parts
  | .br h _ => some ⟨h, gScope, true, [], noAcc, true⟩
  | .call h _ => some ⟨h, gScope, true, [], noAcc, true⟩
  | .brd h _ join16 => some ⟨h, lScope, true, [], noAcc, join16 != 0#16⟩
  | .join h => some ⟨h, gScope, true, [], noAcc, (!h.pneg && h.pred == 7#3)⟩
  | .exit h => some ⟨h, lScope, true, [], noAcc, true⟩
  | .ret h => some ⟨h, gScope, true, [], noAcc, true⟩
  | .callt h _ => some ⟨h, gScope, true, [], noAcc, true⟩
  | .callr h a => some ⟨h, gScope, true, [a], noAcc, true⟩
  | .trap h _ => some ⟨h, gScope, true, [], noAcc, true⟩
  | .nop h => some ⟨h, allScopes, true, [], noAcc, true⟩
  | .add h ty d a b => some ⟨h, allScopes, (intTy ty), [d, a, b], satAcc, true⟩
  | .sub h ty d a b => some ⟨h, allScopes, (intTy ty), [d, a, b], satAcc, true⟩
  | .mul h ty d a b => some ⟨h, allScopes, (intTy ty), [d, a, b], satAcc, true⟩
  | .mulhi h ty d a b => some ⟨h, allScopes, (intTy ty), [d, a, b], noAcc, true⟩
  | .mad h ty d a b c => some ⟨h, allScopes, (intTy ty), [d, a, b, c], satAcc, true⟩
  | .min h ty d a b => some ⟨h, allScopes, (intTy ty), [d, a, b], noAcc, true⟩
  | .max h ty d a b => some ⟨h, allScopes, (intTy ty), [d, a, b], noAcc, true⟩
  | .abs h ty d a => some ⟨h, allScopes, (intTy ty), [d, a], satAcc, true⟩
  | .neg h ty d a => some ⟨h, allScopes, (intTy ty), [d, a], satAcc, true⟩
  | .div h ty d a b => some ⟨h, allScopes, (intTy ty), [d, a, b], noAcc, true⟩
  | .rem h ty d a b => some ⟨h, allScopes, (intTy ty), [d, a, b], noAcc, true⟩
  | .addImm h ty d a _ => some ⟨h, allScopes, (intTy ty), [d, a], satAcc, true⟩
  | .subImm h ty d a _ => some ⟨h, allScopes, (intTy ty), [d, a], satAcc, true⟩
  | .mulImm h ty d a _ => some ⟨h, allScopes, (intTy ty), [d, a], satAcc, true⟩
  | .mulhiImm h ty d a _ => some ⟨h, allScopes, (intTy ty), [d, a], noAcc, true⟩
  | .minImm h ty d a _ => some ⟨h, allScopes, (intTy ty), [d, a], noAcc, true⟩
  | .maxImm h ty d a _ => some ⟨h, allScopes, (intTy ty), [d, a], noAcc, true⟩
  | .and h ty d a b => some ⟨h, allScopes, (logicTy ty), [d, a, b], noAcc, true⟩
  | .or h ty d a b => some ⟨h, allScopes, (logicTy ty), [d, a, b], noAcc, true⟩
  | .xor h ty d a b => some ⟨h, allScopes, (logicTy ty), [d, a, b], noAcc, true⟩
  | .not h ty d a => some ⟨h, allScopes, (logicTy ty), [d, a], noAcc, true⟩
  | .andn h ty d a b => some ⟨h, allScopes, (logicTy ty), [d, a, b], noAcc, true⟩
  | .shl h ty d a b => some ⟨h, allScopes, (logicTy ty), [d, a, b], noAcc, true⟩
  | .shr h ty d a b => some ⟨h, allScopes, (logicTy ty), [d, a, b], noAcc, true⟩
  | .sar h ty d a b => some ⟨h, allScopes, (logicTy ty), [d, a, b], noAcc, true⟩
  | .rotl h ty d a b => some ⟨h, allScopes, (logicTy ty), [d, a, b], noAcc, true⟩
  | .popc h ty d a => some ⟨h, allScopes, (logicTy ty), [d, a], noAcc, true⟩
  | .clz h ty d a => some ⟨h, allScopes, (logicTy ty), [d, a], noAcc, true⟩
  | .bfe h ty d a c => some ⟨h, allScopes, (bfTy ty), [d, a, c], noAcc, true⟩
  | .bfi h ty d a b c => some ⟨h, allScopes, (bfTy ty), [d, a, b, c], noAcc, true⟩
  | .brev h ty d a => some ⟨h, allScopes, (logicTy ty), [d, a], noAcc, true⟩
  | .andImm h ty d a _ => some ⟨h, allScopes, (logicTy ty), [d, a], noAcc, true⟩
  | .orImm h ty d a _ => some ⟨h, allScopes, (logicTy ty), [d, a], noAcc, true⟩
  | .xorImm h ty d a _ => some ⟨h, allScopes, (logicTy ty), [d, a], noAcc, true⟩
  | .andnImm h ty d a _ => some ⟨h, allScopes, (logicTy ty), [d, a], noAcc, true⟩
  | .shlImm h ty d a _ => some ⟨h, allScopes, (logicTy ty), [d, a], noAcc, true⟩
  | .shrImm h ty d a _ => some ⟨h, allScopes, (logicTy ty), [d, a], noAcc, true⟩
  | .sarImm h ty d a _ => some ⟨h, allScopes, (logicTy ty), [d, a], noAcc, true⟩
  | .rotlImm h ty d a _ => some ⟨h, allScopes, (logicTy ty), [d, a], noAcc, true⟩
  | .setEq h ty d a b => some ⟨h, allScopes, (intTy ty), [d, a, b], noAcc, true⟩
  | .setNe h ty d a b => some ⟨h, allScopes, (intTy ty), [d, a, b], noAcc, true⟩
  | .setLt h ty d a b => some ⟨h, allScopes, (intTy ty), [d, a, b], noAcc, true⟩
  | .setLe h ty d a b => some ⟨h, allScopes, (intTy ty), [d, a, b], noAcc, true⟩
  | .setGt h ty d a b => some ⟨h, allScopes, (intTy ty), [d, a, b], noAcc, true⟩
  | .setGe h ty d a b => some ⟨h, allScopes, (intTy ty), [d, a, b], noAcc, true⟩
  | .setEqImm h ty d a _ => some ⟨h, allScopes, (intTy ty), [d, a], noAcc, true⟩
  | .setNeImm h ty d a _ => some ⟨h, allScopes, (intTy ty), [d, a], noAcc, true⟩
  | .setLtImm h ty d a _ => some ⟨h, allScopes, (intTy ty), [d, a], noAcc, true⟩
  | .setLeImm h ty d a _ => some ⟨h, allScopes, (intTy ty), [d, a], noAcc, true⟩
  | .setGtImm h ty d a _ => some ⟨h, allScopes, (intTy ty), [d, a], noAcc, true⟩
  | .setGeImm h ty d a _ => some ⟨h, allScopes, (intTy ty), [d, a], noAcc, true⟩
  | .mov h ty d a => some ⟨h, allScopes, (movTy ty), [d, a], noAcc, true⟩
  | .sel h ty d a b c => some ⟨h, allScopes, (selTy ty), [d, a, b, c], noAcc, true⟩
  | .movi h ty d _ => some ⟨h, allScopes, (moviTy ty), [d], noAcc, true⟩
  | .movhi h ty d _ => some ⟨h, allScopes, (moviTy ty), [d], noAcc, true⟩
  | .addpc h ty d _ => some ⟨h, allScopes, (n64Ty ty), [d], noAcc, true⟩
  | .addlo h ty d a imm => some ⟨h, allScopes, (n64Ty ty), [d, a], noAcc, (imm &&& 0xFF000#20 == 0#20)⟩
  | .add2 h ty d a b => some ⟨h, allScopes, (pk16Ty ty), [d, a, b], noAcc, true⟩
  | .sub2 h ty d a b => some ⟨h, allScopes, (pk16Ty ty), [d, a, b], noAcc, true⟩
  | .min2 h ty d a b => some ⟨h, allScopes, (pk16Ty ty), [d, a, b], noAcc, true⟩
  | .max2 h ty d a b => some ⟨h, allScopes, (pk16Ty ty), [d, a, b], noAcc, true⟩
  | .maxd2 h ty d a b c => some ⟨h, allScopes, (pk16Ty ty), [d, a, b, c], noAcc, true⟩
  | .shfl h ty d a b => some ⟨h, lstScopes, (selTy ty), [d, a, b], noAcc, true⟩
  | .shflUp h ty d a b => some ⟨h, lstScopes, (selTy ty), [d, a, b], noAcc, true⟩
  | .shflDn h ty d a b => some ⟨h, lstScopes, (selTy ty), [d, a, b], noAcc, true⟩
  | .shflXor h ty d a b => some ⟨h, lstScopes, (selTy ty), [d, a, b], noAcc, true⟩
  | .voteAny h ty d a => some ⟨h, lstScopes, (b1Ty ty), [d, a], noAcc, true⟩
  | .voteAll h ty d a => some ⟨h, lstScopes, (b1Ty ty), [d, a], noAcc, true⟩
  | .ballot h ty d a => some ⟨h, lstScopes, (b1Ty ty), [d, a], noAcc, true⟩
  | .xredAdd h ty d a => some ⟨h, lstScopes, (xredTy ty), [d, a], (satIntAcc ty), true⟩
  | .xredMin h ty d a => some ⟨h, lstScopes, (xredTy ty), [d, a], noAcc, true⟩
  | .xredMax h ty d a => some ⟨h, lstScopes, (xredTy ty), [d, a], noAcc, true⟩
  | .xredAnd h ty d a => some ⟨h, lstScopes, (xbitTy ty), [d, a], noAcc, true⟩
  | .xredOr h ty d a => some ⟨h, lstScopes, (xbitTy ty), [d, a], noAcc, true⟩
  | .xredXor h ty d a => some ⟨h, lstScopes, (xbitTy ty), [d, a], noAcc, true⟩
  | .xscanAdd h ty d a => some ⟨h, lstScopes, (xredTy ty), [d, a], (satIntAcc ty), true⟩
  | .xscanMax h ty d a => some ⟨h, lstScopes, (xredTy ty), [d, a], noAcc, true⟩
  | .bcast h ty d a b => some ⟨h, lstScopes, (selTy ty), [d, a, b], noAcc, true⟩
  | .movx h ty d a b c => some ⟨h, lstScopes, (selTy ty), [d, a, b, c], noAcc, true⟩
  | .movxw h ty d a b c => some ⟨h, lstScopes, (selTy ty), [d, a, b, c], noAcc, true⟩
  | .fadd h ty d a b => some ⟨h, allScopes, (fTy ty), [d, a, b], (fAcc 2), true⟩
  | .fsub h ty d a b => some ⟨h, allScopes, (fTy ty), [d, a, b], (fAcc 2), true⟩
  | .fmul h ty d a b => some ⟨h, allScopes, (fTy ty), [d, a, b], (fAcc 2), true⟩
  | .fma h ty d a b c => some ⟨h, allScopes, (fTy ty), [d, a, b, c], (fAcc 3), true⟩
  | .fmin h ty d a b => some ⟨h, allScopes, (fTy ty), [d, a, b], (absAcc 2), true⟩
  | .fmax h ty d a b => some ⟨h, allScopes, (fTy ty), [d, a, b], (absAcc 2), true⟩
  | .fsetEq h ty d a b => some ⟨h, allScopes, (fTy ty), [d, a, b], (absAcc 2), true⟩
  | .fsetNe h ty d a b => some ⟨h, allScopes, (fTy ty), [d, a, b], (absAcc 2), true⟩
  | .fsetLt h ty d a b => some ⟨h, allScopes, (fTy ty), [d, a, b], (absAcc 2), true⟩
  | .fsetLe h ty d a b => some ⟨h, allScopes, (fTy ty), [d, a, b], (absAcc 2), true⟩
  | .fsetGt h ty d a b => some ⟨h, allScopes, (fTy ty), [d, a, b], (absAcc 2), true⟩
  | .fsetGe h ty d a b => some ⟨h, allScopes, (fTy ty), [d, a, b], (absAcc 2), true⟩
  | .fsetUnord h ty d a b => some ⟨h, allScopes, (fTy ty), [d, a, b], (absAcc 2), true⟩
  | .fsetOrd h ty d a b => some ⟨h, allScopes, (fTy ty), [d, a, b], (absAcc 2), true⟩
  | .frcp h ty d a => some ⟨h, allScopes, (fTy ty), [d, a], (fAcc 1), true⟩
  | .fsqrt h ty d a => some ⟨h, allScopes, (fTy ty), [d, a], (fAcc 1), true⟩
  | .frsqrt h ty d a => some ⟨h, allScopes, (fTy ty), [d, a], (fAcc 1), true⟩
  | .fexp2 h ty d a => some ⟨h, allScopes, (fTy ty), [d, a], (fAcc 1), true⟩
  | .flog2 h ty d a => some ⟨h, allScopes, (fTy ty), [d, a], (fAcc 1), true⟩
  | .fclass h ty d a => some ⟨h, allScopes, (fTy ty), [d, a], noAcc, true⟩
  | .frint h ty d a => some ⟨h, allScopes, (fTy ty), [d, a], frintAcc, true⟩
  | .fdiv h ty d a b => some ⟨h, allScopes, (fTy ty), [d, a, b], (fAcc 2), true⟩
  | .fadd2 h ty d a b => some ⟨h, allScopes, (fpackTy ty), [d, a, b], (fAcc 2), true⟩
  | .fsub2 h ty d a b => some ⟨h, allScopes, (fpackTy ty), [d, a, b], (fAcc 2), true⟩
  | .fmul2 h ty d a b => some ⟨h, allScopes, (fpackTy ty), [d, a, b], (fAcc 2), true⟩
  | .fma2 h ty d a b c => some ⟨h, allScopes, (fpackTy ty), [d, a, b, c], (fAcc 3), true⟩
  | .fmin2 h ty d a b => some ⟨h, allScopes, (fpackTy ty), [d, a, b], (absAcc 2), true⟩
  | .fmax2 h ty d a b => some ⟨h, allScopes, (fpackTy ty), [d, a, b], (absAcc 2), true⟩
  | .cvt h ty src d a b c => some ⟨h, allScopes, (cvtTgtTy ty), [d, a, b, c], (cvtAcc ty src), (cvtSrcTy src && (src == .q4 || (b == .v 0#8 && c == .v 0#8)))⟩
  | .cvtef h ty d a b c => some ⟨h, lstScopes, (cvtefTy ty), [d, a, b, c], partAcc, (ty == .q4 || (b == .v 0#8 && c == .v 0#8))⟩
  | .cvtefX2 h ty d a b c => some ⟨h, lstScopes, (cvtefTy ty), [d, a, b, c], partAcc, (ty == .q4 || (b == .v 0#8 && c == .v 0#8))⟩
  | .ld h ty d base _ _ ord sc => some ⟨h, allScopes, (memTy ty), [d, base], noAcc, (ord || sc == .team)⟩
  | .st h ty d base _ _ ord sc => some ⟨h, allScopes, (memTy ty), [d, base], noAcc, (ord || sc == .team)⟩
  | .ldnf h ty d a c => some ⟨h, allScopes, (memTy ty), [d, a, c], noAcc, true⟩
  | .atmAdd h ty d a b _ _ => some ⟨h, allScopes, (atmIntTy ty), [d, a, b], noAcc, true⟩
  | .atmSub h ty d a b _ _ => some ⟨h, allScopes, (atmIntTy ty), [d, a, b], noAcc, true⟩
  | .atmMin h ty d a b _ _ => some ⟨h, allScopes, (atmIntTy ty), [d, a, b], noAcc, true⟩
  | .atmMax h ty d a b _ _ => some ⟨h, allScopes, (atmIntTy ty), [d, a, b], noAcc, true⟩
  | .atmAnd h ty d a b _ _ => some ⟨h, allScopes, (xbitTy ty), [d, a, b], noAcc, true⟩
  | .atmOr h ty d a b _ _ => some ⟨h, allScopes, (xbitTy ty), [d, a, b], noAcc, true⟩
  | .atmXor h ty d a b _ _ => some ⟨h, allScopes, (xbitTy ty), [d, a, b], noAcc, true⟩
  | .atmExch h ty d a b _ _ => some ⟨h, allScopes, (atmExchTy ty), [d, a, b], noAcc, true⟩
  | .atmCas h ty d a b c _ _ => some ⟨h, allScopes, (atmExchTy ty), [d, a, b, c], noAcc, true⟩
  | .atmInc h ty d a b _ _ => some ⟨h, allScopes, (atmIncTy ty), [d, a, b], noAcc, true⟩
  | .atmDec h ty d a b _ _ => some ⟨h, allScopes, (atmIncTy ty), [d, a, b], noAcc, true⟩
  | .atmFadd h ty d a b _ _ => some ⟨h, allScopes, (fTy ty), [d, a, b], noAcc, true⟩
  | .redAdd h ty a b _ _ => some ⟨h, allScopes, (atmIntTy ty), [a, b], noAcc, true⟩
  | .redSub h ty a b _ _ => some ⟨h, allScopes, (atmIntTy ty), [a, b], noAcc, true⟩
  | .redMin h ty a b _ _ => some ⟨h, allScopes, (atmIntTy ty), [a, b], noAcc, true⟩
  | .redMax h ty a b _ _ => some ⟨h, allScopes, (atmIntTy ty), [a, b], noAcc, true⟩
  | .redAnd h ty a b _ _ => some ⟨h, allScopes, (xbitTy ty), [a, b], noAcc, true⟩
  | .redOr h ty a b _ _ => some ⟨h, allScopes, (xbitTy ty), [a, b], noAcc, true⟩
  | .redXor h ty a b _ _ => some ⟨h, allScopes, (xbitTy ty), [a, b], noAcc, true⟩
  | .redInc h ty a b _ _ => some ⟨h, allScopes, (atmIncTy ty), [a, b], noAcc, true⟩
  | .redDec h ty a b _ _ => some ⟨h, allScopes, (atmIncTy ty), [a, b], noAcc, true⟩
  | .redFadd h ty a b _ _ => some ⟨h, allScopes, (fTy ty), [a, b], noAcc, true⟩
  | .fence h _ => some ⟨h, gScope, true, [], noAcc, true⟩
  | .acq h _ => some ⟨h, gScope, true, [], noAcc, true⟩
  | .rel h _ => some ⟨h, gScope, true, [], noAcc, true⟩
  | .invr h len base _ => some ⟨h, gScope, true, [len, base], noAcc, true⟩
  | .wbr h len base _ => some ⟨h, gScope, true, [len, base], noAcc, true⟩
  | .pgreq h base _ sp => some ⟨h, gScope, true, [base], noAcc, (sp == .generic || sp == .global)⟩
  | .gld h d a _ _ => some ⟨h, lgScopes, true, [d, a], noAcc, true⟩
  | .gst h a b _ _ => some ⟨h, lgScopes, true, [a, b], noAcc, true⟩
  | .gatmAdd h d a b _ _ _ => some ⟨h, lgScopes, true, [d, a, b], noAcc, true⟩
  | .gatmSub h d a b _ _ _ => some ⟨h, lgScopes, true, [d, a, b], noAcc, true⟩
  | .gatmMin h d a b _ _ _ => some ⟨h, lgScopes, true, [d, a, b], noAcc, true⟩
  | .gatmMax h d a b _ _ _ => some ⟨h, lgScopes, true, [d, a, b], noAcc, true⟩
  | .gatmAnd h d a b _ _ _ => some ⟨h, lgScopes, true, [d, a, b], noAcc, true⟩
  | .gatmOr h d a b _ _ _ => some ⟨h, lgScopes, true, [d, a, b], noAcc, true⟩
  | .gatmXor h d a b _ _ _ => some ⟨h, lgScopes, true, [d, a, b], noAcc, true⟩
  | .gatmExch h d a b _ _ _ => some ⟨h, lgScopes, true, [d, a, b], noAcc, true⟩
  | .gadd h d a b _ => some ⟨h, lgScopes, true, [d, a, b], noAcc, true⟩
  | .gsub h d a b _ => some ⟨h, lgScopes, true, [d, a, b], noAcc, true⟩
  | .gmul h d a b _ => some ⟨h, lgScopes, true, [d, a, b], noAcc, true⟩
  | .gfma h d a b _ => some ⟨h, lgScopes, true, [d, a, b], noAcc, true⟩
  | .gmin h d a b _ => some ⟨h, lgScopes, true, [d, a, b], noAcc, true⟩
  | .gmax h d a b _ => some ⟨h, lgScopes, true, [d, a, b], noAcc, true⟩
  | .gset h d a b _ _ => some ⟨h, lgScopes, true, [d, a, b], noAcc, true⟩
  | .gcvt h d a _ ty => some ⟨h, lgScopes, (gcvtTy ty), [d, a], noAcc, true⟩
  | .stage h a _ => some ⟨h, gScope, true, [a], noAcc, true⟩
  | .cpy h d a b => some ⟨h, gScope, true, [d, a, b], noAcc, true⟩
  | .cpyBar h d a b _ => some ⟨h, gScope, true, [d, a, b], noAcc, true⟩
  | .cpyl4 h d a => some ⟨h, lScope, true, [d, a], noAcc, true⟩
  | .cpyl8 h d a => some ⟨h, lScope, true, [d, a], noAcc, true⟩
  | .cpyl16 h d a => some ⟨h, lScope, true, [d, a], noAcc, true⟩
  | .seal h d => some ⟨h, gScope, true, [d], noAcc, true⟩
  | .waitb h a => some ⟨h, gScope, true, [a], noAcc, true⟩
  | .bulkLd h _ => some ⟨h, tScope, true, [], noAcc, true⟩
  | .bulkSt h _ => some ⟨h, tScope, true, [], noAcc, true⟩
  | .bulkLdBar h _ _ => some ⟨h, tScope, true, [], noAcc, true⟩
  | .bulkStBar h _ _ => some ⟨h, tScope, true, [], noAcc, true⟩
  | .waitm h _ a => some ⟨h, gScope, true, [a], noAcc, true⟩
  | .testm h d _ a => some ⟨h, lScope, true, [d, a], noAcc, true⟩
  | .mcast h d a b => some ⟨h, gScope, true, [d, a, b], noAcc, true⟩
  | .mcastBar h d a b _ => some ⟨h, gScope, true, [d, a, b], noAcc, true⟩
  | .rowcpy h d a => some ⟨h, gScope, true, [d, a], noAcc, true⟩
  | .rowfill h d a => some ⟨h, gScope, true, [d, a], noAcc, true⟩
  | .rowand h d a b => some ⟨h, gScope, true, [d, a, b], noAcc, true⟩
  | .rowor h d a b => some ⟨h, gScope, true, [d, a, b], noAcc, true⟩
  | .rowxor h d a b => some ⟨h, gScope, true, [d, a, b], noAcc, true⟩
  | .rownot h d a => some ⟨h, gScope, true, [d, a], noAcc, true⟩
  | .rowmate h d a => some ⟨h, gScope, true, [d, a], noAcc, true⟩
  | .barArrive h _ _ => some ⟨h, gScope, true, [], noAcc, true⟩
  | .barWait h _ _ => some ⟨h, gScope, true, [], noAcc, true⟩
  | .barSync h _ _ => some ⟨h, gScope, true, [], noAcc, true⟩
  | .barExpect h _ a => some ⟨h, gScope, true, [a], noAcc, true⟩
  | .barInit h _ a => some ⟨h, gScope, true, [a], noAcc, true⟩
  | .setdecl h _ a => some ⟨h, tScope, true, [a], noAcc, true⟩
  | .shld h _ a => some ⟨h, gScope, true, [a], noAcc, true⟩
  | .shst h _ a => some ⟨h, gScope, true, [a], noAcc, true⟩
  | .shset h _ _ a => some ⟨h, gScope, true, [a], noAcc, true⟩
  | .shget h d _ _ => some ⟨h, gScope, true, [d], noAcc, true⟩
  | .macq h _ => some ⟨h, gScope, true, [], noAcc, true⟩
  | .mrel h _ => some ⟨h, gScope, true, [], noAcc, true⟩
  | .mzeroF32 h _ => some ⟨h, gScope, true, [], noAcc, true⟩
  | .mzeroI32 h _ => some ⟨h, gScope, true, [], noAcc, true⟩
  | .mzeroI32s h _ => some ⟨h, gScope, true, [], noAcc, true⟩
  | .mwait h _ => some ⟨h, gScope, true, [], noAcc, true⟩
  | .mloop h _ _ _ a => some ⟨h, gScope, true, [a], noAcc, true⟩
  | .mldaSp h _ _ => some ⟨h, gScope, true, [], noAcc, true⟩
  | .mldaReg h _ d a => some ⟨h, gScope, true, [d, a], noAcc, true⟩
  | .mdrainSp h _ _ => some ⟨h, gScope, true, [], histAcc, true⟩
  | .mdrainReg h _ d a => some ⟨h, gScope, true, [d, a], histAcc, true⟩
  | .saccR h _ a b => some ⟨h, gScope, true, [a, b], noAcc, true⟩
  | .saccRc h _ d a b => some ⟨h, gScope, true, [d, a, b], noAcc, true⟩
  | .plane h _ _ => some ⟨h, gScope, true, [], noAcc, true⟩
  | .unplane h _ _ => some ⟨h, gScope, true, [], noAcc, true⟩
  | .hclr h _ a => some ⟨h, gScope, true, [a], noAcc, true⟩
  | .hrd h d _ a => some ⟨h, gScope, true, [d, a], noAcc, true⟩
  | .launch h a _ => some ⟨h, gScope, true, [a], noAcc, true⟩
  | .sread h d _ => some ⟨h, lgScopes, true, [d], noAcc, true⟩
  | .swrite h _ a => some ⟨h, lgScopes, true, [a], noAcc, true⟩
  | .bkpt h _ => some ⟨h, gScope, true, [], noAcc, true⟩
  | .mark h a _ => some ⟨h, gScope, true, [a], noAcc, true⟩
  | .siterst h d a => some ⟨h, gScope, true, [d, a], noAcc, true⟩
  | .rendezvousIssue _ _ => none
  | .rendezvousTimeout _ _ => none
  | .registerResultReturn _ _ => none
  | .groupResourcesFreed _ => none
  | .teamRetire _ => none
  | .copyComplete _ _ => none
  | .engineWorkStop _ _ _ _ => none
  | .bulkChunkComplete _ _ _ => none
  | .mcastChunkArrive _ _ _ _ => none
  | .barrierTimeout _ => none
  | .chunkWaitTimeout _ => none
  | .rowFrameComplete _ _ _ => none
  | .planeComplete _ _ => none
  | .pairingTimeout _ => none
  | .tokenTimeout _ => none
  | .damaskLoopStart _ => none
  | .damaskLoopComplete _ => none
  | .enginePlaceFree _ => none
  | .saccComplete _ => none
  | .cacheEviction _ _ _ => none
  | .ownerTimeout _ _ _ _ => none
  | .registryError _ _ => none
  | .rollCallTimeout _ _ => none
  | .siteRewriteCas _ => none
  | .pageWalkComplete _ _ => none
  | .heldWritebackRelease _ => none
  | .fqheadWrite _ _ => none
  | .svdoneReexecute _ _ => none
  | .svdoneResume _ _ => none
  | .svdoneTerminate _ _ => none
  | .svdoneRefuse _ _ => none
  | .registerWrite _ _ => none
  | .doorbell _ => none
  | .launchAccept _ _ => none
  | .dependenceRead _ _ => none
  | .teamPlace _ _ _ _ => none
  | .priorityAging _ => none
  | .carveChange _ => none
  | .gridCompletion _ => none
  | .ctxCreate _ => none
  | .ctxDestroy _ => none
  | .ctxSave _ => none
  | .ctxRestore _ _ => none
  | .ctxDump _ => none
  | .savePhase2 _ _ => none
  | .saveCacheFlush _ => none
  | .fatalFault _ _ _ => none
  | .dumpStart => none
  | .cxlLinkDown _ => none
  | .cxlCompletionTimeout _ => none
  | .targetRestored _ => none
  | .nirbiorLinkFault _ => none
  | .linkLaneRemap _ => none
  | .hostMemRead _ _ => none
  | .hostMemWrite _ _ _ => none
  | .hostSnoop _ _ => none
  | .boot _ _ => none
  | .attestationRequest _ => none
  | .pcSample _ _ => none
  | .cclr _ => none
  | .fabricTimeCorrection _ => none
  | .thermalThrottle _ => none
  | .criticalTemperature => none
  | .coreFailure _ => none
  | .registryRebuilt _ _ => none
  | .releaseComplete _ => none
  | .hostLinkTraining _ => none
  | .temperatureFalls => none

/-- The instruction is the decoding of its own encoding: it fails none of the checks 2 to 6 of R241. -/
def Parts.wf (p : Parts) : Bool :=
  !p.h.resv && p.scopes p.h.scope && p.ty && !(p.ops.any Opnd.isBad) && p.extra
    && (match p.h.mod with
        | none => true
        | some m => p.acc.ok m && (m.setn == 0#3 || p.h.scope == .set))

/-- A well-formed program instruction (R241 checks 2 to 6, R231, R237). -/
def Instr.wf (i : Instr) : Bool :=
  match i.parts with
  | some p => p.wf
  | none => false

end Sys2Proof
end

