-- ==== Sys2Proof/Decode.lean ====
section
/-! DEFINITION. Decode.lean: from instruction words to instructions by the formats and the opcode map of R226 to R245,
total on any words, with the checks 2 to 4 of R241 refused by name; after it the encoder, from the same tables. -/
namespace Sys2Proof

/-- Why a word is no instruction: checks 2, 3 and 4 of R241, in that order. -/
inductive DecErr where
  | illegalOpcode | illegalScope | badMark
deriving DecidableEq, Repr

/-- Bits [62:61] (R31). -/
def Scope.dec (b : BitVec 2) : Scope :=
  if b = 0#2 then .lane else if b = 1#2 then .group else if b = 2#2 then .set else .team
/-- The scope's code (R31). -/
def Scope.enc : Scope → BitVec 2
  | .lane => 0#2 | .group => 1#2 | .set => 2#2 | .team => 3#2
/-- MSCOPE[1:0] (R233). -/
def MScope.dec (b : BitVec 2) : MScope :=
  if b = 0#2 then .team else if b = 1#2 then .die else if b = 2#2 then .dev else .sys
/-- The memory scope's code (R233). -/
def MScope.enc : MScope → BitVec 2
  | .team => 0#2 | .die => 1#2 | .dev => 2#2 | .sys => 3#2
/-- SPACE (R233); 0b101 to 0b111 are reserved and fail check 5. -/
def Space.dec (b : BitVec 3) : Space :=
  if b = 1#3 then .global else if b = 2#3 then .scratch else if b = 3#3 then .cscratch
  else if b = 4#3 then .stack else .generic
/-- The code of SPACE (R233). -/
def Space.enc : Space → BitVec 3
  | .generic => 0#3 | .global => 1#3 | .scratch => 2#3 | .cscratch => 3#3 | .stack => 4#3
/-- RMODE (R236); 0b101 to 0b111 are reserved and fail check 5. -/
def RMode.dec (b : BitVec 3) : RMode :=
  if b = 1#3 then .rne else if b = 2#3 then .rz else if b = 3#3 then .ru else if b = 4#3 then .rd else .own
/-- The code of RMODE (R236). -/
def RMode.enc : RMode → BitVec 3
  | .own => 0#3 | .rne => 1#3 | .rz => 2#3 | .ru => 3#3 | .rd => 4#3
/-- A type code (R230), none where the code is unallocated. -/
def Ty.dec (b : BitVec 5) : Option Ty :=
  match b.toNat with
  | 0 => some .b32 | 1 => some .i32 | 2 => some .n32 | 3 => some .f32 | 4 => some .f64 | 5 => some .i64
  | 6 => some .n64 | 7 => some .f16 | 8 => some .bf16 | 9 => some .i16 | 10 => some .n16 | 11 => some .e4
  | 12 => some .e5 | 13 => some .i8 | 14 => some .n8 | 16 => some .i4 | 17 => some .n4 | 18 => some .q4
  | 19 => some .b1 | 20 => some .b64 | _ => none
/-- The type's code (R230). -/
def Ty.enc : Ty → BitVec 5
  | .b32 => 0#5 | .i32 => 1#5 | .n32 => 2#5 | .f32 => 3#5 | .f64 => 4#5 | .i64 => 5#5 | .n64 => 6#5 | .f16 => 7#5
  | .bf16 => 8#5 | .i16 => 9#5 | .n16 => 10#5 | .e4 => 11#5 | .e5 => 12#5 | .i8 => 13#5 | .n8 => 14#5 | .i4 => 16#5
  | .n4 => 17#5 | .q4 => 18#5 | .b1 => 19#5 | .b64 => 20#5
/-- The condition of `gset` (R315). -/
def Cond.dec (b : BitVec 9) : Option Cond :=
  match b.toNat with
  | 0 => some .eq | 1 => some .ne | 2 => some .lt | 3 => some .le | 4 => some .gt | 5 => some .ge | _ => none
/-- The code of the condition (R315). -/
def Cond.enc : Cond → BitVec 3
  | .eq => 0#3 | .ne => 1#3 | .lt => 2#3 | .le => 3#3 | .gt => 4#3 | .ge => 5#3
/-- The memory scope field of an ordered barrier form, zero in an unordered one (R341). -/
def encMsc : Option MScope → BitVec 2
  | none => 0#2 | some s => s.enc

/-- A 9-bit operand field (R58). -/
def Opnd.dec (f : BitVec 9) : Opnd :=
  let n := f.toNat
  if n < 256 then .v (f.extractLsb' 0 8)
  else if n < 320 then .s (f.extractLsb' 0 6)
  else if n < 328 then .p (f.extractLsb' 0 3)
  else if n < 332 then .x (f.extractLsb' 0 2)
  else if n < 348 then .h (BitVec.ofNat 4 (n - 332))
  else if n < 352 then .a (f.extractLsb' 0 2)
  else if n < 384 then .c (f.extractLsb' 0 5)
  else .bad (f.extractLsb' 0 7)
/-- The 9-bit field of an operand (R58). -/
def Opnd.enc : Opnd → BitVec 9
  | .v n => 0#1 ++ n
  | .s n => 4#3 ++ n
  | .p n => 40#6 ++ n
  | .x n => 82#7 ++ n
  | .h n => BitVec.ofNat 9 (332 + n.toNat)
  | .a n => 87#7 ++ n
  | .c n => 11#4 ++ n
  | .bad n => 3#2 ++ n

/-! The fields of R229, by name. -/

/-- D, S. -/
abbrev fD (w : DWord) : BitVec 9 := w.extractLsb' 40 9
/-- A, BASE. -/
abbrev fA (w : DWord) : BitVec 9 := w.extractLsb' 31 9
/-- B. -/
abbrev fB (w : DWord) : BitVec 9 := w.extractLsb' 22 9
/-- C. -/
abbrev fC (w : DWord) : BitVec 9 := w.extractLsb' 13 9
/-- IMM20, OFF20. -/
abbrev fImm (w : DWord) : BitVec 20 := w.extractLsb' 11 20
/-- SPACE. -/
abbrev fSpace (w : DWord) : BitVec 3 := w.extractLsb' 8 3
/-- SITE (R188). -/
abbrev fSite (w : DWord) : BitVec 13 := w.extractLsb' 9 13
/-- OFF32. -/
abbrev fOff32 (w : DWord) : BitVec 32 := w.extractLsb' 17 32
/-- JOIN16. -/
abbrev fJoin (w : DWord) : BitVec 16 := w.extractLsb' 1 16
/-- HA. -/
abbrev fHA (w : DWord) : BitVec 4 := w.extractLsb' 18 4
/-- HB. -/
abbrev fHB (w : DWord) : BitVec 4 := w.extractLsb' 14 4
/-- TILE, MSC (R235). -/
abbrev fTile (w : DWord) : BitVec 2 := w.extractLsb' 12 2
/-- BAR. -/
abbrev fBar (w : DWord) : BitVec 7 := w.extractLsb' 5 7
/-- SIDX. -/
abbrev fSidx (w : DWord) : BitVec 8 := w.extractLsb' 23 8
/-- IMM17. -/
abbrev fImm17 (w : DWord) : BitVec 17 := w.extractLsb' 6 17
/-- MAJOR. -/
abbrev fMajor (w : DWord) : BitVec 7 := w.extractLsb' 54 7
/-- M: a modifier word follows. -/
abbrev fM (w : DWord) : Bool := w.getLsbD 49

/-- The fields of a modifier word (R236). -/
def Mod.dec (m : DWord) : Mod :=
  { setn := m.extractLsb' 61 3, rmode := RMode.dec (m.extractLsb' 51 3), scale := m.extractLsb' 45 6,
    sat := m.getLsbD 44, clamp := m.getLsbD 43, absA := m.getLsbD 42, negA := m.getLsbD 41, absB := m.getLsbD 40,
    negB := m.getLsbD 39, absC := m.getLsbD 38, negC := m.getLsbD 37, ext := m.extractLsb' 0 32 }

/-- The modifier word fails check 5 of R241: a reserved RMODE, a reserved bit, a field the mnemonic does not accept, or
SETN at another scope than SET (R237). -/
def modResv (acc : ModAcc) (sc : Scope) (m : DWord) : Bool :=
  m.extractLsb' 51 3 > 4#3 || m.extractLsb' 32 5 != 0#5 || !(acc.ok (Mod.dec m))
    || (sc != .set && m.extractLsb' 61 3 != 0#3)

/-- The head of a word (R226). `bad` is the word's own failure of check 5. -/
def hdOf (w m : DWord) (acc : ModAcc) (bad : Bool) : Hd :=
  { w := w.getLsbD 63, scope := Scope.dec (w.extractLsb' 61 2), pneg := w.getLsbD 53, pred := w.extractLsb' 50 3,
    mod := if fM w then some (Mod.dec m) else none,
    resv := bad || (fM w && modResv acc (Scope.dec (w.extractLsb' 61 2)) m) }

/-- A point of the opcode map: the scopes it accepts and the instruction. -/
abbrev Point := (Scope → Bool) × Instr

/-- The point, where its type code is allocated for it. -/
def pt (sc : Scope → Bool) (ok : Bool) (i : Instr) : Option Point := if ok then some (sc, i) else none

/-- Major 0x01 (R244). -/
def decBr (w m : DWord) : Option Point :=
  if w.getLsbD 0 then pt gScope true (.call (hdOf w m noAcc (w.extractLsb' 1 16 != 0#16)) (fOff32 w))
  else pt gScope true (.br (hdOf w m noAcc (w.extractLsb' 1 16 != 0#16)) (fOff32 w))

/-- Major 0x02 (R244). -/
def decBrd (w m : DWord) : Option Point :=
  pt lScope true (.brd (hdOf w m noAcc (w.extractLsb' 0 1 != 0#1 || fJoin w == 0#16)) (fOff32 w) (fJoin w))

/-- Major 0x03 (R244). -/
def decFlow (w m : DWord) : Option Point :=
  match (w.extractLsb' 0 6).toNat with
  | 0 => pt gScope true (.join (hdOf w m noAcc (w.extractLsb' 40 9 != 0#9 || w.extractLsb' 31 9 != 0#9 || w.extractLsb' 23 8 != 0#8 || w.extractLsb' 6 17 != 0#17 || (w.getLsbD 53 || w.extractLsb' 50 3 != 7#3))) )
  | 1 => pt lScope true (.exit (hdOf w m noAcc (w.extractLsb' 40 9 != 0#9 || w.extractLsb' 31 9 != 0#9 || w.extractLsb' 23 8 != 0#8 || w.extractLsb' 6 17 != 0#17)) )
  | 2 => pt gScope true (.ret (hdOf w m noAcc (w.extractLsb' 40 9 != 0#9 || w.extractLsb' 31 9 != 0#9 || w.extractLsb' 23 8 != 0#8 || w.extractLsb' 6 17 != 0#17)) )
  | 3 => pt gScope true (.callt (hdOf w m noAcc (w.extractLsb' 40 9 != 0#9 || w.extractLsb' 31 9 != 0#9 || w.extractLsb' 23 8 != 0#8)) (fImm17 w))
  | 4 => pt gScope true (.callr (hdOf w m noAcc (w.extractLsb' 40 9 != 0#9 || w.extractLsb' 23 8 != 0#8 || w.extractLsb' 6 17 != 0#17)) (Opnd.dec (fA w)))
  | 5 => pt gScope true (.trap (hdOf w m noAcc (w.extractLsb' 40 9 != 0#9 || w.extractLsb' 31 9 != 0#9 || w.extractLsb' 23 8 != 0#8 || w.extractLsb' 12 11 != 0#11)) (w.extractLsb' 6 6))
  | 6 => pt allScopes true (.nop (hdOf w m noAcc (w.extractLsb' 40 9 != 0#9 || w.extractLsb' 31 9 != 0#9 || w.extractLsb' 23 8 != 0#8 || w.extractLsb' 6 17 != 0#17)) )
  | _ => none

/-- Major 0x04 (R244). -/
def decIarith (w m : DWord) : Option Point :=
  match Ty.dec (w.extractLsb' 8 5) with
  | none => none
  | some ty =>
    match (w.extractLsb' 0 8).toNat with
    | 0 => pt allScopes (intTy ty) (.add (hdOf w m satAcc (w.extractLsb' 13 9 != 0#9)) ty (Opnd.dec (fD w)) (Opnd.dec (fA w)) (Opnd.dec (fB w)))
    | 1 => pt allScopes (intTy ty) (.sub (hdOf w m satAcc (w.extractLsb' 13 9 != 0#9)) ty (Opnd.dec (fD w)) (Opnd.dec (fA w)) (Opnd.dec (fB w)))
    | 2 => pt allScopes (intTy ty) (.mul (hdOf w m satAcc (w.extractLsb' 13 9 != 0#9)) ty (Opnd.dec (fD w)) (Opnd.dec (fA w)) (Opnd.dec (fB w)))
    | 3 => pt allScopes (intTy ty) (.mulhi (hdOf w m noAcc (w.extractLsb' 13 9 != 0#9)) ty (Opnd.dec (fD w)) (Opnd.dec (fA w)) (Opnd.dec (fB w)))
    | 4 => pt allScopes (intTy ty) (.mad (hdOf w m satAcc (false)) ty (Opnd.dec (fD w)) (Opnd.dec (fA w)) (Opnd.dec (fB w)) (Opnd.dec (fC w)))
    | 5 => pt allScopes (intTy ty) (.min (hdOf w m noAcc (w.extractLsb' 13 9 != 0#9)) ty (Opnd.dec (fD w)) (Opnd.dec (fA w)) (Opnd.dec (fB w)))
    | 6 => pt allScopes (intTy ty) (.max (hdOf w m noAcc (w.extractLsb' 13 9 != 0#9)) ty (Opnd.dec (fD w)) (Opnd.dec (fA w)) (Opnd.dec (fB w)))
    | 7 => pt allScopes (intTy ty) (.abs (hdOf w m satAcc (w.extractLsb' 22 9 != 0#9 || w.extractLsb' 13 9 != 0#9)) ty (Opnd.dec (fD w)) (Opnd.dec (fA w)))
    | 8 => pt allScopes (intTy ty) (.neg (hdOf w m satAcc (w.extractLsb' 22 9 != 0#9 || w.extractLsb' 13 9 != 0#9)) ty (Opnd.dec (fD w)) (Opnd.dec (fA w)))
    | 9 => pt allScopes (intTy ty) (.div (hdOf w m noAcc (w.extractLsb' 13 9 != 0#9)) ty (Opnd.dec (fD w)) (Opnd.dec (fA w)) (Opnd.dec (fB w)))
    | 10 => pt allScopes (intTy ty) (.rem (hdOf w m noAcc (w.extractLsb' 13 9 != 0#9)) ty (Opnd.dec (fD w)) (Opnd.dec (fA w)) (Opnd.dec (fB w)))
    | _ => none

/-- Major 0x05 (R244). -/
def decIarithi (w m : DWord) : Option Point :=
  match Ty.dec (w.extractLsb' 6 5) with
  | none => none
  | some ty =>
    match (w.extractLsb' 0 6).toNat with
    | 0 => pt allScopes (intTy ty) (.addImm (hdOf w m satAcc (false)) ty (Opnd.dec (fD w)) (Opnd.dec (fA w)) (fImm w))
    | 1 => pt allScopes (intTy ty) (.subImm (hdOf w m satAcc (false)) ty (Opnd.dec (fD w)) (Opnd.dec (fA w)) (fImm w))
    | 2 => pt allScopes (intTy ty) (.mulImm (hdOf w m satAcc (false)) ty (Opnd.dec (fD w)) (Opnd.dec (fA w)) (fImm w))
    | 3 => pt allScopes (intTy ty) (.mulhiImm (hdOf w m noAcc (false)) ty (Opnd.dec (fD w)) (Opnd.dec (fA w)) (fImm w))
    | 5 => pt allScopes (intTy ty) (.minImm (hdOf w m noAcc (false)) ty (Opnd.dec (fD w)) (Opnd.dec (fA w)) (fImm w))
    | 6 => pt allScopes (intTy ty) (.maxImm (hdOf w m noAcc (false)) ty (Opnd.dec (fD w)) (Opnd.dec (fA w)) (fImm w))
    | _ => none

/-- Major 0x06 (R244). -/
def decLogic (w m : DWord) : Option Point :=
  match Ty.dec (w.extractLsb' 8 5) with
  | none => none
  | some ty =>
    match (w.extractLsb' 0 8).toNat with
    | 0 => pt allScopes (logicTy ty) (.and (hdOf w m noAcc (w.extractLsb' 13 9 != 0#9)) ty (Opnd.dec (fD w)) (Opnd.dec (fA w)) (Opnd.dec (fB w)))
    | 1 => pt allScopes (logicTy ty) (.or (hdOf w m noAcc (w.extractLsb' 13 9 != 0#9)) ty (Opnd.dec (fD w)) (Opnd.dec (fA w)) (Opnd.dec (fB w)))
    | 2 => pt allScopes (logicTy ty) (.xor (hdOf w m noAcc (w.extractLsb' 13 9 != 0#9)) ty (Opnd.dec (fD w)) (Opnd.dec (fA w)) (Opnd.dec (fB w)))
    | 3 => pt allScopes (logicTy ty) (.not (hdOf w m noAcc (w.extractLsb' 22 9 != 0#9 || w.extractLsb' 13 9 != 0#9)) ty (Opnd.dec (fD w)) (Opnd.dec (fA w)))
    | 4 => pt allScopes (logicTy ty) (.andn (hdOf w m noAcc (w.extractLsb' 13 9 != 0#9)) ty (Opnd.dec (fD w)) (Opnd.dec (fA w)) (Opnd.dec (fB w)))
    | 5 => pt allScopes (logicTy ty) (.shl (hdOf w m noAcc (w.extractLsb' 13 9 != 0#9)) ty (Opnd.dec (fD w)) (Opnd.dec (fA w)) (Opnd.dec (fB w)))
    | 6 => pt allScopes (logicTy ty) (.shr (hdOf w m noAcc (w.extractLsb' 13 9 != 0#9)) ty (Opnd.dec (fD w)) (Opnd.dec (fA w)) (Opnd.dec (fB w)))
    | 7 => pt allScopes (logicTy ty) (.sar (hdOf w m noAcc (w.extractLsb' 13 9 != 0#9)) ty (Opnd.dec (fD w)) (Opnd.dec (fA w)) (Opnd.dec (fB w)))
    | 8 => pt allScopes (logicTy ty) (.rotl (hdOf w m noAcc (w.extractLsb' 13 9 != 0#9)) ty (Opnd.dec (fD w)) (Opnd.dec (fA w)) (Opnd.dec (fB w)))
    | 9 => pt allScopes (logicTy ty) (.popc (hdOf w m noAcc (w.extractLsb' 22 9 != 0#9 || w.extractLsb' 13 9 != 0#9)) ty (Opnd.dec (fD w)) (Opnd.dec (fA w)))
    | 10 => pt allScopes (logicTy ty) (.clz (hdOf w m noAcc (w.extractLsb' 22 9 != 0#9 || w.extractLsb' 13 9 != 0#9)) ty (Opnd.dec (fD w)) (Opnd.dec (fA w)))
    | 11 => pt allScopes (bfTy ty) (.bfe (hdOf w m noAcc (w.extractLsb' 22 9 != 0#9)) ty (Opnd.dec (fD w)) (Opnd.dec (fA w)) (Opnd.dec (fC w)))
    | 12 => pt allScopes (bfTy ty) (.bfi (hdOf w m noAcc (false)) ty (Opnd.dec (fD w)) (Opnd.dec (fA w)) (Opnd.dec (fB w)) (Opnd.dec (fC w)))
    | 13 => pt allScopes (logicTy ty) (.brev (hdOf w m noAcc (w.extractLsb' 22 9 != 0#9 || w.extractLsb' 13 9 != 0#9)) ty (Opnd.dec (fD w)) (Opnd.dec (fA w)))
    | _ => none

/-- Major 0x07 (R244). -/
def decLogici (w m : DWord) : Option Point :=
  match Ty.dec (w.extractLsb' 6 5) with
  | none => none
  | some ty =>
    match (w.extractLsb' 0 6).toNat with
    | 0 => pt allScopes (logicTy ty) (.andImm (hdOf w m noAcc (false)) ty (Opnd.dec (fD w)) (Opnd.dec (fA w)) (fImm w))
    | 1 => pt allScopes (logicTy ty) (.orImm (hdOf w m noAcc (false)) ty (Opnd.dec (fD w)) (Opnd.dec (fA w)) (fImm w))
    | 2 => pt allScopes (logicTy ty) (.xorImm (hdOf w m noAcc (false)) ty (Opnd.dec (fD w)) (Opnd.dec (fA w)) (fImm w))
    | 4 => pt allScopes (logicTy ty) (.andnImm (hdOf w m noAcc (false)) ty (Opnd.dec (fD w)) (Opnd.dec (fA w)) (fImm w))
    | 5 => pt allScopes (logicTy ty) (.shlImm (hdOf w m noAcc (false)) ty (Opnd.dec (fD w)) (Opnd.dec (fA w)) (fImm w))
    | 6 => pt allScopes (logicTy ty) (.shrImm (hdOf w m noAcc (false)) ty (Opnd.dec (fD w)) (Opnd.dec (fA w)) (fImm w))
    | 7 => pt allScopes (logicTy ty) (.sarImm (hdOf w m noAcc (false)) ty (Opnd.dec (fD w)) (Opnd.dec (fA w)) (fImm w))
    | 8 => pt allScopes (logicTy ty) (.rotlImm (hdOf w m noAcc (false)) ty (Opnd.dec (fD w)) (Opnd.dec (fA w)) (fImm w))
    | _ => none

/-- Major 0x08 (R244). -/
def decIcmp (w m : DWord) : Option Point :=
  match Ty.dec (w.extractLsb' 8 5) with
  | none => none
  | some ty =>
    match (w.extractLsb' 0 8).toNat with
    | 0 => pt allScopes (intTy ty) (.setEq (hdOf w m noAcc (w.extractLsb' 13 9 != 0#9)) ty (Opnd.dec (fD w)) (Opnd.dec (fA w)) (Opnd.dec (fB w)))
    | 1 => pt allScopes (intTy ty) (.setNe (hdOf w m noAcc (w.extractLsb' 13 9 != 0#9)) ty (Opnd.dec (fD w)) (Opnd.dec (fA w)) (Opnd.dec (fB w)))
    | 2 => pt allScopes (intTy ty) (.setLt (hdOf w m noAcc (w.extractLsb' 13 9 != 0#9)) ty (Opnd.dec (fD w)) (Opnd.dec (fA w)) (Opnd.dec (fB w)))
    | 3 => pt allScopes (intTy ty) (.setLe (hdOf w m noAcc (w.extractLsb' 13 9 != 0#9)) ty (Opnd.dec (fD w)) (Opnd.dec (fA w)) (Opnd.dec (fB w)))
    | 4 => pt allScopes (intTy ty) (.setGt (hdOf w m noAcc (w.extractLsb' 13 9 != 0#9)) ty (Opnd.dec (fD w)) (Opnd.dec (fA w)) (Opnd.dec (fB w)))
    | 5 => pt allScopes (intTy ty) (.setGe (hdOf w m noAcc (w.extractLsb' 13 9 != 0#9)) ty (Opnd.dec (fD w)) (Opnd.dec (fA w)) (Opnd.dec (fB w)))
    | _ => none

/-- Major 0x09 (R244). -/
def decIcmpi (w m : DWord) : Option Point :=
  match Ty.dec (w.extractLsb' 6 5) with
  | none => none
  | some ty =>
    match (w.extractLsb' 0 6).toNat with
    | 0 => pt allScopes (intTy ty) (.setEqImm (hdOf w m noAcc (false)) ty (Opnd.dec (fD w)) (Opnd.dec (fA w)) (fImm w))
    | 1 => pt allScopes (intTy ty) (.setNeImm (hdOf w m noAcc (false)) ty (Opnd.dec (fD w)) (Opnd.dec (fA w)) (fImm w))
    | 2 => pt allScopes (intTy ty) (.setLtImm (hdOf w m noAcc (false)) ty (Opnd.dec (fD w)) (Opnd.dec (fA w)) (fImm w))
    | 3 => pt allScopes (intTy ty) (.setLeImm (hdOf w m noAcc (false)) ty (Opnd.dec (fD w)) (Opnd.dec (fA w)) (fImm w))
    | 4 => pt allScopes (intTy ty) (.setGtImm (hdOf w m noAcc (false)) ty (Opnd.dec (fD w)) (Opnd.dec (fA w)) (fImm w))
    | 5 => pt allScopes (intTy ty) (.setGeImm (hdOf w m noAcc (false)) ty (Opnd.dec (fD w)) (Opnd.dec (fA w)) (fImm w))
    | _ => none

/-- Major 0x0A (R244). -/
def decMove (w m : DWord) : Option Point :=
  match Ty.dec (w.extractLsb' 8 5) with
  | none => none
  | some ty =>
    match (w.extractLsb' 0 8).toNat with
    | 0 => pt allScopes (movTy ty) (.mov (hdOf w m noAcc (w.extractLsb' 22 9 != 0#9 || w.extractLsb' 13 9 != 0#9)) ty (Opnd.dec (fD w)) (Opnd.dec (fA w)))
    | 1 => pt allScopes (selTy ty) (.sel (hdOf w m noAcc (false)) ty (Opnd.dec (fD w)) (Opnd.dec (fA w)) (Opnd.dec (fB w)) (Opnd.dec (fC w)))
    | _ => none

/-- Major 0x0B (R244). -/
def decImm (w m : DWord) : Option Point :=
  match Ty.dec (w.extractLsb' 6 5) with
  | none => none
  | some ty =>
    match (w.extractLsb' 0 6).toNat with
    | 0 => pt allScopes (moviTy ty) (.movi (hdOf w m noAcc (w.extractLsb' 31 9 != 0#9)) ty (Opnd.dec (fD w)) (fImm w))
    | 1 => pt allScopes (moviTy ty) (.movhi (hdOf w m noAcc (w.extractLsb' 31 9 != 0#9)) ty (Opnd.dec (fD w)) (fImm w))
    | 2 => pt allScopes (n64Ty ty) (.addpc (hdOf w m noAcc (w.extractLsb' 31 9 != 0#9)) ty (Opnd.dec (fD w)) (fImm w))
    | 3 => pt allScopes (n64Ty ty) (.addlo (hdOf w m noAcc (fImm w &&& 0xFF000#20 != 0#20)) ty (Opnd.dec (fD w)) (Opnd.dec (fA w)) (fImm w))
    | _ => none

/-- Major 0x0C (R244). -/
def decPk16 (w m : DWord) : Option Point :=
  match Ty.dec (w.extractLsb' 8 5) with
  | none => none
  | some ty =>
    match (w.extractLsb' 0 8).toNat with
    | 0 => pt allScopes (pk16Ty ty) (.add2 (hdOf w m noAcc (w.extractLsb' 13 9 != 0#9)) ty (Opnd.dec (fD w)) (Opnd.dec (fA w)) (Opnd.dec (fB w)))
    | 1 => pt allScopes (pk16Ty ty) (.sub2 (hdOf w m noAcc (w.extractLsb' 13 9 != 0#9)) ty (Opnd.dec (fD w)) (Opnd.dec (fA w)) (Opnd.dec (fB w)))
    | 2 => pt allScopes (pk16Ty ty) (.min2 (hdOf w m noAcc (w.extractLsb' 13 9 != 0#9)) ty (Opnd.dec (fD w)) (Opnd.dec (fA w)) (Opnd.dec (fB w)))
    | 3 => pt allScopes (pk16Ty ty) (.max2 (hdOf w m noAcc (w.extractLsb' 13 9 != 0#9)) ty (Opnd.dec (fD w)) (Opnd.dec (fA w)) (Opnd.dec (fB w)))
    | 4 => pt allScopes (pk16Ty ty) (.maxd2 (hdOf w m noAcc (false)) ty (Opnd.dec (fD w)) (Opnd.dec (fA w)) (Opnd.dec (fB w)) (Opnd.dec (fC w)))
    | _ => none

/-- Major 0x0D (R244). -/
def decXlane (w m : DWord) : Option Point :=
  match Ty.dec (w.extractLsb' 8 5) with
  | none => none
  | some ty =>
    match (w.extractLsb' 0 8).toNat with
    | 0 => pt lstScopes (selTy ty) (.shfl (hdOf w m noAcc (w.extractLsb' 13 9 != 0#9)) ty (Opnd.dec (fD w)) (Opnd.dec (fA w)) (Opnd.dec (fB w)))
    | 1 => pt lstScopes (selTy ty) (.shflUp (hdOf w m noAcc (w.extractLsb' 13 9 != 0#9)) ty (Opnd.dec (fD w)) (Opnd.dec (fA w)) (Opnd.dec (fB w)))
    | 2 => pt lstScopes (selTy ty) (.shflDn (hdOf w m noAcc (w.extractLsb' 13 9 != 0#9)) ty (Opnd.dec (fD w)) (Opnd.dec (fA w)) (Opnd.dec (fB w)))
    | 3 => pt lstScopes (selTy ty) (.shflXor (hdOf w m noAcc (w.extractLsb' 13 9 != 0#9)) ty (Opnd.dec (fD w)) (Opnd.dec (fA w)) (Opnd.dec (fB w)))
    | 4 => pt lstScopes (b1Ty ty) (.voteAny (hdOf w m noAcc (w.extractLsb' 22 9 != 0#9 || w.extractLsb' 13 9 != 0#9)) ty (Opnd.dec (fD w)) (Opnd.dec (fA w)))
    | 5 => pt lstScopes (b1Ty ty) (.voteAll (hdOf w m noAcc (w.extractLsb' 22 9 != 0#9 || w.extractLsb' 13 9 != 0#9)) ty (Opnd.dec (fD w)) (Opnd.dec (fA w)))
    | 6 => pt lstScopes (b1Ty ty) (.ballot (hdOf w m noAcc (w.extractLsb' 22 9 != 0#9 || w.extractLsb' 13 9 != 0#9)) ty (Opnd.dec (fD w)) (Opnd.dec (fA w)))
    | 7 => pt lstScopes (xredTy ty) (.xredAdd (hdOf w m (satIntAcc ty) (w.extractLsb' 22 9 != 0#9 || w.extractLsb' 13 9 != 0#9)) ty (Opnd.dec (fD w)) (Opnd.dec (fA w)))
    | 8 => pt lstScopes (xredTy ty) (.xredMin (hdOf w m noAcc (w.extractLsb' 22 9 != 0#9 || w.extractLsb' 13 9 != 0#9)) ty (Opnd.dec (fD w)) (Opnd.dec (fA w)))
    | 9 => pt lstScopes (xredTy ty) (.xredMax (hdOf w m noAcc (w.extractLsb' 22 9 != 0#9 || w.extractLsb' 13 9 != 0#9)) ty (Opnd.dec (fD w)) (Opnd.dec (fA w)))
    | 10 => pt lstScopes (xbitTy ty) (.xredAnd (hdOf w m noAcc (w.extractLsb' 22 9 != 0#9 || w.extractLsb' 13 9 != 0#9)) ty (Opnd.dec (fD w)) (Opnd.dec (fA w)))
    | 11 => pt lstScopes (xbitTy ty) (.xredOr (hdOf w m noAcc (w.extractLsb' 22 9 != 0#9 || w.extractLsb' 13 9 != 0#9)) ty (Opnd.dec (fD w)) (Opnd.dec (fA w)))
    | 12 => pt lstScopes (xbitTy ty) (.xredXor (hdOf w m noAcc (w.extractLsb' 22 9 != 0#9 || w.extractLsb' 13 9 != 0#9)) ty (Opnd.dec (fD w)) (Opnd.dec (fA w)))
    | 13 => pt lstScopes (xredTy ty) (.xscanAdd (hdOf w m (satIntAcc ty) (w.extractLsb' 22 9 != 0#9 || w.extractLsb' 13 9 != 0#9)) ty (Opnd.dec (fD w)) (Opnd.dec (fA w)))
    | 14 => pt lstScopes (xredTy ty) (.xscanMax (hdOf w m noAcc (w.extractLsb' 22 9 != 0#9 || w.extractLsb' 13 9 != 0#9)) ty (Opnd.dec (fD w)) (Opnd.dec (fA w)))
    | 15 => pt lstScopes (selTy ty) (.bcast (hdOf w m noAcc (w.extractLsb' 13 9 != 0#9)) ty (Opnd.dec (fD w)) (Opnd.dec (fA w)) (Opnd.dec (fB w)))
    | _ => none

/-- Major 0x0E (R244). -/
def decMovx (w m : DWord) : Option Point :=
  match Ty.dec (w.extractLsb' 8 5) with
  | none => none
  | some ty =>
    match (w.extractLsb' 0 8).toNat with
    | 0 => pt lstScopes (selTy ty) (.movx (hdOf w m noAcc (false)) ty (Opnd.dec (fD w)) (Opnd.dec (fA w)) (Opnd.dec (fB w)) (Opnd.dec (fC w)))
    | 1 => pt lstScopes (selTy ty) (.movxw (hdOf w m noAcc (false)) ty (Opnd.dec (fD w)) (Opnd.dec (fA w)) (Opnd.dec (fB w)) (Opnd.dec (fC w)))
    | _ => none

/-- Major 0x10 (R244). -/
def decFarith (w m : DWord) : Option Point :=
  match Ty.dec (w.extractLsb' 8 5) with
  | none => none
  | some ty =>
    match (w.extractLsb' 0 8).toNat with
    | 0 => pt allScopes (fTy ty) (.fadd (hdOf w m (fAcc 2) (w.extractLsb' 13 9 != 0#9)) ty (Opnd.dec (fD w)) (Opnd.dec (fA w)) (Opnd.dec (fB w)))
    | 1 => pt allScopes (fTy ty) (.fsub (hdOf w m (fAcc 2) (w.extractLsb' 13 9 != 0#9)) ty (Opnd.dec (fD w)) (Opnd.dec (fA w)) (Opnd.dec (fB w)))
    | 2 => pt allScopes (fTy ty) (.fmul (hdOf w m (fAcc 2) (w.extractLsb' 13 9 != 0#9)) ty (Opnd.dec (fD w)) (Opnd.dec (fA w)) (Opnd.dec (fB w)))
    | 3 => pt allScopes (fTy ty) (.fma (hdOf w m (fAcc 3) (false)) ty (Opnd.dec (fD w)) (Opnd.dec (fA w)) (Opnd.dec (fB w)) (Opnd.dec (fC w)))
    | 4 => pt allScopes (fTy ty) (.fmin (hdOf w m (absAcc 2) (w.extractLsb' 13 9 != 0#9)) ty (Opnd.dec (fD w)) (Opnd.dec (fA w)) (Opnd.dec (fB w)))
    | 5 => pt allScopes (fTy ty) (.fmax (hdOf w m (absAcc 2) (w.extractLsb' 13 9 != 0#9)) ty (Opnd.dec (fD w)) (Opnd.dec (fA w)) (Opnd.dec (fB w)))
    | _ => none

/-- Major 0x11 (R244). -/
def decFcmp (w m : DWord) : Option Point :=
  match Ty.dec (w.extractLsb' 8 5) with
  | none => none
  | some ty =>
    match (w.extractLsb' 0 8).toNat with
    | 0 => pt allScopes (fTy ty) (.fsetEq (hdOf w m (absAcc 2) (w.extractLsb' 13 9 != 0#9)) ty (Opnd.dec (fD w)) (Opnd.dec (fA w)) (Opnd.dec (fB w)))
    | 1 => pt allScopes (fTy ty) (.fsetNe (hdOf w m (absAcc 2) (w.extractLsb' 13 9 != 0#9)) ty (Opnd.dec (fD w)) (Opnd.dec (fA w)) (Opnd.dec (fB w)))
    | 2 => pt allScopes (fTy ty) (.fsetLt (hdOf w m (absAcc 2) (w.extractLsb' 13 9 != 0#9)) ty (Opnd.dec (fD w)) (Opnd.dec (fA w)) (Opnd.dec (fB w)))
    | 3 => pt allScopes (fTy ty) (.fsetLe (hdOf w m (absAcc 2) (w.extractLsb' 13 9 != 0#9)) ty (Opnd.dec (fD w)) (Opnd.dec (fA w)) (Opnd.dec (fB w)))
    | 4 => pt allScopes (fTy ty) (.fsetGt (hdOf w m (absAcc 2) (w.extractLsb' 13 9 != 0#9)) ty (Opnd.dec (fD w)) (Opnd.dec (fA w)) (Opnd.dec (fB w)))
    | 5 => pt allScopes (fTy ty) (.fsetGe (hdOf w m (absAcc 2) (w.extractLsb' 13 9 != 0#9)) ty (Opnd.dec (fD w)) (Opnd.dec (fA w)) (Opnd.dec (fB w)))
    | 6 => pt allScopes (fTy ty) (.fsetUnord (hdOf w m (absAcc 2) (w.extractLsb' 13 9 != 0#9)) ty (Opnd.dec (fD w)) (Opnd.dec (fA w)) (Opnd.dec (fB w)))
    | 7 => pt allScopes (fTy ty) (.fsetOrd (hdOf w m (absAcc 2) (w.extractLsb' 13 9 != 0#9)) ty (Opnd.dec (fD w)) (Opnd.dec (fA w)) (Opnd.dec (fB w)))
    | _ => none

/-- Major 0x12 (R244). -/
def decFfunc (w m : DWord) : Option Point :=
  match Ty.dec (w.extractLsb' 8 5) with
  | none => none
  | some ty =>
    match (w.extractLsb' 0 8).toNat with
    | 0 => pt allScopes (fTy ty) (.frcp (hdOf w m (fAcc 1) (w.extractLsb' 22 9 != 0#9 || w.extractLsb' 13 9 != 0#9)) ty (Opnd.dec (fD w)) (Opnd.dec (fA w)))
    | 1 => pt allScopes (fTy ty) (.fsqrt (hdOf w m (fAcc 1) (w.extractLsb' 22 9 != 0#9 || w.extractLsb' 13 9 != 0#9)) ty (Opnd.dec (fD w)) (Opnd.dec (fA w)))
    | 2 => pt allScopes (fTy ty) (.frsqrt (hdOf w m (fAcc 1) (w.extractLsb' 22 9 != 0#9 || w.extractLsb' 13 9 != 0#9)) ty (Opnd.dec (fD w)) (Opnd.dec (fA w)))
    | 3 => pt allScopes (fTy ty) (.fexp2 (hdOf w m (fAcc 1) (w.extractLsb' 22 9 != 0#9 || w.extractLsb' 13 9 != 0#9)) ty (Opnd.dec (fD w)) (Opnd.dec (fA w)))
    | 4 => pt allScopes (fTy ty) (.flog2 (hdOf w m (fAcc 1) (w.extractLsb' 22 9 != 0#9 || w.extractLsb' 13 9 != 0#9)) ty (Opnd.dec (fD w)) (Opnd.dec (fA w)))
    | 5 => pt allScopes (fTy ty) (.fclass (hdOf w m noAcc (w.extractLsb' 22 9 != 0#9 || w.extractLsb' 13 9 != 0#9)) ty (Opnd.dec (fD w)) (Opnd.dec (fA w)))
    | 6 => pt allScopes (fTy ty) (.frint (hdOf w m frintAcc (w.extractLsb' 22 9 != 0#9 || w.extractLsb' 13 9 != 0#9)) ty (Opnd.dec (fD w)) (Opnd.dec (fA w)))
    | 7 => pt allScopes (fTy ty) (.fdiv (hdOf w m (fAcc 2) (w.extractLsb' 13 9 != 0#9)) ty (Opnd.dec (fD w)) (Opnd.dec (fA w)) (Opnd.dec (fB w)))
    | _ => none

/-- Major 0x13 (R244). -/
def decFpack (w m : DWord) : Option Point :=
  match Ty.dec (w.extractLsb' 8 5) with
  | none => none
  | some ty =>
    match (w.extractLsb' 0 8).toNat with
    | 0 => pt allScopes (fpackTy ty) (.fadd2 (hdOf w m (fAcc 2) (w.extractLsb' 13 9 != 0#9)) ty (Opnd.dec (fD w)) (Opnd.dec (fA w)) (Opnd.dec (fB w)))
    | 1 => pt allScopes (fpackTy ty) (.fsub2 (hdOf w m (fAcc 2) (w.extractLsb' 13 9 != 0#9)) ty (Opnd.dec (fD w)) (Opnd.dec (fA w)) (Opnd.dec (fB w)))
    | 2 => pt allScopes (fpackTy ty) (.fmul2 (hdOf w m (fAcc 2) (w.extractLsb' 13 9 != 0#9)) ty (Opnd.dec (fD w)) (Opnd.dec (fA w)) (Opnd.dec (fB w)))
    | 3 => pt allScopes (fpackTy ty) (.fma2 (hdOf w m (fAcc 3) (false)) ty (Opnd.dec (fD w)) (Opnd.dec (fA w)) (Opnd.dec (fB w)) (Opnd.dec (fC w)))
    | 4 => pt allScopes (fpackTy ty) (.fmin2 (hdOf w m (absAcc 2) (w.extractLsb' 13 9 != 0#9)) ty (Opnd.dec (fD w)) (Opnd.dec (fA w)) (Opnd.dec (fB w)))
    | 5 => pt allScopes (fpackTy ty) (.fmax2 (hdOf w m (absAcc 2) (w.extractLsb' 13 9 != 0#9)) ty (Opnd.dec (fD w)) (Opnd.dec (fA w)) (Opnd.dec (fB w)))
    | _ => none

/-- Major 0x14 (R244). -/
def decCvt (w m : DWord) : Option Point :=
  match Ty.dec (w.extractLsb' 8 5), Ty.dec (w.extractLsb' 0 5) with
  | some ty, some src =>
    if w.extractLsb' 5 3 = 0#3 then
      pt allScopes (cvtTgtTy ty && cvtSrcTy src)
        (.cvt (hdOf w m (cvtAcc ty src) ((src != .q4 && (fB w != 0#9 || fC w != 0#9)))) ty src (Opnd.dec (fD w)) (Opnd.dec (fA w)) (Opnd.dec (fB w)) (Opnd.dec (fC w)))
    else none
  | _, _ => none

/-- Major 0x15 (R244). -/
def decCvtef (w m : DWord) : Option Point :=
  match Ty.dec (w.extractLsb' 8 5) with
  | none => none
  | some ty =>
    match (w.extractLsb' 0 8).toNat with
    | 0 => pt lstScopes (cvtefTy ty) (.cvtef (hdOf w m partAcc ((ty != .q4 && (fB w != 0#9 || fC w != 0#9)))) ty (Opnd.dec (fD w)) (Opnd.dec (fA w)) (Opnd.dec (fB w)) (Opnd.dec (fC w)))
    | 1 => pt lstScopes (cvtefTy ty) (.cvtefX2 (hdOf w m partAcc ((ty != .q4 && (fB w != 0#9 || fC w != 0#9)))) ty (Opnd.dec (fD w)) (Opnd.dec (fA w)) (Opnd.dec (fB w)) (Opnd.dec (fC w)))
    | _ => none

/-- Major 0x20 (R244). -/
def decLd (w m : DWord) : Option Point :=
  match Ty.dec (w.extractLsb' 0 5) with
  | some ty => pt allScopes (memTy ty) (.ld (hdOf w m noAcc (fSpace w > 4#3 || (!w.getLsbD 7 && w.extractLsb' 5 2 != 0#2))) ty (Opnd.dec (fD w)) (Opnd.dec (fA w)) (fImm w) (Space.dec (fSpace w)) (w.getLsbD 7) (MScope.dec (w.extractLsb' 5 2)))
  | none => none

/-- Major 0x21 (R244). -/
def decSt (w m : DWord) : Option Point :=
  match Ty.dec (w.extractLsb' 0 5) with
  | some ty => pt allScopes (memTy ty) (.st (hdOf w m noAcc (fSpace w > 4#3 || (!w.getLsbD 7 && w.extractLsb' 5 2 != 0#2))) ty (Opnd.dec (fD w)) (Opnd.dec (fA w)) (fImm w) (Space.dec (fSpace w)) (w.getLsbD 7) (MScope.dec (w.extractLsb' 5 2)))
  | none => none

/-- Major 0x22 (R244). -/
def decLdnf (w m : DWord) : Option Point :=
  match Ty.dec (w.extractLsb' 8 5) with
  | none => none
  | some ty =>
    match (w.extractLsb' 0 8).toNat with
    | 0 => pt allScopes (memTy ty) (.ldnf (hdOf w m noAcc (w.extractLsb' 22 9 != 0#9)) ty (Opnd.dec (fD w)) (Opnd.dec (fA w)) (Opnd.dec (fC w)))
    | _ => none

/-- Major 0x23 (R244). -/
def decAtom (w m : DWord) : Option Point :=
  match Ty.dec (w.extractLsb' 8 5) with
  | none => none
  | some ty =>
    match (w.extractLsb' 0 5).toNat with
    | 0 => pt allScopes (atmIntTy ty) (.atmAdd (hdOf w m noAcc (w.extractLsb' 13 9 != 0#9)) ty (Opnd.dec (fD w)) (Opnd.dec (fA w)) (Opnd.dec (fB w)) (w.getLsbD 7) (MScope.dec (w.extractLsb' 5 2)))
    | 1 => pt allScopes (atmIntTy ty) (.atmSub (hdOf w m noAcc (w.extractLsb' 13 9 != 0#9)) ty (Opnd.dec (fD w)) (Opnd.dec (fA w)) (Opnd.dec (fB w)) (w.getLsbD 7) (MScope.dec (w.extractLsb' 5 2)))
    | 2 => pt allScopes (atmIntTy ty) (.atmMin (hdOf w m noAcc (w.extractLsb' 13 9 != 0#9)) ty (Opnd.dec (fD w)) (Opnd.dec (fA w)) (Opnd.dec (fB w)) (w.getLsbD 7) (MScope.dec (w.extractLsb' 5 2)))
    | 3 => pt allScopes (atmIntTy ty) (.atmMax (hdOf w m noAcc (w.extractLsb' 13 9 != 0#9)) ty (Opnd.dec (fD w)) (Opnd.dec (fA w)) (Opnd.dec (fB w)) (w.getLsbD 7) (MScope.dec (w.extractLsb' 5 2)))
    | 4 => pt allScopes (xbitTy ty) (.atmAnd (hdOf w m noAcc (w.extractLsb' 13 9 != 0#9)) ty (Opnd.dec (fD w)) (Opnd.dec (fA w)) (Opnd.dec (fB w)) (w.getLsbD 7) (MScope.dec (w.extractLsb' 5 2)))
    | 5 => pt allScopes (xbitTy ty) (.atmOr (hdOf w m noAcc (w.extractLsb' 13 9 != 0#9)) ty (Opnd.dec (fD w)) (Opnd.dec (fA w)) (Opnd.dec (fB w)) (w.getLsbD 7) (MScope.dec (w.extractLsb' 5 2)))
    | 6 => pt allScopes (xbitTy ty) (.atmXor (hdOf w m noAcc (w.extractLsb' 13 9 != 0#9)) ty (Opnd.dec (fD w)) (Opnd.dec (fA w)) (Opnd.dec (fB w)) (w.getLsbD 7) (MScope.dec (w.extractLsb' 5 2)))
    | 7 => pt allScopes (atmExchTy ty) (.atmExch (hdOf w m noAcc (w.extractLsb' 13 9 != 0#9)) ty (Opnd.dec (fD w)) (Opnd.dec (fA w)) (Opnd.dec (fB w)) (w.getLsbD 7) (MScope.dec (w.extractLsb' 5 2)))
    | 8 => pt allScopes (atmExchTy ty) (.atmCas (hdOf w m noAcc (false)) ty (Opnd.dec (fD w)) (Opnd.dec (fA w)) (Opnd.dec (fB w)) (Opnd.dec (fC w)) (w.getLsbD 7) (MScope.dec (w.extractLsb' 5 2)))
    | 9 => pt allScopes (atmIncTy ty) (.atmInc (hdOf w m noAcc (w.extractLsb' 13 9 != 0#9)) ty (Opnd.dec (fD w)) (Opnd.dec (fA w)) (Opnd.dec (fB w)) (w.getLsbD 7) (MScope.dec (w.extractLsb' 5 2)))
    | 10 => pt allScopes (atmIncTy ty) (.atmDec (hdOf w m noAcc (w.extractLsb' 13 9 != 0#9)) ty (Opnd.dec (fD w)) (Opnd.dec (fA w)) (Opnd.dec (fB w)) (w.getLsbD 7) (MScope.dec (w.extractLsb' 5 2)))
    | 11 => pt allScopes (fTy ty) (.atmFadd (hdOf w m noAcc (w.extractLsb' 13 9 != 0#9)) ty (Opnd.dec (fD w)) (Opnd.dec (fA w)) (Opnd.dec (fB w)) (w.getLsbD 7) (MScope.dec (w.extractLsb' 5 2)))
    | _ => none

/-- Major 0x24 (R244). -/
def decRed (w m : DWord) : Option Point :=
  match Ty.dec (w.extractLsb' 8 5) with
  | none => none
  | some ty =>
    match (w.extractLsb' 0 5).toNat with
    | 0 => pt allScopes (atmIntTy ty) (.redAdd (hdOf w m noAcc (w.extractLsb' 40 9 != 0#9 || w.extractLsb' 13 9 != 0#9)) ty (Opnd.dec (fA w)) (Opnd.dec (fB w)) (w.getLsbD 7) (MScope.dec (w.extractLsb' 5 2)))
    | 1 => pt allScopes (atmIntTy ty) (.redSub (hdOf w m noAcc (w.extractLsb' 40 9 != 0#9 || w.extractLsb' 13 9 != 0#9)) ty (Opnd.dec (fA w)) (Opnd.dec (fB w)) (w.getLsbD 7) (MScope.dec (w.extractLsb' 5 2)))
    | 2 => pt allScopes (atmIntTy ty) (.redMin (hdOf w m noAcc (w.extractLsb' 40 9 != 0#9 || w.extractLsb' 13 9 != 0#9)) ty (Opnd.dec (fA w)) (Opnd.dec (fB w)) (w.getLsbD 7) (MScope.dec (w.extractLsb' 5 2)))
    | 3 => pt allScopes (atmIntTy ty) (.redMax (hdOf w m noAcc (w.extractLsb' 40 9 != 0#9 || w.extractLsb' 13 9 != 0#9)) ty (Opnd.dec (fA w)) (Opnd.dec (fB w)) (w.getLsbD 7) (MScope.dec (w.extractLsb' 5 2)))
    | 4 => pt allScopes (xbitTy ty) (.redAnd (hdOf w m noAcc (w.extractLsb' 40 9 != 0#9 || w.extractLsb' 13 9 != 0#9)) ty (Opnd.dec (fA w)) (Opnd.dec (fB w)) (w.getLsbD 7) (MScope.dec (w.extractLsb' 5 2)))
    | 5 => pt allScopes (xbitTy ty) (.redOr (hdOf w m noAcc (w.extractLsb' 40 9 != 0#9 || w.extractLsb' 13 9 != 0#9)) ty (Opnd.dec (fA w)) (Opnd.dec (fB w)) (w.getLsbD 7) (MScope.dec (w.extractLsb' 5 2)))
    | 6 => pt allScopes (xbitTy ty) (.redXor (hdOf w m noAcc (w.extractLsb' 40 9 != 0#9 || w.extractLsb' 13 9 != 0#9)) ty (Opnd.dec (fA w)) (Opnd.dec (fB w)) (w.getLsbD 7) (MScope.dec (w.extractLsb' 5 2)))
    | 9 => pt allScopes (atmIncTy ty) (.redInc (hdOf w m noAcc (w.extractLsb' 40 9 != 0#9 || w.extractLsb' 13 9 != 0#9)) ty (Opnd.dec (fA w)) (Opnd.dec (fB w)) (w.getLsbD 7) (MScope.dec (w.extractLsb' 5 2)))
    | 10 => pt allScopes (atmIncTy ty) (.redDec (hdOf w m noAcc (w.extractLsb' 40 9 != 0#9 || w.extractLsb' 13 9 != 0#9)) ty (Opnd.dec (fA w)) (Opnd.dec (fB w)) (w.getLsbD 7) (MScope.dec (w.extractLsb' 5 2)))
    | 11 => pt allScopes (fTy ty) (.redFadd (hdOf w m noAcc (w.extractLsb' 40 9 != 0#9 || w.extractLsb' 13 9 != 0#9)) ty (Opnd.dec (fA w)) (Opnd.dec (fB w)) (w.getLsbD 7) (MScope.dec (w.extractLsb' 5 2)))
    | _ => none

/-- Major 0x25 (R244). -/
def decFence (w m : DWord) : Option Point :=
  match (w.extractLsb' 0 5).toNat with
  | 0 => pt gScope true (.fence (hdOf w m noAcc (w.extractLsb' 40 9 != 0#9 || w.extractLsb' 31 9 != 0#9 || w.extractLsb' 11 20 != 0#20 || w.extractLsb' 8 3 != 0#3 || w.getLsbD 7)) (MScope.dec (w.extractLsb' 5 2)))
  | 1 => pt gScope true (.acq (hdOf w m noAcc (w.extractLsb' 40 9 != 0#9 || w.extractLsb' 31 9 != 0#9 || w.extractLsb' 11 20 != 0#20 || w.extractLsb' 8 3 != 0#3 || w.getLsbD 7)) (MScope.dec (w.extractLsb' 5 2)))
  | 2 => pt gScope true (.rel (hdOf w m noAcc (w.extractLsb' 40 9 != 0#9 || w.extractLsb' 31 9 != 0#9 || w.extractLsb' 11 20 != 0#20 || w.extractLsb' 8 3 != 0#3 || w.getLsbD 7)) (MScope.dec (w.extractLsb' 5 2)))
  | 3 => pt gScope true (.invr (hdOf w m noAcc (w.extractLsb' 11 20 != 0#20 || w.extractLsb' 8 3 != 0#3 || w.getLsbD 7)) (Opnd.dec (fD w)) (Opnd.dec (fA w)) (MScope.dec (w.extractLsb' 5 2)))
  | 4 => pt gScope true (.wbr (hdOf w m noAcc (w.extractLsb' 11 20 != 0#20 || w.extractLsb' 8 3 != 0#3 || w.getLsbD 7)) (Opnd.dec (fD w)) (Opnd.dec (fA w)) (MScope.dec (w.extractLsb' 5 2)))
  | _ => none

/-- Major 0x26 (R244). -/
def decPgreq (w m : DWord) : Option Point :=
  match (w.extractLsb' 0 5).toNat with
  | 0 => pt gScope true (.pgreq (hdOf w m noAcc (w.extractLsb' 40 9 != 0#9 || w.extractLsb' 5 3 != 0#3 || fSpace w > 1#3)) (Opnd.dec (fA w)) (fImm w) (Space.dec (fSpace w)))
  | _ => none

/-- Major 0x30 (R244). -/
def decGld (w m : DWord) : Option Point :=
  pt lgScopes true (.gld (hdOf w m noAcc (w.extractLsb' 22 9 != 0#9)) (Opnd.dec (fD w)) (Opnd.dec (fA w)) (fSite w) (w.extractLsb' 0 9))

/-- Major 0x31 (R244). -/
def decGst (w m : DWord) : Option Point :=
  pt lgScopes true (.gst (hdOf w m noAcc (w.extractLsb' 40 9 != 0#9)) (Opnd.dec (fA w)) (Opnd.dec (fB w)) (fSite w) (w.extractLsb' 0 9))

/-- Major 0x32 (R244). -/
def decGatm (w m : DWord) : Option Point :=
  match (w.extractLsb' 0 6).toNat with
  | 0 => pt lgScopes true (.gatmAdd (hdOf w m noAcc (false)) (Opnd.dec (fD w)) (Opnd.dec (fA w)) (Opnd.dec (fB w)) (fSite w) (w.getLsbD 8) (MScope.dec (w.extractLsb' 6 2)))
  | 1 => pt lgScopes true (.gatmSub (hdOf w m noAcc (false)) (Opnd.dec (fD w)) (Opnd.dec (fA w)) (Opnd.dec (fB w)) (fSite w) (w.getLsbD 8) (MScope.dec (w.extractLsb' 6 2)))
  | 2 => pt lgScopes true (.gatmMin (hdOf w m noAcc (false)) (Opnd.dec (fD w)) (Opnd.dec (fA w)) (Opnd.dec (fB w)) (fSite w) (w.getLsbD 8) (MScope.dec (w.extractLsb' 6 2)))
  | 3 => pt lgScopes true (.gatmMax (hdOf w m noAcc (false)) (Opnd.dec (fD w)) (Opnd.dec (fA w)) (Opnd.dec (fB w)) (fSite w) (w.getLsbD 8) (MScope.dec (w.extractLsb' 6 2)))
  | 4 => pt lgScopes true (.gatmAnd (hdOf w m noAcc (false)) (Opnd.dec (fD w)) (Opnd.dec (fA w)) (Opnd.dec (fB w)) (fSite w) (w.getLsbD 8) (MScope.dec (w.extractLsb' 6 2)))
  | 5 => pt lgScopes true (.gatmOr (hdOf w m noAcc (false)) (Opnd.dec (fD w)) (Opnd.dec (fA w)) (Opnd.dec (fB w)) (fSite w) (w.getLsbD 8) (MScope.dec (w.extractLsb' 6 2)))
  | 6 => pt lgScopes true (.gatmXor (hdOf w m noAcc (false)) (Opnd.dec (fD w)) (Opnd.dec (fA w)) (Opnd.dec (fB w)) (fSite w) (w.getLsbD 8) (MScope.dec (w.extractLsb' 6 2)))
  | 7 => pt lgScopes true (.gatmExch (hdOf w m noAcc (false)) (Opnd.dec (fD w)) (Opnd.dec (fA w)) (Opnd.dec (fB w)) (fSite w) (w.getLsbD 8) (MScope.dec (w.extractLsb' 6 2)))
  | _ => none

/-- Major 0x33 (R244). -/
def decGadd (w m : DWord) : Option Point :=
  if w.extractLsb' 0 9 = 0#9 then pt lgScopes true (.gadd (hdOf w m noAcc (false)) (Opnd.dec (fD w)) (Opnd.dec (fA w)) (Opnd.dec (fB w)) (fSite w))
  else none

/-- Major 0x34 (R244). -/
def decGsub (w m : DWord) : Option Point :=
  if w.extractLsb' 0 9 = 0#9 then pt lgScopes true (.gsub (hdOf w m noAcc (false)) (Opnd.dec (fD w)) (Opnd.dec (fA w)) (Opnd.dec (fB w)) (fSite w))
  else none

/-- Major 0x35 (R244). -/
def decGmul (w m : DWord) : Option Point :=
  if w.extractLsb' 0 9 = 0#9 then pt lgScopes true (.gmul (hdOf w m noAcc (false)) (Opnd.dec (fD w)) (Opnd.dec (fA w)) (Opnd.dec (fB w)) (fSite w))
  else none

/-- Major 0x36 (R244). -/
def decGfma (w m : DWord) : Option Point :=
  if w.extractLsb' 0 9 = 0#9 then pt lgScopes true (.gfma (hdOf w m noAcc (false)) (Opnd.dec (fD w)) (Opnd.dec (fA w)) (Opnd.dec (fB w)) (fSite w))
  else none

/-- Major 0x37 (R244). -/
def decGmin (w m : DWord) : Option Point :=
  if w.extractLsb' 0 9 = 0#9 then pt lgScopes true (.gmin (hdOf w m noAcc (false)) (Opnd.dec (fD w)) (Opnd.dec (fA w)) (Opnd.dec (fB w)) (fSite w))
  else none

/-- Major 0x38 (R244). -/
def decGmax (w m : DWord) : Option Point :=
  if w.extractLsb' 0 9 = 0#9 then pt lgScopes true (.gmax (hdOf w m noAcc (false)) (Opnd.dec (fD w)) (Opnd.dec (fA w)) (Opnd.dec (fB w)) (fSite w))
  else none

/-- Major 0x39 (R244). -/
def decGset (w m : DWord) : Option Point :=
  match Cond.dec (w.extractLsb' 0 9) with
  | some cc => pt lgScopes true (.gset (hdOf w m noAcc (false)) (Opnd.dec (fD w)) (Opnd.dec (fA w)) (Opnd.dec (fB w)) (fSite w) cc)
  | none => none

/-- Major 0x3A (R244). -/
def decGcvt (w m : DWord) : Option Point :=
  match Ty.dec (w.extractLsb' 0 5) with
  | some ty => if w.extractLsb' 5 4 = 0#4 then pt lgScopes (gcvtTy ty) (.gcvt (hdOf w m noAcc (w.extractLsb' 22 9 != 0#9)) (Opnd.dec (fD w)) (Opnd.dec (fA w)) (fSite w) ty) else none
  | none => none

/-- Major 0x40 (R244). -/
def decStage (w m : DWord) : Option Point :=
  match (w.extractLsb' 0 5).toNat with
  | 0 => pt gScope true (.stage (hdOf w m noAcc (w.extractLsb' 40 9 != 0#9 || w.extractLsb' 22 9 != 0#9 || w.extractLsb' 12 2 != 0#2 || w.extractLsb' 5 7 != 0#7)) (Opnd.dec (fA w)) (w.extractLsb' 14 8))
  | _ => none

/-- Major 0x41 (R244). -/
def decCpy (w m : DWord) : Option Point :=
  match (w.extractLsb' 0 5).toNat with
  | 0 => pt gScope true (.cpy (hdOf w m noAcc (w.extractLsb' 18 4 != 0#4 || w.extractLsb' 14 4 != 0#4 || w.extractLsb' 12 2 != 0#2 || w.extractLsb' 5 7 != 0#7)) (Opnd.dec (fD w)) (Opnd.dec (fA w)) (Opnd.dec (fB w)))
  | 1 => pt gScope true (.cpyBar (hdOf w m noAcc (w.extractLsb' 18 4 != 0#4 || w.extractLsb' 14 4 != 0#4 || w.extractLsb' 12 2 != 0#2)) (Opnd.dec (fD w)) (Opnd.dec (fA w)) (Opnd.dec (fB w)) (fBar w))
  | _ => none

/-- Major 0x42 (R244). -/
def decCpyl (w m : DWord) : Option Point :=
  match (w.extractLsb' 0 5).toNat with
  | 0 => pt lScope true (.cpyl4 (hdOf w m noAcc (w.extractLsb' 22 9 != 0#9 || w.extractLsb' 18 4 != 0#4 || w.extractLsb' 14 4 != 0#4 || w.extractLsb' 12 2 != 0#2 || w.extractLsb' 5 7 != 0#7)) (Opnd.dec (fD w)) (Opnd.dec (fA w)))
  | 1 => pt lScope true (.cpyl8 (hdOf w m noAcc (w.extractLsb' 22 9 != 0#9 || w.extractLsb' 18 4 != 0#4 || w.extractLsb' 14 4 != 0#4 || w.extractLsb' 12 2 != 0#2 || w.extractLsb' 5 7 != 0#7)) (Opnd.dec (fD w)) (Opnd.dec (fA w)))
  | 2 => pt lScope true (.cpyl16 (hdOf w m noAcc (w.extractLsb' 22 9 != 0#9 || w.extractLsb' 18 4 != 0#4 || w.extractLsb' 14 4 != 0#4 || w.extractLsb' 12 2 != 0#2 || w.extractLsb' 5 7 != 0#7)) (Opnd.dec (fD w)) (Opnd.dec (fA w)))
  | _ => none

/-- Major 0x43 (R244). -/
def decBatch (w m : DWord) : Option Point :=
  match (w.extractLsb' 0 5).toNat with
  | 0 => pt gScope true (.seal (hdOf w m noAcc (w.extractLsb' 31 9 != 0#9 || w.extractLsb' 22 9 != 0#9 || w.extractLsb' 18 4 != 0#4 || w.extractLsb' 14 4 != 0#4 || w.extractLsb' 12 2 != 0#2 || w.extractLsb' 5 7 != 0#7)) (Opnd.dec (fD w)))
  | 1 => pt gScope true (.waitb (hdOf w m noAcc (w.extractLsb' 40 9 != 0#9 || w.extractLsb' 22 9 != 0#9 || w.extractLsb' 18 4 != 0#4 || w.extractLsb' 14 4 != 0#4 || w.extractLsb' 12 2 != 0#2 || w.extractLsb' 5 7 != 0#7)) (Opnd.dec (fA w)))
  | _ => none

/-- Major 0x44 (R244). -/
def decBulk (w m : DWord) : Option Point :=
  match (w.extractLsb' 0 5).toNat with
  | 0 => pt tScope true (.bulkLd (hdOf w m noAcc (w.extractLsb' 40 9 != 0#9 || w.extractLsb' 31 9 != 0#9 || w.extractLsb' 22 9 != 0#9 || w.extractLsb' 14 4 != 0#4 || w.extractLsb' 12 2 != 0#2 || w.extractLsb' 5 7 != 0#7)) (fHA w))
  | 1 => pt tScope true (.bulkSt (hdOf w m noAcc (w.extractLsb' 40 9 != 0#9 || w.extractLsb' 31 9 != 0#9 || w.extractLsb' 22 9 != 0#9 || w.extractLsb' 14 4 != 0#4 || w.extractLsb' 12 2 != 0#2 || w.extractLsb' 5 7 != 0#7)) (fHA w))
  | 2 => pt tScope true (.bulkLdBar (hdOf w m noAcc (w.extractLsb' 40 9 != 0#9 || w.extractLsb' 31 9 != 0#9 || w.extractLsb' 22 9 != 0#9 || w.extractLsb' 14 4 != 0#4 || w.extractLsb' 12 2 != 0#2)) (fHA w) (fBar w))
  | 3 => pt tScope true (.bulkStBar (hdOf w m noAcc (w.extractLsb' 40 9 != 0#9 || w.extractLsb' 31 9 != 0#9 || w.extractLsb' 22 9 != 0#9 || w.extractLsb' 14 4 != 0#4 || w.extractLsb' 12 2 != 0#2)) (fHA w) (fBar w))
  | _ => none

/-- Major 0x45 (R244). -/
def decCmap (w m : DWord) : Option Point :=
  match (w.extractLsb' 0 5).toNat with
  | 0 => pt gScope true (.waitm (hdOf w m noAcc (w.extractLsb' 40 9 != 0#9 || w.extractLsb' 22 9 != 0#9 || w.extractLsb' 14 4 != 0#4 || w.extractLsb' 12 2 != 0#2 || w.extractLsb' 5 7 != 0#7)) (fHA w) (Opnd.dec (fA w)))
  | 1 => pt lScope true (.testm (hdOf w m noAcc (w.extractLsb' 22 9 != 0#9 || w.extractLsb' 14 4 != 0#4 || w.extractLsb' 12 2 != 0#2 || w.extractLsb' 5 7 != 0#7)) (Opnd.dec (fD w)) (fHA w) (Opnd.dec (fA w)))
  | _ => none

/-- Major 0x46 (R244). -/
def decMcast (w m : DWord) : Option Point :=
  match (w.extractLsb' 0 5).toNat with
  | 0 => pt gScope true (.mcast (hdOf w m noAcc (w.extractLsb' 18 4 != 0#4 || w.extractLsb' 14 4 != 0#4 || w.extractLsb' 12 2 != 0#2 || w.extractLsb' 5 7 != 0#7)) (Opnd.dec (fD w)) (Opnd.dec (fA w)) (Opnd.dec (fB w)))
  | 1 => pt gScope true (.mcastBar (hdOf w m noAcc (w.extractLsb' 18 4 != 0#4 || w.extractLsb' 14 4 != 0#4 || w.extractLsb' 12 2 != 0#2)) (Opnd.dec (fD w)) (Opnd.dec (fA w)) (Opnd.dec (fB w)) (fBar w))
  | _ => none

/-- Major 0x47 (R244). -/
def decRow (w m : DWord) : Option Point :=
  match (w.extractLsb' 0 5).toNat with
  | 0 => pt gScope true (.rowcpy (hdOf w m noAcc (w.extractLsb' 22 9 != 0#9 || w.extractLsb' 18 4 != 0#4 || w.extractLsb' 14 4 != 0#4 || w.extractLsb' 12 2 != 0#2 || w.extractLsb' 5 7 != 0#7)) (Opnd.dec (fD w)) (Opnd.dec (fA w)))
  | 1 => pt gScope true (.rowfill (hdOf w m noAcc (w.extractLsb' 22 9 != 0#9 || w.extractLsb' 18 4 != 0#4 || w.extractLsb' 14 4 != 0#4 || w.extractLsb' 12 2 != 0#2 || w.extractLsb' 5 7 != 0#7)) (Opnd.dec (fD w)) (Opnd.dec (fA w)))
  | 2 => pt gScope true (.rowand (hdOf w m noAcc (w.extractLsb' 18 4 != 0#4 || w.extractLsb' 14 4 != 0#4 || w.extractLsb' 12 2 != 0#2 || w.extractLsb' 5 7 != 0#7)) (Opnd.dec (fD w)) (Opnd.dec (fA w)) (Opnd.dec (fB w)))
  | 3 => pt gScope true (.rowor (hdOf w m noAcc (w.extractLsb' 18 4 != 0#4 || w.extractLsb' 14 4 != 0#4 || w.extractLsb' 12 2 != 0#2 || w.extractLsb' 5 7 != 0#7)) (Opnd.dec (fD w)) (Opnd.dec (fA w)) (Opnd.dec (fB w)))
  | 4 => pt gScope true (.rowxor (hdOf w m noAcc (w.extractLsb' 18 4 != 0#4 || w.extractLsb' 14 4 != 0#4 || w.extractLsb' 12 2 != 0#2 || w.extractLsb' 5 7 != 0#7)) (Opnd.dec (fD w)) (Opnd.dec (fA w)) (Opnd.dec (fB w)))
  | 5 => pt gScope true (.rownot (hdOf w m noAcc (w.extractLsb' 22 9 != 0#9 || w.extractLsb' 18 4 != 0#4 || w.extractLsb' 14 4 != 0#4 || w.extractLsb' 12 2 != 0#2 || w.extractLsb' 5 7 != 0#7)) (Opnd.dec (fD w)) (Opnd.dec (fA w)))
  | 6 => pt gScope true (.rowmate (hdOf w m noAcc (w.extractLsb' 22 9 != 0#9 || w.extractLsb' 18 4 != 0#4 || w.extractLsb' 14 4 != 0#4 || w.extractLsb' 12 2 != 0#2 || w.extractLsb' 5 7 != 0#7)) (Opnd.dec (fD w)) (Opnd.dec (fA w)))
  | _ => none

/-- Major 0x48 (R244). -/
def decBar (w m : DWord) : Option Point :=
  match (w.extractLsb' 0 5).toNat with
  | 0 | 8 => pt gScope true (.barArrive (hdOf w m noAcc (w.extractLsb' 40 9 != 0#9 || w.extractLsb' 31 9 != 0#9 || w.extractLsb' 22 9 != 0#9 || w.extractLsb' 18 4 != 0#4 || w.extractLsb' 14 4 != 0#4 || (!w.getLsbD 3 && fTile w != 0#2))) (fBar w) (if w.getLsbD 3 then some (MScope.dec (fTile w)) else none))
  | 1 | 9 => pt gScope true (.barWait (hdOf w m noAcc (w.extractLsb' 40 9 != 0#9 || w.extractLsb' 31 9 != 0#9 || w.extractLsb' 22 9 != 0#9 || w.extractLsb' 18 4 != 0#4 || w.extractLsb' 14 4 != 0#4 || (!w.getLsbD 3 && fTile w != 0#2))) (fBar w) (if w.getLsbD 3 then some (MScope.dec (fTile w)) else none))
  | 2 | 10 => pt gScope true (.barSync (hdOf w m noAcc (w.extractLsb' 40 9 != 0#9 || w.extractLsb' 31 9 != 0#9 || w.extractLsb' 22 9 != 0#9 || w.extractLsb' 18 4 != 0#4 || w.extractLsb' 14 4 != 0#4 || (!w.getLsbD 3 && fTile w != 0#2))) (fBar w) (if w.getLsbD 3 then some (MScope.dec (fTile w)) else none))
  | 3 => pt gScope true (.barExpect (hdOf w m noAcc (w.extractLsb' 40 9 != 0#9 || w.extractLsb' 22 9 != 0#9 || w.extractLsb' 18 4 != 0#4 || w.extractLsb' 14 4 != 0#4 || w.extractLsb' 12 2 != 0#2)) (fBar w) (Opnd.dec (fA w)))
  | 4 => pt gScope true (.barInit (hdOf w m noAcc (w.extractLsb' 40 9 != 0#9 || w.extractLsb' 22 9 != 0#9 || w.extractLsb' 18 4 != 0#4 || w.extractLsb' 14 4 != 0#4 || w.extractLsb' 12 2 != 0#2)) (fBar w) (Opnd.dec (fA w)))
  | _ => none

/-- Major 0x49 (R244). -/
def decSetdecl (w m : DWord) : Option Point :=
  match (w.extractLsb' 0 5).toNat with
  | 0 => pt tScope true (.setdecl (hdOf w m noAcc (w.extractLsb' 40 9 != 0#9 || w.extractLsb' 22 9 != 0#9 || w.extractLsb' 18 4 != 0#4 || w.extractLsb' 14 4 != 0#4 || w.extractLsb' 12 2 != 0#2 || w.extractLsb' 8 4 != 0#4)) (w.extractLsb' 5 3) (Opnd.dec (fA w)))
  | _ => none

/-- Major 0x4A (R244). -/
def decShape (w m : DWord) : Option Point :=
  match (w.extractLsb' 0 5).toNat with
  | 0 => pt gScope true (.shld (hdOf w m noAcc (w.extractLsb' 40 9 != 0#9 || w.extractLsb' 22 9 != 0#9 || w.extractLsb' 14 4 != 0#4 || w.extractLsb' 12 2 != 0#2 || w.extractLsb' 5 7 != 0#7)) (fHA w) (Opnd.dec (fA w)))
  | 1 => pt gScope true (.shst (hdOf w m noAcc (w.extractLsb' 40 9 != 0#9 || w.extractLsb' 22 9 != 0#9 || w.extractLsb' 14 4 != 0#4 || w.extractLsb' 12 2 != 0#2 || w.extractLsb' 5 7 != 0#7)) (fHA w) (Opnd.dec (fA w)))
  | 2 => pt gScope true (.shset (hdOf w m noAcc (w.extractLsb' 40 9 != 0#9 || w.extractLsb' 22 9 != 0#9 || w.extractLsb' 14 4 != 0#4 || w.extractLsb' 12 2 != 0#2 || w.extractLsb' 10 2 != 0#2)) (fHA w) (w.extractLsb' 5 5) (Opnd.dec (fA w)))
  | 3 => pt gScope true (.shget (hdOf w m noAcc (w.extractLsb' 31 9 != 0#9 || w.extractLsb' 22 9 != 0#9 || w.extractLsb' 14 4 != 0#4 || w.extractLsb' 12 2 != 0#2 || w.extractLsb' 10 2 != 0#2)) (Opnd.dec (fD w)) (fHA w) (w.extractLsb' 5 5))
  | _ => none

/-- Major 0x4B (R244). -/
def decMtile (w m : DWord) : Option Point :=
  match (w.extractLsb' 0 5).toNat with
  | 0 => pt gScope true (.macq (hdOf w m noAcc (w.extractLsb' 40 9 != 0#9 || w.extractLsb' 31 9 != 0#9 || w.extractLsb' 22 9 != 0#9 || w.extractLsb' 18 4 != 0#4 || w.extractLsb' 14 4 != 0#4 || w.extractLsb' 5 7 != 0#7)) (fTile w))
  | 1 => pt gScope true (.mrel (hdOf w m noAcc (w.extractLsb' 40 9 != 0#9 || w.extractLsb' 31 9 != 0#9 || w.extractLsb' 22 9 != 0#9 || w.extractLsb' 18 4 != 0#4 || w.extractLsb' 14 4 != 0#4 || w.extractLsb' 5 7 != 0#7)) (fTile w))
  | 2 => pt gScope true (.mzeroF32 (hdOf w m noAcc (w.extractLsb' 40 9 != 0#9 || w.extractLsb' 31 9 != 0#9 || w.extractLsb' 22 9 != 0#9 || w.extractLsb' 18 4 != 0#4 || w.extractLsb' 14 4 != 0#4 || w.extractLsb' 5 7 != 0#7)) (fTile w))
  | 3 => pt gScope true (.mzeroI32 (hdOf w m noAcc (w.extractLsb' 40 9 != 0#9 || w.extractLsb' 31 9 != 0#9 || w.extractLsb' 22 9 != 0#9 || w.extractLsb' 18 4 != 0#4 || w.extractLsb' 14 4 != 0#4 || w.extractLsb' 5 7 != 0#7)) (fTile w))
  | 4 => pt gScope true (.mzeroI32s (hdOf w m noAcc (w.extractLsb' 40 9 != 0#9 || w.extractLsb' 31 9 != 0#9 || w.extractLsb' 22 9 != 0#9 || w.extractLsb' 18 4 != 0#4 || w.extractLsb' 14 4 != 0#4 || w.extractLsb' 5 7 != 0#7)) (fTile w))
  | 5 => pt gScope true (.mwait (hdOf w m noAcc (w.extractLsb' 40 9 != 0#9 || w.extractLsb' 31 9 != 0#9 || w.extractLsb' 22 9 != 0#9 || w.extractLsb' 18 4 != 0#4 || w.extractLsb' 14 4 != 0#4 || w.extractLsb' 5 7 != 0#7)) (fTile w))
  | _ => none

/-- Major 0x4C (R244). -/
def decMloop (w m : DWord) : Option Point :=
  match (w.extractLsb' 0 5).toNat with
  | 0 => pt gScope true (.mloop (hdOf w m noAcc (w.extractLsb' 40 9 != 0#9 || w.extractLsb' 22 9 != 0#9 || w.extractLsb' 5 7 != 0#7)) (fTile w) (fHA w) (fHB w) (Opnd.dec (fA w)))
  | _ => none

/-- Major 0x4D (R244). -/
def decMdata (w m : DWord) : Option Point :=
  match (w.extractLsb' 0 5).toNat with
  | 0 => pt gScope true (.mldaSp (hdOf w m noAcc (w.extractLsb' 40 9 != 0#9 || w.extractLsb' 31 9 != 0#9 || w.extractLsb' 22 9 != 0#9 || w.extractLsb' 14 4 != 0#4 || w.extractLsb' 5 7 != 0#7)) (fTile w) (fHA w))
  | 1 => pt gScope true (.mldaReg (hdOf w m noAcc (w.extractLsb' 22 9 != 0#9 || w.extractLsb' 18 4 != 0#4 || w.extractLsb' 14 4 != 0#4 || w.extractLsb' 5 7 != 0#7)) (fTile w) (Opnd.dec (fD w)) (Opnd.dec (fA w)))
  | 2 => pt gScope true (.mdrainSp (hdOf w m histAcc (w.extractLsb' 40 9 != 0#9 || w.extractLsb' 31 9 != 0#9 || w.extractLsb' 22 9 != 0#9 || w.extractLsb' 14 4 != 0#4 || w.extractLsb' 5 7 != 0#7)) (fTile w) (fHA w))
  | 3 => pt gScope true (.mdrainReg (hdOf w m histAcc (w.extractLsb' 22 9 != 0#9 || w.extractLsb' 18 4 != 0#4 || w.extractLsb' 14 4 != 0#4 || w.extractLsb' 5 7 != 0#7)) (fTile w) (Opnd.dec (fD w)) (Opnd.dec (fA w)))
  | 4 => pt gScope true (.saccR (hdOf w m noAcc (w.extractLsb' 40 9 != 0#9 || w.extractLsb' 18 4 != 0#4 || w.extractLsb' 14 4 != 0#4 || w.extractLsb' 5 7 != 0#7)) (fTile w) (Opnd.dec (fA w)) (Opnd.dec (fB w)))
  | 5 => pt gScope true (.saccRc (hdOf w m noAcc (w.extractLsb' 18 4 != 0#4 || w.extractLsb' 14 4 != 0#4 || w.extractLsb' 5 7 != 0#7)) (fTile w) (Opnd.dec (fD w)) (Opnd.dec (fA w)) (Opnd.dec (fB w)))
  | _ => none

/-- Major 0x4E (R244). -/
def decPlane (w m : DWord) : Option Point :=
  match (w.extractLsb' 0 5).toNat with
  | 0 => pt gScope true (.plane (hdOf w m noAcc (w.extractLsb' 40 9 != 0#9 || w.extractLsb' 31 9 != 0#9 || w.extractLsb' 22 9 != 0#9 || w.extractLsb' 12 2 != 0#2 || w.extractLsb' 5 7 != 0#7)) (fHA w) (fHB w))
  | 1 => pt gScope true (.unplane (hdOf w m noAcc (w.extractLsb' 40 9 != 0#9 || w.extractLsb' 31 9 != 0#9 || w.extractLsb' 22 9 != 0#9 || w.extractLsb' 12 2 != 0#2 || w.extractLsb' 5 7 != 0#7)) (fHA w) (fHB w))
  | _ => none

/-- Major 0x4F (R244). -/
def decHist (w m : DWord) : Option Point :=
  match (w.extractLsb' 0 5).toNat with
  | 0 => pt gScope true (.hclr (hdOf w m noAcc (w.extractLsb' 40 9 != 0#9 || w.extractLsb' 22 9 != 0#9 || w.extractLsb' 18 4 != 0#4 || w.extractLsb' 14 4 != 0#4 || w.extractLsb' 12 2 != 0#2 || w.extractLsb' 8 4 != 0#4)) (w.extractLsb' 5 3) (Opnd.dec (fA w)))
  | 1 => pt gScope true (.hrd (hdOf w m noAcc (w.extractLsb' 22 9 != 0#9 || w.extractLsb' 18 4 != 0#4 || w.extractLsb' 14 4 != 0#4 || w.extractLsb' 12 2 != 0#2 || w.extractLsb' 8 4 != 0#4)) (Opnd.dec (fD w)) (w.extractLsb' 5 3) (Opnd.dec (fA w)))
  | _ => none

/-- Major 0x50 (R244). -/
def decLaunch (w m : DWord) : Option Point :=
  match (w.extractLsb' 0 6).toNat with
  | 0 => pt gScope true (.launch (hdOf w m noAcc (w.extractLsb' 40 9 != 0#9 || w.extractLsb' 23 8 != 0#8)) (Opnd.dec (fA w)) (fImm17 w))
  | _ => none

/-- Major 0x51 (R244). -/
def decSreg (w m : DWord) : Option Point :=
  match (w.extractLsb' 0 6).toNat with
  | 0 => pt lgScopes true (.sread (hdOf w m noAcc (w.extractLsb' 31 9 != 0#9 || w.extractLsb' 6 17 != 0#17)) (Opnd.dec (fD w)) (fSidx w))
  | 1 => pt lgScopes true (.swrite (hdOf w m noAcc (w.extractLsb' 40 9 != 0#9 || w.extractLsb' 6 17 != 0#17)) (fSidx w) (Opnd.dec (fA w)))
  | _ => none

/-- Major 0x52 (R244). -/
def decDbg (w m : DWord) : Option Point :=
  match (w.extractLsb' 0 6).toNat with
  | 0 => pt gScope true (.bkpt (hdOf w m noAcc (w.extractLsb' 40 9 != 0#9 || w.extractLsb' 31 9 != 0#9 || w.extractLsb' 23 8 != 0#8)) (fImm17 w))
  | 1 => pt gScope true (.mark (hdOf w m noAcc (w.extractLsb' 40 9 != 0#9 || w.extractLsb' 23 8 != 0#8)) (Opnd.dec (fA w)) (fImm17 w))
  | _ => none

/-- Major 0x53 (R244). -/
def decSiterst (w m : DWord) : Option Point :=
  match (w.extractLsb' 0 6).toNat with
  | 0 => pt gScope true (.siterst (hdOf w m noAcc (w.extractLsb' 23 8 != 0#8 || w.extractLsb' 6 17 != 0#17)) (Opnd.dec (fD w)) (Opnd.dec (fA w)))
  | _ => none

/-- The allocated point of a word (R243, R244); none is check 2 of R241. -/
def decodePoint (w m : DWord) : Option Point :=
  match (fMajor w).toNat with
  | 1 => decBr w m
  | 2 => decBrd w m
  | 3 => decFlow w m
  | 4 => decIarith w m
  | 5 => decIarithi w m
  | 6 => decLogic w m
  | 7 => decLogici w m
  | 8 => decIcmp w m
  | 9 => decIcmpi w m
  | 10 => decMove w m
  | 11 => decImm w m
  | 12 => decPk16 w m
  | 13 => decXlane w m
  | 14 => decMovx w m
  | 16 => decFarith w m
  | 17 => decFcmp w m
  | 18 => decFfunc w m
  | 19 => decFpack w m
  | 20 => decCvt w m
  | 21 => decCvtef w m
  | 32 => decLd w m
  | 33 => decSt w m
  | 34 => decLdnf w m
  | 35 => decAtom w m
  | 36 => decRed w m
  | 37 => decFence w m
  | 38 => decPgreq w m
  | 48 => decGld w m
  | 49 => decGst w m
  | 50 => decGatm w m
  | 51 => decGadd w m
  | 52 => decGsub w m
  | 53 => decGmul w m
  | 54 => decGfma w m
  | 55 => decGmin w m
  | 56 => decGmax w m
  | 57 => decGset w m
  | 58 => decGcvt w m
  | 64 => decStage w m
  | 65 => decCpy w m
  | 66 => decCpyl w m
  | 67 => decBatch w m
  | 68 => decBulk w m
  | 69 => decCmap w m
  | 70 => decMcast w m
  | 71 => decRow w m
  | 72 => decBar w m
  | 73 => decSetdecl w m
  | 74 => decShape w m
  | 75 => decMtile w m
  | 76 => decMloop w m
  | 77 => decMdata w m
  | 78 => decPlane w m
  | 79 => decHist w m
  | 80 => decLaunch w m
  | 81 => decSreg w m
  | 82 => decDbg w m
  | 83 => decSiterst w m
  | _ => none

/-- One instruction from its word and the word after it, which is read only where M is 1 (R226, R228, R241). -/
def decode (w m : DWord) : Except DecErr Instr :=
  match decodePoint w m with
  | none => .error .illegalOpcode
  | some (sc, i) =>
    if !(sc (Scope.dec (w.extractLsb' 61 2))) then .error .illegalScope
    else if fM w && m.extractLsb' 54 7 != 0x7F#7 then .error .badMark
    else .ok i

/-- A little-endian doubleword from eight bytes, the first at the lowest address (R12). -/
def dwordOfBytes (b : List Byte) : DWord :=
  BitVec.ofNat 64 ((b.take 8).foldr (fun x acc => x.toNat + 256 * acc) 0)

/-- The eight bytes of a doubleword, lowest address first (R12). -/
def bytesOfDword (w : DWord) : List Byte :=
  (List.range 8).map (fun i => w.extractLsb' (8 * i) 8)

/-- Decodes a list of bytes: the instruction and the bytes after it (R228); none where too few bytes are left. -/
def decodeBytes (b : List Byte) : Option (Except DecErr Instr × List Byte) :=
  if b.length < 8 then none
  else
    let w := dwordOfBytes b
    if fM w then
      if b.length < 16 then none else some (decode w (dwordOfBytes (b.drop 8)), b.drop 16)
    else some (decode w 0#64, b.drop 8)

/-! ## The encoder -/

/-- RRR (R229). -/
def rrr (d a b c : BitVec 9) (ty : BitVec 5) (sub : BitVec 8) : BitVec 49 := d ++ a ++ b ++ c ++ ty ++ sub
/-- RRI (R229). -/
def rri (d a : BitVec 9) (imm : BitVec 20) (ty : BitVec 5) (sub : BitVec 6) : BitVec 49 := d ++ a ++ imm ++ ty ++ sub
/-- MEM (R229). -/
def memf (d a : BitVec 9) (off : BitVec 20) (sp ms : BitVec 3) (sub : BitVec 5) : BitVec 49 :=
  d ++ a ++ off ++ sp ++ ms ++ sub
/-- GEN (R188, R229). -/
def genf (d a b : BitVec 9) (site : BitVec 13) (sub : BitVec 9) : BitVec 49 := d ++ a ++ b ++ site ++ sub
/-- BR (R229). -/
def brf (off : BitVec 32) (join16 : BitVec 16) (link : BitVec 1) : BitVec 49 := off ++ join16 ++ link
/-- ENG (R229). -/
def engf (d a b : BitVec 9) (ha hb : BitVec 4) (tile : BitVec 2) (bar : BitVec 7) (sub : BitVec 5) : BitVec 49 :=
  d ++ a ++ b ++ ha ++ hb ++ tile ++ bar ++ sub
/-- SYS (R229). -/
def sysf (d a : BitVec 9) (sidx : BitVec 8) (imm : BitVec 17) (sub : BitVec 6) : BitVec 49 := d ++ a ++ sidx ++ imm ++ sub

/-- The modifier word (R236). -/
def Mod.enc (m : Mod) : DWord :=
  m.setn ++ 0x7F#7 ++ m.rmode.enc ++ m.scale ++ bit 1 m.sat ++ bit 1 m.clamp ++ bit 1 m.absA ++ bit 1 m.negA
    ++ bit 1 m.absB ++ bit 1 m.negB ++ bit 1 m.absC ++ bit 1 m.negC ++ 0#5 ++ m.ext

/-- The instruction word (R226). -/
def wordOf (h : Hd) (maj : BitVec 7) (f : BitVec 49) : DWord :=
  bit 1 h.w ++ h.scope.enc ++ maj ++ bit 1 h.pneg ++ h.pred ++ bit 1 h.mod.isSome ++ f

/-- The words of an instruction, one or two (R228). -/
def words (h : Hd) (maj : BitVec 7) (f : BitVec 49) : List DWord :=
  wordOf h maj f :: (match h.mod with | none => [] | some m => [m.enc])

/-- The words of a well-formed program instruction, by R229, R236, R244 and R245; an event has none. -/
def encode : Instr → List DWord
  | .br h off => words h 1#7 (brf off 0#16 0#1)
  | .call h off => words h 1#7 (brf off 0#16 1#1)
  | .brd h off join16 => words h 2#7 (brf off join16 0#1)
  | .join h => words h 3#7 (sysf 0#9 0#9 0#8 0#17 0#6)
  | .exit h => words h 3#7 (sysf 0#9 0#9 0#8 0#17 1#6)
  | .ret h => words h 3#7 (sysf 0#9 0#9 0#8 0#17 2#6)
  | .callt h idx => words h 3#7 (sysf 0#9 0#9 0#8 idx 3#6)
  | .callr h a => words h 3#7 (sysf 0#9 a.enc 0#8 0#17 4#6)
  | .trap h n => words h 3#7 (sysf 0#9 0#9 0#8 (0#11 ++ n) 5#6)
  | .nop h => words h 3#7 (sysf 0#9 0#9 0#8 0#17 6#6)
  | .add h ty d a b => words h 4#7 (rrr d.enc a.enc b.enc 0#9 ty.enc 0#8)
  | .sub h ty d a b => words h 4#7 (rrr d.enc a.enc b.enc 0#9 ty.enc 1#8)
  | .mul h ty d a b => words h 4#7 (rrr d.enc a.enc b.enc 0#9 ty.enc 2#8)
  | .mulhi h ty d a b => words h 4#7 (rrr d.enc a.enc b.enc 0#9 ty.enc 3#8)
  | .mad h ty d a b c => words h 4#7 (rrr d.enc a.enc b.enc c.enc ty.enc 4#8)
  | .min h ty d a b => words h 4#7 (rrr d.enc a.enc b.enc 0#9 ty.enc 5#8)
  | .max h ty d a b => words h 4#7 (rrr d.enc a.enc b.enc 0#9 ty.enc 6#8)
  | .abs h ty d a => words h 4#7 (rrr d.enc a.enc 0#9 0#9 ty.enc 7#8)
  | .neg h ty d a => words h 4#7 (rrr d.enc a.enc 0#9 0#9 ty.enc 8#8)
  | .div h ty d a b => words h 4#7 (rrr d.enc a.enc b.enc 0#9 ty.enc 9#8)
  | .rem h ty d a b => words h 4#7 (rrr d.enc a.enc b.enc 0#9 ty.enc 10#8)
  | .addImm h ty d a imm => words h 5#7 (rri d.enc a.enc imm ty.enc 0#6)
  | .subImm h ty d a imm => words h 5#7 (rri d.enc a.enc imm ty.enc 1#6)
  | .mulImm h ty d a imm => words h 5#7 (rri d.enc a.enc imm ty.enc 2#6)
  | .mulhiImm h ty d a imm => words h 5#7 (rri d.enc a.enc imm ty.enc 3#6)
  | .minImm h ty d a imm => words h 5#7 (rri d.enc a.enc imm ty.enc 5#6)
  | .maxImm h ty d a imm => words h 5#7 (rri d.enc a.enc imm ty.enc 6#6)
  | .and h ty d a b => words h 6#7 (rrr d.enc a.enc b.enc 0#9 ty.enc 0#8)
  | .or h ty d a b => words h 6#7 (rrr d.enc a.enc b.enc 0#9 ty.enc 1#8)
  | .xor h ty d a b => words h 6#7 (rrr d.enc a.enc b.enc 0#9 ty.enc 2#8)
  | .not h ty d a => words h 6#7 (rrr d.enc a.enc 0#9 0#9 ty.enc 3#8)
  | .andn h ty d a b => words h 6#7 (rrr d.enc a.enc b.enc 0#9 ty.enc 4#8)
  | .shl h ty d a b => words h 6#7 (rrr d.enc a.enc b.enc 0#9 ty.enc 5#8)
  | .shr h ty d a b => words h 6#7 (rrr d.enc a.enc b.enc 0#9 ty.enc 6#8)
  | .sar h ty d a b => words h 6#7 (rrr d.enc a.enc b.enc 0#9 ty.enc 7#8)
  | .rotl h ty d a b => words h 6#7 (rrr d.enc a.enc b.enc 0#9 ty.enc 8#8)
  | .popc h ty d a => words h 6#7 (rrr d.enc a.enc 0#9 0#9 ty.enc 9#8)
  | .clz h ty d a => words h 6#7 (rrr d.enc a.enc 0#9 0#9 ty.enc 10#8)
  | .bfe h ty d a c => words h 6#7 (rrr d.enc a.enc 0#9 c.enc ty.enc 11#8)
  | .bfi h ty d a b c => words h 6#7 (rrr d.enc a.enc b.enc c.enc ty.enc 12#8)
  | .brev h ty d a => words h 6#7 (rrr d.enc a.enc 0#9 0#9 ty.enc 13#8)
  | .andImm h ty d a imm => words h 7#7 (rri d.enc a.enc imm ty.enc 0#6)
  | .orImm h ty d a imm => words h 7#7 (rri d.enc a.enc imm ty.enc 1#6)
  | .xorImm h ty d a imm => words h 7#7 (rri d.enc a.enc imm ty.enc 2#6)
  | .andnImm h ty d a imm => words h 7#7 (rri d.enc a.enc imm ty.enc 4#6)
  | .shlImm h ty d a imm => words h 7#7 (rri d.enc a.enc imm ty.enc 5#6)
  | .shrImm h ty d a imm => words h 7#7 (rri d.enc a.enc imm ty.enc 6#6)
  | .sarImm h ty d a imm => words h 7#7 (rri d.enc a.enc imm ty.enc 7#6)
  | .rotlImm h ty d a imm => words h 7#7 (rri d.enc a.enc imm ty.enc 8#6)
  | .setEq h ty d a b => words h 8#7 (rrr d.enc a.enc b.enc 0#9 ty.enc 0#8)
  | .setNe h ty d a b => words h 8#7 (rrr d.enc a.enc b.enc 0#9 ty.enc 1#8)
  | .setLt h ty d a b => words h 8#7 (rrr d.enc a.enc b.enc 0#9 ty.enc 2#8)
  | .setLe h ty d a b => words h 8#7 (rrr d.enc a.enc b.enc 0#9 ty.enc 3#8)
  | .setGt h ty d a b => words h 8#7 (rrr d.enc a.enc b.enc 0#9 ty.enc 4#8)
  | .setGe h ty d a b => words h 8#7 (rrr d.enc a.enc b.enc 0#9 ty.enc 5#8)
  | .setEqImm h ty d a imm => words h 9#7 (rri d.enc a.enc imm ty.enc 0#6)
  | .setNeImm h ty d a imm => words h 9#7 (rri d.enc a.enc imm ty.enc 1#6)
  | .setLtImm h ty d a imm => words h 9#7 (rri d.enc a.enc imm ty.enc 2#6)
  | .setLeImm h ty d a imm => words h 9#7 (rri d.enc a.enc imm ty.enc 3#6)
  | .setGtImm h ty d a imm => words h 9#7 (rri d.enc a.enc imm ty.enc 4#6)
  | .setGeImm h ty d a imm => words h 9#7 (rri d.enc a.enc imm ty.enc 5#6)
  | .mov h ty d a => words h 10#7 (rrr d.enc a.enc 0#9 0#9 ty.enc 0#8)
  | .sel h ty d a b c => words h 10#7 (rrr d.enc a.enc b.enc c.enc ty.enc 1#8)
  | .movi h ty d imm => words h 11#7 (rri d.enc 0#9 imm ty.enc 0#6)
  | .movhi h ty d imm => words h 11#7 (rri d.enc 0#9 imm ty.enc 1#6)
  | .addpc h ty d imm => words h 11#7 (rri d.enc 0#9 imm ty.enc 2#6)
  | .addlo h ty d a imm => words h 11#7 (rri d.enc a.enc imm ty.enc 3#6)
  | .add2 h ty d a b => words h 12#7 (rrr d.enc a.enc b.enc 0#9 ty.enc 0#8)
  | .sub2 h ty d a b => words h 12#7 (rrr d.enc a.enc b.enc 0#9 ty.enc 1#8)
  | .min2 h ty d a b => words h 12#7 (rrr d.enc a.enc b.enc 0#9 ty.enc 2#8)
  | .max2 h ty d a b => words h 12#7 (rrr d.enc a.enc b.enc 0#9 ty.enc 3#8)
  | .maxd2 h ty d a b c => words h 12#7 (rrr d.enc a.enc b.enc c.enc ty.enc 4#8)
  | .shfl h ty d a b => words h 13#7 (rrr d.enc a.enc b.enc 0#9 ty.enc 0#8)
  | .shflUp h ty d a b => words h 13#7 (rrr d.enc a.enc b.enc 0#9 ty.enc 1#8)
  | .shflDn h ty d a b => words h 13#7 (rrr d.enc a.enc b.enc 0#9 ty.enc 2#8)
  | .shflXor h ty d a b => words h 13#7 (rrr d.enc a.enc b.enc 0#9 ty.enc 3#8)
  | .voteAny h ty d a => words h 13#7 (rrr d.enc a.enc 0#9 0#9 ty.enc 4#8)
  | .voteAll h ty d a => words h 13#7 (rrr d.enc a.enc 0#9 0#9 ty.enc 5#8)
  | .ballot h ty d a => words h 13#7 (rrr d.enc a.enc 0#9 0#9 ty.enc 6#8)
  | .xredAdd h ty d a => words h 13#7 (rrr d.enc a.enc 0#9 0#9 ty.enc 7#8)
  | .xredMin h ty d a => words h 13#7 (rrr d.enc a.enc 0#9 0#9 ty.enc 8#8)
  | .xredMax h ty d a => words h 13#7 (rrr d.enc a.enc 0#9 0#9 ty.enc 9#8)
  | .xredAnd h ty d a => words h 13#7 (rrr d.enc a.enc 0#9 0#9 ty.enc 10#8)
  | .xredOr h ty d a => words h 13#7 (rrr d.enc a.enc 0#9 0#9 ty.enc 11#8)
  | .xredXor h ty d a => words h 13#7 (rrr d.enc a.enc 0#9 0#9 ty.enc 12#8)
  | .xscanAdd h ty d a => words h 13#7 (rrr d.enc a.enc 0#9 0#9 ty.enc 13#8)
  | .xscanMax h ty d a => words h 13#7 (rrr d.enc a.enc 0#9 0#9 ty.enc 14#8)
  | .bcast h ty d a b => words h 13#7 (rrr d.enc a.enc b.enc 0#9 ty.enc 15#8)
  | .movx h ty d a b c => words h 14#7 (rrr d.enc a.enc b.enc c.enc ty.enc 0#8)
  | .movxw h ty d a b c => words h 14#7 (rrr d.enc a.enc b.enc c.enc ty.enc 1#8)
  | .fadd h ty d a b => words h 16#7 (rrr d.enc a.enc b.enc 0#9 ty.enc 0#8)
  | .fsub h ty d a b => words h 16#7 (rrr d.enc a.enc b.enc 0#9 ty.enc 1#8)
  | .fmul h ty d a b => words h 16#7 (rrr d.enc a.enc b.enc 0#9 ty.enc 2#8)
  | .fma h ty d a b c => words h 16#7 (rrr d.enc a.enc b.enc c.enc ty.enc 3#8)
  | .fmin h ty d a b => words h 16#7 (rrr d.enc a.enc b.enc 0#9 ty.enc 4#8)
  | .fmax h ty d a b => words h 16#7 (rrr d.enc a.enc b.enc 0#9 ty.enc 5#8)
  | .fsetEq h ty d a b => words h 17#7 (rrr d.enc a.enc b.enc 0#9 ty.enc 0#8)
  | .fsetNe h ty d a b => words h 17#7 (rrr d.enc a.enc b.enc 0#9 ty.enc 1#8)
  | .fsetLt h ty d a b => words h 17#7 (rrr d.enc a.enc b.enc 0#9 ty.enc 2#8)
  | .fsetLe h ty d a b => words h 17#7 (rrr d.enc a.enc b.enc 0#9 ty.enc 3#8)
  | .fsetGt h ty d a b => words h 17#7 (rrr d.enc a.enc b.enc 0#9 ty.enc 4#8)
  | .fsetGe h ty d a b => words h 17#7 (rrr d.enc a.enc b.enc 0#9 ty.enc 5#8)
  | .fsetUnord h ty d a b => words h 17#7 (rrr d.enc a.enc b.enc 0#9 ty.enc 6#8)
  | .fsetOrd h ty d a b => words h 17#7 (rrr d.enc a.enc b.enc 0#9 ty.enc 7#8)
  | .frcp h ty d a => words h 18#7 (rrr d.enc a.enc 0#9 0#9 ty.enc 0#8)
  | .fsqrt h ty d a => words h 18#7 (rrr d.enc a.enc 0#9 0#9 ty.enc 1#8)
  | .frsqrt h ty d a => words h 18#7 (rrr d.enc a.enc 0#9 0#9 ty.enc 2#8)
  | .fexp2 h ty d a => words h 18#7 (rrr d.enc a.enc 0#9 0#9 ty.enc 3#8)
  | .flog2 h ty d a => words h 18#7 (rrr d.enc a.enc 0#9 0#9 ty.enc 4#8)
  | .fclass h ty d a => words h 18#7 (rrr d.enc a.enc 0#9 0#9 ty.enc 5#8)
  | .frint h ty d a => words h 18#7 (rrr d.enc a.enc 0#9 0#9 ty.enc 6#8)
  | .fdiv h ty d a b => words h 18#7 (rrr d.enc a.enc b.enc 0#9 ty.enc 7#8)
  | .fadd2 h ty d a b => words h 19#7 (rrr d.enc a.enc b.enc 0#9 ty.enc 0#8)
  | .fsub2 h ty d a b => words h 19#7 (rrr d.enc a.enc b.enc 0#9 ty.enc 1#8)
  | .fmul2 h ty d a b => words h 19#7 (rrr d.enc a.enc b.enc 0#9 ty.enc 2#8)
  | .fma2 h ty d a b c => words h 19#7 (rrr d.enc a.enc b.enc c.enc ty.enc 3#8)
  | .fmin2 h ty d a b => words h 19#7 (rrr d.enc a.enc b.enc 0#9 ty.enc 4#8)
  | .fmax2 h ty d a b => words h 19#7 (rrr d.enc a.enc b.enc 0#9 ty.enc 5#8)
  | .cvt h ty src d a b c => words h 20#7 (rrr d.enc a.enc b.enc c.enc ty.enc (0#3 ++ src.enc))
  | .cvtef h ty d a b c => words h 21#7 (rrr d.enc a.enc b.enc c.enc ty.enc 0#8)
  | .cvtefX2 h ty d a b c => words h 21#7 (rrr d.enc a.enc b.enc c.enc ty.enc 1#8)
  | .ld h ty d base off sp ord sc => words h 32#7 (memf d.enc base.enc off sp.enc (bit 1 ord ++ sc.enc) ty.enc)
  | .st h ty d base off sp ord sc => words h 33#7 (memf d.enc base.enc off sp.enc (bit 1 ord ++ sc.enc) ty.enc)
  | .ldnf h ty d a c => words h 34#7 (rrr d.enc a.enc 0#9 c.enc ty.enc 0#8)
  | .atmAdd h ty d a b ord sc => words h 35#7 (rrr d.enc a.enc b.enc 0#9 ty.enc (bit 1 ord ++ sc.enc ++ 0#5))
  | .atmSub h ty d a b ord sc => words h 35#7 (rrr d.enc a.enc b.enc 0#9 ty.enc (bit 1 ord ++ sc.enc ++ 1#5))
  | .atmMin h ty d a b ord sc => words h 35#7 (rrr d.enc a.enc b.enc 0#9 ty.enc (bit 1 ord ++ sc.enc ++ 2#5))
  | .atmMax h ty d a b ord sc => words h 35#7 (rrr d.enc a.enc b.enc 0#9 ty.enc (bit 1 ord ++ sc.enc ++ 3#5))
  | .atmAnd h ty d a b ord sc => words h 35#7 (rrr d.enc a.enc b.enc 0#9 ty.enc (bit 1 ord ++ sc.enc ++ 4#5))
  | .atmOr h ty d a b ord sc => words h 35#7 (rrr d.enc a.enc b.enc 0#9 ty.enc (bit 1 ord ++ sc.enc ++ 5#5))
  | .atmXor h ty d a b ord sc => words h 35#7 (rrr d.enc a.enc b.enc 0#9 ty.enc (bit 1 ord ++ sc.enc ++ 6#5))
  | .atmExch h ty d a b ord sc => words h 35#7 (rrr d.enc a.enc b.enc 0#9 ty.enc (bit 1 ord ++ sc.enc ++ 7#5))
  | .atmCas h ty d a b c ord sc => words h 35#7 (rrr d.enc a.enc b.enc c.enc ty.enc (bit 1 ord ++ sc.enc ++ 8#5))
  | .atmInc h ty d a b ord sc => words h 35#7 (rrr d.enc a.enc b.enc 0#9 ty.enc (bit 1 ord ++ sc.enc ++ 9#5))
  | .atmDec h ty d a b ord sc => words h 35#7 (rrr d.enc a.enc b.enc 0#9 ty.enc (bit 1 ord ++ sc.enc ++ 10#5))
  | .atmFadd h ty d a b ord sc => words h 35#7 (rrr d.enc a.enc b.enc 0#9 ty.enc (bit 1 ord ++ sc.enc ++ 11#5))
  | .redAdd h ty a b ord sc => words h 36#7 (rrr 0#9 a.enc b.enc 0#9 ty.enc (bit 1 ord ++ sc.enc ++ 0#5))
  | .redSub h ty a b ord sc => words h 36#7 (rrr 0#9 a.enc b.enc 0#9 ty.enc (bit 1 ord ++ sc.enc ++ 1#5))
  | .redMin h ty a b ord sc => words h 36#7 (rrr 0#9 a.enc b.enc 0#9 ty.enc (bit 1 ord ++ sc.enc ++ 2#5))
  | .redMax h ty a b ord sc => words h 36#7 (rrr 0#9 a.enc b.enc 0#9 ty.enc (bit 1 ord ++ sc.enc ++ 3#5))
  | .redAnd h ty a b ord sc => words h 36#7 (rrr 0#9 a.enc b.enc 0#9 ty.enc (bit 1 ord ++ sc.enc ++ 4#5))
  | .redOr h ty a b ord sc => words h 36#7 (rrr 0#9 a.enc b.enc 0#9 ty.enc (bit 1 ord ++ sc.enc ++ 5#5))
  | .redXor h ty a b ord sc => words h 36#7 (rrr 0#9 a.enc b.enc 0#9 ty.enc (bit 1 ord ++ sc.enc ++ 6#5))
  | .redInc h ty a b ord sc => words h 36#7 (rrr 0#9 a.enc b.enc 0#9 ty.enc (bit 1 ord ++ sc.enc ++ 9#5))
  | .redDec h ty a b ord sc => words h 36#7 (rrr 0#9 a.enc b.enc 0#9 ty.enc (bit 1 ord ++ sc.enc ++ 10#5))
  | .redFadd h ty a b ord sc => words h 36#7 (rrr 0#9 a.enc b.enc 0#9 ty.enc (bit 1 ord ++ sc.enc ++ 11#5))
  | .fence h sc => words h 37#7 (memf 0#9 0#9 0#20 0#3 (0#1 ++ sc.enc) 0#5)
  | .acq h sc => words h 37#7 (memf 0#9 0#9 0#20 0#3 (0#1 ++ sc.enc) 1#5)
  | .rel h sc => words h 37#7 (memf 0#9 0#9 0#20 0#3 (0#1 ++ sc.enc) 2#5)
  | .invr h len base sc => words h 37#7 (memf len.enc base.enc 0#20 0#3 (0#1 ++ sc.enc) 3#5)
  | .wbr h len base sc => words h 37#7 (memf len.enc base.enc 0#20 0#3 (0#1 ++ sc.enc) 4#5)
  | .pgreq h base off sp => words h 38#7 (memf 0#9 base.enc off sp.enc 0#3 0#5)
  | .gld h d a site off => words h 48#7 (genf d.enc a.enc 0#9 site off)
  | .gst h a b site off => words h 49#7 (genf 0#9 a.enc b.enc site off)
  | .gatmAdd h d a b site ord sc => words h 50#7 (genf d.enc a.enc b.enc site (bit 1 ord ++ sc.enc ++ 0#6))
  | .gatmSub h d a b site ord sc => words h 50#7 (genf d.enc a.enc b.enc site (bit 1 ord ++ sc.enc ++ 1#6))
  | .gatmMin h d a b site ord sc => words h 50#7 (genf d.enc a.enc b.enc site (bit 1 ord ++ sc.enc ++ 2#6))
  | .gatmMax h d a b site ord sc => words h 50#7 (genf d.enc a.enc b.enc site (bit 1 ord ++ sc.enc ++ 3#6))
  | .gatmAnd h d a b site ord sc => words h 50#7 (genf d.enc a.enc b.enc site (bit 1 ord ++ sc.enc ++ 4#6))
  | .gatmOr h d a b site ord sc => words h 50#7 (genf d.enc a.enc b.enc site (bit 1 ord ++ sc.enc ++ 5#6))
  | .gatmXor h d a b site ord sc => words h 50#7 (genf d.enc a.enc b.enc site (bit 1 ord ++ sc.enc ++ 6#6))
  | .gatmExch h d a b site ord sc => words h 50#7 (genf d.enc a.enc b.enc site (bit 1 ord ++ sc.enc ++ 7#6))
  | .gadd h d a b site => words h 51#7 (genf d.enc a.enc b.enc site 0#9)
  | .gsub h d a b site => words h 52#7 (genf d.enc a.enc b.enc site 0#9)
  | .gmul h d a b site => words h 53#7 (genf d.enc a.enc b.enc site 0#9)
  | .gfma h d a b site => words h 54#7 (genf d.enc a.enc b.enc site 0#9)
  | .gmin h d a b site => words h 55#7 (genf d.enc a.enc b.enc site 0#9)
  | .gmax h d a b site => words h 56#7 (genf d.enc a.enc b.enc site 0#9)
  | .gset h d a b site cc => words h 57#7 (genf d.enc a.enc b.enc site (0#6 ++ cc.enc))
  | .gcvt h d a site ty => words h 58#7 (genf d.enc a.enc 0#9 site (0#4 ++ ty.enc))
  | .stage h a cnt => words h 64#7 (engf 0#9 a.enc 0#9 (cnt.extractLsb' 4 4) (cnt.extractLsb' 0 4) 0#2 0#7 0#5)
  | .cpy h d a b => words h 65#7 (engf d.enc a.enc b.enc 0#4 0#4 0#2 0#7 0#5)
  | .cpyBar h d a b bar => words h 65#7 (engf d.enc a.enc b.enc 0#4 0#4 0#2 bar 1#5)
  | .cpyl4 h d a => words h 66#7 (engf d.enc a.enc 0#9 0#4 0#4 0#2 0#7 0#5)
  | .cpyl8 h d a => words h 66#7 (engf d.enc a.enc 0#9 0#4 0#4 0#2 0#7 1#5)
  | .cpyl16 h d a => words h 66#7 (engf d.enc a.enc 0#9 0#4 0#4 0#2 0#7 2#5)
  | .seal h d => words h 67#7 (engf d.enc 0#9 0#9 0#4 0#4 0#2 0#7 0#5)
  | .waitb h a => words h 67#7 (engf 0#9 a.enc 0#9 0#4 0#4 0#2 0#7 1#5)
  | .bulkLd h ha => words h 68#7 (engf 0#9 0#9 0#9 ha 0#4 0#2 0#7 0#5)
  | .bulkSt h ha => words h 68#7 (engf 0#9 0#9 0#9 ha 0#4 0#2 0#7 1#5)
  | .bulkLdBar h ha bar => words h 68#7 (engf 0#9 0#9 0#9 ha 0#4 0#2 bar 2#5)
  | .bulkStBar h ha bar => words h 68#7 (engf 0#9 0#9 0#9 ha 0#4 0#2 bar 3#5)
  | .waitm h ha a => words h 69#7 (engf 0#9 a.enc 0#9 ha 0#4 0#2 0#7 0#5)
  | .testm h d ha a => words h 69#7 (engf d.enc a.enc 0#9 ha 0#4 0#2 0#7 1#5)
  | .mcast h d a b => words h 70#7 (engf d.enc a.enc b.enc 0#4 0#4 0#2 0#7 0#5)
  | .mcastBar h d a b bar => words h 70#7 (engf d.enc a.enc b.enc 0#4 0#4 0#2 bar 1#5)
  | .rowcpy h d a => words h 71#7 (engf d.enc a.enc 0#9 0#4 0#4 0#2 0#7 0#5)
  | .rowfill h d a => words h 71#7 (engf d.enc a.enc 0#9 0#4 0#4 0#2 0#7 1#5)
  | .rowand h d a b => words h 71#7 (engf d.enc a.enc b.enc 0#4 0#4 0#2 0#7 2#5)
  | .rowor h d a b => words h 71#7 (engf d.enc a.enc b.enc 0#4 0#4 0#2 0#7 3#5)
  | .rowxor h d a b => words h 71#7 (engf d.enc a.enc b.enc 0#4 0#4 0#2 0#7 4#5)
  | .rownot h d a => words h 71#7 (engf d.enc a.enc 0#9 0#4 0#4 0#2 0#7 5#5)
  | .rowmate h d a => words h 71#7 (engf d.enc a.enc 0#9 0#4 0#4 0#2 0#7 6#5)
  | .barArrive h bar ord => words h 72#7 (engf 0#9 0#9 0#9 0#4 0#4 (encMsc ord) bar (0#1 ++ bit 1 ord.isSome ++ 0#3))
  | .barWait h bar ord => words h 72#7 (engf 0#9 0#9 0#9 0#4 0#4 (encMsc ord) bar (0#1 ++ bit 1 ord.isSome ++ 1#3))
  | .barSync h bar ord => words h 72#7 (engf 0#9 0#9 0#9 0#4 0#4 (encMsc ord) bar (0#1 ++ bit 1 ord.isSome ++ 2#3))
  | .barExpect h bar a => words h 72#7 (engf 0#9 a.enc 0#9 0#4 0#4 0#2 bar 3#5)
  | .barInit h bar a => words h 72#7 (engf 0#9 a.enc 0#9 0#4 0#4 0#2 bar 4#5)
  | .setdecl h k a => words h 73#7 (engf 0#9 a.enc 0#9 0#4 0#4 0#2 (0#4 ++ k) 0#5)
  | .shld h ha a => words h 74#7 (engf 0#9 a.enc 0#9 ha 0#4 0#2 0#7 0#5)
  | .shst h ha a => words h 74#7 (engf 0#9 a.enc 0#9 ha 0#4 0#2 0#7 1#5)
  | .shset h ha f a => words h 74#7 (engf 0#9 a.enc 0#9 ha 0#4 0#2 (0#2 ++ f) 2#5)
  | .shget h d ha f => words h 74#7 (engf d.enc 0#9 0#9 ha 0#4 0#2 (0#2 ++ f) 3#5)
  | .macq h t => words h 75#7 (engf 0#9 0#9 0#9 0#4 0#4 t 0#7 0#5)
  | .mrel h t => words h 75#7 (engf 0#9 0#9 0#9 0#4 0#4 t 0#7 1#5)
  | .mzeroF32 h t => words h 75#7 (engf 0#9 0#9 0#9 0#4 0#4 t 0#7 2#5)
  | .mzeroI32 h t => words h 75#7 (engf 0#9 0#9 0#9 0#4 0#4 t 0#7 3#5)
  | .mzeroI32s h t => words h 75#7 (engf 0#9 0#9 0#9 0#4 0#4 t 0#7 4#5)
  | .mwait h t => words h 75#7 (engf 0#9 0#9 0#9 0#4 0#4 t 0#7 5#5)
  | .mloop h t ha hb a => words h 76#7 (engf 0#9 a.enc 0#9 ha hb t 0#7 0#5)
  | .mldaSp h t ha => words h 77#7 (engf 0#9 0#9 0#9 ha 0#4 t 0#7 0#5)
  | .mldaReg h t d a => words h 77#7 (engf d.enc a.enc 0#9 0#4 0#4 t 0#7 1#5)
  | .mdrainSp h t ha => words h 77#7 (engf 0#9 0#9 0#9 ha 0#4 t 0#7 2#5)
  | .mdrainReg h t d a => words h 77#7 (engf d.enc a.enc 0#9 0#4 0#4 t 0#7 3#5)
  | .saccR h t a b => words h 77#7 (engf 0#9 a.enc b.enc 0#4 0#4 t 0#7 4#5)
  | .saccRc h t d a b => words h 77#7 (engf d.enc a.enc b.enc 0#4 0#4 t 0#7 5#5)
  | .plane h ha hb => words h 78#7 (engf 0#9 0#9 0#9 ha hb 0#2 0#7 0#5)
  | .unplane h ha hb => words h 78#7 (engf 0#9 0#9 0#9 ha hb 0#2 0#7 1#5)
  | .hclr h k a => words h 79#7 (engf 0#9 a.enc 0#9 0#4 0#4 0#2 (0#4 ++ k) 0#5)
  | .hrd h d k a => words h 79#7 (engf d.enc a.enc 0#9 0#4 0#4 0#2 (0#4 ++ k) 1#5)
  | .launch h a q => words h 80#7 (sysf 0#9 a.enc 0#8 q 0#6)
  | .sread h d idx => words h 81#7 (sysf d.enc 0#9 idx 0#17 0#6)
  | .swrite h idx a => words h 81#7 (sysf 0#9 a.enc idx 0#17 1#6)
  | .bkpt h code => words h 82#7 (sysf 0#9 0#9 0#8 code 0#6)
  | .mark h a tag => words h 82#7 (sysf 0#9 a.enc 0#8 tag 1#6)
  | .siterst h d a => words h 83#7 (sysf d.enc a.enc 0#8 0#17 0#6)
  | .rendezvousIssue _ _ => []
  | .rendezvousTimeout _ _ => []
  | .registerResultReturn _ _ => []
  | .groupResourcesFreed _ => []
  | .teamRetire _ => []
  | .copyComplete _ _ => []
  | .engineWorkStop _ _ _ _ => []
  | .bulkChunkComplete _ _ _ => []
  | .mcastChunkArrive _ _ _ _ => []
  | .barrierTimeout _ => []
  | .chunkWaitTimeout _ => []
  | .rowFrameComplete _ _ _ => []
  | .planeComplete _ _ => []
  | .pairingTimeout _ => []
  | .tokenTimeout _ => []
  | .damaskLoopStart _ => []
  | .damaskLoopComplete _ => []
  | .enginePlaceFree _ => []
  | .saccComplete _ => []
  | .cacheEviction _ _ _ => []
  | .ownerTimeout _ _ _ _ => []
  | .registryError _ _ => []
  | .rollCallTimeout _ _ => []
  | .siteRewriteCas _ => []
  | .pageWalkComplete _ _ => []
  | .heldWritebackRelease _ => []
  | .fqheadWrite _ _ => []
  | .svdoneReexecute _ _ => []
  | .svdoneResume _ _ => []
  | .svdoneTerminate _ _ => []
  | .svdoneRefuse _ _ => []
  | .registerWrite _ _ => []
  | .doorbell _ => []
  | .launchAccept _ _ => []
  | .dependenceRead _ _ => []
  | .teamPlace _ _ _ _ => []
  | .priorityAging _ => []
  | .carveChange _ => []
  | .gridCompletion _ => []
  | .ctxCreate _ => []
  | .ctxDestroy _ => []
  | .ctxSave _ => []
  | .ctxRestore _ _ => []
  | .ctxDump _ => []
  | .savePhase2 _ _ => []
  | .saveCacheFlush _ => []
  | .fatalFault _ _ _ => []
  | .dumpStart => []
  | .cxlLinkDown _ => []
  | .cxlCompletionTimeout _ => []
  | .targetRestored _ => []
  | .nirbiorLinkFault _ => []
  | .linkLaneRemap _ => []
  | .hostMemRead _ _ => []
  | .hostMemWrite _ _ _ => []
  | .hostSnoop _ _ => []
  | .boot _ _ => []
  | .attestationRequest _ => []
  | .pcSample _ _ => []
  | .cclr _ => []
  | .fabricTimeCorrection _ => []
  | .thermalThrottle _ => []
  | .criticalTemperature => []
  | .coreFailure _ => []
  | .registryRebuilt _ _ => []
  | .releaseComplete _ => []
  | .hostLinkTraining _ => []
  | .temperatureFalls => []

/-- Decodes the words of one instruction. -/
def decodeWords : List DWord → Except DecErr Instr
  | [] => .error .illegalOpcode
  | [w] => decode w 0#64
  | w :: m :: _ => decode w m

/-- The instruction that the decoder reads from the table's bits: bits 63..0 are the instruction word, bits 127..64
the modifier word (R12, R228). -/
def decodeTableWord (nbits w : Nat) : Option Instr :=
  let b := BitVec.ofNat 128 (w % 2 ^ nbits)
  match decodeBytes (bytesOfDword (b.extractLsb' 0 64) ++ bytesOfDword (b.extractLsb' 64 64)) with
  | some (.ok i, _) => some i
  | _ => none

end Sys2Proof
end

