-- ==== Sys2Proof/Machine/Float.lean ====
section
/-! DEFINITION. Machine/Float.lean: the float formats (R87 to R90), exact results and one rounding (R91, R92), special
values (R93, R94, R282, R283, R286), correctly rounded functions (R285), and QN4 (R98 to R101). Values are bit strings
held as natural numbers; exact arithmetic is on Nat and Int. -/
namespace Sys2Proof.Machine

/-- The float formats (R87). -/
inductive Fmt where | f64 | f32 | f16 | bf16 | e5 | e4
deriving DecidableEq, Repr

def Fmt.fbits : Fmt → Nat
  | .f64 => 52 | .f32 => 23 | .f16 => 10 | .bf16 => 7 | .e5 => 2 | .e4 => 3
def Fmt.ebits : Fmt → Nat
  | .f64 => 11 | .f32 => 8 | .f16 => 5 | .bf16 => 8 | .e5 => 5 | .e4 => 4
def Fmt.bias : Fmt → Nat
  | .f64 => 1023 | .f32 => 127 | .f16 => 15 | .bf16 => 127 | .e5 => 15 | .e4 => 7
def Fmt.width (f : Fmt) : Nat := 1 + f.ebits + f.fbits
/-- DAZ and FTZ concern these formats only (R93). -/
def Fmt.flushes : Fmt → Bool
  | .e5 | .e4 => false
  | _ => true
/-- Exponent of the smallest normal value. -/
def Fmt.emin (f : Fmt) : Int := 1 - f.bias
/-- The exponent field of all ones. -/
def Fmt.emask (f : Fmt) : Nat := 2 ^ f.ebits - 1

/-- The rounding modes (R91). -/
inductive Rnd where | rne | rz | ru | rd
deriving DecidableEq, Repr

/-- RMODE 0b000 means RNE (R278). -/
def rndOf : RMode → Rnd
  | .own | .rne => .rne
  | .rz => .rz
  | .ru => .ru
  | .rd => .rd

/-- A decoded value. A NaN keeps its sign and its fraction, left-aligned to 52 bits. `fin n m e` is (−1)^n × m × 2^e with
m not 0. -/
inductive FV where
  | nan (neg : Bool) (frac : Nat)
  | inf (neg : Bool)
  | zero (neg : Bool)
  | fin (neg : Bool) (m : Nat) (e : Int)
deriving DecidableEq, Repr

/-- Decode an encoding (R87 to R89). -/
def FV.dec (f : Fmt) (b : Nat) : FV :=
  let frac := b % 2 ^ f.fbits
  let ex := (b / 2 ^ f.fbits) % 2 ^ f.ebits
  let neg := (b / 2 ^ (f.ebits + f.fbits)) % 2 == 1
  if f = .e4 ∧ ex = 15 ∧ frac = 7 then .nan neg (7 * 2 ^ 49)
  else if f ≠ .e4 ∧ ex = f.emask then (if frac = 0 then .inf neg else .nan neg (frac * 2 ^ (52 - f.fbits)))
  else if ex = 0 then (if frac = 0 then .zero neg else .fin neg frac (f.emin - f.fbits))
  else .fin neg (frac + 2 ^ f.fbits) ((ex : Int) - f.bias - f.fbits)

/-- The sign bit at its place. -/
def signBit (f : Fmt) (neg : Bool) : Nat := if neg then 2 ^ (f.ebits + f.fbits) else 0

/-- A quiet NaN of the format that keeps the sign and the high fraction bits that fit (R94). -/
def nanBits (f : Fmt) (neg : Bool) (frac : Nat) : Nat :=
  if f = .e4 then signBit f neg + 0x7F
  else
    let q := 2 ^ (f.fbits - 1)
    signBit f neg + f.emask * 2 ^ f.fbits + (q + (frac / 2 ^ (52 - f.fbits)) % q)

/-- The default NaN (R90). -/
def defaultNan (f : Fmt) : Nat := if f = .e4 then 0x7F else f.emask * 2 ^ f.fbits + 2 ^ (f.fbits - 1)

/-- The largest finite magnitude as an encoding without sign (R87). -/
def maxFinite (f : Fmt) : Nat := if f = .e4 then 0x7E else f.emask * 2 ^ f.fbits - 1

/-- Infinity; F8E4 has none and takes its largest finite value (R92). -/
def infBits (f : Fmt) (neg : Bool) : Nat :=
  signBit f neg + (if f = .e4 then 0x7E else f.emask * 2 ^ f.fbits)

/-- floor(log2 m) + 1, and 0 for 0. -/
def bitLen (m : Nat) : Nat := if m = 0 then 0 else Nat.log2 m + 1

/-- What a rounded magnitude above the largest finite value becomes (R92). -/
def overflowBits (f : Fmt) (r : Rnd) (neg : Bool) : Nat :=
  if f = .e4 then signBit f neg + maxFinite f
  else
    let toInf := match r with
      | .rne => true
      | .rz => false
      | .ru => !neg
      | .rd => neg
    signBit f neg + (if toInf then f.emask * 2 ^ f.fbits else maxFinite f)

/-- Round (−1)^neg × m × 2^e, m not 0, to the format (R91, R92). With `sticky` the magnitude lies strictly between m and
m + 1 units of 2^e, and m then has at least four bits more than the format keeps. -/
def roundBits (f : Fmt) (r : Rnd) (neg : Bool) (m0 : Nat) (e0 : Int) (sticky : Bool) : Nat :=
  let m := if sticky then 2 * m0 + 1 else m0
  let e := if sticky then e0 - 1 else e0
  let top := e + (bitLen m : Int) - 1
  let q := max (top - f.fbits) (f.emin - f.fbits)
  let sh := q - e
  let k := if sh ≤ 0 then m * 2 ^ (-sh).toNat else m / 2 ^ sh.toNat
  let rem := if sh ≤ 0 then 0 else m % 2 ^ sh.toNat
  let half := if sh ≤ 0 then 1 else 2 ^ sh.toNat
  let up := match r with
    | .rne => decide (2 * rem > half) || (2 * rem == half && k % 2 == 1)
    | .rz => false
    | .ru => !neg && rem != 0
    | .rd => neg && rem != 0
  let k := if up then k + 1 else k
  let carry := k == 2 ^ (f.fbits + 1)
  let k := if carry then 2 ^ f.fbits else k
  let q := if carry then q + 1 else q
  let mag := if k < 2 ^ f.fbits then k else ((q + f.fbits + f.bias).toNat) * 2 ^ f.fbits + (k - 2 ^ f.fbits)
  if maxFinite f < mag then overflowBits f r neg else signBit f neg + mag

/-- What an operation gives before rounding (R281). -/
inductive Ex where
  | nan (bits : Nat)
  | inf (neg : Bool)
  | zero (neg : Bool)
  | fin (neg : Bool) (m : Nat) (e : Int) (sticky : Bool)
  /-- an irrational magnitude strictly between lo and hi units of 2^e -/
  | iv (neg : Bool) (lo hi : Nat) (e : Int)
deriving DecidableEq, Repr

/-- A source with its modifiers: DAZ, then ABSx, then NEGx (R277, R91). -/
def srcMods (f : Fmt) (daz ab ng : Bool) (b : Nat) : Nat :=
  let sb := 2 ^ (f.ebits + f.fbits)
  let b := if daz && f.flushes && (b / 2 ^ f.fbits) % 2 ^ f.ebits == 0 then (b / sb % 2) * sb else b
  let b := if ab then b % sb else b
  if ng then (if b / sb % 2 = 1 then b - sb else b + sb) else b

/-- A result below the smallest normal becomes a zero of its sign under FTZ (R93). -/
def flush (f : Fmt) (ftz : Bool) (b : Nat) : Nat :=
  let sb := 2 ^ (f.ebits + f.fbits)
  if ftz && f.flushes && (b / 2 ^ f.fbits) % 2 ^ f.ebits == 0 then (b / sb % 2) * sb else b

/-- SAT on a rounded value (R92). -/
def satBits (f : Fmt) (sat : Bool) (b : Nat) : Nat :=
  match FV.dec f b with
  | .inf neg => if sat then signBit f neg + maxFinite f else b
  | _ => b

/-- CLAMP on a rounded value (R237). -/
def clampBits (f : Fmt) (clamp : Bool) (b : Nat) : Nat :=
  if !clamp then b else
  match FV.dec f b with
  | .nan _ _ => 0
  | .inf neg => if neg then 0 else f.bias * 2 ^ f.fbits
  | .zero _ => 0
  | .fin neg _ _ => if neg then 0 else if f.bias * 2 ^ f.fbits < b then f.bias * 2 ^ f.fbits else b

/-- The control of one float operation: rounding, scale, SAT, CLAMP (R236) and FTZ (R93). -/
structure Ctl where
  rnd : Rnd
  scale : Int
  sat : Bool
  clamp : Bool
  daz : Bool
  ftz : Bool
deriving DecidableEq, Repr

/-- Round, flush, saturate and clamp (R281). -/
def finishEx (f : Fmt) (c : Ctl) (x : Ex) : Nat :=
  let b := match x with
    | .nan b => b
    | .inf neg => infBits f neg
    | .zero neg => signBit f neg
    | .fin neg m e st => flush f c.ftz (roundBits f c.rnd neg m (e + c.scale) st)
    | .iv neg lo hi e =>
      if lo = 0 then flush f c.ftz (roundBits f c.rnd neg 1 (e + c.scale) true)
      else flush f c.ftz (roundBits f c.rnd neg (if roundBits f c.rnd neg lo (e + c.scale) true
        = roundBits f c.rnd neg (hi - 1) (e + c.scale) true then lo else hi - 1) (e + c.scale) true)
  clampBits f c.clamp (satBits f c.sat b)

/-- The first NaN among sources, as R94 returns it. -/
def firstNan (f : Fmt) (xs : List FV) : Option Nat :=
  xs.findSome? (fun x => match x with
    | .nan n fr => some (nanBits f n fr)
    | _ => none)

def FV.neg : FV → FV
  | .nan n x => .nan n x
  | .inf n => .inf (!n)
  | .zero n => .zero (!n)
  | .fin n m e => .fin (!n) m e

/-- The signed integer of a finite value at exponent e. -/
def atExp (n : Bool) (m : Nat) (e e0 : Int) : Int :=
  let v : Int := (m * 2 ^ (e - e0).toNat : Nat)
  if n then -v else v

/-- An exact sum (R282): opposite signs that cancel give +0, but −0 under RD. -/
def exAdd (f : Fmt) (r : Rnd) (a b : FV) : Ex :=
  match firstNan f [a, b] with
  | some x => .nan x
  | none =>
    match a, b with
    | .inf n, .inf k => if n = k then .inf n else .nan (defaultNan f)
    | .inf n, _ => .inf n
    | _, .inf k => .inf k
    | .zero n, .zero k => .zero (if n = k then n else r = .rd)
    | .zero _, .fin k m e => .fin k m e false
    | .fin n m e, .zero _ => .fin n m e false
    | .fin n m e, .fin k p d =>
      let e0 := min e d
      let s := atExp n m e e0 + atExp k p d e0
      if s = 0 then .zero (r = .rd) else .fin (s < 0) s.natAbs e0 false
    | _, _ => .nan (defaultNan f)

/-- An exact product (R282). -/
def exMul (f : Fmt) (a b : FV) : Ex :=
  match firstNan f [a, b] with
  | some x => .nan x
  | none =>
    match a, b with
    | .inf _, .zero _ | .zero _, .inf _ => .nan (defaultNan f)
    | .inf n, .inf k | .inf n, .fin k _ _ | .fin n _ _, .inf k => .inf (n != k)
    | .zero n, .zero k | .zero n, .fin k _ _ | .fin n _ _, .zero k => .zero (n != k)
    | .fin n m e, .fin k p d => .fin (n != k) (m * p) (e + d) false
    | _, _ => .nan (defaultNan f)

/-- A product as a value of unlimited precision. -/
def Ex.toFV (x : Ex) : FV :=
  match x with
  | .nan _ => .nan false (2 ^ 51)
  | .inf n => .inf n
  | .zero n => .zero n
  | .fin n m e _ => .fin n m e
  | .iv n lo _ e => .fin n lo e

/-- An exact fused multiply-add (R280, R282). -/
def exFma (f : Fmt) (r : Rnd) (a b c : FV) : Ex :=
  match firstNan f [a, b, c] with
  | some x => .nan x
  | none =>
    match exMul f a b with
    | .nan x => .nan x
    | p => exAdd f r p.toFV c

/-- An exact quotient, with enough bits for any format (R285, R286). -/
def exDiv (f : Fmt) (a b : FV) : Ex :=
  match firstNan f [a, b] with
  | some x => .nan x
  | none =>
    match a, b with
    | .zero _, .zero _ | .inf _, .inf _ => .nan (defaultNan f)
    | .inf n, .zero k | .inf n, .fin k _ _ | .fin n _ _, .zero k => .inf (n != k)
    | .zero n, .inf k | .zero n, .fin k _ _ | .fin n _ _, .inf k => .zero (n != k)
    | .fin n m e, .fin k p d =>
      let s := 64 + bitLen p
      .fin (n != k) (m * 2 ^ s / p) (e - d - s) (m * 2 ^ s % p != 0)
    | _, _ => .nan (defaultNan f)

/-- The integer square root, by its bits from the highest: r is the root so far. -/
def isqrtGo (n : Nat) : Nat → Nat → Nat
  | 0, r => r
  | k + 1, r => isqrtGo n k (if (r + 2 ^ k) * (r + 2 ^ k) ≤ n then r + 2 ^ k else r)
def isqrt (n : Nat) : Nat := isqrtGo n (bitLen n / 2 + 1) 0

/-- √A (R285, R286). -/
def exSqrt (f : Fmt) (a : FV) : Ex :=
  match a with
  | .nan n x => .nan (nanBits f n x)
  | .zero n => .zero n
  | .inf n => if n then .nan (defaultNan f) else .inf false
  | .fin n m e =>
    if n then .nan (defaultNan f) else
    let m := if e % 2 = 0 then m else 2 * m
    let e := if e % 2 = 0 then e else e - 1
    let r := isqrt (m * 2 ^ 128)
    .fin false r (e / 2 - 64) (r * r != m * 2 ^ 128)

/-- 1 / √A (R285, R286). -/
def exRsqrt (f : Fmt) (a : FV) : Ex :=
  match a with
  | .nan n x => .nan (nanBits f n x)
  | .zero n => .inf n
  | .inf n => if n then .nan (defaultNan f) else .zero false
  | .fin n m e =>
    if n then .nan (defaultNan f) else
    let m := if e % 2 = 0 then m else 2 * m
    let e := if e % 2 = 0 then e else e - 1
    let s := bitLen m + 140
    let s := if s % 2 = 0 then s else s + 1
    let y := 2 ^ s / m
    let r := isqrt y
    .fin false r (-(e / 2) - (s / 2 : Nat)) (r * r != y || 2 ^ s % m != 0)

/-- Bounds of 2 × atanh(a / b) in units of 2^−k, by its series (a < b): the sum so far, the power of z = a/b. -/
def atanhGo (k a b : Nat) : Nat → Nat → Nat → Nat → Nat × Nat
  | 0, _, _, acc => (acc, acc + 4)
  | n + 1, j, p, acc =>
    if p = 0 then (acc, acc + 2 * j + 4)
    else atanhGo k a b n (j + 1) (p * a * a / (b * b)) (acc + 2 * p / (2 * j + 1))
def atanh2 (k a b : Nat) : Nat × Nat :=
  let g := k + 32
  match atanhGo g a b (2 * g) 0 (2 ^ g * a / b) 0 with
  | (lo, hi) => (lo / 2 ^ 32, hi / 2 ^ 32 + 1)

/-- Bounds of ln 2 in units of 2^−k. -/
def ln2Iv (k : Nat) : Nat × Nat := atanh2 k 1 3

/-- Lower and upper sums of the exponential series of y/2^k, with a bound on the rest. -/
def expGo (k y : Nat) (upper : Bool) : Nat → Nat → Nat → Nat → Nat
  | 0, _, _, acc => if upper then acc + 4 else acc
  | n + 1, j, t, acc =>
    let t' := if upper then t * y / (2 ^ k * j) + 1 else t * y / (2 ^ k * j)
    if t' = 0 then acc else if upper && t' == 1 then acc + n + 4 else expGo k y upper n (j + 1) t' (acc + t')

/-- Bounds of 2^(a / 2^t), 0 < a < 2^t, in units of 2^−k: between 1 and 2. -/
def exp2Iv (k a t : Nat) : Nat × Nat :=
  match ln2Iv k with
  | (l, h) =>
    (expGo k (a * l / 2 ^ t) false k 1 (2 ^ k) (2 ^ k),
     Nat.min (expGo k (a * h / 2 ^ t + 1) true k 1 (2 ^ k) (2 ^ k) + 1) (2 ^ (k + 1)))

/-- The working precision of the irrational functions, in bits (log entry 12). -/
def fnBits : Nat := 320

/-- 2^A (R285, R286): exact at an integer A. -/
def exExp2 (f : Fmt) (a : FV) : Ex :=
  match a with
  | .nan n x => .nan (nanBits f n x)
  | .zero _ => .fin false 1 0 false
  | .inf n => if n then .zero false else .inf false
  | .fin n m e =>
    let v : Int := if n then -(m : Int) else m
    if 0 ≤ e then
      (if 14 < e + bitLen m then (if n then .fin false 1 (-20000) false else .fin false 1 20000 false)
       else .fin false 1 (v * 2 ^ e.toNat) false)
    else
      let t := (-e).toNat
      let i := v / (2 ^ t : Nat)
      let a := (v % (2 ^ t : Nat)).toNat
      if a = 0 then .fin false 1 (if 20000 < i then 20000 else if i < -20000 then -20000 else i) false
      else match exp2Iv fnBits a t with
        | (lo, hi) => .iv false lo hi ((if 20000 < i then 20000 else if i < -20000 then -20000 else i) - fnBits)

/-- log2 A (R285, R286): exact at a power of two. -/
def exLog2 (f : Fmt) (a : FV) : Ex :=
  match a with
  | .nan n x => .nan (nanBits f n x)
  | .zero _ => .inf true
  | .inf n => if n then .nan (defaultNan f) else .inf false
  | .fin n m e =>
    if n then .nan (defaultNan f) else
    let b := bitLen m - 1
    let i := e + b
    if m = 2 ^ b then (if i = 0 then .zero false else .fin (i < 0) i.natAbs 0 false)
    else
      match atanh2 fnBits (m - 2 ^ b) (m + 2 ^ b), ln2Iv fnBits with
      | (l, h), (dl, dh) =>
        let lo : Int := i * (2 ^ fnBits : Nat) + (l * 2 ^ fnBits / dh : Nat)
        let hi : Int := i * (2 ^ fnBits : Nat) + (h * 2 ^ fnBits / dl + 1 : Nat)
        if 0 ≤ lo then .iv false lo.toNat hi.toNat (-(fnBits : Int))
        else .iv true (-hi).toNat (-lo).toNat (-(fnBits : Int))

/-! ### The operations at the level of encodings -/

/-- The two-operand and fused operations (R280), the functions (R285). -/
inductive FOp where | add | sub | mul | fma | div | rcp | sqrt | rsqrt | exp2 | log2
deriving DecidableEq, Repr

/-- One element of a rounding operation (R281): sources after DAZ, ABSx and NEGx. -/
def fop (f : Fmt) (c : Ctl) (op : FOp) (a b d : Nat) : Nat :=
  let x := FV.dec f a
  let y := FV.dec f b
  let z := FV.dec f d
  finishEx f c (match op with
    | .add => exAdd f c.rnd x y
    | .sub => (match firstNan f [x, y] with
      | some n => .nan n
      | none => exAdd f c.rnd x y.neg)
    | .mul => exMul f x y
    | .fma => exFma f c.rnd x y z
    | .div => exDiv f x y
    | .rcp => (match x with
      | .nan n fr => .nan (nanBits f n fr)
      | _ => exDiv f (.fin false 1 0) x)
    | .sqrt => exSqrt f x
    | .rsqrt => exRsqrt f x
    | .exp2 => exExp2 f x
    | .log2 => exLog2 f x)

/-- A total order of non-NaN encodings with −0 below +0 (R283). -/
def ordKey (f : Fmt) (b : Nat) : Int :=
  let sb := 2 ^ (f.ebits + f.fbits)
  if b / sb % 2 = 1 then -((b % sb : Nat) : Int) - 1 else (b % sb : Nat)

def isNan (f : Fmt) (b : Nat) : Bool :=
  match FV.dec f b with
  | .nan _ _ => true
  | _ => false

/-- `fmin` and `fmax` (R283), before FTZ. -/
def fminmax (f : Fmt) (mx : Bool) (a b : Nat) : Nat :=
  match FV.dec f a, FV.dec f b with
  | .nan n x, .nan _ _ => nanBits f n x
  | .nan _ _, _ => b
  | _, .nan _ _ => a
  | _, _ => if mx then (if ordKey f a < ordKey f b then b else a) else (if ordKey f b < ordKey f a then b else a)

/-- The compares of R284. -/
inductive FCond where | eq | ne | lt | le | gt | ge | unord | ord
deriving DecidableEq, Repr

/-- Compare two encodings (R284): −0 equals +0. -/
def fcompare (f : Fmt) (c : FCond) (a b : Nat) : Bool :=
  let un := isNan f a || isNan f b
  let key (x : Nat) : Int := match FV.dec f x with
    | .zero _ => 0
    | _ => ordKey f x + (if ordKey f x < 0 then 1 else 0)
  let ka := key a
  let kb := key b
  match c with
  | .eq => !un && ka == kb
  | .ne => un || ka != kb
  | .lt => !un && decide (ka < kb)
  | .le => !un && decide (ka ≤ kb)
  | .gt => !un && decide (kb < ka)
  | .ge => !un && decide (kb ≤ ka)
  | .unord => un
  | .ord => !un

/-- The classes of R287. -/
def fclassBits (f : Fmt) (b : Nat) : Nat :=
  match FV.dec f b with
  | .nan _ fr => if fr / 2 ^ 51 % 2 = 1 then 2 ^ 9 else 2 ^ 8
  | .inf n => if n then 1 else 2 ^ 7
  | .zero n => if n then 2 ^ 3 else 2 ^ 4
  | .fin n _ _ =>
    let sub := (b / 2 ^ f.fbits) % 2 ^ f.ebits == 0
    if n then (if sub then 2 ^ 2 else 2 ^ 1) else (if sub then 2 ^ 5 else 2 ^ 6)

/-- Round a real (−1)^neg × m × 2^e to an integer by the mode. -/
def roundInt (r : Rnd) (neg : Bool) (m : Nat) (e : Int) : Int :=
  let k := if 0 ≤ e then m * 2 ^ e.toNat else m / 2 ^ (-e).toNat
  let rem := if 0 ≤ e then 0 else m % 2 ^ (-e).toNat
  let half := if 0 ≤ e then 1 else 2 ^ (-e).toNat
  let up := match r with
    | .rne => decide (2 * rem > half) || (2 * rem == half && k % 2 == 1)
    | .rz => false
    | .ru => !neg && rem != 0
    | .rd => neg && rem != 0
  let k : Int := (if up then k + 1 else k : Nat)
  if neg then -k else k

/-- `frint` (R288). -/
def frintBits (f : Fmt) (r : Rnd) (b : Nat) : Nat :=
  match FV.dec f b with
  | .nan n fr => nanBits f n fr
  | .inf _ | .zero _ => b
  | .fin n m e =>
    if 0 ≤ e then b else
    let k := roundInt r n m e
    if k = 0 then signBit f n else roundBits f .rz n k.natAbs 0 false

/-- Convert an encoding to another float format, or to its own (R96, R290). -/
def cvtFF (src dst : Fmt) (c : Ctl) (b : Nat) : Nat :=
  match FV.dec src b with
  | .nan n fr => clampBits dst c.clamp (nanBits dst n fr)
  | .inf n => finishEx dst c (.inf n)
  | .zero n => finishEx dst c (.zero n)
  | .fin n m e => finishEx dst c (.fin n m e false)

/-- Convert an integer to a float format (R96). -/
def cvtIF (dst : Fmt) (c : Ctl) (v : Int) : Nat :=
  if v = 0 then finishEx dst c (.zero false) else finishEx dst c (.fin (v < 0) v.natAbs 0 false)

/-- Saturate to a range. -/
def clampInt (lo hi v : Int) : Int := if v < lo then lo else if hi < v then hi else v

/-- Convert a decoded float to an integer, saturated to lo..hi (R96, R292). -/
def cvtFI (r : Rnd) (scale lo hi : Int) (x : FV) : Int :=
  match x with
  | .nan _ _ => 0
  | .inf n => if n then lo else hi
  | .zero _ => 0
  | .fin n m e => clampInt lo hi (roundInt r n m (e + scale))

/-! ### QN4 (R98, R99, R101) -/

/-- The codebook Q(c) (R98). -/
def qLevel (c : Nat) : Int :=
  [-127, -90, -69, -53, -39, -27, -16, -5, 5, 16, 27, 39, 53, 69, 90, 127].getD c 0

/-- A rational with a sign: (−1)^neg × num / den × 2^e, or a special value. -/
inductive Rat4 where
  | nan (neg : Bool) (frac : Nat)
  | inf (neg : Bool)
  | zero (neg : Bool)
  | rat (neg : Bool) (num den : Nat) (e : Int)
deriving DecidableEq, Repr

/-- The exact value S × (b / 255) × (Q(c) / 127) (R98, R99). -/
def qValue (c : Nat) (s : Nat) (b : Nat) : Rat4 :=
  let qn := decide (qLevel c < 0)
  match FV.dec .f32 s with
  | .nan n fr => .nan n fr
  | .inf n => if b = 0 then .nan false (2 ^ 51) else .inf (n != qn)
  | .zero n => .zero (n != qn)
  | .fin n m e => if b = 0 then .zero (n != qn) else .rat (n != qn) (m * b * (qLevel c).natAbs) (255 * 127) e

/-- A rational as what rounds once (R91). -/
def Rat4.toEx (f : Fmt) (x : Rat4) : Ex :=
  match x with
  | .nan n fr => .nan (nanBits f n fr)
  | .inf n => .inf n
  | .zero n => .zero n
  | .rat n a d e =>
    let s := 96 + bitLen d
    .fin n (a * 2 ^ s / d) (e - s) (a * 2 ^ s % d != 0)

/-- A rational to an integer, by the mode (R96). -/
def Rat4.toInt (r : Rnd) (scale lo hi : Int) (x : Rat4) : Int :=
  match x with
  | .nan _ _ => 0
  | .inf n => if n then lo else hi
  | .zero _ => 0
  | .rat n a d e =>
    let s := 96 + bitLen d
    let q := a * 2 ^ s / d
    let st := a * 2 ^ s % d != 0
    clampInt lo hi (roundInt r n (if st then 2 * q + 1 else 2 * q) (e - s - 1 + scale))

/-- The code that CVTEF writes for t at S and b (R101), by cross-multiplication: q × S × b = t × 127 × 255. -/
def qCode (t s b : Nat) : Nat :=
  match FV.dec .f32 t, FV.dec .f32 s with
  | _, .zero _ | _, .inf _ | _, .nan _ _ => 8
  | .nan _ _, _ => 8
  | .inf n, .fin k _ _ => if b = 0 then 8 else if n != k then 0 else 15
  | .zero n, .fin k _ _ => if b = 0 then 8 else if n != k then 7 else 8
  | .fin n m e, .fin k p d =>
    if b = 0 then 8 else
    let neg := n != k
    -- |q| = num / den with both at a common exponent
    let e0 := min e d
    let num := m * 2 ^ (e - e0).toNat * 127 * 255
    let den := p * 2 ^ (d - e0).toNat * b
    let mags := [5, 16, 27, 39, 53, 69, 90, 127]
    let idx := (List.range 8).foldl (fun best i =>
      let dist (j : Nat) : Nat := (Int.natAbs ((num : Int) - (mags.getD j 0 * den : Nat)))
      if dist i < dist best then i else best) 0
    let idx := if 127 * den < num then 7 else idx
    if neg then 7 - idx else 8 + idx

/-- |q| exceeds 127: the saturation branch of R101. -/
def qOver (t s b : Nat) : Bool :=
  match FV.dec .f32 t, FV.dec .f32 s with
  | .inf _, .fin _ _ _ => b != 0
  | .fin _ m e, .fin _ p d =>
    let e0 := min e d
    b != 0 && decide (127 * (p * 2 ^ (d - e0).toNat * b) < m * 2 ^ (e - e0).toNat * 127 * 255)
  | _, _ => false

end Sys2Proof.Machine
end

