-- ==== Sys2Proof/Machine/State.lean ====
section
/-! DEFINITION. Machine/State.lean: every piece of state the spec gives the device, as plain data; the reasons a step
can stop; the state right after reset. INVENTORY.md lists each field with its rule and its reset value. -/
namespace Sys2Proof.Machine

/-! ### Registers of a group (R58, R65) -/

/-- One v register: 32 lanes of 32 bits, the format tag and the uniform bit (R65). -/
structure VReg where
  lanes : List Word
  tag : BitVec 4
  u : Bool
deriving DecidableEq, Repr

/-- One s register and its tag; its U reads as 1 (R67). -/
structure SReg where
  val : DWord
  tag : BitVec 4
deriving DecidableEq, Repr

/-- The registers of one group: VALLOC v registers, s0 to s63, p0 to p6 (p7 is hard-wired, R60), x0 to x3, h0 to h15. -/
structure Regs where
  v : List VReg
  s : List SReg
  p : List Mask
  x : List (List (BitVec 16))
  h : List (BitVec 512)
deriving DecidableEq, Repr

/-! ### Groups (R24, R35, R47, R137) -/

/-- An entry of the reconvergence stack (R47). -/
structure Entry where
  j : DWord
  res : DWord
  pend : Mask
  save : Mask
deriving DecidableEq, Repr

/-- A Damask loop, queued or running (R212, R213): its group and tile, the operand shapes with the teams whose scratchpads
hold their records (a paired loop may read a partner's, R223), and its control word. -/
structure Loop where
  lid : Nat
  tid : Nat
  gno : Nat
  tile : BitVec 2
  ha : BitVec 512
  hb : BitVec 512
  aTid : Nat
  bTid : Nat
  /-- the scratchpads of those teams when the loop was queued: a word stored since reads as either value (R216) -/
  aSnap : List Host.Cell
  bSnap : List Host.Cell
  ctrl : DWord
  /-- K-steps done -/
  step : Nat
  running : Bool
  /-- the last plane is read, so the place is free (R216) -/
  planesDone : Bool
  /-- the loops of its pairing, itself among them, which start and stop together (R224, R225); none of a single loop -/
  pair : List Nat := []
deriving DecidableEq, Repr

/-- What a PARKED group waits for (R24). -/
inductive Park where
  /-- its outstanding results (R52) -/
  | w
  /-- the rendezvous of set k, or of the team set (R38) -/
  | rendezvous (k : Option (BitVec 3))
  /-- phase of barrier b; `acq` is the scope of an ordered wait (R341) -/
  | barrier (b : Nat) (acq : Option MScope)
  /-- the sealed batches at distance d or more from LASTSEAL, all named in `nums` (R138) -/
  | waitb (nums : List (BitVec 16))
  /-- a free place among 32 incomplete batches; then the number goes to d (R137) -/
  | seal (d : Opnd)
  /-- chunk bits of the map word at scratchpad byte o (R335) -/
  | waitm (o : Nat) (mask : BitVec 32)
  /-- the token of tile t (R217) -/
  | macq (t : BitVec 2)
  /-- the loop on tile t (R218) -/
  | mwait (t : BitVec 2)
  /-- the partners of a paired loop on tile t (R224) -/
  | pairing (t : BitVec 2)
  /-- a free place of the engine, for a loop whose checks have passed (R216) -/
  | engine (l : Loop)
  /-- a free slot of launch queue q, for the 64 bytes of a record already read (R353) -/
  | launch (q : BitVec 4) (rec : List Byte)
  /-- the supervisor's action on a REPLAY record (R390) -/
  | replay
  /-- the supervisor's action on a non-stop breakpoint or watchpoint (R458) -/
  | nonstop
deriving DecidableEq, Repr

/-- The states of R24. -/
inductive Status where
  | ready
  | parked (p : Park)
  | suspended
  | exited
deriving DecidableEq, Repr

/-- A register whose result is outstanding (R53). -/
inductive RegId where
  | v (n : Nat) | s (n : Nat) | p (n : Nat) | x (n : Nat) | h (n : Nat)
deriving DecidableEq, Repr

/-- A sealed batch that is not complete: its number, the works it still waits for (R137), and the destination runs of its row
operations, whose clean copies go when it completes (R156). -/
structure Batch where
  num : BitVec 16
  wids : List Nat
  clean : List (Nat × Nat)
deriving DecidableEq, Repr

/-- An instruction to be re-executed over some lanes only, after service (R46, R296): its word, the lanes that still
have to be done, the lanes already done, and those of them that met a watchpoint, with their addresses (R457). One that
retired before its lanes were lost (R429) goes back to `back` when it is done. -/
structure Redo where
  i : Instr
  left : Mask
  fin : Mask
  watch : List (Nat × DWord)
  back : Option DWord
  /-- the lanes of its registers that instructions after it have written, which keep that (R55) -/
  keep : List (RegId × Mask) := []
deriving DecidableEq, Repr

/-- Trace bookkeeping of a group (R455): its SYNC since trace came on is made, its records since the last SYNC, the REASON
of a SYNC owed at the next issue after a restore, and whether a record was dropped since. -/
structure TraceSt where
  on : Bool
  cnt : Nat
  sync : Option (BitVec 8)
  dropped : Bool
deriving DecidableEq, Repr

/-- What a generic access found in a lane that is done: its format, its space and its address (R191, R198). -/
structure GenLane where
  lane : Nat
  fmt : BitVec 4
  space : BitVec 2
  addr : DWord
deriving DecidableEq, Repr

/-- What a lane of an outstanding load or atomic accesses: the global address, the bytes, and whether the access went beyond
the caches (R429). -/
structure ReqLane where
  lane : Nat
  va : Nat
  size : Nat
  far : Bool
deriving DecidableEq, Repr

/-- An outstanding load or atomic (R52, R429): its instruction and PC, the results still to return, the place in `old` of the
image before it, what its lanes access, and whether its value may still be read anew as it returns (R54, R184). A reduction
gives no result, and is outstanding until its group's next release (R165, R429). -/
structure Req where
  i : Instr
  pc : DWord
  ids : List RegId
  img : Nat
  lanes : List ReqLane
  late : Bool
  /-- the lanes whose results it wrote -/
  act : Mask := 0
  /-- what later instructions have written of its registers: the place in `old` of the image before, register, lanes (R55) -/
  wrote : List (Nat × RegId × Mask) := []
  /-- the resolution of its lanes, of a generic access (R192) -/
  gen : List GenLane := []
deriving DecidableEq, Repr

/-- Lanes of a retired load or atomic that a loss ended (R429), to be executed again after the service of record `seq`. -/
structure Lost where
  seq : BitVec 32
  pc : DWord
  i : Instr
  lanes : Mask
  fin : Mask
  /-- as in `Redo` and in `Req` -/
  img : Nat := 0
  keep : List (RegId × Mask) := []
  gen : List GenLane := []
deriving DecidableEq, Repr

/-- A group of 32 lanes (R8, R22). -/
structure Group where
  gno : Nat
  status : Status
  pc : DWord
  amask : Mask
  present : Mask
  stack : List Entry
  regs : Regs
  /-- the register images before each producer that no W marker separates from the next reader (R54) -/
  old : List Regs
  /-- the outstanding results (R53) -/
  outst : List RegId
  /-- those of them that a load, an atomic or a drain to registers gives (R450) -/
  outMem : List RegId
  /-- the outstanding loads and atomics of global memory, oldest first (R184, R429) -/
  reqs : List Req
  /-- those that a loss ended and that are to be executed again after service (R429) -/
  lost : List Lost
  /-- what a SUSPENDED group was parked for, and still waits for, when it was suspended (R39, R45) -/
  under : Option Park
  /-- the next PC of a parked instruction, taken when the group leaves PARKED -/
  npc : DWord
  /-- the parked instruction carries W (R52) -/
  wm : Bool
  retired : Nat
  /-- instructions retired since the team's last barrier phase completion, RW(g) of R409 -/
  rw : Nat
  /-- cycles since it last issued, A of R408 -/
  age : Nat
  lastSeal : BitVec 16
  openCnt : Nat
  openW : List Nat
  openClean : List (Nat × Nat)
  sealed : List Batch
  /-- the awaited phase of each barrier, WPH (R340) -/
  wph : List Bool
  slice : Nat
  slot : Nat
  stkBase : Nat
  stkBlk : Option (Nat × Nat)
  /-- elapsed time of a single-group wait (R42) -/
  waited : Nat
  /-- cycle at which it last parked: the order of waiting MACQ (R217) -/
  since : Nat
  redo : Option Redo
  /-- the resolution of the lanes done, of a generic instruction being reissued (R46, R198) -/
  genRes : List GenLane
  /-- the address at which a SITERST that waits for a page goes on (R203) -/
  siteAt : Option Nat
  /-- SITERST reset the site of the instruction that the group is to execute again (R203) -/
  stale : Bool
  /-- status of the group's last write to SVDONE (R392) -/
  stat : BitVec 2
  /-- the release whose work is not complete, and its PC (R312, R429) -/
  relPend : Option (MScope × DWord)
  /-- a forwarded read of the group that its owner did not answer: the word, the owner and the lanes (R130, R431) -/
  lostRd : Option (Nat × BitVec 8 × Mask)
  /-- v registers in the operand staging buffer (R80) -/
  staged : List Nat
  /-- registers freed and no longer resident (R25) -/
  freed : Bool
  trace : TraceSt
deriving DecidableEq, Repr

/-! ### Teams (R21, R27, R340) -/

/-- A named barrier (R149, R340). -/
structure Barrier where
  tgt : Nat
  cnt : Nat
  p : Int
  phase : Bool
  broken : Bool
deriving DecidableEq, Repr

/-- An open rendezvous (R37): the arrived members in order of arrival with their act(G), and the open time. -/
structure Rdv where
  set : Option (BitVec 3)
  pc : DWord
  i : Instr
  arrived : List (Nat × Mask)
  elapsed : Nat
deriving DecidableEq, Repr

/-- A histogram (R107, R108, R222). -/
structure Hist where
  ctr : List Word
  centre : BitVec 8
  ovf : Bool
deriving DecidableEq, Repr

/-- A row operation (R154). -/
inductive RowOp where | cpy | fill | and | or | xor | not
deriving DecidableEq, Repr

/-- Asynchronous work of the engines (R136). -/
inductive WorkKind where
  /-- CPY: destination, source, bytes left, bytes in all, barrier (R140) -/
  | copy (dst src : DWord) (len total : Nat) (bar : Option Nat)
  /-- CPYL: per lane its destination and source; the size (R140) -/
  | copyl (lanes : List (Nat × DWord × DWord)) (size : Nat)
  /-- PGREQ (R305) -/
  | pgreq (va : Nat)
  /-- BULK: direction, slices with their members, base chunk, chunk count, map byte, barrier, chunks moved, and the PC of
  its rendezvous (R143) -/
  | bulk (store : Bool) (slices : List (Nat × BitVec 512)) (base n map : Nat) (bar : Option Nat) (fin : List Nat) (pc : DWord)
  /-- MCAST: source, length, destination offset, receivers, map byte, barrier, (receiver, chunk) delivered (R148) -/
  | mcast (src : DWord) (len doff : Nat) (rcv : List Nat) (map : Option Nat) (bar : Option Nat) (fin : List (Nat × Nat))
  /-- Row operation: frames done (R154) -/
  | row (op : RowOp) (dst a b : DWord) (f : Nat) (fin : List Nat)
  /-- PLANE and UNPLANE: source and destination shape (R209, R210) -/
  | plane (un : Bool) (src dst : BitVec 512)
  /-- PLANE or UNPLANE whose source is read: the scratchpad bytes still to write -/
  | put (bytes : List (Nat × Byte))
  /-- MDRAIN to scratchpad: tile, first byte, the bytes to write (R221) -/
  | drain (t : BitVec 2) (o : Nat) (bytes : List Byte)
deriving DecidableEq, Repr

/-- Where a piece of engine work stands (R142, R426): running; stopped, to be resumed; refused its page, so stopped for good;
cancelled. -/
inductive WorkSt where | run | stopped | refused | cancelled
deriving DecidableEq, Repr

/-- A piece of engine work and the group that issued it. -/
structure Work where
  wid : Nat
  gno : Nat
  kind : WorkKind
  st : WorkSt
  /-- the words moved of what is not complete: of a CPYL by lane and byte, of a bulk chunk by chunk and word since the last
  fault (R146), of a multicast by receiver and scratchpad byte -/
  part : List (Nat × Nat) := []
  /-- a bulk transfer that ACT 0b00 restarted: it takes its chunks in increasing order (R428) -/
  inOrder : Bool := false
deriving DecidableEq, Repr

/-- What a group does after a store, and may wait for: engine work of a batch, or its ordered arrival at a barrier. -/
inductive Mark where | batch (n : BitVec 16) | barrier (b : Nat)
deriving DecidableEq, Repr

/-- A store to a scratchpad word that no `.team` fence has ordered with the other path (R134): its offset, the path by which
a load may still see the word before the store (`cluster`: the cluster aperture), that word, the storing group, the groups
that see the store from now on (they read it, or it happens before what they do next), the groups that have released
since they stored it or saw it, with `true` for a release at `.die` or wider, and the batches and ordered arrivals of groups
that come after it (R167, R168). A team keeps them oldest first. -/
structure Alias where
  o : Nat
  cluster : Bool
  old : Word
  src : Option GRef
  seen : List GRef
  pub : List (GRef × Bool)
  later : List (GRef × Mark) := []
deriving DecidableEq, Repr

/-- A team (R8, R21): what its launch and descriptor fixed, and its own state. -/
structure Team where
  tid : Nat
  ctx : BitVec 12
  gid : Nat
  index : Nat
  die : Nat
  core : Nat
  clteam : Nat
  valloc : Nat
  spsz : Nat
  stksz : Nat
  carve : Nat
  spfmt : BitVec 4
  acc : Bool
  level : BitVec 2
  groups : List Group
  sets : List (Option (List Nat))
  rdvs : List Rdv
  bars : List Barrier
  hists : List Hist
  /-- scratchpad bytes, canonical over the default 0 (R111) -/
  scratch : List Host.Cell
  aliases : List Alias
  works : List Work
deriving DecidableEq, Repr

/-! ### Grids and contexts (R385, R386, R396) -/

/-- A kernel descriptor (R368). -/
structure KDesc where
  entry : Nat
  valloc : Nat
  carve : Nat
  spsz : Nat
  stksz : Nat
  spfmt : BitVec 8
  nbar : Nat
  histn : Nat
  qlim : Nat
  setmask : BitVec 8
  setoff : List Nat
deriving DecidableEq, Repr

/-- A grid that was accepted and has not completed (R401, R402, R406). -/
structure Grid where
  gid : Nat
  ctx : BitVec 12
  serial : BitVec 32
  entry : DWord
  desc : KDesc
  /-- the declared sets of its teams (R27, R368) -/
  sets : List (Option (List Nat))
  dimX : Nat
  dimY : Nat
  dimZ : Nat
  tlanes : Nat
  clx : Nat
  cly : Nat
  prio : BitVec 2
  cplen : Bool
  acc : Bool
  param : DWord
  cpladdr : Nat
  level : BitVec 2
  /-- linear index of the next team to place -/
  next : Nat
  /-- teams retired and released -/
  retired : Nat
  /-- cycles the grid waited while others were placed (R406) -/
  waited : Nat
  /-- teams of another grid were placed while this one waited (R406) -/
  passed : Bool
  aged : Bool
  /-- the completion-word add met a fault and waits for service (R402) -/
  addHeld : Bool
deriving DecidableEq, Repr

/-- A fault record that waits for SVDONE (R389, R392). -/
structure Pending where
  seq : BitVec 32
  cause : Cause
  flags : BitVec 16
  setn : BitVec 8
  tid : Nat
  gno : Nat
  pc : DWord
  lmask : Mask
  addr : DWord
  detail : BitVec 32
  aux : DWord
  /-- where ACT 0b01 resumes the group; none where the record came between its instructions: it goes on where it stands -/
  npc : Option DWord
  /-- the set-wide instruction that is reissued over the lanes that failed in its passes (R46, R427) -/
  again : Option Instr
  wid : Option Nat
  /-- the grid whose completion-word add waits for service (R402) -/
  add : Option Nat
  /-- the member of a set-wide fault was acted on and waits for the others (R427) -/
  acted : Bool
deriving DecidableEq, Repr

/-- A record that a full queue holds inside the device (R390): its 64 bytes. -/
abbrev RecBytes := List Byte

/-- A stack pool as the device read it (R477). -/
structure Pool where
  base : Nat
  blksz : Nat
  nblk : Nat
  used : List Nat
deriving DecidableEq, Repr

/-- Who holds a tile's token (R76). -/
inductive Holder where
  | nobody
  | engine (tid gno : Nat)
  | group (tid gno : Nat)
deriving DecidableEq, Repr

/-- The type of a tile (R76). -/
inductive TTy where | f32 | i32 | i32s
deriving DecidableEq, Repr

/-- An accumulator tile: 96 × 192 elements, kept as the sorted list of those that are not 0 (R76). -/
structure Tile where
  holder : Holder
  inuse : Bool
  dirty : Bool
  ty : TTy
  els : List (Nat × Word)
deriving DecidableEq, Repr

/-- An SACC that waits for the engine (R220). -/
structure Sacc where
  tid : Nat
  gno : Nat
  dst : BitVec 2
  src : BitVec 2
  rs : Nat
  cs : Option Nat
  /-- the scratchpad when it was issued -/
  snap : List Host.Cell
deriving DecidableEq, Repr

/-- A group waiting for its partners (R224): its descriptor is the loop it would queue. -/
structure Pairing where
  loop : Loop
  elapsed : Nat
deriving DecidableEq, Repr

/-- What a save writes for one team (R435): the team, its core's tiles, its recorded loops. -/
structure SavedTeam where
  team : Team
  tiles : List Tile
  loops : List Loop
deriving DecidableEq, Repr

/-- Where a context stands (R432, R438). -/
inductive CtxSt where | running | saving | saved | dumping | dead
deriving DecidableEq, Repr

/-- A context: the registers of R81, R386 and R388, its fault queue, and what firmware was told of it (R468). -/
structure Context where
  cid : BitVec 12
  part : BitVec 3
  st : CtxSt
  ctxb : DWord
  qlim : BitVec 2
  rvlim : BitVec 16
  fpc : BitVec 2
  fqbase : DWord
  log2n : BitVec 5
  fqhead : BitVec 16
  fqtail : BitVec 16
  drop : BitVec 16
  /-- records dropped since the last record with cause 0x002 -/
  dropNew : Nat
  /-- the next SEQ (R390) -/
  seq : BitVec 32
  /-- the next launch serial number (R401) -/
  serial : BitVec 32
  held : List RecBytes
  pend : List Pending
  /-- SVDONE actions kept in the save image: sequence number and ACT (R392) -/
  acts : List (BitVec 32 × BitVec 2)
  ptroot : Nat
  lqtab : Nat
  savea : Nat
  dumpa : Nat
  dumpsz : Nat
  svlr : Nat
  stktab : Nat
  pools : List Pool
  image : List SavedTeam
  /-- bytes of the image that the save wrote to SAVEA (R435) -/
  imgSize : Nat
  /-- writes of supervisor registers made while the context was saved, by index (R441) -/
  late : List (BitVec 8 × DWord)
  /-- cycle at which the save began, and the cycles its phase 1 took (R435) -/
  phase1 : Nat
  phase1n : Nat
  /-- TAIL of each launch queue as the last doorbell had it read (R400) -/
  rung : List (BitVec 32)
deriving DecidableEq, Repr

/-! ### Caches and memory (R114 to R131) -/

/-- Permissions and attributes that a fill delivers with a line (R114, R419). -/
structure Attr where
  r : Bool
  w : Bool
  q : Bool
  m : Bool
  pt : Bool
  efmt : BitVec 4
deriving DecidableEq, Repr

/-- A valid word of an L1 (R115). -/
structure L1W where
  ctx : BitVec 12
  va : Nat
  val : Word
  d : Bool
  g : Bool
  attr : Attr
deriving DecidableEq, Repr

/-- A valid word of an RDC (R117). -/
structure RdcW where
  ctx : BitVec 12
  va : Nat
  val : Word
  d : Bool
  writer : Nat
  fill : Nat
  attr : Attr
  /-- registered at home with the RDC as owner: what the RDC answers a roll-call with (R119, R131) -/
  reg : Bool
deriving DecidableEq, Repr

/-- A valid word of an L2 at its home (R116). -/
structure L2W where
  ctx : BitVec 12
  va : Nat
  val : Word
  d : Bool
  attr : Attr
deriving DecidableEq, Repr

/-- An entry of a slice's registry (R124): the context, the 4 KiB region, the slice of the region's home die, its registered
words each with its owner number (R120), and whether it has become a word-grain entry. A region entry has one owner; its
words are its mask. The registry holds its entries in the order of their last registration. -/
structure RegEntry where
  ctx : BitVec 12
  region : Nat
  slice : Nat
  words : List (Nat × BitVec 8)
  grain : Bool
deriving DecidableEq, Repr

/-- A word of a mirror store (R129), and whether the store owns the word (R130). -/
structure MirrorW where
  die : Nat
  ctx : BitVec 12
  va : Nat
  val : Word
  attr : Attr
  own : Bool
deriving DecidableEq, Repr

/-- A TLB entry of a CTU (R417): the page, its leaf, where the leaf stands in memory, and the words that lead to it (R418). -/
structure TlbE where
  ctx : BitVec 12
  page : Nat
  log : Nat
  leaf : DWord
  leafPa : Nat
  ptrs : List Nat
deriving DecidableEq, Repr

/-- A line of a stack's memory-side cache (R118): one DRAM row segment of 2 KiB, with valid and dirty bits per 64-byte
sector. Its data is what `Mach.mem` holds, since every access to the stack passes through the cache. -/
structure MscLine where
  seg : Nat
  valid : BitVec 32
  dirty : BitVec 32
deriving DecidableEq, Repr

/-- A line of an instruction cache: 16 words (R200, R379). -/
structure ILine where
  ctx : BitVec 12
  va : Nat
  words : List DWord
  q : Bool
  pt : Bool
deriving DecidableEq, Repr

/-- A write-back held at its CTU until its page is present and resident (R419). -/
structure HeldWb where
  ctx : BitVec 12
  va : Nat
  val : Word
  /-- the write-through of an atomic on a page-table page, which ends translations once it is made (R418) -/
  pt : Bool := false
deriving DecidableEq, Repr

/-- A site rewrite on its way to the home slice (R198). -/
structure Rewrite where
  core : Nat
  ctx : BitVec 12
  tid : Nat
  gno : Nat
  /-- the group slot, for the trace record (R452) -/
  gid : Nat
  pc : Nat
  old : DWord
  new : DWord
deriving DecidableEq, Repr

/-- A roll-call that some owner has not answered (R131). -/
structure RollCall where
  ctx : BitVec 12
  va : Nat
deriving DecidableEq, Repr

/-- A core: its L1, its instruction cache, its RDC horizon, its carve-out, its tiles and engine (R4, R111). -/
structure Core where
  l1 : List L1W
  icache : List ILine
  horizon : Nat
  carve : Nat
  /-- the CARVE that the core drains for (R407) -/
  draining : Option Nat
  /-- failed, and waits until it is empty (R475): the physical number of the spare that it takes then, or none -/
  failed : Bool
  spare : Option Nat := none
  removed : Bool
  tiles : List Tile
  loops : List Loop
  saccs : List Sacc
  /-- the group slot that each slice sampled last (R448) -/
  sampled : List Nat
deriving DecidableEq, Repr

/-- A partition's counters and the hardware side of its two buffers (R446, R459). -/
structure Part where
  pcnt : List (BitVec 64)
  /-- CSEL8 to CSEL15, the events of PCNT8 to PCNT15 (R444, R460) -/
  csel : List (BitVec 8)
  /-- K of the period that sampling is in: a new K takes effect at the next period boundary (R445) -/
  sK : Nat
  sTail : BitVec 64
  sLost : BitVec 64
  tTail : BitVec 64
  tLost : BitVec 64
deriving DecidableEq, Repr

/-- A queued dump (R439): the context and the 64 bytes of its fatal record. -/
structure Dump where
  ctx : BitVec 12
  primary : RecBytes
  second : List RecBytes
  nsecall : Nat
deriving DecidableEq, Repr

/-- What programs, engines, caches and the distributor work on. -/
structure Mach where
  /-- the group whose instruction runs (the model's own: the step sets it) -/
  cur : Option GRef
  /-- what moves next, oldest first (the model's own: inputs and events enter here) -/
  agenda : List Instr
  /-- counter of the free values (the model's own) -/
  draw : Nat
  /-- the slices that have issued in this cycle, by core and slice, with the group and its PC (R408) -/
  issued : List (Nat × Nat × GRef × DWord)
  /-- the groups whose next instruction a release holds in this cycle (R312, R419) -/
  stalled : List GRef
  /-- the slices that have taken a sample in this cycle (R448), and the dies that have taken a team or cluster (R406) -/
  sampledNow : List (Nat × Nat)
  placedNow : List Nat
  cycle : Nat
  /-- the module memory tier is present: CAP0.MODT (R1, R472) -/
  modt : Bool
  /-- fabric time in units of 2^−16 ns (R82), and the correction still to be slewed in (R461) -/
  ftime : Nat
  /-- what the last cycle left of a unit of fabric time (the model's own) -/
  ftrem : Nat
  slew : Int
  ctxs : List Context
  grids : List Grid
  teams : List Team
  cores : List Core
  rdc : List (List RdcW)
  mem : List Host.Cell
  l2 : List L2W
  registry : List RegEntry
  mirror : List MirrorW
  /-- the TLBs of the 136 CTUs: CTU k of C-die d is 32 d + k, CTU k of the I-die is 128 + k (R416, R417) -/
  ctus : List (List TlbE)
  /-- the memory-side caches of the eight stacks (R118) -/
  msc : List (List MscLine)
  /-- DRAM words whose next read meets an uncorrectable error, and L2 words whose check code fails (R395): set from outside -/
  memErr : List Nat
  l2Err : List (BitVec 12 × Nat)
  heldWb : List HeldWb
  poison : List (BitVec 12 × Nat)
  rollCalls : List RollCall
  rewrites : List Rewrite
  pairings : List Pairing
  /-- loss targets that are down with the cause their accesses take (R430, TGTST) -/
  loss : List (Nat × Cause)
  parts : List Part
  dumps : List Dump
  nextTid : Nat
  nextGid : Nat
  nextWid : Nat
  /-- the word the last host read returned, and the last attestation response (R463, R471) -/
  hostRead : Option Word
  response : List Byte
  /-- the firmware's log of dump faults (R439) -/
  fwLog : List (BitVec 12 × BitVec 64)
deriving DecidableEq, Repr

/-! ### Management space (R466, R470) -/

/-- A Chambray block (R444, R445). -/
structure Chambray where
  sctl : DWord
  sbase : DWord
  tctl : DWord
  tbase : DWord
  dctb : DWord
  waddr : List DWord
  wctl : List DWord
deriving DecidableEq, Repr

/-- Level-2 state: what firmware and the host driver reach and programs never do (R466). -/
structure Firmware where
  bootst : DWord
  mr : List (BitVec 256)
  cxlctl : DWord
  ftsrc : DWord
  ctxcmd : List DWord
  /-- a context command has started and has not completed (R468) -/
  cmdRun : Bool
  coremap : List DWord
  /-- the spare cores of each die, by physical number (R475) -/
  spares : List (List Nat)
  chambray : List Chambray
  ncore : BitVec 8
  lmode : BitVec 2
  form : BitVec 2
  links : BitVec 12
  lanesRemapped : BitVec 12
  /-- half-dies (2 × die + h) of each partition (R403) -/
  parts : List (List Nat)
  /-- steps of 75 MHz below 2.25 GHz (R476) -/
  throttle : Nat
  holdLaunch : Bool
  secver : DWord
  /-- what was written to the CXL 3.1 and the CXL 2.0 register layout, by offset (R473) -/
  cxl31 : List (Nat × DWord)
  cxl20 : List (Nat × DWord)
deriving DecidableEq, Repr

/-- The device. -/
structure State where
  m : Mach
  fw : Firmware
deriving DecidableEq, Repr

/-! ### Why a step can stop -/

/-- The machine stops because no rule gives a next state: it never does, so no fault exists. -/
inductive Fault where
deriving DecidableEq, Repr

/-- The model gives no meaning: nothing ran. -/
inductive Refusal where
  /-- An arm of exec that has no meaning yet, by its mnemonic. Safe: the model stops. -/
  | notModelled (mnemonic : String)
  /-- A program instruction was given with no issuing group. Raised by every program instruction's meaning when `cur`
  names no group that exists. Safe: no machine executes an instruction without a group. -/
  | noIssuingGroup
  /-- An event was given whose cause is not pending (no such work, rendezvous, record, context, group or token).
  Raised by the events. Safe: the event cannot occur in that state. -/
  | notPending
deriving DecidableEq, Repr

/-! ### Reset -/

/-- All registers of a group at creation but s0 (R70). -/
def Regs.initial (valloc : Nat) (param : DWord) : Regs :=
  { v := List.replicate valloc { lanes := List.replicate 32 0, tag := 0, u := true }
    s := { val := param, tag := 6 } :: List.replicate 63 { val := 0, tag := 6 }
    p := List.replicate 7 0
    x := List.replicate 4 (List.replicate 32 0)
    h := List.replicate 16 0 }

/-- A tile at reset (R79). -/
def Tile.initial : Tile := { holder := .nobody, inuse := false, dirty := false, ty := .f32, els := [] }

/-- A core at reset: empty caches, no team. -/
def Core.initial : Core :=
  { l1 := [], icache := [], horizon := 0, carve := 0, draining := none, failed := false, removed := false
    tiles := List.replicate 4 Tile.initial, loops := [], saccs := [], sampled := List.replicate 8 127 }

/-- A partition's counters at reset. -/
def Part.initial : Part := { pcnt := List.replicate 16 0, csel := List.replicate 8 0, sK := 14, sTail := 0, sLost := 0, tTail := 0, tLost := 0 }

/-- A Chambray block at reset (R445): SCTL.LOG2N 16 and K 14, TCTL.LOG2N 20, WCTLk.LOG2LEN 2. -/
def Chambray.initial : Chambray :=
  { sctl := 0x100E, sbase := 0, tctl := 0xA00, tbase := 0, dctb := 0
    waddr := List.replicate 4 0, wctl := List.replicate 4 2 }

/-- The machine part at reset: no context, no team, empty caches, no memory listed. -/
def Mach.initial : Mach :=
  { cur := none, agenda := [], draw := 0, issued := [], stalled := [], sampledNow := [], placedNow := [], cycle := 0, modt := true, ftime := 0, ftrem := 0, slew := 0, ctxs := [], grids := [], teams := []
    cores := List.replicate 96 Core.initial, rdc := List.replicate 4 [], mem := [], l2 := [], registry := []
    mirror := [], ctus := List.replicate 136 [], msc := List.replicate 8 [], memErr := [], l2Err := [], heldWb := [], poison := [], rollCalls := [], rewrites := [], pairings := []
    loss := [], parts := List.replicate 8 Part.initial, dumps := [], nextTid := 0, nextGid := 0, nextWid := 0
    hostRead := none, response := [], fwLog := [] }

/-- Level-2 state at reset (R466, R467, R470, R472); the values the spec does not give are those of log entry 2. -/
def Firmware.initial : Firmware :=
  { bootst := 0, mr := List.replicate 8 0, cxlctl := 100, ftsrc := 0, ctxcmd := List.replicate 8 0, cmdRun := false
    coremap := (List.range 96).map (fun n => BitVec.ofNat 64 (26 * (n / 24) + n % 24))
    spares := (List.range 4).map (fun d => [26 * d + 24, 26 * d + 25])
    chambray := List.replicate 8 Chambray.initial
    ncore := 96, lmode := 0, form := 2, links := 0xFFF, lanesRemapped := 0
    parts := [0, 1, 2, 3, 4, 5, 6, 7] :: List.replicate 7 []
    throttle := 0, holdLaunch := false, secver := 0, cxl31 := [], cxl20 := [] }

/-- The device right after reset. -/
def State.reset : State := { m := Mach.initial, fw := Firmware.initial }

end Sys2Proof.Machine
end

