-- ==== Sys2Proof/Machine/Mem.lean ====
section
/-! DEFINITION. Machine/Mem.lean: memory in canonical form, apertures (R109 to R113), translation (R411 to R419), the
caches, registration and atomics (R114 to R135), release and acquire (R119). -/
namespace Sys2Proof.Machine

/-! ### Sparse data in canonical form -/

/-- The value at `a`; an unlisted address reads as 0. -/
def Sparse.get {n : Nat} (m : List (Nat × BitVec n)) (a : Nat) : BitVec n :=
  match m with
  | [] => 0
  | (x, b) :: r => if a = x then b else if a < x then 0 else Sparse.get r a

/-- Write `b` at `a`, keeping the addresses rising and listing no 0. -/
def Sparse.set {n : Nat} (m : List (Nat × BitVec n)) (a : Nat) (b : BitVec n) : List (Nat × BitVec n) :=
  match m with
  | [] => if b = 0 then [] else [(a, b)]
  | (x, c) :: r =>
    if a < x then (if b = 0 then (x, c) :: r else (a, b) :: (x, c) :: r)
    else if a = x then (if b = 0 then r else (a, b) :: r)
    else (x, c) :: Sparse.set r a b

/-- Every address is at least `lo`, they rise strictly, and no value is 0. -/
def Sparse.wfFrom {n : Nat} (lo : Nat) : List (Nat × BitVec n) → Bool
  | [] => true
  | (x, b) :: r => decide (lo ≤ x) && decide (b ≠ 0) && Sparse.wfFrom (x + 1) r

/-- The canonical form of memory: addresses strictly rising, no entry equal to what an unlisted address reads as. -/
def Memory.wf (m : List Host.Cell) : Bool := Sparse.wfFrom 0 m

/-- The byte at `a`: an unlisted byte reads as 0 (log entry 3). -/
def Memory.get (m : List Host.Cell) (a : Nat) : Byte := Sparse.get m a

/-- Write one byte. -/
def Memory.set (m : List Host.Cell) (a : Nat) (b : Byte) : List Host.Cell := Sparse.set m a b

/-- The entries from address `a` on. -/
def Sparse.from {n : Nat} (m : List (Nat × BitVec n)) (a : Nat) : List (Nat × BitVec n) :=
  match m with
  | [] => []
  | (x, b) :: r => if x < a then Sparse.from r a else (x, b) :: r

/-- The little-endian word at `a` (R12). -/
def Memory.word (m : List Host.Cell) (a : Nat) : Word :=
  let r := Sparse.from m a
  Memory.get r (a + 3) ++ Memory.get r (a + 2) ++ Memory.get r (a + 1) ++ Memory.get r a

/-- Write a little-endian word (R12). -/
def Memory.setWord (m : List Host.Cell) (a : Nat) (w : Word) : List Host.Cell :=
  Memory.set (Memory.set (Memory.set (Memory.set m a (w.extractLsb' 0 8)) (a + 1) (w.extractLsb' 8 8))
    (a + 2) (w.extractLsb' 16 8)) (a + 3) (w.extractLsb' 24 8)

/-- The little-endian 64-bit value at `a`. -/
def Memory.dword (m : List Host.Cell) (a : Nat) : DWord :=
  let r := Sparse.from m a
  Memory.word r (a + 4) ++ Memory.word r a

/-- The bytes from `a` on. -/
def Memory.bytes (m : List Host.Cell) (a n : Nat) : List Byte := (List.range n).map (fun i => Memory.get m (a + i))

/-- Write consecutive bytes. -/
def Memory.setBytes (m : List Host.Cell) (a : Nat) : List Byte → List Host.Cell
  | [] => m
  | b :: r => Memory.setBytes (Memory.set m a b) (a + 1) r

/-- Replace byte `k` of a word. -/
def setByte (w : Word) (k : Nat) (b : Byte) : Word :=
  (w &&& ~~~((0xFF#32) <<< (8 * k))) ||| ((b.setWidth 32) <<< (8 * k))

/-- Byte `k` of a word. -/
def getByte (w : Word) (k : Nat) : Byte := w.extractLsb' (8 * k) 8

/-- Merge the low `size` bytes of `v` into a word at byte offset `k`. -/
def mergeSub (w : Word) (k size : Nat) (v : Word) : Word :=
  (List.range size).foldl (fun w i => setByte w (k + i) (getByte v i)) w

/-- A little-endian list of `n` bytes of a number. -/
def leBytes : Nat → Nat → List Byte
  | 0, _ => []
  | n + 1, v => BitVec.ofNat 8 v :: leBytes n (v / 256)

/-- The number that little-endian bytes hold. -/
def ofLe : List Byte → Nat
  | [] => 0
  | b :: r => b.toNat + 256 * ofLe r

/-- Put a value at place n of a list; a place that is not there holds d. -/
def putAt {α : Type} (d : α) : List α → Nat → α → List α
  | [], 0, x => [x]
  | [], n + 1, x => d :: putAt d [] n x
  | _ :: r, 0, x => x :: r
  | y :: r, n + 1, x => y :: putAt d r n x

/-- Change place n of a list; a place that is not there holds d. -/
def modAt {α : Type} (d : α) (l : List α) (n : Nat) (f : α → α) : List α := putAt d l n (f (l.getD n d))

/-! ### Pieces of the machine by name -/

def Mach.core (m : Mach) (c : Nat) : Core := m.cores.getD c Core.initial
def Mach.setCore (m : Mach) (c : Nat) (k : Core) : Mach := { m with cores := putAt Core.initial m.cores c k }
def Mach.ctx? (m : Mach) (c : BitVec 12) : Option Context := m.ctxs.find? (fun x => x.cid == c)
def Mach.setCtx (m : Mach) (k : Context) : Mach :=
  { m with ctxs := m.ctxs.map (fun x => if x.cid == k.cid then k else x) }
def Mach.team? (m : Mach) (t : Nat) : Option Team := m.teams.find? (fun x => x.tid == t)
def Mach.setTeam (m : Mach) (k : Team) : Mach :=
  { m with teams := m.teams.map (fun x => if x.tid == k.tid then k else x) }
def Team.group? (t : Team) (g : Nat) : Option Group := t.groups.find? (fun x => x.gno == g)
def Team.setGroup (t : Team) (g : Group) : Team :=
  { t with groups := t.groups.map (fun x => if x.gno == g.gno then g else x) }
def Mach.group? (m : Mach) (r : GRef) : Option Group := (m.team? r.tid).bind (fun t => t.group? r.gno)
def Mach.grid? (m : Mach) (g : Nat) : Option Grid := m.grids.find? (fun x => x.gid == g)
def Mach.setGrid (m : Mach) (k : Grid) : Mach :=
  { m with grids := m.grids.map (fun x => if x.gid == k.gid then k else x) }
/-- Apply f to one team. -/
def Mach.modTeam (m : Mach) (t : Nat) (f : Team → Team) : Mach :=
  { m with teams := m.teams.map (fun x => if x.tid == t then f x else x) }
/-- Apply f to one group of a team. -/
def Team.modGroup (t : Team) (g : Nat) (f : Group → Group) : Team :=
  { t with groups := t.groups.map (fun x => if x.gno == g then f x else x) }
def Mach.modGroup (m : Mach) (r : GRef) (f : Group → Group) : Mach := m.modTeam r.tid (fun t => t.modGroup r.gno f)

/-- Add n to fixed counter j of the context's partition (R460). -/
def Mach.countFix (m : Mach) (c : BitVec 12) (j n : Nat) : Mach :=
  match m.ctx? c with
  | none => m
  | some k =>
    { m with parts := m.parts.modify k.part.toNat (fun p =>
        { p with pcnt := p.pcnt.modify j (fun v => v + BitVec.ofNat 64 n) }) }

/-- Add n to the counters that select event `code` (R460). -/
def Mach.count (m : Mach) (c : BitVec 12) (code n : Nat) : Mach :=
  match m.ctx? c with
  | none => m
  | some k =>
    { m with parts := m.parts.modify k.part.toNat (fun p =>
        { p with pcnt := p.pcnt.mapIdx (fun j v =>
            if 8 ≤ j ∧ (p.csel.getD (j - 8) 0).toNat = code then v + BitVec.ofNat 64 n else v) }) }

/-! ### Apertures and homing (R109 to R113) -/

/-- Where a generic address lands (R109). -/
inductive Loc where
  | glob (va : Nat)
  | sp (tid : Nat) (o : Nat) (cluster : Bool)
deriving DecidableEq, Repr

/-- The team of cluster ordinal `k` beside team t (R405). -/
def Mach.clTeam (m : Mach) (t : Team) (k : Nat) : Option Team :=
  match m.grid? t.gid with
  | none => if k = t.clteam then some t else none
  | some g => m.teams.find? (fun x => x.gid == t.gid && x.clteam == k
      && x.index / (g.clx * g.cly) == t.index / (g.clx * g.cly))

/-- CLSIZE of a team (R396). -/
def Mach.clSize (m : Mach) (t : Team) : Nat :=
  match m.grid? t.gid with
  | none => 1
  | some g => g.clx * g.cly

/-- Stack byte o of lane l (R112). -/
def stackVa (base o l : Nat) : Nat := base + (o / 4) * 128 + l * 4 + o % 4

/-- Team scratchpad byte o, checked by R110. -/
def locTeamSp (t : Team) (o : Int) (size : Nat) : Except Cause Loc :=
  if o < 0 ∨ (t.spsz : Int) < o + size then .error 0xC2 else .ok (.sp t.tid o.toNat false)

/-- Cluster scratchpad byte (k, o), checked by R110. -/
def locClSp (m : Mach) (t : Team) (k : Int) (o : Nat) (size : Nat) : Except Cause Loc :=
  if k < 0 ∨ (m.clSize t : Int) ≤ k then .error 0xC3 else
  match m.clTeam t k.toNat with
  | none => .error 0xC3
  | some u => if u.spsz < o + size then .error 0xC3 else .ok (.sp u.tid o true)

/-- Stack byte o of a lane, checked by R110 and mapped by R112. -/
def locStack (t : Team) (g : Group) (lane : Nat) (o : Int) (size : Nat) : Except Cause Loc :=
  if o < 0 ∨ (t.stksz : Int) < o + size then .error 0xC4 else .ok (.glob (stackVa g.stkBase o.toNat lane))

/-- Steer a generic address (R109). -/
def steer (m : Mach) (t : Team) (g : Group) (lane : Nat) (a : DWord) (size : Nat) : Except Cause Loc :=
  let n := a.toNat
  if 2 ^ 52 ≤ n then .error 0xC0
  else if n < 0xF000000000000 then .ok (.glob n)
  else
    let r := n - 0xF000000000000
    if r < 2 ^ 21 then locTeamSp t r size
    else if 0x100000000000 ≤ r ∧ r < 0x100000000000 + 2 ^ 25 then
      locClSp m t ((r - 0x100000000000) / 2 ^ 21) ((r - 0x100000000000) % 2 ^ 21) size
    else if 0x200000000000 ≤ r ∧ r < 0x200000000000 + 2 ^ 32 then locStack t g lane (r - 0x200000000000) size
    else .error 0xC0

/-- The home C-die of a global address (R113). -/
def homeOf (va : Nat) : Nat :=
  if va < 2 ^ 51 then (va / 2 ^ 49) % 4
  else (List.range 16).foldl (fun a i => a ^^^ ((va / 2 ^ (16 + 2 * i)) % 4)) 0

/-- The die of a core number 0 to 95. -/
def dieOf (core : Nat) : Nat := core / 24

/-- The owner number of a core (R120). -/
def ownerCore (core : Nat) : BitVec 8 := BitVec.ofNat 8 (64 * (core / 24) + core % 24)
/-- The owner number of a die's RDC. -/
def ownerRdc (die : Nat) : BitVec 8 := BitVec.ofNat 8 (64 * die + 0x3E)
/-- The owner number of a die's mirror store. -/
def ownerMirror (die : Nat) : BitVec 8 := BitVec.ofNat 8 (64 * die + 0x3F)

/-! ### Translation (R411 to R420) -/

/-- The kinds of access that R415 tells apart. `atomic true` is at `.sys`. -/
inductive Kind where | load | store | atomic (sys : Bool) | fetch | engine | site
deriving DecidableEq, Repr

/-- A translated page: the leaf and its place. -/
structure Leaf where
  leaf : DWord
  log : Nat
  leafPa : Nat
  /-- the pointer words that the walk read, root first (R418) -/
  ptrs : List Nat
deriving DecidableEq, Repr

/-- The attributes of a leaf (R414). -/
def leafAttr (l : DWord) : Attr :=
  { r := l.getLsbD 41, w := l.getLsbD 40, q := l.getLsbD 55, m := l.getLsbD 54, pt := l.getLsbD 36
    efmt := l.extractLsb' 56 4 }
def leafTier (l : DWord) : Nat := (l.extractLsb' 60 2).toNat
/-- The physical address that a leaf gives a virtual address of its page. -/
def leafPaOf (l : DWord) (log va : Nat) : Nat := (l.extractLsb' 0 36).toNat * 4096 + va % 2 ^ log

/-- A pointer entry of the page table that passes R413 and R414: V is 1 and its type is `ty`. -/
def pointerOk (e : DWord) (ty : Nat) : Bool :=
  (e.extractLsb' 37 2).toNat == ty && (e.extractLsb' 36 1 == 0) && (e.extractLsb' 39 24 == 0)
    && decide ((e.extractLsb' 0 36).toNat * 4096 < 2 ^ 39)

/-- A leaf with V = 1 that passes R411, R413 and R414 for a page of 2^log bytes reached by `va`. The module tier has 1 TiB
(R4); a frame past it takes the check's cause (log entry 58). -/
def leafOk (modt : Bool) (e : DWord) (log va : Nat) : Bool :=
  let tier := leafTier e
  let frame := (e.extractLsb' 0 36).toNat
  let cls := (e.extractLsb' 42 12).toNat
  let hbm := decide (va < 2 ^ 51)
  (e.extractLsb' 37 2 == 0)
    && (if log = 21 then tier == 0 else if log = 12 then tier == 2 else (tier == 1 || tier == 3))
    && (if tier = 0 then hbm else !hbm)
    && (if tier = 1 then modt else true)
    && (if tier = 0 then frame % 512 == 0 && decide (frame * 4096 < 2 ^ 39)
        else if tier = 2 then frame / 2 ^ 32 == 2
        else frame % 16 == 0 && frame / 2 ^ 32 == tier && (tier != 1 || decide (frame % 2 ^ 32 < 2 ^ 28)))
    && (cls == 0 || (tier == 0 && cls == 1 + (frame * 4096 / 2 ^ 23) % 256))

/-! ### DRAM behind its memory-side caches (R118, R395) -/

/-- The HBM stack of a physical address (R411). -/
def stackOf (pa : Nat) : Nat := pa / 2 ^ 36
/-- The 64-byte sector of its line. -/
def sectorOf (pa : Nat) : Nat := pa % 2048 / 64
/-- The memory-side cache of the stack holds the sector of a physical address. -/
def mscHas (m : Mach) (pa : Nat) : Bool :=
  (m.msc.getD (stackOf pa) []).any (fun l => l.seg == pa / 2048 && l.valid.getLsbD (sectorOf pa))

/-- One access to a stack passes through its memory-side cache of 16 MiB: the sector becomes valid, and dirty if the access
writes (R118). A full cache gives up a line, which one is a free choice. -/
def mscTouch (m : Mach) (pa : Nat) (write : Bool) : Mach :=
  if 2 ^ 39 ≤ pa then m else
  let b : BitVec 32 := 1#32 <<< sectorOf pa
  { m with msc := modAt [] m.msc (stackOf pa) (fun ls =>
      if ls.any (fun l => l.seg == pa / 2048) then
        ls.map (fun l => if l.seg == pa / 2048 then { l with valid := l.valid ||| b, dirty := if write then l.dirty ||| b else l.dirty } else l)
      else
        (if 8192 ≤ ls.length then ls.eraseIdx (Config.pick m.draw 62 (pa / 2048) % ls.length) else ls)
          ++ [{ seg := pa / 2048, valid := b, dirty := if write then b else 0 }]) }

/-- A read of n bytes at a physical address passes through the memory-side cache. -/
def mscReads (m : Mach) (pa n : Nat) : Mach :=
  (List.range ((pa % 64 + n + 63) / 64)).foldl (fun m i => mscTouch m (pa + 64 * i) false) m

/-- The stack writes back and drops its memory-side lines over [pa, pa + n) (R156). -/
def mscDrop (m : Mach) (pa n : Nat) : Mach :=
  { m with msc := modAt [] m.msc (stackOf pa) (fun ls => ls.filter (fun l => !decide (l.seg * 2048 < pa + n ∧ pa < l.seg * 2048 + 2048))) }

/-- A read of the word at a physical address; none where the DRAM read meets an uncorrectable error (R395). -/
def dramRead (m : Mach) (pa : Nat) : Option Word :=
  if m.memErr.contains (pa - pa % 4) && !mscHas m pa then none else some (Memory.word m.mem pa)

/-- A write of the word at a physical address. -/
def dramWrite (m : Mach) (pa : Nat) (v : Word) : Mach :=
  { mscTouch m pa true with mem := Memory.setWord m.mem pa v, memErr := m.memErr.filter (fun a => a != pa - pa % 4) }

/-- An 8-byte entry of a page table as a walker reads it (R417). -/
def tableRead (m : Mach) (pa : Nat) : Option DWord :=
  match dramRead m pa, dramRead m (pa + 4) with
  | some lo, some hi => some (hi ++ lo)
  | _, _ => none

/-! ### The walk (R413, R415) -/

/-- An entry of the walk: the word, if V is 1 and it was read (R415). -/
def walkEntry (m : Mach) (pa : Nat) : Except Cause DWord :=
  match tableRead m pa with
  | none => .error 0x106
  | some e => if e.getLsbD 63 then .ok e else .error 0x100

/-- The four-level walk of R413: it stops at the first entry that fails (R415). With it, the entries that it read. -/
def walk (m : Mach) (ptroot va : Nat) : Except Cause Leaf × List Nat :=
  let a3 := ptroot + 8 * ((va / 2 ^ 39) % 2 ^ 13)
  match walkEntry m a3 with
  | .error c => (.error c, [a3])
  | .ok e3 =>
    if !pointerOk e3 1 then (.error 0x106, [a3]) else
    let a2 := (e3.extractLsb' 0 36).toNat * 4096 + 8 * ((va / 2 ^ 30) % 512)
    match walkEntry m a2 with
    | .error c => (.error c, [a3, a2])
    | .ok e2 =>
      if !pointerOk e2 1 then (.error 0x106, [a3, a2]) else
      let a1 := (e2.extractLsb' 0 36).toNat * 4096 + 8 * ((va / 2 ^ 21) % 512)
      match walkEntry m a1 with
      | .error c => (.error c, [a3, a2, a1])
      | .ok e1 =>
        if (e1.extractLsb' 37 2).toNat = 0 then
          (if leafOk m.modt e1 21 va then .ok { leaf := e1, log := 21, leafPa := a1, ptrs := [a3, a2] } else .error 0x106, [a3, a2, a1])
        else
          let log := if (e1.extractLsb' 37 2).toNat = 1 then 12 else 16
          if !(pointerOk e1 1 || pointerOk e1 2) then (.error 0x106, [a3, a2, a1]) else
          let a0 := (e1.extractLsb' 0 36).toNat * 4096 + 8 * ((va / 2 ^ log) % 2 ^ (21 - log))
          match walkEntry m a0 with
          | .error c => (.error c, [a3, a2, a1, a0])
          | .ok e0 =>
            (if leafOk m.modt e0 log va then .ok { leaf := e0, log := log, leafPa := a0, ptrs := [a3, a2, a1] } else .error 0x106,
             [a3, a2, a1, a0])

/-- The CTU that translates a request (R416). -/
def ctuOf (va : Nat) : Nat :=
  if va < 2 ^ 51 then 32 * homeOf va + ((va / 2 ^ 21) % 32 ^^^ (va / 2 ^ 26) % 32)
  else 128 + ((va / 2 ^ 16) % 8 ^^^ (va / 2 ^ 19) % 8)

/-- The TLB of the CTU that translates an address. -/
def tlbOf (m : Mach) (va : Nat) : List TlbE := m.ctus.getD (ctuOf va) []

/-- The TLB entry that covers an address (R417). -/
def tlbHit (m : Mach) (c : BitVec 12) (va : Nat) : Option TlbE :=
  (tlbOf m va).find? (fun e => e.ctx == c && e.page == va / 2 ^ e.log)

/-- Put an entry into the TLB of an address's CTU; one of 4,096 entries is given up where it is full (R417). -/
def tlbPut (m : Mach) (va : Nat) (e : TlbE) : Mach :=
  { m with ctus := modAt [] m.ctus (ctuOf va) (fun l =>
      (if 4096 ≤ l.length then l.eraseIdx (Config.pick m.draw 63 va % l.length) else l) ++ [e]) }

/-- Drop TLB entries in every CTU. -/
def tlbFilter (m : Mach) (f : TlbE → Bool) : Mach := { m with ctus := m.ctus.map (fun l => l.filter f) }

/-- Find the leaf of an address: a hit in its CTU's TLB, or a walk that leaves an entry (R417). RS is the first check of
R415. -/
def findLeaf (m : Mach) (c : BitVec 12) (va : Nat) : Except Cause Leaf × Mach :=
  match tlbHit m c va with
  | some e =>
    (if e.leaf.getLsbD 62 then .ok { leaf := e.leaf, log := e.log, leafPa := e.leafPa, ptrs := e.ptrs } else .error 0x101, m)
  | none =>
    match m.ctx? c with
    | none => (.error 0x100, m)
    | some k =>
      let m := m.count c 0x0F 1
      let w := walk m k.ptroot va
      let m := w.2.foldl (fun m a => if (tableRead m a).isSome then mscTouch m a false else m) m
      match w.1 with
      | .error e => (.error e, m)
      | .ok l =>
        if !l.leaf.getLsbD 62 then (.error 0x101, m) else
        (.ok l, tlbPut m va { ctx := c, page := va / 2 ^ l.log, log := l.log, leaf := l.leaf, leafPa := l.leafPa, ptrs := l.ptrs })

/-- Checks 3 and 4 of R415, with R418, on the attributes of a leaf or of a line. A level-0 fetch of a page-table page takes
the read-permission cause (log entry 58). -/
def permit (a : Attr) (level : BitVec 2) (k : Kind) : Except Cause Unit :=
  match k with
  | .load => if !a.r || (a.pt && level == 0) then .error 0x102 else .ok ()
  | .store | .engine =>
    if a.q then .error 0x241 else if !a.w || a.pt then .error 0x103 else .ok ()
  | .atomic sys =>
    if a.q then .error 0x241 else if !a.r || (a.pt && level == 0) then .error 0x102
    else if !a.w || (a.pt && !sys) then .error 0x103 else .ok ()
  | .fetch => if a.pt && level == 0 then .error 0x102 else .ok ()
  | .site => .ok ()

/-- The loss target of a physical address (R429, R466): the host, an expander, or a link (log entry 9). -/
def targetOf (pa : Nat) : Option Nat :=
  if pa / 2 ^ 44 = 2 then some 0
  else if pa / 2 ^ 44 = 3 then
    (let e := (pa / 2 ^ 40) % 16
     if e < 8 then some (1 + e) else some (9 + (e - 8)))
  else none

/-- The cause that an access to a down target takes (R430). -/
def lossOf (m : Mach) (pa : Nat) : Option Cause :=
  (targetOf pa).bind (fun t => (m.loss.find? (fun x => x.1 == t)).map (fun x => x.2))

/-- Translate one access: leaf, residency, home, permission (R415), then a lost target (R430). -/
def translate (m : Mach) (c : BitVec 12) (level : BitVec 2) (k : Kind) (va : Nat) :
    Except Cause (Nat × Attr) × Mach :=
  match findLeaf m c va with
  | (.error e, m) => (.error e, m)
  | (.ok l, m) =>
    let pa := leafPaOf l.leaf l.log va
    let a := leafAttr l.leaf
    if leafTier l.leaf = 0 ∧ (pa / 2 ^ 36) / 2 ≠ homeOf va then (.error 0x105, m) else
    match permit a level k with
    | .error e => (.error e, m)
    | .ok () =>
      if k = .fetch ∧ !l.leaf.getLsbD 39 then (.error 0x104, m) else
      match lossOf m pa with
      | some e => (.error e, m)
      | none => (.ok (pa, a), m)

/-- The address is in host, CXL-attached or peer memory: tier 2 or 3 (R119, R411). A page of those tiers' half of the address
space that does not translate now counts, so that a write-through of it is made and held (R419; log entry 77). -/
def offDevice (m : Mach) (c : BitVec 12) (va : Nat) : Bool :=
  match (findLeaf m c va).1 with
  | .ok l => decide (2 ≤ leafTier l.leaf)
  | .error _ => decide (2 ^ 51 ≤ va)

/-- The address is in host memory: tier 2 (R411). -/
def inHost (m : Mach) (c : BitVec 12) (va : Nat) : Bool :=
  match (findLeaf m c va).1 with
  | .ok l => leafTier l.leaf == 2
  | .error _ => false

/-- A page that a store, atomic or engine write may reach before its permissions are asked: checks 1 to 3 of R415. -/
def codeWrite (m : Mach) (c : BitVec 12) (va : Nat) : Except Cause Unit × Mach :=
  match findLeaf m c va with
  | (.error e, m) => (.error e, m)
  | (.ok l, m) =>
    if leafTier l.leaf = 0 ∧ (leafPaOf l.leaf l.log va / 2 ^ 36) / 2 ≠ homeOf va then (.error 0x105, m)
    else (if (leafAttr l.leaf).q then .error 0x241 else .ok (), m)

/-! ### Places in the caches (R114 to R118) -/

def Mach.modCore (m : Mach) (c : Nat) (f : Core → Core) : Mach := { m with cores := modAt Core.initial m.cores c f }

def l1Find (k : Core) (c : BitVec 12) (va : Nat) : Option L1W := k.l1.find? (fun w => w.ctx == c && w.va == va)
def l1Drop (k : Core) (c : BitVec 12) (va : Nat) : Core :=
  { k with l1 := k.l1.filter (fun w => !(w.ctx == c && w.va == va)) }
def l1Put (k : Core) (w : L1W) : Core := { l1Drop k w.ctx w.va with l1 := (l1Drop k w.ctx w.va).l1 ++ [w] }

def rdcFind (m : Mach) (die : Nat) (c : BitVec 12) (va : Nat) : Option RdcW :=
  (m.rdc.getD die []).find? (fun w => w.ctx == c && w.va == va)
def rdcDrop (m : Mach) (die : Nat) (c : BitVec 12) (va : Nat) : Mach :=
  { m with rdc := modAt [] m.rdc die (fun l => l.filter (fun w => !(w.ctx == c && w.va == va))) }
/-- Put a word; one that the RDC has registered at its home stays so (R119). -/
def rdcPut (m : Mach) (die : Nat) (w : RdcW) : Mach :=
  let g := (rdcFind m die w.ctx w.va).any (fun x => x.reg)
  { rdcDrop m die w.ctx w.va with rdc := modAt [] (rdcDrop m die w.ctx w.va).rdc die (fun l => l ++ [{ w with reg := w.reg || g }]) }

def l2Find (m : Mach) (c : BitVec 12) (va : Nat) : Option L2W := m.l2.find? (fun w => w.ctx == c && w.va == va)
def l2Drop (m : Mach) (c : BitVec 12) (va : Nat) : Mach :=
  { m with l2 := m.l2.filter (fun w => !(w.ctx == c && w.va == va)), l2Err := m.l2Err.filter (fun x => !(x.1 == c && x.2 == va)) }

/-- The line of 128 bytes that an address lies in, and its 32 words. -/
def lineOf (va : Nat) : Nat := va / 128
def lineAddrs (va : Nat) : List Nat := (List.range 32).map (fun i => va - va % 128 + 4 * i)
/-- Two words lie in one line of a cache (R114, R115). -/
def sameLine (c : BitVec 12) (va : Nat) (c' : BitVec 12) (va' : Nat) : Bool := c == c' && lineOf va == lineOf va'
/-- The lines that words lie in, each once. -/
def linesOf (ws : List (BitVec 12 × Nat)) : List (BitVec 12 × Nat) := (ws.map (fun w => (w.1, lineOf w.2))).eraseDups
/-- The line that a cache of `cap` lines gives up for a word of a line that it does not hold; which one is a free choice. -/
def victim (draw slot cap : Nat) (ws : List (BitVec 12 × Nat)) (c : BitVec 12) (va : Nat) : Option (BitVec 12 × Nat) :=
  if ws.length < cap || ws.any (fun w => sameLine w.1 w.2 c va) then none
  else if (linesOf ws).length < cap then none
  else (linesOf ws)[Config.pick draw slot va % (linesOf ws).length]?

/-- The slice of the home L2 that serves an address (R116). -/
def sliceOf (va : Nat) : Nat := (va / 128) % 32 ^^^ (va / 4096) % 32

/-! ### Registries (R120, R124) and mirror stores (R129) -/

/-- The registered words of a context with their owners. -/
def Mach.registered (m : Mach) : List (BitVec 12 × Nat × BitVec 8) := m.registry.flatMap (fun e => e.words.map (fun w => (e.ctx, w.1, w.2)))
/-- The registry entry that would hold a word. -/
def regFind (m : Mach) (c : BitVec 12) (va : Nat) : Option RegEntry :=
  m.registry.find? (fun e => e.ctx == c && e.region == va / 4096 && e.slice == sliceOf va)
def ownerOf (m : Mach) (c : BitVec 12) (va : Nat) : Option (BitVec 8) :=
  (regFind m c va).bind (fun e => (e.words.find? (fun w => w.1 == va)).map (fun w => w.2))
/-- Clear a word's registration; an entry with no word is free. -/
def unregister (m : Mach) (c : BitVec 12) (va : Nat) : Mach :=
  { m with registry := (m.registry.map (fun e =>
      if e.ctx == c then { e with words := e.words.filter (fun w => w.1 != va) } else e)).filter (fun e => !e.words.isEmpty) }
/-- The entries of a slice of a die's registry, of one kind, the least recently registered first. -/
def sliceEntries (m : Mach) (die slice : Nat) (grain : Bool) : List RegEntry :=
  m.registry.filter (fun e => homeOf (e.region * 4096) == die && e.slice == slice && e.grain == grain)

def mirrorFind (m : Mach) (die : Nat) (c : BitVec 12) (va : Nat) : Option MirrorW :=
  m.mirror.find? (fun w => w.die == die && w.ctx == c && w.va == va)
def mirrorDrop (m : Mach) (c : BitVec 12) (va : Nat) : Mach :=
  { m with mirror := m.mirror.filter (fun w => !(w.ctx == c && w.va == va)) }
def isPoisoned (m : Mach) (c : BitVec 12) (va : Nat) : Bool := m.poison.contains (c, va)
def addPoison (m : Mach) (c : BitVec 12) (va : Nat) : Mach :=
  if isPoisoned m c va then m else { m with poison := m.poison ++ [(c, va)] }
def dropPoison (m : Mach) (c : BitVec 12) (va : Nat) : Mach :=
  { m with poison := m.poison.filter (fun x => !(x == (c, va))) }

/-- Full attributes, for a word whose page no longer translates. -/
def Attr.full : Attr := { r := true, w := true, q := false, m := false, pt := false, efmt := 0 }

/-- What an owner holds for a word, with the attributes of its line (R114, R121). -/
def ownerWord (m : Mach) (o : BitVec 8) (c : BitVec 12) (va : Nat) : Option (Word × Attr) :=
  let die := o.toNat / 64
  let u := o.toNat % 64
  if u < 24 then (l1Find (m.core (24 * die + u)) c va).map (fun w => (w.val, w.attr))
  else if u = 0x3E then (rdcFind m die c va).map (fun w => (w.val, w.attr))
  else (mirrorFind m die c va).map (fun w => (w.val, w.attr))
def ownerVal (m : Mach) (o : BitVec 8) (c : BitVec 12) (va : Nat) : Option Word := (ownerWord m o c va).map (fun x => x.1)

/-- The owner sets the word Invalid (a revoke, R122, or an atomic's write-back, R127). -/
def ownerDrop (m : Mach) (o : BitVec 8) (c : BitVec 12) (va : Nat) : Mach :=
  let die := o.toNat / 64
  let u := o.toNat % 64
  if u < 24 then m.modCore (24 * die + u) (fun k => l1Drop k c va)
  else if u = 0x3E then rdcDrop m die c va
  else mirrorDrop m c va

/-- The owner keeps a Clean copy (a recall, R125). -/
def ownerClean (m : Mach) (o : BitVec 8) (c : BitVec 12) (va : Nat) : Mach :=
  let die := o.toNat / 64
  let u := o.toNat % 64
  if u < 24 then m.modCore (24 * die + u) (fun k =>
    { k with l1 := k.l1.map (fun w => if w.ctx == c && w.va == va then { w with d := false, g := false } else w) })
  else if u = 0x3E then { m with rdc := modAt [] m.rdc die (fun l =>
    l.map (fun w => if w.ctx == c && w.va == va then { w with d := false, reg := false } else w)) }
  else mirrorDrop m c va

/-! ### The home slice (R116, R121 to R125, R130) -/

/-- Write a word to the memory behind its home; held at its CTU while its page does not translate (R419), lost
while its target is down (R429). -/
def writeBack (m : Mach) (c : BitVec 12) (va : Nat) (v : Word) : Mach :=
  match findLeaf m c va with
  | (.ok l, m) =>
    let pa := leafPaOf l.leaf l.log va
    let m := { m with heldWb := m.heldWb.filter (fun h => !(h.ctx == c && h.va == va)) }
    if (lossOf m pa).isSome then m else dramWrite m pa v
  | (.error _, m) => { m with heldWb := m.heldWb ++ [{ ctx := c, va := va, val := v }] }

/-- Evict a word of the home L2 to memory (R123). -/
def l2Evict (m : Mach) (c : BitVec 12) (va : Nat) : Mach :=
  match l2Find m c va with
  | none => m
  | some w => if w.d then writeBack (l2Drop m c va) c va w.val else l2Drop m c va

/-- The words of a slice of a die's L2. -/
def sliceWords (m : Mach) (die slice : Nat) : List (BitVec 12 × Nat) :=
  (m.l2.filter (fun w => homeOf w.va == die && sliceOf w.va == slice)).map (fun w => (w.ctx, w.va))

/-- Room for a word's line in its slice of 2 MiB (R116): a full slice evicts a line. -/
def l2Room (m : Mach) (c : BitVec 12) (va : Nat) : Mach :=
  match victim m.draw 64 16384 (sliceWords m (homeOf va) (sliceOf va)) c va with
  | none => m
  | some x => ((lineAddrs (128 * x.2))).foldl (fun m a => l2Evict m x.1 a) m

/-- Put a word into the home L2. -/
def l2Put (m : Mach) (w : L2W) : Mach :=
  let m := l2Room m w.ctx w.va
  { l2Drop m w.ctx w.va with l2 := (l2Drop m w.ctx w.va).l2 ++ [w] }

/-- Data reaches the home slice: the L2 holds it dirty (R123). -/
def homeData (m : Mach) (c : BitVec 12) (va : Nat) (v : Word) (a : Attr) : Mach :=
  l2Put m { ctx := c, va := va, val := v, d := true, attr := a }

/-- Recall a registered word: its owner writes it back and the registration is cleared (R125). -/
def recallWord (m : Mach) (c : BitVec 12) (va : Nat) : Mach :=
  match ownerOf m c va with
  | none => m
  | some o =>
    let m := match ownerWord m o c va with
      | some x => homeData m c va x.1 (((l2Find m c va).map (fun w => w.attr)).getD x.2)
      | none => m
    (ownerClean (mirrorDrop (unregister m c va) c va) o c va).count c 0x0A 1

/-- Recall every word of a registry entry: the entry is free (R125). -/
def recallEntry (m : Mach) (e : RegEntry) : Mach := e.words.foldl (fun m w => recallWord m e.ctx w.1) m

/-- Room for one more entry of a kind in a slice's registry: 32,768 region entries, 256 word-grain entries (R124); a full one
recalls the entry registered least recently (R125). -/
def regRoom (m : Mach) (die slice : Nat) (grain : Bool) : Mach :=
  let es := sliceEntries m die slice grain
  if es.length < (if grain then 256 else 32768) then m else match es with
  | e :: _ => recallEntry m e
  | [] => m

/-- Enter an owner for a word: a region's second owner makes its entry a word-grain entry (R124). A region entry whose only
registered words pass to a new owner has one owner still: it stays a region entry (DESIGN CHOICE, log entry 68). -/
def regEnter (m : Mach) (c : BitVec 12) (va : Nat) (o : BitVec 8) : Mach :=
  let rest := fun (m : Mach) => m.registry.filter (fun e => !(e.ctx == c && e.region == va / 4096 && e.slice == sliceOf va))
  match regFind m c va with
  | some e =>
    let ws := e.words.filter (fun w => w.1 != va) ++ [(va, o)]
    let grain := e.grain || ws.any (fun w => w.2 != o)
    let m := if grain && !e.grain then regRoom m (homeOf va) (sliceOf va) true else m
    { m with registry := rest m ++ [{ e with words := ws, grain := grain }] }
  | none =>
    let m := regRoom m (homeOf va) (sliceOf va) false
    { m with registry := rest m ++ [{ ctx := c, region := va / 4096, slice := sliceOf va, words := [(va, o)], grain := false }] }

/-- Owner loss (R130): the mirror store of the buddy die takes the word over, or the home poisons it. The Boolean says
that the mirror answered. -/
def ownerLost (m : Mach) (o : BitVec 8) (c : BitVec 12) (va : Nat) : Bool × Mach :=
  let buddy := (o.toNat / 64) ^^^ 1
  match mirrorFind m buddy c va with
  | some _ =>
    (true, { regEnter m c va (ownerMirror buddy) with mirror := m.mirror.map (fun w =>
        if w.die == buddy && w.ctx == c && w.va == va then { w with own := true } else w) })
  | none => (false, addPoison m c va)

/-- What memory gives for a word: a write-back that is held for its page goes first (R419); none where the DRAM read meets
an uncorrectable error. -/
def memWord (m : Mach) (c : BitVec 12) (va pa : Nat) : Option Word :=
  match m.heldWb.reverse.find? (fun h => h.ctx == c && h.va == va) with
  | some h => some h.val
  | none => dramRead m pa

/-- Attributes that allow an access: those of a line, or, where they do not, those that the channel gives now (R419). -/
def permitLine (m : Mach) (c : BitVec 12) (level : BitVec 2) (k : Kind) (va : Nat) (a : Attr) : Except Cause Attr × Mach :=
  match permit a level k with
  | .ok () => (.ok a, m)
  | .error _ =>
    match translate m c level k va with
    | (.error e, m) => (.error e, m)
    | (.ok (_, a'), m) => (.ok a', m)

/-- A line of the home L2 is filled from memory at physical address `pa` of its word `va`: every word that the L2 does not
hold and nobody has registered. -/
def l2Fill (m : Mach) (c : BitVec 12) (va pa : Nat) (a : Attr) : Mach :=
  let m := l2Room m c va
  let ws := (lineAddrs va).filterMap (fun x =>
    if (l2Find m c x).isSome || (ownerOf m c x).isSome then none
    else (memWord m c x (pa - va % 128 + x % 128)).map (fun v => { ctx := c, va := x, val := v, d := false, attr := a : L2W }))
  mscTouch (mscTouch { m with l2 := m.l2 ++ ws } (pa - pa % 128) false) (pa - pa % 128 + 64) false

/-- The cause that a read of a poisoned word takes: owner-lost for the read that its owner did not answer, else
poisoned-word (R130, R431). -/
def poisonCause (m : Mach) (va : Nat) : Cause :=
  if (m.cur.bind (fun r => (m.group? r).bind (fun g => g.lostRd))).any (fun x => x.1 == va) then 0x140 else 0x141

/-- A read that reaches a word's home (R116, R121, R130, R395): poison, the owner's answer, the L2's data, or memory. Poison comes
before what the translation says, so that an atomic on a poisoned word of a Q page takes 0x141 and not 0x241: R130 and R415 do
not order the two (DESIGN CHOICE, log entry 80). -/
def readHome (m : Mach) (c : BitVec 12) (level : BitVec 2) (k : Kind) (va : Nat) : Except Cause (Word × Attr) × Mach :=
  if isPoisoned m c va then (.error (poisonCause m va), m) else
  match ownerOf m c va with
  | some o =>
    (match ownerVal m o c va with
     | some v =>
       (match (match (l2Find m c va).map (fun x => x.attr) with
          | some a => permitLine m c level k va a
          | none => (match translate m c level k va with
            | (.error e, m) => (.error e, m)
            | (.ok (_, a), m) => (.ok a, m))) with
        | (.error e, m) => (.error e, m)
        | (.ok a, m) => (.ok (v, a), m))
     | none => (.error 0x140, addPoison m c va))
  | none =>
    match l2Find m c va with
    | some w =>
      (match permitLine m c level k va w.attr with
       | (.error e, m) => (.error e, m)
       | (.ok a, m) => if m.l2Err.contains (c, va) then (.error 0x343, m) else (.ok (w.val, a), m.count c 0x04 1))
    | none =>
      match translate (m.count c 0x05 1) c level k va with
      | (.error e, m) => (.error e, m)
      | (.ok (pa, a), m) =>
        match memWord m c va pa with
        | none => (.error 0x340, addPoison m c va)
        | some v => (.ok (v, a), l2Fill m c va pa a)

/-- What the home would give for a word with no access made: nothing for a poisoned word. -/
def homePeek (m : Mach) (c : BitVec 12) (va : Nat) : Option (Word × Attr) :=
  if isPoisoned m c va || m.l2Err.contains (c, va) then none else
  match ownerOf m c va with
  | some o => (ownerWord m o c va).map (fun x => (x.1, ((l2Find m c va).map (fun w => w.attr)).getD x.2))
  | none => (l2Find m c va).map (fun w => (w.val, w.attr))

/-! ### Evictions of L1 and RDC (R123) -/

/-- A core's copy of a word homed on another die, in its die's RDC, makes way for newer data of that core at the home: a clean
one is stale, a dirty one is superseded. A dirty word of another writer stays (R127). -/
def rdcYield (m : Mach) (core : Nat) (c : BitVec 12) (va : Nat) : Mach :=
  match rdcFind m (dieOf core) c va with
  | none => m
  | some w =>
    if homeOf va = dieOf core ∨ (w.d = true ∧ w.writer ≠ core % 24) then m else
    let m := rdcDrop m (dieOf core) c va
    if ownerOf m c va = some (ownerRdc (dieOf core)) then unregister (mirrorDrop m c va) c va else m

/-- Data of a word that its writer had not registered is newer, in co, than what an owner of the word holds: that owner is
revoked (R122, R123, R172; DEDUCED, log entry 75). -/
def supersede (m : Mach) (c : BitVec 12) (va : Nat) : Mach :=
  match ownerOf m c va with
  | none => m
  | some o => (ownerDrop (unregister (mirrorDrop m c va) c va) o c va).count c 0x09 1

/-- Evict a word of a die's RDC to its home (R123). -/
def rdcEvict (m : Mach) (die : Nat) (c : BitVec 12) (va : Nat) : Mach :=
  match rdcFind m die c va with
  | none => m
  | some w =>
    let m := rdcDrop m die c va
    if !w.d then m
    else if ownerOf m c va = some (ownerRdc die) then homeData (mirrorDrop (unregister m c va) c va) c va w.val w.attr
    else homeData (supersede m c va) c va w.val w.attr

/-- Evict a word of a core's L1 to its home (R123). A dirty copy of the word in the die's RDC, which is older, is evicted before it
(R380). -/
def l1Evict (m : Mach) (core : Nat) (c : BitVec 12) (va : Nat) : Mach :=
  match l1Find (m.core core) c va with
  | none => m
  | some w =>
    let m := m.modCore core (fun k => l1Drop k c va)
    if !w.d then m
    else if w.g then homeData (mirrorDrop (unregister m c va) c va) c va w.val w.attr
    else homeData (supersede (rdcEvict m (dieOf core) c va) c va) c va w.val w.attr

/-- Room for a word's line in a core's L1 of 2,048 − CARVE KiB (R111, R115): a full L1 evicts a line. -/
def l1Room (m : Mach) (core : Nat) (c : BitVec 12) (va : Nat) : Mach :=
  match victim m.draw 65 ((2048 - (m.core core).carve) * 8) ((m.core core).l1.map (fun w => (w.ctx, w.va))) c va with
  | none => m
  | some x => (lineAddrs (128 * x.2)).foldl (fun m a => l1Evict m core x.1 a) m

/-- Put a word into a core's L1, with room for its line. -/
def l1Fill (m : Mach) (core : Nat) (w : L1W) : Mach := (l1Room m core w.ctx w.va).modCore core (fun k => l1Put k w)

/-- Room for a word's line in a die's RDC of 32 MiB (R4, R117). -/
def rdcRoom (m : Mach) (die : Nat) (c : BitVec 12) (va : Nat) : Mach :=
  match victim m.draw 66 262144 ((m.rdc.getD die []).map (fun w => (w.ctx, w.va))) c va with
  | none => m
  | some x => (lineAddrs (128 * x.2)).foldl (fun m a => rdcEvict m die x.1 a) m

/-- The fill time of a word's line in a die's RDC: now, where the RDC does not hold the line (R117). -/
def rdcStamp (m : Mach) (die : Nat) (c : BitVec 12) (va : Nat) : Nat :=
  (((m.rdc.getD die []).find? (fun w => sameLine w.ctx w.va c va)).map (fun w => w.fill)).getD m.cycle

/-- Put a word into a die's RDC, with room for its line; the line keeps its fill time (R117). -/
def rdcFill (m : Mach) (die : Nat) (w : RdcW) : Mach :=
  let m := rdcRoom m die w.ctx w.va
  rdcPut m die { w with fill := rdcStamp m die w.ctx w.va }

/-! ### Accesses by a core (R114, R115, R117) -/

/-- Who makes an access: for which group, none for hardware's own. -/
structure Who where
  ctx : BitVec 12
  core : Nat
  level : BitVec 2
  grp : Option GRef
deriving DecidableEq, Repr

/-- A word of the RDC answers a core's lookup: it is dirty, or its line was filled after the core's horizon (R117). -/
def rdcFresh (m : Mach) (core : Nat) (e : RdcW) : Bool := e.d || decide ((m.core core).horizon < e.fill)

/-- The RDC line of a word is filled anew from the home: its clean words and the words it lacks. The line has one fill time
(R117). -/
def rdcLine (m : Mach) (core : Nat) (c : BitVec 12) (va : Nat) : Mach :=
  let die := dieOf core
  let m := rdcRoom m die c va
  let ws := (lineAddrs va).filterMap (fun x =>
    if (rdcFind m die c x).any (fun e => e.d) then none
    else (homePeek m c x).map (fun v => { ctx := c, va := x, val := v.1, d := false, writer := core % 24, fill := m.cycle, attr := v.2, reg := false : RdcW }))
  { m with rdc := modAt [] m.rdc die (fun l => (l.filter (fun w => w.d || !sameLine w.ctx w.va c va)).map (fun w =>
      if sameLine w.ctx w.va c va then { w with fill := m.cycle } else w) ++ ws) }

/-- What the level below a core's L1 gives for a word with no access made. -/
def belowL1 (m : Mach) (core : Nat) (c : BitVec 12) (va : Nat) : Option (Word × Attr) :=
  if homeOf va = dieOf core then homePeek m c va
  else match rdcFind m (dieOf core) c va with
    | some e => if rdcFresh m core e then some (e.val, e.attr) else none
    | none => none

/-- The L1 line of a word is filled: the word, and the words of its line that L1 lacks and the level below has. -/
def l1Line (m : Mach) (core : Nat) (c : BitVec 12) (va : Nat) (v : Word) (a : Attr) : Mach :=
  let m := l1Fill m core { ctx := c, va := va, val := v, d := false, g := false, attr := a }
  let ws := (lineAddrs va).filterMap (fun x =>
    if (l1Find (m.core core) c x).isSome then none
    else (belowL1 m core c x).map (fun y => { ctx := c, va := x, val := y.1, d := false, g := false, attr := y.2 : L1W }))
  m.modCore core (fun k => { k with l1 := k.l1 ++ ws })

/-- An ordinary read of a global word by a core: L1, the RDC for a remote home, the home (R115 to R121). -/
def readGlob (m : Mach) (w : Who) (va : Nat) : Except Cause (Word × Attr) × Mach :=
  match l1Find (m.core w.core) w.ctx va with
  | some e =>
    (match permitLine m w.ctx w.level .load va e.attr with
     | (.error c, m) => (.error c, m)
     | (.ok a, m) => (.ok (e.val, a), m.count w.ctx 0x02 1))
  | none =>
    let m := m.count w.ctx 0x03 1
    if homeOf va = dieOf w.core then
      match readHome m w.ctx w.level .load va with
      | (.error c, m) => (.error c, m)
      | (.ok r, m) => (.ok r, l1Line m w.core w.ctx va r.1 r.2)
    else
      let refill (m : Mach) : Except Cause (Word × Attr) × Mach :=
        match readHome m w.ctx w.level .load va with
        | (.error c, m) => (.error c, m)
        | (.ok r, m) => (.ok r, l1Line (rdcLine m w.core w.ctx va) w.core w.ctx va r.1 r.2)
      match rdcFind m (dieOf w.core) w.ctx va with
      | some e =>
        if rdcFresh m w.core e then
          (match permitLine m w.ctx w.level .load va e.attr with
           | (.error c, m) => (.error c, m)
           | (.ok a, m) => (.ok (e.val, a), l1Line (m.count w.ctx 0x06 1) w.core w.ctx va e.val a))
        else refill (m.count w.ctx 0x07 1)
      | none => refill m

/-- Write permission for a store or engine write, from the line or from the channel (R114, R415, R419). -/
def writePerm (m : Mach) (w : Who) (k : Kind) (va : Nat) : Except Cause Attr × Mach :=
  match l1Find (m.core w.core) w.ctx va with
  | some e =>
    if e.attr.w && !e.attr.q && !e.attr.pt then (.ok e.attr, m)
    else (match translate m w.ctx w.level k va with
      | (.error c, m) => (.error c, m)
      | (.ok (_, a), m) => (.ok a, m))
  | none =>
    match translate m w.ctx w.level k va with
    | (.error c, m) => (.error c, m)
    | (.ok (_, a), m) => (.ok a, m)

/-- A whole word is stored: Dirty in the core's L1; a Registered word stays Registered (R115). -/
def putGlob (m : Mach) (w : Who) (k : Kind) (va : Nat) (v : Word) : Except Cause Unit × Mach :=
  match writePerm m w k va with
  | (.error c, m) => (.error c, m)
  | (.ok a, m) =>
    let g := match l1Find (m.core w.core) w.ctx va with
      | some e => e.g
      | none => false
    (.ok (), l1Fill m w.core { ctx := w.ctx, va := va, val := v, d := true, g := g, attr := a })

/-- A store of a whole word, an L1 hit where L1 holds the word (R115, R460). -/
def writeGlob (m : Mach) (w : Who) (k : Kind) (va : Nat) (v : Word) : Except Cause Unit × Mach :=
  putGlob (m.count w.ctx (if (l1Find (m.core w.core) w.ctx va).isSome then 0x02 else 0x03) 1) w k va v

/-- An ordinary load but that a poisoned word is not hidden by a Clean copy: the fetch of an L1 atomic or of a store (R130). -/
def fetchSub (m : Mach) (w : Who) (va : Nat) : Except Cause (Word × Attr) × Mach :=
  if isPoisoned m w.ctx va && !(l1Find (m.core w.core) w.ctx va).any (fun e => e.d) then (.error (poisonCause m va), m)
  else readGlob m w va

/-- The fetch of a store that writes part of a word (R115): checks 1 to 3 of R415 are those of the store, which come before
read permission. A line without Q has passed them. -/
def fetchStore (m : Mach) (w : Who) (va : Nat) : Except Cause (Word × Attr) × Mach :=
  match (if (l1Find (m.core w.core) w.ctx va).any (fun e => !e.attr.q) then (.ok (), m) else codeWrite m w.ctx va) with
  | (.error c, m) => (.error c, m)
  | (.ok (), m) => fetchSub m w va

/-- A store of fewer than 4 bytes: fetch the word as a load, merge, store (R115). -/
def writeSub (m : Mach) (w : Who) (k : Kind) (va size : Nat) (v : Word) : Except Cause Unit × Mach :=
  match fetchStore m w (va - va % 4) with
  | (.error c, m) => (.error c, m)
  | (.ok (x, _), m) => putGlob m w k (va - va % 4) (mergeSub x (va % 4) size v)

/-! ### Release and acquire (R119) -/

/-- The mirror store of a die has room for one more word of its 8 MiB: when full, the oldest mirrored word is written back by
its owner and its registration cleared (R129). -/
def mirrorRoom (m : Mach) (die : Nat) : Mach :=
  let ws := m.mirror.filter (fun w => w.die == die)
  if ws.length < 2 ^ 21 then m else match ws with
  | w :: _ => mirrorDrop (recallWord m w.ctx w.va) w.ctx w.va
  | [] => m

/-- Register a word at its home for `o` (R122): revoke an earlier owner, record the new one, clear poison (R130), copy a
mirrored word to the buddy die (R129). -/
def register (m : Mach) (o : BitVec 8) (c : BitVec 12) (va : Nat) (v : Word) (a : Attr) : Mach :=
  let m := match ownerOf m c va with
    | some p => if p = o then m else (ownerDrop m p c va).count c 0x09 1
    | none => m
  let m := regEnter (dropPoison (mirrorDrop m c va) c va) c va o
  let buddy := (o.toNat / 64) ^^^ 1
  let m := if a.m then
      (let m := mirrorRoom m buddy
       { m with mirror := m.mirror ++ [{ die := buddy, ctx := c, va := va, val := v, attr := a, own := false }] })
    else m
  let m := match l2Find m c va with
    | some _ => m
    | none => l2Put m { ctx := c, va := va, val := v, d := false, attr := a }
  m.count c 0x08 1

/-- The `.die` work of a release on one Dirty L1 word of a core (R119). -/
def releaseDie (m : Mach) (core : Nat) (w : L1W) : Mach :=
  if homeOf w.va = dieOf core then
    let m := m.modCore core (fun k => l1Put k { w with g := true })
    register m (ownerCore core) w.ctx w.va w.val w.attr
  else
    let m := m.modCore core (fun k => l1Put k { w with d := false, g := false })
    rdcFill m (dieOf core)
      { ctx := w.ctx, va := w.va, val := w.val, d := true, writer := core % 24, fill := m.cycle, attr := w.attr, reg := false }

/-- The `.dev` work of a release on one dirty RDC word (R119). -/
def releaseDev (m : Mach) (die : Nat) (w : RdcW) : Mach :=
  register (rdcPut m die { w with reg := true }) (ownerRdc die) w.ctx w.va w.val w.attr

/-- The `.sys` work of a release on a word of host or CXL-attached memory: write it through (R119). -/
def writeThrough (m : Mach) (c : BitVec 12) (va : Nat) (v : Word) : Mach :=
  let o := ownerOf m c va
  let m := writeBack m c va v
  let m := match l2Find m c va with
    | some w => l2Put m { w with val := v, d := false }
    | none => m
  let m := unregister (mirrorDrop m c va) c va
  match o with
  | some o => ownerClean m o c va
  | none => m

/-- Change the aliases of every team (R134). -/
def Mach.modAliases (m : Mach) (f : Team → List Alias → List Alias) : Mach :=
  { m with teams := m.teams.map (fun t : Team => { t with aliases := f t t.aliases }) }

/-- The core of a group's team. -/
def Mach.coreOf (m : Mach) (r : GRef) : Option Nat := (m.team? r.tid).map (fun t => t.core)

/-- A group sees the store from now on. -/
def Alias.mark (a : Alias) (r : GRef) : Alias := if a.seen.contains r then a else { a with seen := a.seen ++ [r] }

/-- A release by a group publishes the scratchpad stores that it made or saw (R119, R134, R166). -/
def pubAliases (m : Mach) (r : GRef) (sc : MScope) : Mach :=
  m.modAliases (fun _ al => al.map (fun a =>
    if (a.src == some r || a.seen.contains r) && !a.pub.contains (r, sc != .team) then { a with pub := a.pub ++ [(r, sc != .team)] } else a))

/-- An acquire by a group orders the scratchpad stores that another group has published to it: a group of its core at any
scope, a group of another core where both scopes are `.die` or wider (R134, R166, R169). A store of the acquiring group
itself stays unordered with its other path (R160). -/
def orderAliases (m : Mach) (r : GRef) (sc : MScope) : Mach :=
  m.modAliases (fun _ al => al.map (fun a =>
    if a.pub.any (fun p => p.1 != r && ((sc != .team && p.2) || m.coreOf p.1 == m.coreOf r)) then a.mark r else a))

/-- What a group does now comes after the scratchpad stores that it made or saw (R167, R168). -/
def markLater (m : Mach) (r : GRef) (k : Mark) : Mach :=
  m.modAliases (fun _ al => al.map (fun a =>
    if (a.src == some r || a.seen.contains r) && !a.later.contains (r, k) then { a with later := a.later ++ [(r, k)] } else a))

/-- The group has waited for what came after stores: it sees them from now on, those that it made itself among them. -/
def seeLater (m : Mach) (r : GRef) (f : Mark → Bool) : Mach :=
  m.modAliases (fun _ al => al.map (fun a => if a.later.any (fun x => x.1 == r && f x.2) then a.mark r else a))

/-- A group's earlier arrival at a barrier is no longer what a wait of it there waits for. -/
def dropLater (m : Mach) (r : GRef) (k : Mark) : Mach :=
  m.modAliases (fun _ al => al.map (fun a => { a with later := a.later.filter (fun x => x != (r, k)) }))

/-- A fence of `.team` or wider orders the two paths for its group: for the stores it made, and for those to the scratchpads
of its core (R134). -/
def fencePaths (m : Mach) (r : GRef) : Mach :=
  m.modAliases (fun t al => al.map (fun a => if a.src == some r || some t.core == m.coreOf r then a.mark r else a))

/-- The words a release at a scope must carry: of one core, within a range if one is given (R119). At `.sys` the words of
host and CXL-attached memory go through to that memory: those dirty or registered in the core's caches, then those that
its earlier write-backs and atomics left dirty at their home. -/
def release (m : Mach) (core : Nat) (sc : MScope) (rng : Nat → Bool) : Mach :=
  if sc = .team then m else
  let dirty := (m.core core).l1.filter (fun w => w.d && !w.g && rng w.va)
  let m := dirty.foldl (fun m w => releaseDie m core w) m
  if sc = .die then m else
  let mine := (m.rdc.getD (dieOf core) []).filter (fun w => w.d && w.writer == core % 24 && rng w.va)
  let m := mine.foldl (fun m w => releaseDev m (dieOf core) w) m
  if sc = .dev then m else
  let l1s := (m.core core).l1.filter (fun w => w.d && rng w.va && offDevice m w.ctx w.va)
  let m := l1s.foldl (fun m w =>
    (writeThrough m w.ctx w.va w.val).modCore core (fun k => l1Put k { w with d := false, g := false })) m
  let rs := (m.rdc.getD (dieOf core) []).filter (fun w => w.d && w.writer == core % 24 && rng w.va
    && offDevice m w.ctx w.va)
  let m := rs.foldl (fun m w => (rdcDrop (writeThrough m w.ctx w.va w.val) (dieOf core) w.ctx w.va)) m
  let hs := m.l2.filter (fun w => w.d && rng w.va && (ownerOf m w.ctx w.va).isNone && offDevice m w.ctx w.va)
  hs.foldl (fun m w => writeThrough m w.ctx w.va w.val) m

/-- With LMODE 2 a `.sys` acquire invalidates the context's host-memory lines in every L2, for the words that it is for; dirty
words go to memory first (R464). -/
def hostLines (m : Mach) (c : BitVec 12) (rng : Nat → Bool) : Mach :=
  (m.l2.filter (fun w => w.ctx == c && rng w.va && inHost m c w.va)).foldl (fun m w => l2Evict m c w.va) m

/-- The acquire work of a scope on a core (R119, R464). -/
def acquire (m : Mach) (ctx : BitVec 12) (core : Nat) (sc : MScope) (lmode : BitVec 2) : Mach :=
  if sc = .team then m else
  let m := m.modCore core (fun k => { k with l1 := k.l1.filter (fun w => w.d) })
  if sc = .die then m else
  let m := m.modCore core (fun k => { k with horizon := m.cycle })
  if sc = .sys ∧ lmode = 2 then hostLines m ctx (fun _ => true) else m

/-- A release by a group publishes the scratchpad stores that it made or saw, and its reductions are performed (R165). -/
def publish (m : Mach) (r : GRef) (sc : MScope) : Mach :=
  (pubAliases m r sc).modGroup r (fun g => { g with reqs := g.reqs.filter (fun q => !q.ids.isEmpty) })

/-- A release and an acquire by a group: the caches' work with the order of its scratchpad stores. -/
def releaseBy (m : Mach) (r : GRef) (core : Nat) (sc : MScope) : Mach := release (publish m r sc) core sc (fun _ => true)
def acquireBy (m : Mach) (r : GRef) (ctx : BitVec 12) (core : Nat) (sc : MScope) (lmode : BitVec 2) : Mach :=
  acquire (orderAliases m r sc) ctx core sc lmode

/-- INVR: the acquire work of a scope for the words of a range; the horizon stays (R313, R464). -/
def invalRange (m : Mach) (ctx : BitVec 12) (core : Nat) (sc : MScope) (lmode : BitVec 2) (rng : Nat → Bool) : Mach :=
  if sc = .team then m else
  let m := m.modCore core (fun k => { k with l1 := k.l1.filter (fun w => w.d || !rng w.va) })
  if sc = .die then m else
  let m := { m with rdc := modAt [] m.rdc (dieOf core) (fun l => l.filter (fun w => w.d || !rng w.va)) }
  if sc = .sys ∧ lmode = 2 then hostLines m ctx rng else m

/-! ### Scratchpad (R111, R134) -/

/-- The scratchpad word at offset o of a team. -/
def spWord (t : Team) (o : Nat) : Word := Memory.word t.scratch o

/-- The stores to a word that loads of a group by one path may still miss, newest first: none from one on that it sees. -/
def unseen (t : Team) (o : Nat) (cluster : Bool) (r : GRef) : List Alias :=
  ((t.aliases.filter (fun a => a.o == o && a.cluster == cluster)).reverse).takeWhile (fun a => !a.seen.contains r)

/-- How many of n unordered stores a load misses: a free choice (R134). -/
def missed (draw slot o n : Nat) : Nat := ((List.range n).find? (fun d => Config.pick draw slot (64 * o + d) % 2 == 0)).getD n

/-- A group has read a word by one path as it is after all but `d` of the stores to it: it sees the others from now on (R160). -/
def sawWord (m : Mach) (tid o : Nat) (cluster : Bool) (r : GRef) (d : Nat) : Mach :=
  m.modTeam tid (fun t =>
    let us := (unseen t o cluster r).take d
    { t with aliases := t.aliases.map (fun a => if a.o == o && a.cluster == cluster && !us.contains a then a.mark r else a) })

/-- The word after all but `d` of the stores that a group may miss. -/
def wordLess (t : Team) (us : List Alias) (o d : Nat) : Word := if d = 0 then spWord t o else ((us[d - 1]?).map (fun a => a.old)).getD (spWord t o)

/-- A load of a group by one path sees the word, or the word before some of the other path's stores that nothing ordered
(R134). What it saw, its later loads by that path see or newer (R160). -/
def spRead (m : Mach) (tid o : Nat) (cluster : Bool) (r : Option GRef) (slot : Nat) : Word × Mach :=
  match m.team? tid, r with
  | none, _ => (0, m)
  | some t, none => (spWord t o, m)
  | some t, some r =>
    let us := unseen t o cluster r
    let d := missed m.draw slot o us.length
    (wordLess t us o d, sawWord m tid o cluster r d)

/-- A read of a scratchpad word by an engine for a batch of a group: a store that the group made before it issued the work, or
saw, is not missed; what the engine saw, the group sees once it has waited for the batch (R167). -/
def spEngRead (m : Mach) (tid o : Nat) (cluster : Bool) (r : GRef) (n : BitVec 16) (slot : Nat) : Word × Mach :=
  match m.team? tid with
  | none => (0, m)
  | some t =>
    let us := (unseen t o cluster r).takeWhile (fun a => a.src != some r && !a.later.contains (r, .batch n))
    let d := missed m.draw slot o us.length
    (wordLess t us o d, m.modTeam tid (fun t => { t with aliases := t.aliases.map (fun a =>
      if a.o == o && a.cluster == cluster && !(us.take d).contains a && !a.later.contains (r, .batch n)
      then { a with later := a.later ++ [(r, .batch n)] } else a) }))

/-- An engine has read scratchpad words as their newest stores left them, for a batch of a group (R167). -/
def spEngSaw (m : Mach) (tid : Nat) (f : Nat → Bool) (r : GRef) (n : BitVec 16) : Mach :=
  m.modTeam tid (fun t => { t with aliases := t.aliases.map (fun a =>
    if f a.o && !a.later.contains (r, .batch n) then { a with later := a.later ++ [(r, .batch n)] } else a) })

/-- A group's read of the newest value of a word by one path. -/
def spNewest (m : Mach) (tid o : Nat) (cluster : Bool) (r : Option GRef) : Word × Mach :=
  match m.team? tid, r with
  | none, _ => (0, m)
  | some t, none => (spWord t o, m)
  | some t, some r => (spWord t o, sawWord m tid o cluster r 0)

/-- Store a scratchpad word by one path: loads by that path see it, loads by the other path may miss it (R134). -/
def spWrite (m : Mach) (r : Option GRef) (tid o : Nat) (cluster : Bool) (v : Word) : Mach :=
  m.modTeam tid (fun t =>
    { t with
      scratch := Memory.setWord t.scratch o v
      aliases := t.aliases.filter (fun a => !(a.o == o && a.cluster == cluster))
        ++ [{ o := o, cluster := !cluster, old := spWord t o, src := r, seen := [], pub := [] }] })

/-- An engine's write of a scratchpad word: every later load sees it (R139, R145, R167). -/
def spEngine (m : Mach) (tid o : Nat) (v : Word) : Mach :=
  m.modTeam tid (fun t => { t with scratch := Memory.setWord t.scratch o v, aliases := t.aliases.filter (fun a => a.o != o) })

/-! ### One access of up to 8 bytes at a location -/

/-- Read the word that holds a byte of a location. -/
def readWordAt (m : Mach) (w : Who) (l : Loc) (slot : Nat) : Except Cause (Word × Attr) × Mach :=
  match l with
  | .glob va => readGlob m w (va - va % 4)
  | .sp tid o cl =>
    match spRead m tid (o - o % 4) cl w.grp slot with
    | (v, m) => (.ok (v, Attr.full), m)

/-- The location k bytes further on; in the stack aperture the next word is in the next line (R112). -/
def Loc.next (l : Loc) (stack : Bool) : Loc :=
  match l with
  | .glob va => .glob (if stack then va + 128 else va + 4)
  | .sp t o c => .sp t (o + 4) c

/-- Write the low `size` bytes (1, 2 or 4) of v at a location. -/
def writeWordAt (m : Mach) (w : Who) (k : Kind) (l : Loc) (size : Nat) (v : Word) : Except Cause Unit × Mach :=
  match l with
  | .glob va =>
    if size = 4 then writeGlob m w k va v else writeSub m w k va size v
  | .sp tid o cl =>
    match m.team? tid with
    | none => (.ok (), m)
    | some t =>
      let x := if size = 4 then v else mergeSub (spWord t (o - o % 4)) (o % 4) size v
      (.ok (), if k = .engine then spEngine m tid (o - o % 4) x else spWrite m w.grp tid (o - o % 4) cl x)

/-! ### Atomics (R127, R128) -/

/-- Before an atomic executes at the home, a word that another unit has registered is recalled, and then the issuing core's own
copies go there, the older of the RDC first (R127). A clean RDC word is dropped too, so that the group's next load is not older than its
atomic (R172). -/
def pushHome (m : Mach) (core : Nat) (c : BitVec 12) (va : Nat) : Mach :=
  let m := if ownerOf m c va = some (ownerCore core) then m else recallWord m c va
  let m := match rdcFind m (dieOf core) c va with
    | some w =>
      if w.d && w.writer == core % 24 && homeOf va != dieOf core then homeData (rdcYield m core c va) c va w.val w.attr
      else rdcYield m core c va
    | none => m
  match l1Find (m.core core) c va with
  | some w =>
    let m := m.modCore core (fun k => l1Drop k c va)
    if !w.d then m
    else homeData (if w.g then unregister (mirrorDrop m c va) c va else m) c va w.val w.attr
  | none => m

/-- The word that an atomic at the home slice works on: recalled, then the L2's or memory's (R127). -/
def atomHomeRead (m : Mach) (w : Who) (sys : Bool) (va : Nat) : Except Cause (Word × Attr) × Mach :=
  readHome (recallWord m w.ctx va) w.ctx w.level (.atomic sys) va

/-- A PT atomic ends the translations that depend on the word at physical address pa, in every CTU (R418): the entries whose
leaf it is; and for a pointer word every entry of the contexts whose walks go through it. -/
def tlbInvalidate (m : Mach) (c : BitVec 12) (pa : Nat) : Mach :=
  let e8 := pa - pa % 8
  let all := m.ctus.flatMap id
  let cs := (all.filter (fun e => e.ptrs.contains e8)).map (fun e => e.ctx)
  let leaf := all.any (fun e => e.leafPa == e8)
  tlbFilter m (fun e => !(e.leafPa == e8) && !cs.contains e.ctx && (leaf || e.ctx != c))

/-- The point at which an atomic executes (R127). -/
inductive Point where | l1 | rdc | home | link
deriving DecidableEq, Repr

def pointOf (m : Mach) (w : Who) (sc : MScope) (va : Nat) : Point :=
  match sc with
  | .team => .l1
  | .die => if homeOf va = dieOf w.core then .home else .rdc
  | .dev => .home
  | .sys => if offDevice m w.ctx va then .link else .home

/-- Read the word(s) an atomic works on, at its point, with the write-backs and recalls of R127. -/
def atomRead (m : Mach) (w : Who) (sc : MScope) (va : Nat) : Except Cause (Word × Attr) × Mach :=
  match pointOf m w sc va with
  | .l1 =>
    (match writePerm m w (.atomic false) va with
     | (.error c, m) => (.error c, m)
     | (.ok _, m) => fetchSub m w va)
  | .rdc =>
    let m := match l1Find (m.core w.core) w.ctx va with
      | some e =>
        let m := m.modCore w.core (fun k => l1Drop k w.ctx va)
        if e.d then rdcFill m (dieOf w.core) { ctx := w.ctx, va := va, val := e.val, d := true, writer := w.core % 24
                                               fill := m.cycle, attr := e.attr, reg := false } else m
      | none => m
    let refill (m : Mach) : Except Cause (Word × Attr) × Mach :=
      match readHome m w.ctx w.level (.atomic false) va with
      | (.error c, m) => (.error c, m)
      | (.ok r, m) => (.ok r, rdcLine m w.core w.ctx va)
    (match rdcFind m (dieOf w.core) w.ctx va with
     | some e =>
       if rdcFresh m w.core e then
         (match permitLine m w.ctx w.level (.atomic false) va e.attr with
          | (.error c, m) => (.error c, m)
          | (.ok a, m) => (.ok (e.val, a), m.count w.ctx 0x06 1))
       else refill (m.count w.ctx 0x07 1)
     | none => refill m)
  | .home => atomHomeRead (pushHome m w.core w.ctx va) w (sc == .sys) va
  | .link =>
    -- what another unit has registered is recalled first, so that no copy of it on this die outlives the atomic
    let own := ownerOf m w.ctx va = some (ownerCore w.core) ∨ (rdcFind m (dieOf w.core) w.ctx va).any (fun e => e.d && e.writer == w.core % 24)
    let m := if own then m else recallWord m w.ctx va
    let m := match rdcFind m (dieOf w.core) w.ctx va with
      | some e => if e.d && e.writer == w.core % 24 then rdcDrop (writeThrough m w.ctx va e.val) (dieOf w.core) w.ctx va
                  else rdcYield m w.core w.ctx va
      | none => m
    let m := match l1Find (m.core w.core) w.ctx va with
      | some e => if e.d then writeThrough m w.ctx va e.val else m
      | none => m
    atomHomeRead (m.modCore w.core (fun k => l1Drop k w.ctx va)) w true va

/-- Leave one word of an atomic's result at its point (R127); on the host path it is written to memory (R465). -/
def atomPut (m : Mach) (w : Who) (sc : MScope) (a : Attr) (va : Nat) (v : Word) : Mach :=
  match pointOf m w sc va with
  | .l1 =>
    let g := match l1Find (m.core w.core) w.ctx va with
      | some e => e.g
      | none => false
    l1Fill m w.core { ctx := w.ctx, va := va, val := v, d := true, g := g, attr := a }
  | .rdc => rdcFill m (dieOf w.core)
      { ctx := w.ctx, va := va, val := v, d := true, writer := w.core % 24, fill := m.cycle, attr := a, reg := false }
  | .home => homeData m w.ctx va v a
  | .link => writeBack (l2Put m { ctx := w.ctx, va := va, val := v, d := false, attr := a }) w.ctx va v

/-- Leave an atomic's result of one or two words at its point (R127). On a page-table page it is written through to where
the page stood before the atomic, and then ends the translations that depend on it (R418); while the page does not translate, the
write-through is held, with what it ends (R419). -/
def atomWrite (m : Mach) (w : Who) (sc : MScope) (ws : List (Nat × Word)) (a : Attr) : Mach :=
  match ws with
  | [] => m
  | (va, _) :: _ =>
    let home := pointOf m w sc va == .home
    let m := ws.foldl (fun m x => atomPut m w sc a x.1 x.2) m
    if !(a.pt && home) then m else
    match findLeaf m w.ctx va with
    | (.error _, m) =>
      ws.foldl (fun m x => let m := l2Put m { ctx := w.ctx, va := x.1, val := x.2, d := false, attr := a }
        { m with heldWb := m.heldWb ++ [{ ctx := w.ctx, va := x.1, val := x.2, pt := true }] }) m
    | (.ok l, m) =>
      let pa := fun x => leafPaOf l.leaf l.log x
      tlbInvalidate (ws.foldl (fun m x =>
        dramWrite (l2Put m { ctx := w.ctx, va := x.1, val := x.2, d := false, attr := a }) (pa x.1) x.2) m) w.ctx (pa va)

/-! ### What hardware itself reads and writes -/

/-- The physical address that a cached word would go to. -/
def paOf (m : Mach) (c : BitVec 12) (va : Nat) : Option Nat :=
  match (findLeaf m c va).1 with
  | .ok l => some (leafPaOf l.leaf l.log va)
  | .error _ => none

/-- A virtual address maps to a physical one; the low 12 bits of both agree on every page. -/
def mapsTo (m : Mach) (c : BitVec 12) (va pa : Nat) : Bool := va % 4096 == pa % 4096 && paOf m c va == some pa

/-- A coherent read of a physical word: a registered or dirty home word that maps there, or memory. -/
def physWord (m : Mach) (pa : Nat) : Word :=
  match m.registered.find? (fun e => mapsTo m e.1 e.2.1 pa) with
  | some e => (ownerVal m e.2.2 e.1 e.2.1).getD (Memory.word m.mem pa)
  | none =>
    match m.l2.find? (fun w => w.d && mapsTo m w.ctx w.va pa) with
    | some w => w.val
    | none => Memory.word m.mem pa
def physDword (m : Mach) (pa : Nat) : DWord := physWord m (pa + 4) ++ physWord m pa
def physBytes (m : Mach) (pa n : Nat) : List Byte :=
  (((List.range ((n + pa % 4 + 3) / 4)).flatMap (fun i =>
    leBytes 4 (physWord m (pa - pa % 4 + 4 * i)).toNat)).drop (pa % 4)).take n

/-- A coherent write of a physical word: memory takes it, and home copies that map there are dropped. -/
def setPhysWord (m : Mach) (pa : Nat) (v : Word) : Mach :=
  let regs := m.registered.filter (fun e => mapsTo m e.1 e.2.1 pa)
  let l2s := m.l2.filter (fun w => mapsTo m w.ctx w.va pa)
  let m := regs.foldl (fun m e => unregister (ownerDrop m e.2.2 e.1 e.2.1) e.1 e.2.1) m
  let m := l2s.foldl (fun m w => l2Drop m w.ctx w.va) m
  dramWrite m pa v
def setPhysBytes (m : Mach) (pa : Nat) (bs : List Byte) : Mach :=
  (List.range ((bs.length + 3) / 4)).foldl (fun m i =>
    let w := physWord m (pa + 4 * i)
    setPhysWord m (pa + 4 * i) ((List.range 4).foldl (fun w k => setByte w k (bs.getD (4 * i + k) (getByte w k))) w)) m

/-- A read at the home by hardware acting for a context, with no permission needed. -/
def homeWord (m : Mach) (c : BitVec 12) (va : Nat) : Except Cause Word × Mach :=
  match readHome m c 1 .site va with
  | (.error e, m) => (.error e, m)
  | (.ok r, m) => (.ok r.1, m)

/-- A write at the home by hardware acting for a context: a registration is recalled, the L2 takes the word under the attributes
of its line, or of its page. A page that does not translate keeps its words. -/
def setHomeWord (m : Mach) (c : BitVec 12) (va : Nat) (v : Word) : Mach :=
  let m := recallWord m c va
  match ((l2Find m c va).map (fun w => w.attr)).orElse (fun _ => match (findLeaf m c va).1 with
    | .ok l => some (leafAttr l.leaf)
    | .error _ => none) with
  | none => m
  | some a => homeData (dropPoison m c va) c va v a

/-- The device may write a word for a context: its line, or else its page, takes writes (R190, R415, R418). -/
def homeWrites (m : Mach) (c : BitVec 12) (va : Nat) : Bool :=
  match l2Find m c va with
  | some w => (permitLine m c 1 .store va w.attr).1.isOk
  | none => (translate m c 1 .store va).1.isOk

/-- Write bytes at the home, four at a time, from a word-aligned address; a word that the device may not write stays as it is
(log entry 17). -/
def setHomeBytes (m : Mach) (c : BitVec 12) (va : Nat) (bs : List Byte) : Mach :=
  (List.range (bs.length / 4)).foldl (fun m i =>
    if !homeWrites m c (va + 4 * i) then m else
    setHomeWord m c (va + 4 * i) (bs.getD (4 * i + 3) 0 ++ bs.getD (4 * i + 2) 0 ++ bs.getD (4 * i + 1) 0 ++ bs.getD (4 * i) 0)) m

end Sys2Proof.Machine
end

