-- ==== Sys2Proof/Machine/Ops.lean ====
section
/-! DEFINITION. Machine/Ops.lean: the named operations on groups: reading and writing registers (R54, R60, R248), the
guard (R227), retiring and parking (R24, R52, R443), trace records (R452 to R455), fault records, TAKING AN EXCEPTION
(R389, R390, R393, R425) and the return from it (R392). -/
namespace Sys2Proof.Machine

/-! ### Masks -/

/-- The lanes of a mask, lowest first. -/
def lanesOf (m : Mask) : List Nat := (List.range 32).filter (fun l => m.has l)
/-- The mask of the lanes that satisfy f. -/
def maskOf (f : Nat → Bool) : Mask := (List.range 32).foldl (fun m l => if f l then m ||| (1#32 <<< l) else m) 0#32

/-! ### Reading registers: an unseparated read takes one of the values R54 allows -/

/-- One of the values that the images before unseparated producers and the current registers hold (R54). -/
def pickVal {α : Type} [DecidableEq α] (g : Group) (f : Regs → α) (draw slot lane : Nat) : α :=
  match (g.old.map f).filter (fun x => x ≠ f g.regs) with
  | [] => f g.regs
  | xs => (xs ++ [f g.regs]).getD (Config.pick draw slot lane % (xs.length + 1)) (f g.regs)

/-- What a register number beyond the file would read as; checks 7 and 8 of R241 keep programs from it. -/
def noV : VReg := { lanes := [], tag := 0, u := false }
def noS : SReg := { val := 0, tag := 6 }
/-- The register v n as it stands. -/
def Regs.vreg (r : Regs) (n : Nat) : VReg := r.v.getD n noV
def Regs.sreg (r : Regs) (n : Nat) : SReg := r.s.getD n noS
/-- A predicate register; p7 reads as true in every lane (R60). -/
def Regs.preg (r : Regs) (n : Nat) : Mask := if n = 7 then Mask.all else r.p.getD n 0
def Regs.xlane (r : Regs) (n l : Nat) : BitVec 16 := (r.x.getD n []).getD l 0
def Regs.hreg (r : Regs) (n : Nat) : BitVec 512 := r.h.getD n 0
def VReg.lane (v : VReg) (l : Nat) : Word := v.lanes.getD l 0

def readVLane (g : Group) (n l draw slot : Nat) : Word := pickVal g (fun r => (r.vreg n).lane l) draw slot l
def readS (g : Group) (n draw slot : Nat) : DWord := pickVal g (fun r => (r.sreg n).val) draw slot 32
def readPBit (g : Group) (n l draw slot : Nat) : Bool := pickVal g (fun r => (r.preg n).has l) draw slot l
def readXLane (g : Group) (n l draw slot : Nat) : BitVec 16 := pickVal g (fun r => r.xlane n l) draw slot l
def readH (g : Group) (n draw slot : Nat) : BitVec 512 := pickVal g (fun r => r.hreg n) draw slot 32
/-- The tag and the uniform bit of v n, as a pair of one writer (R54, R69). -/
def readVTag (g : Group) (n draw slot : Nat) : BitVec 4 × Bool :=
  pickVal g (fun r => ((r.vreg n).tag, (r.vreg n).u)) draw slot 33
def readSTag (g : Group) (n draw slot : Nat) : BitVec 4 := pickVal g (fun r => (r.sreg n).tag) draw slot 33

/-- The lanes in which the guarding predicate holds (R226). -/
def guardMask (g : Group) (h : Hd) (draw : Nat) : Mask :=
  let p := maskOf (fun l => readPBit g h.pred.toNat l draw 7)
  if h.pneg then ~~~p else p

/-- act(G) (R10). -/
def actOf (g : Group) (h : Hd) (draw : Nat) : Mask := g.amask &&& guardMask g h draw

/-! ### Writing registers (R60, R66, R67, R248) -/

/-- U of a v register after a write of the lanes `tot` (R67). -/
def uOf (present tot : Mask) (lanes : List Word) : Bool :=
  (present &&& tot == present) &&
    (match lanesOf present with
     | [] => false
     | l :: ls => ls.all (fun k => lanes.getD k 0 == lanes.getD l 0))

/-- 32 lanes in which those of act hold f and the others keep what they hold. -/
def newLanes {w : Nat} (old : List (BitVec w)) (act : Mask) (f : Nat → BitVec w) : List (BitVec w) :=
  (List.range 32).map (fun l => if act.has l then f l else old.getD l 0)

/-- Write the lanes of `act` of v n; `tot` are the lanes the instruction writes in all (R46, R67). -/
def Regs.setV (r : Regs) (present act tot : Mask) (n : Nat) (tag : BitVec 4) (f : Nat → Word) : Regs :=
  let lanes := newLanes (r.vreg n).lanes act f
  { r with v := putAt noV r.v n { lanes := lanes, tag := tag, u := uOf present tot lanes } }

/-- Write a pair: both registers carry one tag and one U (R65, R67). -/
def Regs.setVPair (r : Regs) (present act tot : Mask) (n : Nat) (tag : BitVec 4) (f : Nat → DWord) : Regs :=
  let lo := newLanes (r.vreg n).lanes act (fun l => (f l).extractLsb' 0 32)
  let hi := newLanes (r.vreg (n + 1)).lanes act (fun l => (f l).extractLsb' 32 32)
  let u := uOf present tot lo && uOf present tot hi
  { r with v := putAt noV (putAt noV r.v n { lanes := lo, tag := tag, u := u }) (n + 1) { lanes := hi, tag := tag, u := u } }

def Regs.setS (r : Regs) (n : Nat) (tag : BitVec 4) (v : DWord) : Regs := { r with s := putAt noS r.s n { val := v, tag := tag } }
/-- Write a predicate in the lanes of act; p7 keeps no result (R60). -/
def Regs.setP (r : Regs) (act : Mask) (n : Nat) (v : Mask) : Regs :=
  if n = 7 then r else { r with p := putAt 0 r.p n ((r.preg n &&& ~~~act) ||| (v &&& act)) }
def Regs.setX (r : Regs) (act : Mask) (n : Nat) (f : Nat → BitVec 16) : Regs :=
  { r with x := putAt [] r.x n (newLanes (r.x.getD n []) act f) }
def Regs.setH (r : Regs) (n : Nat) (v : BitVec 512) : Regs := { r with h := putAt 0 r.h n v }

/-- Lanes `a` of a register taken from another image; an s or an h register has lane 0 only. -/
def Regs.takeLanes (x : RegId) (a : Mask) (src dst : Regs) : Regs :=
  match x with
  | .v n => { dst with v := dst.v.modify n (fun r => { r with lanes := newLanes r.lanes a (src.vreg n).lane }) }
  | .s n => if a = 0 then dst else { dst with s := dst.s.modify n (fun _ => src.sreg n) }
  | .p n => { dst with p := dst.p.modify n (fun r => (r &&& ~~~a) ||| (src.preg n &&& a)) }
  | .x n => { dst with x := dst.x.modify n (fun r => newLanes r a (src.xlane n)) }
  | .h n => if a = 0 then dst else { dst with h := dst.h.modify n (fun _ => src.hreg n) }

/-- A register with every bit turned over. -/
def Regs.turned (x : RegId) (r : Regs) : Regs :=
  match x with
  | .v n => { r with v := r.v.modify n (fun y => { y with lanes := y.lanes.map (fun w => ~~~w) }) }
  | .s n => { r with s := r.s.modify n (fun y => { y with val := ~~~y.val }) }
  | .p n => { r with p := r.p.modify n (fun y => ~~~y) }
  | .x n => { r with x := r.x.modify n (fun y => y.map (fun w => ~~~w)) }
  | .h n => { r with h := r.h.modify n (fun y => ~~~y) }

/-- Two images agree in one lane of a register. -/
def Regs.agree (x : RegId) (a b : Regs) (l : Nat) : Bool :=
  match x with
  | .v n => (a.vreg n).lane l == (b.vreg n).lane l
  | .s n => (a.sreg n).val == (b.sreg n).val
  | .p n => (a.p.getD n 0).has l == (b.p.getD n 0).has l
  | .x n => a.xlane n l == b.xlane n l
  | .h n => a.hreg n == b.hreg n

/-- The lanes of a register that a write writes: those that it leaves alike whatever they held. -/
def lanesWritten (f : Regs → Regs) (r : Regs) (x : RegId) : Mask := maskOf (Regs.agree x (f r) (f (r.turned x)))

/-- Outstanding loads and atomics, after a write of the registers `ids` with the image at place `k` before it (R55). -/
def wroteBy (f : Regs → Regs) (r : Regs) (ids : List RegId) (k : Nat) (qs : List Req) : List Req :=
  qs.map (fun q => if k ≤ q.img then q else
    { q with wrote := q.wrote ++ (ids.filter q.ids.contains).map (fun x => (k, x, lanesWritten f r x)) })

/-- The group writes registers: `ids` become outstanding (R53), and the image before the write joins those that an
unseparated reader may see (R54). -/
def Group.produce (g : Group) (ids : List RegId) (f : Regs → Regs) : Group :=
  { g with regs := f g.regs, old := g.old ++ [g.regs], outst := g.outst ++ ids, reqs := wroteBy f g.regs ids g.old.length g.reqs }

/-- Lanes `a` of a register, which a later instruction wrote, stay as they were before an earlier instruction is executed again,
with the later one's tag (R55); U is that one's where it wrote every present lane. -/
def Regs.keepLanes (present : Mask) (r : Regs) (n : Regs) (x : RegId × Mask) : Regs :=
  let y := Regs.takeLanes x.1 x.2 r n
  match x.1 with
  | .v k => { y with v := y.v.modify k (fun v => { v with tag := (r.vreg k).tag, u := (r.vreg k).u && (present &&& x.2 == present) }) }
  | .s _ | .p _ | .x _ | .h _ => y

/-- What an instruction that had retired writes when it is executed again: not the lanes that later ones have written (R55). -/
def Group.keeping (g : Group) (f : Regs → Regs) : Regs → Regs :=
  match g.redo with
  | some d => fun r => d.keep.foldl (Regs.keepLanes g.present r) (f r)
  | none => f

/-- As `produce`, by a load, an atomic or a drain to registers (R450). -/
def Group.produceMem (g : Group) (ids : List RegId) (f : Regs → Regs) : Group :=
  { g.produce ids (g.keeping f) with outMem := g.outMem ++ ids }

/-- A write that is complete when the instruction issues (R252, R332): every image takes it. -/
def Group.writeNow (g : Group) (f : Regs → Regs) : Group :=
  { g with
    regs := f g.regs, old := g.old.map f
    reqs := g.reqs.map (fun q => { q with wrote := q.wrote ++ q.ids.map (fun x => (0, x, lanesWritten f g.regs x)) }) }

/-! ### Issue, retirement and parking (R24, R52, R443) -/

/-- The next instruction address N (R228). -/
def nextPc (pc : DWord) (h : Hd) : DWord := pc + (if h.mod.isSome then 16 else 8)

/-- The outstanding reductions: they give no result to wait for. -/
def Group.reds (g : Group) : List Req := g.reqs.filter (fun q => q.ids.isEmpty)

/-- After a W-marked instruction the group waits for its outstanding results (R52); with none, what it wrote is
separated from what follows (R54). -/
def Group.afterW (g : Group) (w : Bool) : Group :=
  if w then (if g.outst = [] then { g with status := .ready, old := [], reqs := g.reds } else { g with status := .parked .w })
  else { g with status := .ready }

/-- The kept effects of a W-marked instruction that faults on some lanes are separated from what follows it, as its other
results are (R52, R54). -/
def Group.returned (g : Group) : Group := { g with old := [], outst := [], outMem := [], reqs := g.reds }

/-- Where the group goes on after the instruction that it executes again: an instruction that had retired goes back (R429). -/
def Group.back (g : Group) : Option DWord := g.redo.bind (fun d => d.back)

/-- A READY group first executes again the lanes of a retired load or atomic that a loss ended (R392, R429). -/
def Group.popLost (g : Group) : Group :=
  match g.status, g.redo, g.lost with
  | .ready, none, x :: r =>
    { g with lost := r, pc := x.pc, genRes := x.gen
             redo := some { i := x.i, left := x.lanes, fin := x.fin, watch := [], back := some g.pc, keep := x.keep } }
  | _, _, _ => g

/-- The instruction retires and the group goes on at `pc` (R443). -/
def Group.retire (g : Group) (w : Bool) (pc : DWord) : Group :=
  let n := if g.back.isSome then 0 else 1
  (({ g with pc := g.back.getD pc, retired := g.retired + n, rw := g.rw + n, redo := none, genRes := [], siteAt := none, stale := false
             lostRd := none } : Group).afterW w).popLost

/-- The instruction parks its group and retires when the group leaves PARKED. -/
def Group.park (g : Group) (p : Park) (w : Bool) (npc : DWord) (now : Nat) : Group :=
  { g with status := .parked p, npc := npc, wm := w, waited := 0, since := now }

/-- What the group waits for: parked, or suspended where it was parked (R39, R45). -/
def Group.waits (g : Group) : Option Park :=
  match g.status with
  | .parked p => some p
  | .suspended => g.under
  | .ready | .exited => none

/-- The instruction that waits so retired when it issued: an unpaired loop for a place of the engine, a launch for a slot
(R443). -/
def Park.retired (p : Park) : Bool :=
  match p with
  | .engine l => l.ctrl.extractLsb' 44 2 == 0
  | .launch _ _ => true
  | .w | .rendezvous _ | .barrier _ _ | .waitb _ | .seal _ | .waitm _ _ | .macq _ | .mwait _ | .pairing _ | .replay | .nonstop => false

/-- The group waits with its instruction retired. -/
def Group.waitsRetired (g : Group) : Bool := g.waits.any Park.retired

/-- The condition that parked the group is met: its instruction retires, if it has not. A suspended group stays suspended. -/
def Group.unpark (g : Group) : Group :=
  let n := if g.waitsRetired then 0 else 1
  let r := ({ g.retire g.wm g.npc with retired := g.retired + n, rw := g.rw + n } : Group)
  if g.status = .suspended then
    { r with status := .suspended, under := match r.status with
      | .parked p => some p
      | _ => none }
  else r

/-- The group leaves its wait with its instruction not retired. -/
def Group.leaveWait (g : Group) : Group :=
  if g.status = .suspended then { g with under := none } else { g with status := .ready }

/-- A group that has not exited (R10). -/
def Group.live (g : Group) : Bool := g.status != .exited

/-- Retire an instruction of one group, counting it (R460). -/
def retireGroup (m : Mach) (r : GRef) (c : BitVec 12) (w : Bool) (pc : DWord) : Mach :=
  (m.modGroup r (fun g => g.retire w pc)).countFix c 1 (if ((m.group? r).bind Group.back).isSome then 0 else 1)

/-- The context runs: it is not being saved, saved or dumped (R432, R438). -/
def ctxRuns (m : Mach) (c : BitVec 12) : Bool := (m.ctx? c).any (fun k => k.st == .running)

/-- A group of a context that does not run is SUSPENDED where it would be READY: its context is pre-empted (R24, R433). -/
def Group.halt (runs : Bool) (g : Group) : Group :=
  if !runs && g.status == .ready then { g with status := .suspended, under := none } else g

/-- A parked group resumes, and its instruction retires if it has not. -/
def unparkGroup (m : Mach) (r : GRef) (c : BitVec 12) : Mach :=
  (m.modGroup r (fun g => g.unpark.halt (ctxRuns m c))).countFix c 1 (if (m.group? r).any Group.waitsRetired then 0 else 1)

/-- An instruction parks its group; one that has retired when it parks counts now (R443). -/
def parkGroup (m : Mach) (r : GRef) (c : BitVec 12) (p : Park) (w : Bool) (npc : DWord) : Mach :=
  let n := if p.retired then 1 else 0
  (m.modGroup r (fun g => ({ g with retired := g.retired + n, rw := g.rw + n } : Group).park p w npc m.cycle)).countFix c 1 n

/-! ### Trace records (R452 to R456) -/

def chamOf (fw : Firmware) (p : Nat) : Chambray := fw.chambray.getD p Chambray.initial

/-- The trace enables of TCTL (R445). -/
inductive TrKind where | br | rw | la | fa | mk
deriving DecidableEq, Repr

def TrKind.bit : TrKind → Nat
  | .br => 17 | .rw => 16 | .la => 15 | .fa => 14 | .mk => 13

/-- Trace is on for the context (R445). -/
def traceOn (fw : Firmware) (m : Mach) (c : BitVec 12) : Bool :=
  match m.ctx? c with
  | none => false
  | some k =>
    let t := (chamOf fw k.part.toNat).tctl
    t.getLsbD 0 && (t.getLsbD 18 || t.extractLsb' 19 12 == c)

/-- A trace record of a partition is lost (R447): LOST and PCNT7 count it. -/
def traceLost (fw : Firmware) (m : Mach) (c : BitVec 12) : Mach :=
  match m.ctx? c with
  | none => m
  | some k =>
    let p := m.parts.getD k.part.toNat Part.initial
    let p' := { p with tLost := p.tLost + 1, pcnt := p.pcnt.modify 7 (fun v => v + 1) }
    setPhysBytes { m with parts := m.parts.set k.part.toNat p' } ((chamOf fw k.part.toNat).tbase.toNat + 16) (leBytes 8 p'.tLost.toNat)

/-- Write whole units into the trace ring of a partition, or count them lost (R446, R447). The Boolean says that they
were written. TAIL - HEAD is negative where the consumer wrote HEAD past TAIL: then the units fit. -/
def traceUnits (fw : Firmware) (m : Mach) (c : BitVec 12) (bytes : List Byte) : Bool × Mach :=
  match m.ctx? c with
  | none => (false, m)
  | some k =>
    let ch := chamOf fw k.part.toNat
    let p := m.parts.getD k.part.toNat Part.initial
    let n : Nat := 2 ^ (ch.tctl.extractLsb' 7 6).toNat
    let units : Nat := bytes.length / 16
    let base := ch.tbase.toNat
    let m := mscReads m (base + 8) 8
    if (n : Int) < (p.tTail - physDword m (base + 8)).toInt + units then
      (false, traceLost fw m c)
    else
      let m := (List.range units).foldl (fun m i =>
        setPhysBytes m (base + 4096 + 16 * ((p.tTail.toNat + i) % n)) ((bytes.drop (16 * i)).take 16)) m
      let p' := { p with tTail := p.tTail + BitVec.ofNat 64 units }
      (true, setPhysBytes { m with parts := m.parts.set k.part.toNat p' } base (leBytes 8 p'.tTail.toNat))

/-- GID and LOC of a group (R452). -/
def gidOf (g : Group) : Nat := g.slice * 128 + g.slot
def locOf (t : Team) : Nat := t.die * 32 + t.core % 24

/-- The launch serial number of a team's grid (R389). -/
def serialOf (m : Mach) (t : Team) : BitVec 32 :=
  match m.grid? t.gid with
  | some x => x.serial
  | none => 0

/-- The SYNC record of a group (R454). -/
def syncBytes (m : Mach) (t : Team) (g : Group) (reason : BitVec 8) : List Byte :=
  [0xFF, 0x43, 0x48, 0x53, 0x59, 0x4E, 0x43, 0x00] ++ leBytes 2 (gidOf g) ++ leBytes 1 (locOf t)
    ++ leBytes 1 g.stack.length ++ leBytes 4 g.amask.toNat ++ [0x80, reason] ++ leBytes 2 t.ctx.toNat
    ++ leBytes 1 g.gno ++ [0, 0, 0] ++ leBytes 8 g.pc.toNat ++ [0x80, 0, 0, 0] ++ leBytes 4 t.index
    ++ leBytes 8 g.retired ++ [0x80, 0] ++ leBytes 2 (m.ftime % 65536)
    ++ leBytes 4 (serialOf m t).toNat ++ leBytes 8 (m.ftime / 65536)

/-- The group emits a SYNC record with this REASON (R455). A SYNC that does not fit is a dropped record. -/
def emitSync (fw : Firmware) (m : Mach) (t : Team) (g : Group) (reason : BitVec 8) : Mach :=
  match traceUnits fw m t.ctx (syncBytes m t g reason) with
  | (ok, m) => m.modGroup { tid := t.tid, gno := g.gno } (fun g => { g with trace := { on := true, cnt := 0, sync := none, dropped := !ok } })

/-- The SYNC record that a group owes before it issues: after a restore, at its first issue since trace is on, and after
4,096 records (R455). One that issues untraced owes its restore none any more. -/
def traceSync (fw : Firmware) (m : Mach) (r : GRef) : Mach :=
  match (m.team? r.tid).bind (fun t => (t.group? r.gno).map (fun g => (t, g))) with
  | none => m
  | some (t, g) =>
    if !traceOn fw m t.ctx then m.modGroup r (fun g => { g with trace := { g.trace with on := false, sync := none } }) else
    match g.trace.sync with
    | some x => emitSync fw m t g x
    | none =>
      if !g.trace.on then emitSync fw m t g 0
      else if 4096 ≤ g.trace.cnt then emitSync fw m t g 1 else m

/-- Trace of a context is on and takes records of the kind. -/
def traces (fw : Firmware) (m : Mach) (c : BitVec 12) (k : TrKind) : Bool :=
  traceOn fw m c && (chamOf fw (((m.ctx? c).map (fun k => k.part.toNat)).getD 0)).tctl.getLsbD k.bit

/-- Emit a record of a group (R453). Its first record after a dropped one has a SYNC before it, and is lost with that SYNC
where the SYNC does not fit (R447, R455). -/
def traceGroup (fw : Firmware) (m : Mach) (r : GRef) (k : TrKind) (bytes : List Byte) : Mach :=
  match m.team? r.tid with
  | none => m
  | some t =>
    if !traces fw m t.ctx k then m else
    let m := traceSync fw m r
    let m := match m.group? r with
      | some g => if g.trace.dropped then emitSync fw m t g 4 else m
      | none => m
    if (m.group? r).any (fun g => g.trace.dropped) then traceLost fw m t.ctx else
    match traceUnits fw m t.ctx bytes with
    | (ok, m) => m.modGroup r (fun g => { g with trace := { g.trace with cnt := g.trace.cnt + 1, dropped := !ok } })

/-- Emit a record of a context that belongs to no resident group. -/
def traceBare (fw : Firmware) (m : Mach) (c : BitVec 12) (k : TrKind) (bytes : List Byte) : Mach :=
  if traces fw m c k then (traceUnits fw m c bytes).2 else m

/-- A BRANCH record (R452, R453). -/
def traceBranch (fw : Firmware) (m : Mach) (r : GRef) (t : Team) (g : Group) (pc : DWord) (mask : Mask) : Mach :=
  traceGroup fw m r .br ([0x01] ++ leBytes 2 (gidOf g) ++ leBytes 1 (locOf t) ++ leBytes 8 pc.toNat ++ leBytes 4 mask.toNat)

/-! ### Fault records (R388 to R390, R425) -/

/-- The fields of a fault record that its cause decides (R389). -/
structure Rec where
  cause : Cause
  setw : Bool
  replay : Bool
  info : Bool
  unk : Bool
  held : Bool
  eng : Bool
  ns : Bool
  setn : BitVec 8
  group : BitVec 8
  ctx : BitVec 12
  team : BitVec 32
  grid : BitVec 32
  retired : Nat
  pc : DWord
  lmask : Mask
  detail : BitVec 32
  addr : DWord
  aux : DWord
deriving DecidableEq, Repr

/-- FLAGS of a record (R389, R425, R458). -/
def Rec.flags (r : Rec) : BitVec 16 :=
  (((((bit 16 r.setw ||| (bit 16 r.replay <<< 1)) ||| (bit 16 r.info <<< 2)) ||| (bit 16 r.unk <<< 3))
    ||| (bit 16 r.held <<< 4)) ||| (bit 16 r.eng <<< 5)) ||| (bit 16 r.ns <<< 6)

/-- The 64 bytes of a record (R389). -/
def Rec.bytes (r : Rec) (seq : BitVec 32) : List Byte :=
  leBytes 2 r.cause.toNat ++ leBytes 2 r.flags.toNat ++ leBytes 1 r.setn.toNat ++ leBytes 1 r.group.toNat
    ++ leBytes 2 r.ctx.toNat ++ leBytes 4 r.team.toNat ++ leBytes 4 r.grid.toNat ++ leBytes 8 r.retired
    ++ leBytes 8 r.pc.toNat ++ leBytes 4 r.lmask.toNat ++ leBytes 4 r.detail.toNat ++ leBytes 8 r.addr.toNat
    ++ leBytes 8 r.aux.toNat ++ leBytes 4 seq.toNat ++ leBytes 4 0

/-- Slot i of the ring (R388). -/
def fqSlot (k : Context) (i : BitVec 16) : Nat := k.fqbase.toNat + 64 * (i.toNat % 2 ^ k.log2n.toNat)
/-- The queue is full (R388). -/
def fqFull (k : Context) : Bool := (k.fqtail - k.fqhead).toNat == 2 ^ k.log2n.toNat

/-- The resident group that a record names. -/
def recGroup (m : Mach) (c : BitVec 12) (bytes : List Byte) : Option (Team × Group) :=
  m.teams.findSome? (fun t =>
    if t.ctx == c && leBytes 4 t.index == (bytes.drop 8).take 4 && leBytes 4 (serialOf m t).toNat == (bytes.drop 12).take 4 then
      (t.group? (ofLe ((bytes.drop 5).take 1))).map (fun g => (t, g))
    else none)

/-- The FAULT record of a fault record that is written to its queue (R452, R453); one that names no resident group carries
GID 0xFFFF and LOC 0xFF. -/
def traceFault (fw : Firmware) (m : Mach) (c : BitVec 12) (bytes : List Byte) : Mach :=
  let body := bytes.take 4 ++ (bytes.drop 56).take 4 ++ (bytes.drop 32).take 4 ++ [0x80, 0, 0, 0, 0, 0, 0, 0] ++ (bytes.drop 24).take 8
  match recGroup m c bytes with
  | some (t, g) => traceGroup fw m { tid := t.tid, gno := g.gno } .fa ([0x04] ++ leBytes 2 (gidOf g) ++ leBytes 1 (locOf t) ++ body)
  | none => traceBare fw m c .fa ([0x04, 0xFF, 0xFF, 0xFF] ++ body)

/-- Write one record at slot TAIL and increment TAIL (R390). -/
def fqWrite (fw : Firmware) (m : Mach) (c : BitVec 12) (bytes : List Byte) : Mach :=
  match m.ctx? c with
  | none => m
  | some k =>
    traceFault fw (((setHomeBytes m c (fqSlot k k.fqtail) bytes).setCtx { k with fqtail := k.fqtail + 1 }).count c 0x11 1) c bytes

/-- A record that carries INFO and may be dropped: every INFO record but a page request (R390). -/
def droppable (bytes : List Byte) : Bool :=
  ofLe (bytes.take 2) != 3 && (BitVec.ofNat 8 (bytes.getD 2 0).toNat).getLsbD 2

/-- Give a record to the context's queue: written, held inside the device, or dropped (R390). -/
def fqPost (fw : Firmware) (m : Mach) (c : BitVec 12) (bytes : List Byte) : Mach :=
  match m.ctx? c with
  | none => m
  | some k =>
    if fqFull k && droppable bytes then
      m.setCtx { k with drop := if k.drop = 0xFFFF then k.drop else k.drop + 1, dropNew := k.dropNew + 1 }
    else if fqFull k || !k.held.isEmpty then m.setCtx { k with held := k.held ++ [bytes] }
    else fqWrite fw m c bytes

/-- The INFO record 0x002 with the number of records dropped (R390). -/
def droppedRec (k : Context) : List Byte :=
  Rec.bytes { cause := 2, setw := false, replay := false, info := true, unk := false, held := false, eng := false
              ns := false, setn := 0xFE, group := 0, ctx := k.cid, team := 0, grid := 0, retired := 0, pc := 0
              lmask := 0, detail := BitVec.ofNat 32 k.dropNew, addr := 0, aux := 0 } k.seq

/-- Slots have freed: held records first, oldest first, then the record of dropped ones (R390). `n` bounds the work. -/
def fqDrain (fw : Firmware) (m : Mach) (c : BitVec 12) : Nat → Mach
  | 0 => m
  | n + 1 =>
    match m.ctx? c with
    | none => m
    | some k =>
      if fqFull k then m else
      match k.held with
      | b :: r => fqDrain fw (fqWrite fw (m.setCtx { k with held := r }) c b) c n
      | [] =>
        if k.dropNew = 0 then m
        else fqWrite fw (m.setCtx { k with dropNew := 0, seq := k.seq + 1 }) c (droppedRec k)

/-- The next SEQ of a context (R390). -/
def takeSeq (m : Mach) (c : BitVec 12) : BitVec 32 × Mach :=
  match m.ctx? c with
  | none => (0, m)
  | some k => (k.seq, m.setCtx { k with seq := k.seq + 1 })

/-- An INFO record of a context: no group stops (R390, R395). -/
def postInfo (fw : Firmware) (m : Mach) (c : BitVec 12) (cause : Cause) (addr : DWord) (detail : BitVec 32) (rec0 : Rec → Rec) : Mach :=
  match takeSeq m c with
  | (seq, m) => fqPost fw m c (Rec.bytes (rec0
      { cause := cause, setw := false, replay := false, info := true, unk := false, held := false, eng := false
        ns := false, setn := 0xFE, group := 0, ctx := c, team := 0, grid := 0, retired := 0, pc := 0, lmask := 0
        detail := detail, addr := addr, aux := 0 }) seq)

/-! ### Taking an exception (R390, R393, R425) -/

/-- One member that an exception stops: its fault mask, the lanes already done, and where it stands. -/
structure Hit where
  gno : Nat
  lmask : Mask
  left : Mask
  fin : Mask
deriving DecidableEq, Repr

/-- An exception: what the record says of it. -/
structure Stop where
  cause : Cause
  hits : List Hit
  set : Option (Option (BitVec 3))
  addr : DWord
  detail : BitVec 32
  aux : DWord
  unk : Bool
  eng : Bool
  nonstop : Bool
  wid : Option Nat
  /-- the supervisor refused the page: a SUSPENDED record of cause 0x100 (R392, R426) -/
  refused : Bool
  /-- the instruction to reissue over the lanes left, if lanes are left (R46) -/
  redo : Option Instr
  /-- lanes done that met a watchpoint: group, lane, address (R457) -/
  watch : List (Nat × Nat × DWord)
  /-- the next PC of the instruction, for ACT 0b01 -/
  npc : DWord
  /-- the PC of the record where the record is not of what the group executes now (R429) -/
  pcAt : Option DWord
  /-- of the instruction that the group waits at (R150, R224), also where the group is already stopped -/
  own : Bool := false
deriving DecidableEq, Repr

/-- A cause that gives a REPLAY record (R395). -/
def isReplay (c : Cause) : Bool := c == 0x100 || c == 0x101
/-- The exception gives a REPLAY record. -/
def Stop.replay (x : Stop) : Bool := isReplay x.cause && !x.refused

/-- A group that a further stopping cause meets with HELD (R393). -/
def isStopped (g : Group) : Bool := g.status == .suspended || g.status == .parked .replay || g.status == .parked .nonstop

/-- The state that the record's kind gives (R390, R395, R458). -/
def stopStatus (x : Stop) : Status :=
  if x.replay then .parked .replay else if x.nonstop then .parked .nonstop else .suspended

/-- What the group waits on for under the exception: nothing at the rendezvous that the exception closes (R45, R46). A fault
of engine work closes none. -/
def stopUnder (x : Stop) (g : Group) : Option Park :=
  let w := if isStopped g then g.under else match g.status with
    | .parked p => some p
    | _ => none
  match w, x.set with
  | some (.rendezvous k), some k' => if k = k' ∧ !x.eng then none else w
  | _, _ => w

/-- The fault is of the instruction that the group is at: its own, or the set-wide one that it waits at or brings to issue. A
fault of engine work, of an earlier instruction, or of a set at whose rendezvous the group does not stand, is not. -/
def stopHere (x : Stop) (cur : Option GRef) (tid : Nat) (g : Group) : Bool :=
  !x.eng && x.pcAt.isNone && (match x.set with
    | none => !isStopped g || x.own
    | some k => g.waits == some (.rendezvous k) || (cur == some { tid := tid, gno := g.gno } && !isStopped g))

/-- N of a stopped group, where ACT 0b01 resumes it (R392). A fault that comes between the group's instructions has none: the
group goes on where it stands. -/
def stopNpc (x : Stop) (cur : Option GRef) (tid : Nat) (g : Group) : Option DWord :=
  if !stopHere x cur tid g then none
  else if x.set.any (fun k => g.waits == some (.rendezvous k)) then some g.npc else some x.npc

/-- SETN of a record (R389). -/
def setnOf : Option (Option (BitVec 3)) → BitVec 8
  | none => 0xFE
  | some none => 0xFF
  | some (some k) => k.setWidth 8

/-- The record of one stopped group (R389). RETIRED does not count the instruction at PC: a load, an atomic or a release that a loss
ends had retired before. -/
def stopRec (m : Mach) (t : Team) (g : Group) (x : Stop) (lm : Mask) : Rec :=
  { cause := x.cause, setw := x.set.isSome, replay := x.replay, info := false, unk := x.unk
    held := isStopped g && !(x.eng && x.replay), eng := x.eng, ns := x.nonstop, setn := setnOf x.set, group := BitVec.ofNat 8 g.gno
    ctx := t.ctx, team := BitVec.ofNat 32 t.index, grid := serialOf m t
    retired := g.retired - (if x.pcAt.isSome || g.back.isSome then 1 else 0), pc := x.pcAt.getD g.pc, lmask := lm, detail := x.detail, addr := x.addr, aux := x.aux }

/-- A group under an exception: the state that its record gives (a group PARKED for replay that a SUSPENDED record reaches
is SUSPENDED), and, where the fault is of the instruction that it is at (`here`), the lanes of that instruction that are left.
Lanes that another instruction or an earlier record left stay (R390, R393). -/
def Group.stopped (x : Stop) (here : Bool) (hit : Hit) (g : Group) : Group :=
  { g with
    status := if isStopped g && stopStatus x != .suspended then g.status else stopStatus x
    under := stopUnder x g
    lostRd := none
    redo := if isStopped g || !here then g.redo else x.redo.map (fun i =>
      { i := i, left := hit.left, fin := hit.fin, watch := (x.watch.filter (fun w => w.1 == g.gno)).map (fun w => w.2), back := g.back
        keep := (g.redo.map (fun d => d.keep)).getD [] }) }

/-- The record that waits for SVDONE (R392). -/
def pendingOf (m : Mach) (x : Stop) (tid : Nat) (g : Group) (seq : BitVec 32) (hit : Hit) (r : Rec) : Pending :=
  { seq := seq, cause := x.cause, flags := r.flags, setn := r.setn, tid := tid, gno := hit.gno, pc := r.pc, lmask := hit.lmask, addr := x.addr
    detail := x.detail, aux := x.aux, npc := stopNpc x m.cur tid g, again := if x.set.isSome then x.redo else none
    wid := x.wid, add := none, acted := false }

/-- Stop one group with sequence number `seq`: its state, its record, its pending service (R390, R392). Engine work that
waits for a page stops no group (R425), and a group that has exited stays EXITED (R24). -/
def stopOne (fw : Firmware) (x : Stop) (tid : Nat) (seq : BitVec 32) (m : Mach) (hit : Hit) : Mach :=
  match m.team? tid with
  | none => m
  | some t =>
    match t.group? hit.gno with
    | none => m
    | some g =>
      let rec0 := stopRec m t g x hit.lmask
      let stops := !(x.eng && x.replay) && g.live
      let pd := pendingOf m x tid g seq hit rec0
      let m := if stops then m.modGroup { tid := tid, gno := hit.gno } (Group.stopped x (stopHere x m.cur tid g) hit) else m
      let m := match m.ctx? t.ctx with
        | none => m
        | some k => m.setCtx { k with pend := k.pend ++ [pd] }
      fqPost fw m t.ctx (rec0.bytes seq)

/-- TAKE AN EXCEPTION (R390): the groups that it concerns stop, each with a record under one SEQ (R45, R425). A stop of
level-1 groups is one fatal fault of their context (R438). -/
def takeStop (fw : Firmware) (m : Mach) (tid : Nat) (x : Stop) : Mach :=
  match m.team? tid with
  | none => m
  | some t =>
    match takeSeq m t.ctx with
    | (seq, m) =>
      let m := x.hits.foldl (fun m h => stopOne fw x tid seq m h) m
      if t.level != 1 || (x.eng && x.replay) then m else
      match x.hits.find? (fun h => (t.group? h.gno).any Group.live) with
      | some h => { m with agenda := m.agenda ++ [.fatalFault t.ctx x.cause { tid := tid, gno := h.gno }] }
      | none => m

/-- A trap of one group by its own instruction: it concerns the whole active mask, and nothing is left to reissue by
lanes. -/
def Stop.trap (c : Cause) (g : Group) (npc : DWord) : Stop :=
  { cause := c, hits := [{ gno := g.gno, lmask := g.amask, left := 0, fin := 0 }], set := none, addr := 0, detail := 0, aux := 0
    unk := false, eng := false, nonstop := false, wid := none, refused := false, redo := none, watch := [], npc := npc, pcAt := none }

/-- The live members of a set, or of the team set, in declared order (R27, R28). -/
def membersOf (t : Team) (k : Option (BitVec 3)) : List Nat :=
  match k with
  | none => t.groups.map (fun g => g.gno)
  | some k => ((t.sets.getD k.toNat none).getD [])
def liveMembers (t : Team) (k : Option (BitVec 3)) : List Nat :=
  (membersOf t k).filter (fun n => match t.group? n with
    | some g => g.live
    | none => false)

/-- A set-wide fault (R44, R45): every live member stops; its rendezvous is closed. `masks` gives each member's lanes
of the cause, all its lanes that failed, and its lanes done. -/
def setFault (fw : Firmware) (m : Mach) (tid : Nat) (k : Option (BitVec 3)) (x : Stop)
    (masks : List (Nat × Mask × Mask × Mask)) : Mach :=
  match m.team? tid with
  | none => m
  | some t =>
    let hits := (liveMembers t k).map (fun n =>
      match masks.find? (fun e => e.1 == n) with
      | some (_, l, a, d) => { gno := n, lmask := l, left := a, fin := d : Hit }
      | none => { gno := n, lmask := 0, left := 0, fin := 0 : Hit })
    let m := m.modTeam tid (fun t => { t with rdvs := t.rdvs.filter (fun v => !(v.set == k)) })
    takeStop fw m tid { x with set := some k, hits := hits }

/-! ### How an instruction ends -/

/-- Lanes of an access that failed, of all members: cause, lanes, first address (R296, R420). -/
structure Fail where
  cause : Cause
  /-- per member: the lanes of this cause, all lanes that failed, the lanes done -/
  ms : List (Nat × Mask × Mask × Mask)
  addr : DWord
  detail : BitVec 32
  aux : DWord
  unk : Bool
  /-- the faulting lanes are reissued alone (R46) -/
  perLane : Bool
  /-- a watchpoint or breakpoint, which may stop its group alone (R458) -/
  dbg : Bool
  /-- lanes done that met a watchpoint: group, lane, address (R457) -/
  watch : List (Nat × Nat × DWord)
deriving DecidableEq, Repr

/-- A trap of the whole instruction. -/
def Fail.whole (c : Cause) : Fail :=
  { cause := c, ms := [], addr := 0, detail := 0, aux := 0, unk := false, perLane := false, dbg := false, watch := [] }

/-- How the effect of an instruction ends. -/
inductive End where
  /-- it retires; the group goes on at N -/
  | done
  /-- it retires; the group goes on at the address -/
  | goto (pc : DWord)
  /-- it traps or faults -/
  | fail (f : Fail)
  /-- it parks the group and retires when the group leaves PARKED -/
  | park (p : Park)
  /-- the group exited (R51) -/
  | gone
deriving DecidableEq, Repr

/-- A member of what executes an instruction: the lanes to do now and the lanes of the instruction in all. -/
structure Member where
  gno : Nat
  act : Mask
  tot : Mask
deriving DecidableEq, Repr

/-- What an instruction checks before any effect (checks 6 to 8 of R241 and its entry's own checks on its operands) and
what it does over its members. -/
structure Op where
  chk : Team → Group → Nat → Option Cause
  body : Firmware → Mach → Nat → List Member → Mach × End

/-- The context's debug table says non-stop (R445, R458). -/
def nonStop (fw : Firmware) (m : Mach) (c : BitVec 12) : Bool :=
  match m.ctx? c with
  | none => false
  | some k =>
    let b := (chamOf fw k.part.toNat).dctb
    b != 0 && (physDword m (b.toNat + 8 * c.toNat)).getLsbD 0

/-- The read of the context's debug table passes through the memory-side cache (R118). -/
def nonStopRead (fw : Firmware) (m : Mach) (c : BitVec 12) : Mach :=
  match m.ctx? c with
  | none => m
  | some k =>
    let b := (chamOf fw k.part.toNat).dctb
    if b = 0 then m else mscReads m (b.toNat + 8 * c.toNat) 8

/-- Conclude an instruction of one group at LANE or GROUP scope. -/
def conclude (fw : Firmware) (h : Hd) (i : Instr) (t : Team) (g : Group) (mb : Mach × End) : Mach :=
  let r : GRef := { tid := t.tid, gno := g.gno }
  let n := g.back.getD (nextPc g.pc h)
  match mb with
  | (m, .done) => retireGroup m r t.ctx h.w n
  | (m, .goto pc) => retireGroup m r t.ctx h.w pc
  | (m, .park p) => parkGroup m r t.ctx p h.w n
  | (m, .gone) => m.countFix t.ctx 1 1
  | (m, .fail f) =>
    let hit := match f.ms with
      | (_, l, a, d) :: _ => { gno := g.gno, lmask := l, left := a, fin := d : Hit }
      | [] => { gno := g.gno, lmask := g.amask, left := 0, fin := 0 : Hit }
    let m := if f.dbg then nonStopRead fw m t.ctx else m
    takeStop fw (if (f.perLane || f.dbg) && h.w then m.modGroup r Group.returned else m) t.tid
      { cause := f.cause, hits := [hit], set := none, addr := f.addr, detail := f.detail, aux := f.aux, unk := f.unk
        eng := false, nonstop := f.dbg && nonStop fw m t.ctx, wid := none, refused := false
        redo := if f.perLane then some i else none, watch := f.watch, npc := n, pcAt := none }

/-- The group arrives at a rendezvous (R27, R30, R38 to R40). -/
def arrive (fw : Firmware) (m : Mach) (h : Hd) (i : Instr) (t : Team) (g : Group) : Mach :=
  let r : GRef := { tid := t.tid, gno := g.gno }
  let k : Option (BitVec 3) := if h.scope = .team then none else some ((h.mod.map (fun x => x.setn)).getD 0)
  let n := nextPc g.pc h
  match k with
  | some kk =>
    (match t.sets.getD kk.toNat none with
     | none => takeStop fw m t.tid (Stop.trap 0x182 g n)
     | some l => if l.contains g.gno then join k r n else takeStop fw m t.tid (Stop.trap 0x183 g n))
  | none => join k r n
where
  join (k : Option (BitVec 3)) (r : GRef) (n : DWord) : Mach :=
    match t.rdvs.find? (fun v => v.set == k) with
    | some v =>
      if v.pc = g.pc then
        (m.modTeam t.tid (fun t => { t with rdvs := t.rdvs.map (fun w =>
          if w.set == k then { w with arrived := w.arrived ++ [(g.gno, actOf g h m.draw)] } else w) })).modGroup r
            (fun g => g.park (.rendezvous k) h.w n m.cycle)
      else setFault fw m t.tid k { Stop.trap 0x180 g n with aux := v.pc } []
    | none =>
      ((m.modTeam t.tid (fun t => { t with rdvs := t.rdvs ++
          [{ set := k, pc := g.pc, i := i, arrived := [(g.gno, actOf g h m.draw)], elapsed := 0 }] })).modGroup r
            (fun g => g.park (.rendezvous k) h.w n m.cycle)).count t.ctx 0x10 1

/-- The slice has issued in this cycle (R408). -/
def Mach.hasIssued (m : Mach) (core slice : Nat) : Bool := m.issued.any (fun x => x.1 == core && x.2.1 == slice)
/-- The group may issue in a slice that has not issued in this cycle (R408). -/
def mayIssue (m : Mach) (t : Team) (g : Group) : Bool :=
  g.status == .ready && ctxRuns m t.ctx && !m.hasIssued t.core g.slice && !m.stalled.contains { tid := t.tid, gno := g.gno }

/-- The unit that a group's next instruction needs is busy in this cycle, so that the group is no candidate in it: a free choice,
but not at a multiple of 64 cycles (R408, R56; log entry 13). -/
def unitBusy (m : Mach) (t : Team) (g : Group) : Bool := m.cycle % 64 != 0 && Config.pick m.cycle 80 (256 * t.tid + g.gno) % 2 == 1

/-- The group is a candidate of its slice: it may issue, and the unit that it needs is not busy (R408). -/
def isCandidate (m : Mach) (t : Team) (g : Group) : Bool := mayIssue m t g && !unitBusy m t g

/-- The checks of an instruction: check 5 of R241, then those of its operands. -/
def check (h : Hd) (op : Op) (t : Team) (g : Group) (draw : Nat) : Option Cause :=
  if h.resv then some 0x41 else op.chk t g draw

/-- The lanes a group executes now and in all: act(G), or the lanes left of an instruction being reissued (R46). -/
def memberOf (g : Group) (h : Hd) (draw : Nat) : Member :=
  match g.redo with
  | some d => { gno := g.gno, act := d.left, tot := d.left ||| d.fin }
  | none => { gno := g.gno, act := actOf g h draw, tot := actOf g h draw }

/-! ### Releases that an instruction waits for (R119, R312), and loads that it lets return late (R54, R184) -/

/-- The group's earlier release to memory off the device is not complete: write-backs of such words are held for their pages
(R119, R419). -/
def relHeld (m : Mach) (c : BitVec 12) : Bool := m.heldWb.any (fun h => h.ctx == c && decide (2 ^ 51 ≤ h.va))

/-- The release that a group's `rel` left pending is performed before its next write (R312, R165). One at `.sys` whose
write-backs are held stays pending. -/
def settle (m : Mach) (r : GRef) : Mach :=
  match m.team? r.tid with
  | none => m
  | some t =>
    match t.group? r.gno with
    | none => m
    | some g =>
      match g.relPend with
      | none => m
      | some (sc, _) =>
        let m := releaseBy m r t.core sc
        if sc = .sys ∧ relHeld m t.ctx then m else m.modGroup r (fun g => { g with relPend := none })

/-- The scope of the release that an instruction makes before its own effect. -/
def releaseOf : Instr → Option MScope
  | .st _ _ _ _ _ _ ord sc => if ord then some sc else none
  | .atmAdd _ _ _ _ _ ord sc | .atmSub _ _ _ _ _ ord sc | .atmMin _ _ _ _ _ ord sc | .atmMax _ _ _ _ _ ord sc
  | .atmAnd _ _ _ _ _ ord sc | .atmOr _ _ _ _ _ ord sc | .atmXor _ _ _ _ _ ord sc | .atmExch _ _ _ _ _ ord sc
  | .atmInc _ _ _ _ _ ord sc | .atmDec _ _ _ _ _ ord sc | .atmFadd _ _ _ _ _ ord sc | .atmCas _ _ _ _ _ _ ord sc
  | .redAdd _ _ _ _ ord sc | .redSub _ _ _ _ ord sc | .redMin _ _ _ _ ord sc | .redMax _ _ _ _ ord sc | .redAnd _ _ _ _ ord sc
  | .redOr _ _ _ _ ord sc | .redXor _ _ _ _ ord sc | .redInc _ _ _ _ ord sc | .redDec _ _ _ _ ord sc | .redFadd _ _ _ _ ord sc
  | .gatmAdd _ _ _ _ _ ord sc | .gatmSub _ _ _ _ _ ord sc | .gatmMin _ _ _ _ _ ord sc | .gatmMax _ _ _ _ _ ord sc
  | .gatmAnd _ _ _ _ _ ord sc | .gatmOr _ _ _ _ _ ord sc | .gatmXor _ _ _ _ _ ord sc | .gatmExch _ _ _ _ _ ord sc =>
    if ord then some sc else none
  | .barArrive _ _ ord | .barSync _ _ ord => ord
  | .fence _ sc | .wbr _ _ _ sc => some sc
  | _ => none

/-- The head of an instruction that makes or waits for a release. -/
def releaseHd : Instr → Option Hd
  | .st h _ _ _ _ _ _ _ | .gst h _ _ _ _ | .shst h _ _ | .barArrive h _ _ | .barSync h _ _ | .fence h _ | .rel h _
  | .wbr h _ _ _ | .launch h _ _ => some h
  | .atmAdd h _ _ _ _ _ _ | .atmSub h _ _ _ _ _ _ | .atmMin h _ _ _ _ _ _ | .atmMax h _ _ _ _ _ _ | .atmAnd h _ _ _ _ _ _
  | .atmOr h _ _ _ _ _ _ | .atmXor h _ _ _ _ _ _ | .atmExch h _ _ _ _ _ _ | .atmInc h _ _ _ _ _ _ | .atmDec h _ _ _ _ _ _
  | .atmFadd h _ _ _ _ _ _ | .atmCas h _ _ _ _ _ _ _ => some h
  | .redAdd h _ _ _ _ _ | .redSub h _ _ _ _ _ | .redMin h _ _ _ _ _ | .redMax h _ _ _ _ _ | .redAnd h _ _ _ _ _ | .redOr h _ _ _ _ _
  | .redXor h _ _ _ _ _ | .redInc h _ _ _ _ _ | .redDec h _ _ _ _ _ | .redFadd h _ _ _ _ _ => some h
  | .gatmAdd h _ _ _ _ _ _ | .gatmSub h _ _ _ _ _ _ | .gatmMin h _ _ _ _ _ _ | .gatmMax h _ _ _ _ _ _ | .gatmAnd h _ _ _ _ _ _
  | .gatmOr h _ _ _ _ _ _ | .gatmXor h _ _ _ _ _ _ | .gatmExch h _ _ _ _ _ _ => some h
  | _ => none

/-- The instruction writes memory as an event of its group: a write that a pending `rel` holds (R312). -/
def writesMem : Instr → Bool
  | .st _ _ _ _ _ _ _ _ | .gst _ _ _ _ _ | .shst _ _ _ => true
  | .atmAdd _ _ _ _ _ _ _ | .atmSub _ _ _ _ _ _ _ | .atmMin _ _ _ _ _ _ _ | .atmMax _ _ _ _ _ _ _ | .atmAnd _ _ _ _ _ _ _
  | .atmOr _ _ _ _ _ _ _ | .atmXor _ _ _ _ _ _ _ | .atmExch _ _ _ _ _ _ _ | .atmInc _ _ _ _ _ _ _ | .atmDec _ _ _ _ _ _ _
  | .atmFadd _ _ _ _ _ _ _ | .atmCas _ _ _ _ _ _ _ _ => true
  | .redAdd _ _ _ _ _ _ | .redSub _ _ _ _ _ _ | .redMin _ _ _ _ _ _ | .redMax _ _ _ _ _ _ | .redAnd _ _ _ _ _ _ | .redOr _ _ _ _ _ _
  | .redXor _ _ _ _ _ _ | .redInc _ _ _ _ _ _ | .redDec _ _ _ _ _ _ | .redFadd _ _ _ _ _ _ => true
  | .gatmAdd _ _ _ _ _ _ _ | .gatmSub _ _ _ _ _ _ _ | .gatmMin _ _ _ _ _ _ _ | .gatmMax _ _ _ _ _ _ _ | .gatmAnd _ _ _ _ _ _ _
  | .gatmOr _ _ _ _ _ _ _ | .gatmXor _ _ _ _ _ _ _ | .gatmExch _ _ _ _ _ _ _ => true
  | _ => false

/-- The instruction is performed after the release that an earlier `rel` of its group left pending: it writes memory, or makes
a release itself (R165, R312). -/
def afterRel (i : Instr) : Bool :=
  match i with
  | .rel _ _ | .wbr _ _ _ _ | .launch _ _ _ => true
  | _ => writesMem i || (releaseOf i).isSome

/-- A value of an s register, or an integer constant, as a source of 64 bits. -/
def sVal (g : Group) (draw slot : Nat) (o : Opnd) : Nat :=
  match o with
  | .s n => (readS g n.toNat draw slot).toNat
  | _ => 0

/-- The words that a region form covers (R313): none where its range traps. -/
def regionRange (g : Group) (draw : Nat) (len base : Opnd) (va : Nat) : Bool :=
  let a := sVal g draw 0 base
  let n := sVal g draw 2 len
  a % 4 == 0 && n % 4 == 0 && decide (a + n ≤ 0xF000000000000 ∧ a ≤ va ∧ va < a + n)

/-- The release that an instruction makes, begun before its own effect, and the words that it is for: all, or a range. A pending
one of its group is performed with it. -/
def beginRelease (m : Mach) (t : Team) (g : Group) (i : Instr) : Mach × (Nat → Bool) :=
  let all : Mach × (Nat → Bool) := (releaseBy m { tid := t.tid, gno := g.gno } t.core .sys, fun _ => true)
  match i with
  | .wbr _ len base _ =>
    if g.relPend.any (fun x => x.1 == .sys) then all
    else (release m t.core .sys (regionRange g m.draw len base), regionRange g m.draw len base)
  | _ => all

/-- The group does not issue in this cycle, though its slice chose it: its instruction is held (R408). -/
def Mach.stall (m : Mach) (t : Team) (g : Group) : Mach :=
  { m with issued := m.issued.filter (fun x => !(x.1 == t.core && x.2.1 == g.slice))
           stalled := m.stalled ++ [{ tid := t.tid, gno := g.gno }] }

/-- The instruction makes a `.sys` release, or comes after a pending one of its group; not where its guard holds in no lane
(R227, R326). -/
def needsRelease (g : Group) (i : Instr) (draw : Nat) : Bool :=
  ((releaseOf i == some .sys && g.redo.isNone) || (afterRel i && g.relPend.any (fun x => x.1 == .sys)))
    && (g.redo.isSome || (releaseHd i).any (fun h => actOf g h draw != 0))

/-- The instruction waits for a `.sys` release whose write-backs are held for their pages: that release's work is begun, and
the group stays at the instruction (R119, R312, R419). -/
def heldRelease (m : Mach) (t : Team) (g : Group) (i : Instr) : Option Mach :=
  if !needsRelease g i m.draw then none else
  let x := beginRelease m t g i
  if x.1.heldWb.any (fun h => h.ctx == t.ctx && decide (2 ^ 51 ≤ h.va) && x.2 h.va) then some (x.1.stall t g) else none

/-- The operand names one of the registers, or the register above it, as a pair does. -/
def opndMeets (o : Opnd) (ids : List RegId) : Bool :=
  match o with
  | .v n => ids.contains (.v n.toNat) || ids.contains (.v (n.toNat + 1))
  | .s n => ids.contains (.s n.toNat)
  | .p n => ids.contains (.p n.toNat)
  | .x n => ids.contains (.x n.toNat)
  | .h n => ids.contains (.h n.toNat)
  | .a _ | .c _ | .bad _ => false

/-- A load whose results are `ids` may return after the instruction: a plain load or store that names none of them. -/
def passes184 (i : Instr) (ids : List RegId) : Bool :=
  let free := fun (h : Hd) (os : List Opnd) =>
    (h.scope == .lane || h.scope == .group) && !ids.contains (.p h.pred.toNat) && !os.any (fun o => opndMeets o ids)
  match i with
  | .ld h _ d base _ _ ord _ => !ord && free h [d, base]
  | .st h _ d base _ _ ord _ => !ord && free h [d, base]
  | _ => false

/-- The loads that the instruction does not let return late have returned their values when it issues (R54, R165). -/
def Group.fixLoads (g : Group) (i : Instr) : Group :=
  { g with reqs := g.reqs.map (fun q => { q with late := q.late && passes184 i q.ids }) }

/-- Run one program instruction of a group at its scope; lanes of a retired one that are executed again run for their group
alone (R429). -/
def issueOn (fw : Firmware) (m : Mach) (h : Hd) (i : Instr) (op : Op) (t : Team) (g : Group) : Mach :=
  match heldRelease m t g i with
  | some m => m
  | none =>
    if g.back.isSome then conclude fw h i t g (op.body fw m t.tid [memberOf g h m.draw]) else
    match h.scope with
    | .lane =>
      (match check h op t g m.draw with
       | some c => takeStop fw m t.tid (Stop.trap c g (nextPc g.pc h))
       | none => conclude fw h i t g (op.body fw m t.tid [memberOf g h m.draw]))
    | .group =>
      (match check h op t g m.draw with
       | some c => takeStop fw m t.tid (Stop.trap c g (nextPc g.pc h))
       | none =>
         if actOf g h m.draw = 0 then retireGroup m { tid := t.tid, gno := g.gno } t.ctx h.w (nextPc g.pc h)
         else conclude fw h i t g (op.body fw m t.tid [memberOf g h m.draw]))
    | .set | .team => arrive fw m h i t g

/-- The meaning of a program instruction: it runs for the issuing group; management space is out of its reach, so
`fw` is unchanged by construction (R466). -/
def issue (s : State) (h : Hd) (i : Instr) (op : Op) : Host.Outcome State Fault Refusal :=
  match s.m.cur with
  | none => .refused .noIssuingGroup
  | some r =>
    match s.m.team? r.tid with
    | none => .refused .noIssuingGroup
    | some t =>
      match t.group? r.gno with
      | none => .refused .noIssuingGroup
      | some g => .next { s with m := issueOn s.fw s.m h i op t g }

/-- The meaning of an event that reaches management space: it happens where it is pending. -/
def eventFw (s : State) (pending : Bool) (f : Firmware → Mach → Firmware × Mach) : Host.Outcome State Fault Refusal :=
  if pending then .next { m := (f s.fw s.m).2, fw := (f s.fw s.m).1 } else .refused .notPending

/-- The meaning of an event: it happens where it is pending, and is refused where it is not. -/
def event (s : State) (pending : Bool) (f : Firmware → Mach → Mach) : Host.Outcome State Fault Refusal :=
  if pending then .next { s with m := f s.fw s.m } else .refused .notPending

end Sys2Proof.Machine
end

