-- ==== Sys2Proof/Machine/Flags.lean ====
section
/-! DEFINITION. Machine/Flags.lean: format tags of types and formats (R65, R230), the outcomes of compares (R261), the
decision bits of `maxd2` (R264), and integers at a type (R84 to R86). The uniform bit is `uOf` in Machine/Ops.lean. -/
namespace Sys2Proof

/-- The tag that a result of the type carries (R65, R248); `.b64`, `.b1` and the 4-bit types tag B32. -/
def Ty.tag : Ty → BitVec 4
  | .b32 | .b1 | .b64 | .i4 | .n4 | .q4 => 0
  | .i32 => 1 | .n32 => 2 | .f32 => 3 | .f64 => 4 | .i64 => 5 | .n64 => 6 | .f16 => 7 | .bf16 => 8
  | .i16 => 9 | .n16 => 10 | .e4 => 11 | .e5 => 12 | .i8 => 13 | .n8 => 14

/-- The type takes an even pair, or all 64 bits of an s register (R65, R84). -/
def Ty.wide : Ty → Bool
  | .f64 | .i64 | .n64 | .b64 => true
  | _ => false

/-- The width of one element in bits (R84, R87). -/
def Ty.ew : Ty → Nat
  | .f64 | .i64 | .n64 | .b64 => 64
  | .f16 | .bf16 | .i16 | .n16 => 16
  | .e4 | .e5 | .i8 | .n8 => 8
  | .i4 | .n4 | .q4 => 4
  | .b1 => 1
  | _ => 32

/-- Elements of one unit (R291). -/
def Ty.count (t : Ty) : Nat :=
  match t.ew with
  | 16 => 2 | 8 => 4 | 4 => 8
  | _ => 1

/-- The bytes that a load or store of the type moves (R300). -/
def Ty.bytes (t : Ty) : Nat := t.ew / 8

def Ty.signed : Ty → Bool
  | .i64 | .i32 | .i16 | .i8 | .i4 => true
  | _ => false

def Ty.fmt? : Ty → Option Machine.Fmt
  | .f64 => some .f64 | .f32 => some .f32 | .f16 => some .f16 | .bf16 => some .bf16 | .e4 => some .e4 | .e5 => some .e5
  | _ => none

end Sys2Proof

namespace Sys2Proof.Machine

/-- The type of a tag (R65). -/
def tyOfTag (t : BitVec 4) : Ty :=
  match t.toNat with
  | 1 => .i32 | 2 => .n32 | 3 => .f32 | 4 => .f64 | 5 => .i64 | 6 => .n64 | 7 => .f16 | 8 => .bf16
  | 9 => .i16 | 10 => .n16 | 11 => .e4 | 12 => .e5 | 13 => .i8 | 14 => .n8
  | _ => .b32

/-- The integer that w bits hold. -/
def intOf (signed : Bool) (w : Nat) (v : Nat) : Int :=
  let v := v % 2 ^ w
  if signed ∧ 2 ^ (w - 1) ≤ v then (v : Int) - (2 ^ w : Nat) else v

/-- The low w bits of an integer (R16). -/
def wrapTo (w : Nat) (v : Int) : Nat := (v % (2 ^ w : Nat)).toNat

/-- The least and the greatest value of an integer type (R84). -/
def intMin (signed : Bool) (w : Nat) : Int := if signed then -(2 ^ (w - 1) : Nat) else 0
def intMax (signed : Bool) (w : Nat) : Int := if signed then (2 ^ (w - 1) : Nat) - 1 else (2 ^ w : Nat) - 1

/-- Wrap, or saturate under SAT (R86). -/
def fitInt (signed : Bool) (w : Nat) (sat : Bool) (v : Int) : Nat :=
  wrapTo w (if sat then clampInt (intMin signed w) (intMax signed w) v else v)

/-- Element k of width w. -/
def elem (w k : Nat) (v : DWord) : Nat := (v.toNat / 2 ^ (w * k)) % 2 ^ w

/-- Put elements of width w together, element 0 lowest (R85). -/
def packElems (w : Nat) (xs : List Nat) : DWord :=
  BitVec.ofNat 64 (xs.foldr (fun x acc => x % 2 ^ w + acc * 2 ^ w) 0)

/-- Map the elements of values of a type; each element is computed on its own (R85). -/
def mapElems (ty : Ty) (f : List Nat → Nat) (xs : List DWord) : DWord :=
  packElems ty.ew ((List.range ty.count).map (fun k => f (xs.map (elem ty.ew k))))

/-- The outcome of an integer compare (R261). -/
def condHolds (c : Cond) (a b : Int) : Bool :=
  match c with
  | .eq => a == b
  | .ne => a != b
  | .lt => decide (a < b)
  | .le => decide (a ≤ b)
  | .gt => decide (b < a)
  | .ge => decide (b ≤ a)

/-- The decision bit of `maxd2` (R264): 1 when B is greater than A. -/
def decision (signed : Bool) (a b : Nat) : Bool := decide (intOf signed 16 a < intOf signed 16 b)

end Sys2Proof.Machine
end

