-- ==== Sys2Proof/Machine/Operands.lean ====
section
/-! DEFINITION. Machine/Operands.lean: the operand space (R58 to R62), the classes an instruction accepts (R59, R246,
R276, R295, R324), the pair and range checks (R64), reading a source at a type (R247, R277) and writing a result
(R248). -/
namespace Sys2Proof

/-! ### Classes (R58, R59) -/

def Opnd.isV : Opnd → Bool
  | .v _ => true
  | _ => false
def Opnd.isS : Opnd → Bool
  | .s _ => true
  | _ => false
def Opnd.isP : Opnd → Bool
  | .p _ => true
  | _ => false
def Opnd.isX : Opnd → Bool
  | .x _ => true
  | _ => false
/-- A constant of an integer or bit type: 376 to 383 are float constants (R62). -/
def Opnd.isIntC : Opnd → Bool
  | .c n => decide (n.toNat < 24)
  | _ => false
/-- A constant that the type accepts (R62). -/
def Opnd.isCAt (ty : Ty) : Opnd → Bool
  | .c n => ty.fmt?.isSome || decide (n.toNat < 24)
  | _ => false

/-- The number of the first v register of an operand. -/
def Opnd.vnum? : Opnd → Option Nat
  | .v n => some n.toNat
  | _ => none

/-- The registers that a destination names (R53). -/
def Opnd.ids (o : Opnd) (wide : Bool) : List Machine.RegId :=
  match o with
  | .v n => if wide then [.v n.toNat, .v (n.toNat + 1)] else [.v n.toNat]
  | .s n => [.s n.toNat]
  | .p n => if n.toNat = 7 then [] else [.p n.toNat]
  | .x n => [.x n.toNat]
  | .h n => [.h n.toNat]
  | .a _ | .c _ | .bad _ => []

/-- GROUP scope. -/
def Hd.grp (h : Hd) : Bool := h.scope == .group
/-- SAT of the modifier word (R236). -/
def Hd.sat (h : Hd) : Bool := (h.mod.map (fun x => x.sat)).getD false
/-- EXT of the modifier word (R236). -/
def Hd.ext (h : Hd) : BitVec 32 := (h.mod.map (fun x => x.ext)).getD 0

end Sys2Proof

namespace Sys2Proof.Machine

/-! ### Inline constants (R62) -/

/-- The integer of a constant 352 to 375 (field n = value − 352). -/
def constInt (n : BitVec 5) : Int := if n.toNat < 16 then n.toNat else 15 - (n.toNat : Int)

/-- The constant 376 to 383 as sign and power of two: ±0.5, ±1, ±2, ±4. -/
def constFloat (n : BitVec 5) : Bool × Int := (decide (28 ≤ n.toNat), (n.toNat % 4 : Nat) - 1)

/-- RNE with nothing else. -/
def plainCtl : Ctl := { rnd := .rne, scale := 0, sat := false, clamp := false, daz := false, ftz := false }

/-- One element of a constant at a type (R62). -/
def constElem (ty : Ty) (n : BitVec 5) : Nat :=
  match ty.fmt? with
  | some f =>
    if n.toNat < 24 then cvtIF f plainCtl (constInt n)
    else roundBits f .rne (constFloat n).1 1 (constFloat n).2 false
  | none => wrapTo ty.ew (constInt n)

/-- A constant at a type: every element of a packed type holds it (R62). R62 does not name the 4-bit types of CVT: there each
of the 8 elements holds the low 4 bits of an integer constant (DESIGN CHOICE, log entry 73). -/
def constVal (ty : Ty) (n : BitVec 5) : DWord := packElems ty.ew (List.replicate ty.count (constElem ty n))

/-! ### What an instruction accepts (R246, R276) -/

/-- Value sources and destinations at GROUP scope and elsewhere; `x` tells whether x registers are accepted (R246, R276). -/
def srcOk (grp x : Bool) (ty : Ty) (o : Opnd) : Bool :=
  if grp then o.isS || o.isCAt ty else o.isV || o.isS || o.isCAt ty || (x && !ty.wide && o.isX)
def dstOk (grp x : Bool) (ty : Ty) (o : Opnd) : Bool :=
  if grp then o.isS else o.isV || (x && !ty.wide && o.isX)
/-- A predicate result: p at LANE, SET and TEAM scope, s at GROUP scope (R261, R284). -/
def pdstOk (grp : Bool) (o : Opnd) : Bool := if grp then o.isS else o.isP

/-- One operand of an instruction: the classes accepted and how many v registers it spans, 0 where its entry checks the
registers itself (R64, R273). -/
structure Want where
  o : Opnd
  ok : Bool
  span : Nat
  pair : Bool

/-- An operand at a type: a pair at a 64-bit type. -/
def Want.at (o : Opnd) (ok : Bool) (ty : Ty) : Want := { o := o, ok := ok, span := if ty.wide then 2 else 1, pair := ty.wide }

/-- Checks 6, 7 and 8 of R241 over all operands: illegal-operand, operand-class, misaligned-pair, register-bound. -/
def checkWants (valloc : Nat) (ws : List Want) : Option Cause :=
  if ws.any (fun w => w.o.isBad) then some 0x43
  else if ws.any (fun w => !w.ok) then some 0x44
  else if ws.any (fun w => w.pair && (match w.o.vnum? with
    | some n => n % 2 == 1
    | none => false)) then some 0x45
  else if ws.any (fun w => match w.o.vnum? with
    | some n => decide (0 < w.span ∧ valloc < n + w.span)
    | none => false) then some 0x46
  else none

/-! ### Reading a source at a type (R247, R277) -/

/-- A source in one lane, read at a type: its 32 bits, or 64 at a 64-bit type. A scalar source of a set-wide instruction
is that of `lead` (R34). -/
def srcVal (lead g : Group) (draw slot : Nat) (ty : Ty) (o : Opnd) (lane : Nat) : DWord :=
  match o with
  | .v n =>
    if ty.wide then readVLane g (n.toNat + 1) lane draw (2 * slot + 1) ++ readVLane g n.toNat lane draw (2 * slot)
    else (readVLane g n.toNat lane draw (2 * slot)).setWidth 64
  | .s n => if ty.wide then readS lead n.toNat draw (2 * slot) else ((readS lead n.toNat draw (2 * slot)).setWidth 32).setWidth 64
  | .x n => (readXLane g n.toNat lane draw (2 * slot)).setWidth 64
  | .p n => (bit 64 (readPBit g n.toNat lane draw (2 * slot)))
  | .c n => constVal ty n
  | .h _ | .a _ | .bad _ => 0

/-- An operand of an engine or system instruction: an s register or an integer constant, read at .n64 (R324). -/
def engOk (o : Opnd) : Bool := o.isS || o.isIntC
def engVal (g : Group) (draw slot : Nat) (o : Opnd) : DWord := srcVal g g draw slot .i64 o 0

/-! ### Writing a result (R248) -/

/-- Write a value destination in the lanes of `mb.act` (R248). -/
def putVal (present : Mask) (mb : Member) (d : Opnd) (wide : Bool) (tag : BitVec 4) (f : Nat → DWord) (r : Regs) : Regs :=
  match d with
  | .v n =>
    if wide then r.setVPair present mb.act mb.tot n.toNat tag f
    else r.setV present mb.act mb.tot n.toNat tag (fun l => (f l).setWidth 32)
  | .x n => r.setX mb.act n.toNat (fun l => (f l).setWidth 16)
  | .s n => r.setS n.toNat tag (f 0)
  | .p n => r.setP mb.act n.toNat (maskOf (fun l => (f l).getLsbD 0))
  | .h _ | .a _ | .c _ | .bad _ => r

/-- The groups of members in order, with the team they belong to. -/
def memberGroups (t : Team) (ms : List Member) : List (Group × Member) :=
  ms.filterMap (fun mb => (t.group? mb.gno).map (fun g => (g, mb)))

/-- The member whose scalars a set-wide instruction reads: the lowest ordinal (R34). -/
def leadOf (gs : List (Group × Member)) (g : Group) : Group :=
  match gs with
  | [] => g
  | (x, _) :: _ => x

/-- A member makes a pass: always at LANE and GROUP scope, with a lane active in a set-wide instruction (R35). -/
def passes (sc : Scope) (mb : Member) : Bool :=
  match sc with
  | .lane | .group => true
  | .set | .team => mb.act != 0

/-- A register-only instruction over its members: each pass writes its own member's registers (R35, R248). -/
def regBody (sc : Scope) (ids : List RegId)
    (f : Firmware → Mach → Team → Group → Group → Member → Regs → Regs) :
    Firmware → Mach → Nat → List Member → Mach × End :=
  fun fw m tid ms =>
    match m.team? tid with
    | none => (m, .done)
    | some t =>
      let gs := memberGroups t ms
      (gs.foldl (fun m' gm =>
        if passes sc gm.2 then
          m'.modGroup { tid := tid, gno := gm.1.gno }
            (fun g => g.produce ids (f fw m t (leadOf gs gm.1) gm.1 gm.2))
        else m') m, .done)

/-- FPC of a team's context (R387). -/
def fpcOf (m : Mach) (c : BitVec 12) : BitVec 2 := ((m.ctx? c).map (fun k => k.fpc)).getD 0

end Sys2Proof.Machine
end

