-- ==== Sys2Proof/Machine/Integer.lean ====
section
/-! DEFINITION. Machine/Integer.lean: integer arithmetic, logic, compares, moves, immediates and packed 16-bit work
(R238, R246 to R250, R257 to R265). -/
namespace Sys2Proof.Machine

/-! ### Shared operations -/

/-- What a lane's result is computed from: the machine before the instruction, the team, the scalar source and the
member's group. -/
structure Eval where
  fw : Firmware
  m : Mach
  t : Team
  lead : Group
  g : Group

/-- A source of the lane (R247). -/
def Eval.src (e : Eval) (slot : Nat) (ty : Ty) (o : Opnd) (lane : Nat) : DWord := srcVal e.lead e.g e.m.draw slot ty o lane

/-- An instruction that checks its operands and writes one value per lane, or one at GROUP scope (R248). -/
def valOp (h : Hd) (ws : List Want) (d : Opnd) (wide : Bool) (tag : BitVec 4) (f : Eval → Nat → DWord) : Op :=
  { chk := fun t _ _ => checkWants t.valloc ws
    body := regBody h.scope (d.ids wide) (fun fw m t lead g mb r =>
      putVal g.present mb d wide tag (f { fw := fw, m := m, t := t, lead := lead, g := g }) r) }

/-- A value source of this chapter, wanted at a type (R246). -/
def wSrc (h : Hd) (ty : Ty) (o : Opnd) : Want := Want.at o (srcOk h.grp true ty o) ty
/-- A value destination of this chapter, wanted at a type (R246). -/
def wDst (h : Hd) (ty : Ty) (o : Opnd) : Want := Want.at o (dstOk h.grp true ty o) ty
/-- An operand of any class in a list, one register. -/
def wOne (o : Opnd) (ok : Bool) : Want := { o := o, ok := ok, span := 1, pair := false }

/-- The immediate of RRI at a type: the low w bits serve every element (R232, R257). -/
def immVal (ty : Ty) (imm : BitVec 20) : DWord :=
  packElems ty.ew (List.replicate ty.count (wrapTo ty.ew imm.toInt))

/-- The operations of IARITH (R257, R258). -/
inductive IOp where | add | sub | mul | mulhi | mad | min | max | abs | neg | div | rem
deriving DecidableEq, Repr

/-- The exact result of one element, then wrapped or saturated (R257, R258). -/
def iElem (op : IOp) (ty : Ty) (sat : Bool) (a b c : Nat) : Nat :=
  let w := ty.ew
  let x := intOf ty.signed w a
  let y := intOf ty.signed w b
  let z := intOf ty.signed w c
  match op with
  | .add => fitInt ty.signed w sat (x + y)
  | .sub => fitInt ty.signed w sat (x - y)
  | .mul => fitInt ty.signed w sat (x * y)
  | .mulhi => wrapTo w (x * y / (2 ^ w : Nat))
  | .mad => fitInt ty.signed w sat (x * y + z)
  | .min => wrapTo w (if y < x then y else x)
  | .max => wrapTo w (if x < y then y else x)
  | .abs => fitInt ty.signed w sat (x.natAbs : Int)
  | .neg => fitInt ty.signed w sat (-x)
  | .div => if y = 0 then 2 ^ w - 1 else wrapTo w (x.tdiv y)
  | .rem => if y = 0 then a else wrapTo w (x.tmod y)

/-- A three-source lane value at a type, element by element. -/
def lift3 (ty : Ty) (f : Nat → Nat → Nat → Nat) (a b c : DWord) : DWord :=
  mapElems ty (fun xs => f (xs.getD 0 0) (xs.getD 1 0) (xs.getD 2 0)) [a, b, c]

def arith1 (op : IOp) (h : Hd) (ty : Ty) (d a : Opnd) : Op :=
  valOp h [wDst h ty d, wSrc h ty a] d ty.wide ty.tag
    (fun e l => lift3 ty (iElem op ty h.sat) (e.src 0 ty a l) 0 0)
def arith2 (op : IOp) (h : Hd) (ty : Ty) (d a b : Opnd) : Op :=
  valOp h [wDst h ty d, wSrc h ty a, wSrc h ty b] d ty.wide ty.tag
    (fun e l => lift3 ty (iElem op ty h.sat) (e.src 0 ty a l) (e.src 1 ty b l) 0)
def arith3 (op : IOp) (h : Hd) (ty : Ty) (d a b c : Opnd) : Op :=
  valOp h [wDst h ty d, wSrc h ty a, wSrc h ty b, wSrc h ty c] d ty.wide ty.tag
    (fun e l => lift3 ty (iElem op ty h.sat) (e.src 0 ty a l) (e.src 1 ty b l) (e.src 2 ty c l))
def arithI (op : IOp) (h : Hd) (ty : Ty) (d a : Opnd) (imm : BitVec 20) : Op :=
  valOp h [wDst h ty d, wSrc h ty a] d ty.wide ty.tag
    (fun e l => lift3 ty (iElem op ty h.sat) (e.src 0 ty a l) (immVal ty imm) 0)

/-- The operations of LOGIC (R259, R260). -/
inductive LOp where | and | or | xor | not | andn | shl | shr | sar | rotl | popc | clz | bfe | bfi | brev
deriving DecidableEq, Repr

/-- Bits pos and up of v, n of them. -/
def bitsAt (v pos n : Nat) : Nat := (v / 2 ^ pos) % 2 ^ n

/-- One element of width w (R259, R260). -/
def lElem (op : LOp) (ty : Ty) (a b c : Nat) : Nat :=
  let w := ty.ew
  let k := b % w
  let pos := c % 256
  let len := (c / 256) % 256
  let n := if 0 < len ∧ pos < w then min len (w - pos) else 0
  match op with
  | .and => a &&& b
  | .or => a ||| b
  | .xor => a ^^^ b
  | .not => 2 ^ w - 1 - a
  | .andn => a &&& (2 ^ w - 1 - b)
  | .shl => (a * 2 ^ k) % 2 ^ w
  | .shr => a / 2 ^ k
  | .sar => wrapTo w (intOf true w a / (2 ^ k : Nat))
  | .rotl => (a * 2 ^ k) % 2 ^ w + a / 2 ^ (w - k)
  | .popc => ((List.range w).filter (fun i => a / 2 ^ i % 2 == 1)).length
  | .clz => w - bitLen a
  | .bfe =>
    if n = 0 then 0 else
    let f : Int := bitsAt a pos n
    wrapTo w (if ty.signed ∧ bitsAt a (pos + n - 1) 1 = 1 then f - (2 ^ n : Nat) else f)
  | .bfi => if n = 0 then a else a % 2 ^ pos + (b % 2 ^ n) * 2 ^ pos + (a / 2 ^ (pos + n)) * 2 ^ (pos + n)
  | .brev => (List.range w).foldl (fun r i => r + (a / 2 ^ i % 2) * 2 ^ (w - 1 - i)) 0

def logic1 (op : LOp) (h : Hd) (ty : Ty) (d a : Opnd) : Op :=
  valOp h [wDst h ty d, wSrc h ty a] d ty.wide ty.tag (fun e l => lift3 ty (lElem op ty) (e.src 0 ty a l) 0 0)
def logic2 (op : LOp) (h : Hd) (ty : Ty) (d a b : Opnd) : Op :=
  valOp h [wDst h ty d, wSrc h ty a, wSrc h ty b] d ty.wide ty.tag
    (fun e l => lift3 ty (lElem op ty) (e.src 0 ty a l) (e.src 1 ty b l) 0)
def logicI (op : LOp) (h : Hd) (ty : Ty) (d a : Opnd) (imm : BitVec 20) : Op :=
  valOp h [wDst h ty d, wSrc h ty a] d ty.wide ty.tag
    (fun e l => lift3 ty (lElem op ty) (e.src 0 ty a l) (immVal ty imm) 0)
def logic3 (op : LOp) (h : Hd) (ty : Ty) (d a b c : Opnd) : Op :=
  valOp h [wDst h ty d, wSrc h ty a, wSrc h ty b, wSrc h ty c] d ty.wide ty.tag
    (fun e l => lift3 ty (lElem op ty) (e.src 0 ty a l) (e.src 1 ty b l) (e.src 2 ty c l))
def logicC (op : LOp) (h : Hd) (ty : Ty) (d a c : Opnd) : Op :=
  valOp h [wDst h ty d, wSrc h ty a, wSrc h ty c] d ty.wide ty.tag
    (fun e l => lift3 ty (lElem op ty) (e.src 0 ty a l) 0 (e.src 2 ty c l))

/-- A predicate result, or 1 and 0 in an s register tagged N64 at GROUP scope (R261). -/
def predOp (h : Hd) (ws : List Want) (d : Opnd) (f : Eval → Nat → Bool) : Op :=
  valOp h (wOne d (pdstOk h.grp d) :: ws) d false 6 (fun e l => bit 64 (f e l))

/-- Compare element 0 of the sources (R261). -/
def cmpVals (c : Cond) (ty : Ty) (a b : DWord) : Bool :=
  condHolds c (intOf ty.signed ty.ew (elem ty.ew 0 a)) (intOf ty.signed ty.ew (elem ty.ew 0 b))
def icmp2 (c : Cond) (h : Hd) (ty : Ty) (d a b : Opnd) : Op :=
  predOp h [wSrc h ty a, wSrc h ty b] d (fun e l => cmpVals c ty (e.src 0 ty a l) (e.src 1 ty b l))
def icmpI (c : Cond) (h : Hd) (ty : Ty) (d a : Opnd) (imm : BitVec 20) : Op :=
  predOp h [wSrc h ty a] d (fun e l => cmpVals c ty (e.src 0 ty a l) (immVal ty imm))

/-- `mov` (R262): at `.b1` between predicates. -/
def movOp (h : Hd) (ty : Ty) (d a : Opnd) : Op :=
  if ty = .b1 then
    valOp h [wOne d (!h.grp && d.isP), wOne a (!h.grp && (a.isP || a.isIntC))] d false 0 (fun e l => e.src 0 .b32 a l &&& 1)
  else valOp h [wDst h ty d, wSrc h ty a] d ty.wide ty.tag (fun e l => e.src 0 ty a l)

/-- `sel` (R262). -/
def selOp (h : Hd) (ty : Ty) (d a b c : Opnd) : Op :=
  valOp h [wDst h ty d, wSrc h ty a, wSrc h ty b, wOne c (if h.grp then c.isS else c.isP)] d ty.wide ty.tag
    (fun e l =>
      let holds := if h.grp then e.src 2 .b64 c l != 0 else (e.src 2 .b32 c l).getLsbD 0
      if holds then e.src 0 ty a l else e.src 1 ty b l)

/-- `movi` and `movhi` (R263). -/
def immOp (h : Hd) (ty : Ty) (d : Opnd) (imm : BitVec 20) (sh : Nat) : Op :=
  valOp h [wDst h ty d] d ty.wide ty.tag (fun _ _ => BitVec.ofNat 64 (wrapTo ty.ew (imm.toInt * (2 ^ sh : Nat))))

/-- A destination of `addpc` and `addlo`: an s register at GROUP scope, else an even pair (R238). -/
def pcOk (h : Hd) (o : Opnd) : Bool := if h.grp then o.isS else o.isV

def addpcOp (h : Hd) (d : Opnd) (imm : BitVec 20) : Op :=
  valOp h [Want.at d (pcOk h d) .n64] d true 6 (fun e _ => e.g.pc + (imm.signExtend 64 <<< 12))
def addloOp (h : Hd) (d a : Opnd) (imm : BitVec 20) : Op :=
  valOp h [Want.at d (pcOk h d) .n64, Want.at a (pcOk h a) .n64] d true 6
    (fun e l => e.src 0 .n64 a l + (imm.setWidth 12).signExtend 64)

/-- `add2`, `sub2`, `min2`, `max2` (R264): they saturate. -/
def pk16 (op : IOp) (h : Hd) (ty : Ty) (d a b : Opnd) : Op :=
  valOp h [wDst h ty d, wSrc h ty a, wSrc h ty b] d false ty.tag
    (fun e l => lift3 ty (iElem op ty true) (e.src 0 ty a l) (e.src 1 ty b l) 0)

/-- The two decisions of `maxd2` in one lane (R264). -/
def decisions (ty : Ty) (a b : DWord) : Bool × Bool :=
  (decision ty.signed (elem 16 0 a) (elem 16 0 b), decision ty.signed (elem 16 1 a) (elem 16 1 b))

/-- The predicate pair of `maxd2`: p0, p2 or p4 (R265). -/
def predPair (o : Opnd) : Option Nat :=
  match o with
  | .p n => some n.toNat
  | _ => none

/-- Checks 6 to 8 of `maxd2` (R265): the predicate pair joins the pair and bound checks. -/
def maxd2Chk (h : Hd) (ty : Ty) (d a b c : Opnd) (valloc : Nat) : Option Cause :=
  let ws := [wDst h ty d, wSrc h ty a, wSrc h ty b, wOne c (if h.grp then c.isS else c.isP)]
  match checkWants valloc ws, predPair c with
  | none, some n => if n = 1 ∨ n = 3 ∨ n = 5 then some 0x45 else if 6 ≤ n then some 0x46 else none
  | some 0x46, some n => if n = 1 ∨ n = 3 ∨ n = 5 then some 0x45 else some 0x46
  | r, _ => r

/-- `maxd2` (R264, R265): the survivors and their decisions. D is written before C, so that at GROUP scope, where both may name
one s register, the decisions stand: R265 does not say which result does (DESIGN CHOICE, log entry 72). -/
def maxd2Op (h : Hd) (ty : Ty) (d a b c : Opnd) : Op :=
  { chk := fun t _ _ => maxd2Chk h ty d a b c t.valloc
    body := regBody h.scope (d.ids false ++ c.ids false ++ (match predPair c with
        | some n => [.p (n + 1)]
        | none => [])) (fun fw m t lead g mb r =>
      let e : Eval := { fw := fw, m := m, t := t, lead := lead, g := g }
      let va := fun l => e.src 0 ty a l
      let vb := fun l => e.src 1 ty b l
      let r := putVal g.present mb d false ty.tag
        (fun l => lift3 ty (fun x y _ => if decision ty.signed x y then y else x) (va l) (vb l) 0) r
      match predPair c with
      | some n =>
        (r.setP mb.act n (maskOf (fun l => (decisions ty (va l) (vb l)).1))).setP mb.act (n + 1)
          (maskOf (fun l => (decisions ty (va l) (vb l)).2))
      | none =>
        let x := decisions ty (va 0) (vb 0)
        putVal g.present mb c false 6 (fun _ => BitVec.ofNat 64 (2 * x.2.toNat + x.1.toNat)) r) }

/-! ### The instructions -/

/-- ADD, R257. -/
def opAdd (h : Hd) (ty : Ty) (d a b : Opnd) : Op := arith2 .add h ty d a b
/-- ADD, R257. -/
def execAdd (h : Hd) (ty : Ty) (d a b : Opnd) (s : State) : Host.Outcome State Fault Refusal :=
  issue s h (.add h ty d a b) (opAdd h ty d a b)

/-- SUB, R257. -/
def opSub (h : Hd) (ty : Ty) (d a b : Opnd) : Op := arith2 .sub h ty d a b
/-- SUB, R257. -/
def execSub (h : Hd) (ty : Ty) (d a b : Opnd) (s : State) : Host.Outcome State Fault Refusal :=
  issue s h (.sub h ty d a b) (opSub h ty d a b)

/-- MUL, R257. -/
def opMul (h : Hd) (ty : Ty) (d a b : Opnd) : Op := arith2 .mul h ty d a b
/-- MUL, R257. -/
def execMul (h : Hd) (ty : Ty) (d a b : Opnd) (s : State) : Host.Outcome State Fault Refusal :=
  issue s h (.mul h ty d a b) (opMul h ty d a b)

/-- MULHI, R257. -/
def opMulhi (h : Hd) (ty : Ty) (d a b : Opnd) : Op := arith2 .mulhi h ty d a b
/-- MULHI, R257. -/
def execMulhi (h : Hd) (ty : Ty) (d a b : Opnd) (s : State) : Host.Outcome State Fault Refusal :=
  issue s h (.mulhi h ty d a b) (opMulhi h ty d a b)

/-- MAD, R257. -/
def opMad (h : Hd) (ty : Ty) (d a b c : Opnd) : Op := arith3 .mad h ty d a b c
/-- MAD, R257. -/
def execMad (h : Hd) (ty : Ty) (d a b c : Opnd) (s : State) : Host.Outcome State Fault Refusal :=
  issue s h (.mad h ty d a b c) (opMad h ty d a b c)

/-- MIN, R257. -/
def opMin (h : Hd) (ty : Ty) (d a b : Opnd) : Op := arith2 .min h ty d a b
/-- MIN, R257. -/
def execMin (h : Hd) (ty : Ty) (d a b : Opnd) (s : State) : Host.Outcome State Fault Refusal :=
  issue s h (.min h ty d a b) (opMin h ty d a b)

/-- MAX, R257. -/
def opMax (h : Hd) (ty : Ty) (d a b : Opnd) : Op := arith2 .max h ty d a b
/-- MAX, R257. -/
def execMax (h : Hd) (ty : Ty) (d a b : Opnd) (s : State) : Host.Outcome State Fault Refusal :=
  issue s h (.max h ty d a b) (opMax h ty d a b)

/-- DIV, R258. -/
def opDiv (h : Hd) (ty : Ty) (d a b : Opnd) : Op := arith2 .div h ty d a b
/-- DIV, R258. -/
def execDiv (h : Hd) (ty : Ty) (d a b : Opnd) (s : State) : Host.Outcome State Fault Refusal :=
  issue s h (.div h ty d a b) (opDiv h ty d a b)

/-- REM, R258. -/
def opRem (h : Hd) (ty : Ty) (d a b : Opnd) : Op := arith2 .rem h ty d a b
/-- REM, R258. -/
def execRem (h : Hd) (ty : Ty) (d a b : Opnd) (s : State) : Host.Outcome State Fault Refusal :=
  issue s h (.rem h ty d a b) (opRem h ty d a b)

/-- ABS, R257. -/
def opAbs (h : Hd) (ty : Ty) (d a : Opnd) : Op := arith1 .abs h ty d a
/-- ABS, R257. -/
def execAbs (h : Hd) (ty : Ty) (d a : Opnd) (s : State) : Host.Outcome State Fault Refusal :=
  issue s h (.abs h ty d a) (opAbs h ty d a)

/-- NEG, R257. -/
def opNeg (h : Hd) (ty : Ty) (d a : Opnd) : Op := arith1 .neg h ty d a
/-- NEG, R257. -/
def execNeg (h : Hd) (ty : Ty) (d a : Opnd) (s : State) : Host.Outcome State Fault Refusal :=
  issue s h (.neg h ty d a) (opNeg h ty d a)

/-- ADD_IMM, R257, R232. -/
def opAddImm (h : Hd) (ty : Ty) (d a : Opnd) (imm : BitVec 20) : Op := arithI .add h ty d a imm
/-- ADD_IMM, R257, R232. -/
def execAddImm (h : Hd) (ty : Ty) (d a : Opnd) (imm : BitVec 20) (s : State) : Host.Outcome State Fault Refusal :=
  issue s h (.addImm h ty d a imm) (opAddImm h ty d a imm)

/-- SUB_IMM, R257, R232. -/
def opSubImm (h : Hd) (ty : Ty) (d a : Opnd) (imm : BitVec 20) : Op := arithI .sub h ty d a imm
/-- SUB_IMM, R257, R232. -/
def execSubImm (h : Hd) (ty : Ty) (d a : Opnd) (imm : BitVec 20) (s : State) : Host.Outcome State Fault Refusal :=
  issue s h (.subImm h ty d a imm) (opSubImm h ty d a imm)

/-- MUL_IMM, R257, R232. -/
def opMulImm (h : Hd) (ty : Ty) (d a : Opnd) (imm : BitVec 20) : Op := arithI .mul h ty d a imm
/-- MUL_IMM, R257, R232. -/
def execMulImm (h : Hd) (ty : Ty) (d a : Opnd) (imm : BitVec 20) (s : State) : Host.Outcome State Fault Refusal :=
  issue s h (.mulImm h ty d a imm) (opMulImm h ty d a imm)

/-- MULHI_IMM, R257, R232. -/
def opMulhiImm (h : Hd) (ty : Ty) (d a : Opnd) (imm : BitVec 20) : Op := arithI .mulhi h ty d a imm
/-- MULHI_IMM, R257, R232. -/
def execMulhiImm (h : Hd) (ty : Ty) (d a : Opnd) (imm : BitVec 20) (s : State) : Host.Outcome State Fault Refusal :=
  issue s h (.mulhiImm h ty d a imm) (opMulhiImm h ty d a imm)

/-- MIN_IMM, R257, R232. -/
def opMinImm (h : Hd) (ty : Ty) (d a : Opnd) (imm : BitVec 20) : Op := arithI .min h ty d a imm
/-- MIN_IMM, R257, R232. -/
def execMinImm (h : Hd) (ty : Ty) (d a : Opnd) (imm : BitVec 20) (s : State) : Host.Outcome State Fault Refusal :=
  issue s h (.minImm h ty d a imm) (opMinImm h ty d a imm)

/-- MAX_IMM, R257, R232. -/
def opMaxImm (h : Hd) (ty : Ty) (d a : Opnd) (imm : BitVec 20) : Op := arithI .max h ty d a imm
/-- MAX_IMM, R257, R232. -/
def execMaxImm (h : Hd) (ty : Ty) (d a : Opnd) (imm : BitVec 20) (s : State) : Host.Outcome State Fault Refusal :=
  issue s h (.maxImm h ty d a imm) (opMaxImm h ty d a imm)

/-- AND, R259. -/
def opAnd (h : Hd) (ty : Ty) (d a b : Opnd) : Op := logic2 .and h ty d a b
/-- AND, R259. -/
def execAnd (h : Hd) (ty : Ty) (d a b : Opnd) (s : State) : Host.Outcome State Fault Refusal :=
  issue s h (.and h ty d a b) (opAnd h ty d a b)

/-- OR, R259. -/
def opOr (h : Hd) (ty : Ty) (d a b : Opnd) : Op := logic2 .or h ty d a b
/-- OR, R259. -/
def execOr (h : Hd) (ty : Ty) (d a b : Opnd) (s : State) : Host.Outcome State Fault Refusal :=
  issue s h (.or h ty d a b) (opOr h ty d a b)

/-- XOR, R259. -/
def opXor (h : Hd) (ty : Ty) (d a b : Opnd) : Op := logic2 .xor h ty d a b
/-- XOR, R259. -/
def execXor (h : Hd) (ty : Ty) (d a b : Opnd) (s : State) : Host.Outcome State Fault Refusal :=
  issue s h (.xor h ty d a b) (opXor h ty d a b)

/-- ANDN, R259. -/
def opAndn (h : Hd) (ty : Ty) (d a b : Opnd) : Op := logic2 .andn h ty d a b
/-- ANDN, R259. -/
def execAndn (h : Hd) (ty : Ty) (d a b : Opnd) (s : State) : Host.Outcome State Fault Refusal :=
  issue s h (.andn h ty d a b) (opAndn h ty d a b)

/-- SHL, R259. -/
def opShl (h : Hd) (ty : Ty) (d a b : Opnd) : Op := logic2 .shl h ty d a b
/-- SHL, R259. -/
def execShl (h : Hd) (ty : Ty) (d a b : Opnd) (s : State) : Host.Outcome State Fault Refusal :=
  issue s h (.shl h ty d a b) (opShl h ty d a b)

/-- SHR, R259. -/
def opShr (h : Hd) (ty : Ty) (d a b : Opnd) : Op := logic2 .shr h ty d a b
/-- SHR, R259. -/
def execShr (h : Hd) (ty : Ty) (d a b : Opnd) (s : State) : Host.Outcome State Fault Refusal :=
  issue s h (.shr h ty d a b) (opShr h ty d a b)

/-- SAR, R259. -/
def opSar (h : Hd) (ty : Ty) (d a b : Opnd) : Op := logic2 .sar h ty d a b
/-- SAR, R259. -/
def execSar (h : Hd) (ty : Ty) (d a b : Opnd) (s : State) : Host.Outcome State Fault Refusal :=
  issue s h (.sar h ty d a b) (opSar h ty d a b)

/-- ROTL, R259. -/
def opRotl (h : Hd) (ty : Ty) (d a b : Opnd) : Op := logic2 .rotl h ty d a b
/-- ROTL, R259. -/
def execRotl (h : Hd) (ty : Ty) (d a b : Opnd) (s : State) : Host.Outcome State Fault Refusal :=
  issue s h (.rotl h ty d a b) (opRotl h ty d a b)

/-- NOT, R259. -/
def opNot (h : Hd) (ty : Ty) (d a : Opnd) : Op := logic1 .not h ty d a
/-- NOT, R259. -/
def execNot (h : Hd) (ty : Ty) (d a : Opnd) (s : State) : Host.Outcome State Fault Refusal :=
  issue s h (.not h ty d a) (opNot h ty d a)

/-- POPC, R259. -/
def opPopc (h : Hd) (ty : Ty) (d a : Opnd) : Op := logic1 .popc h ty d a
/-- POPC, R259. -/
def execPopc (h : Hd) (ty : Ty) (d a : Opnd) (s : State) : Host.Outcome State Fault Refusal :=
  issue s h (.popc h ty d a) (opPopc h ty d a)

/-- CLZ, R259. -/
def opClz (h : Hd) (ty : Ty) (d a : Opnd) : Op := logic1 .clz h ty d a
/-- CLZ, R259. -/
def execClz (h : Hd) (ty : Ty) (d a : Opnd) (s : State) : Host.Outcome State Fault Refusal :=
  issue s h (.clz h ty d a) (opClz h ty d a)

/-- BREV, R259. -/
def opBrev (h : Hd) (ty : Ty) (d a : Opnd) : Op := logic1 .brev h ty d a
/-- BREV, R259. -/
def execBrev (h : Hd) (ty : Ty) (d a : Opnd) (s : State) : Host.Outcome State Fault Refusal :=
  issue s h (.brev h ty d a) (opBrev h ty d a)

/-- BFE, R260. -/
def opBfe (h : Hd) (ty : Ty) (d a c : Opnd) : Op := logicC .bfe h ty d a c
/-- BFE, R260. -/
def execBfe (h : Hd) (ty : Ty) (d a c : Opnd) (s : State) : Host.Outcome State Fault Refusal :=
  issue s h (.bfe h ty d a c) (opBfe h ty d a c)

/-- BFI, R260. -/
def opBfi (h : Hd) (ty : Ty) (d a b c : Opnd) : Op := logic3 .bfi h ty d a b c
/-- BFI, R260. -/
def execBfi (h : Hd) (ty : Ty) (d a b c : Opnd) (s : State) : Host.Outcome State Fault Refusal :=
  issue s h (.bfi h ty d a b c) (opBfi h ty d a b c)

/-- AND_IMM, R259, R232. -/
def opAndImm (h : Hd) (ty : Ty) (d a : Opnd) (imm : BitVec 20) : Op := logicI .and h ty d a imm
/-- AND_IMM, R259, R232. -/
def execAndImm (h : Hd) (ty : Ty) (d a : Opnd) (imm : BitVec 20) (s : State) : Host.Outcome State Fault Refusal :=
  issue s h (.andImm h ty d a imm) (opAndImm h ty d a imm)

/-- OR_IMM, R259, R232. -/
def opOrImm (h : Hd) (ty : Ty) (d a : Opnd) (imm : BitVec 20) : Op := logicI .or h ty d a imm
/-- OR_IMM, R259, R232. -/
def execOrImm (h : Hd) (ty : Ty) (d a : Opnd) (imm : BitVec 20) (s : State) : Host.Outcome State Fault Refusal :=
  issue s h (.orImm h ty d a imm) (opOrImm h ty d a imm)

/-- XOR_IMM, R259, R232. -/
def opXorImm (h : Hd) (ty : Ty) (d a : Opnd) (imm : BitVec 20) : Op := logicI .xor h ty d a imm
/-- XOR_IMM, R259, R232. -/
def execXorImm (h : Hd) (ty : Ty) (d a : Opnd) (imm : BitVec 20) (s : State) : Host.Outcome State Fault Refusal :=
  issue s h (.xorImm h ty d a imm) (opXorImm h ty d a imm)

/-- ANDN_IMM, R259, R232. -/
def opAndnImm (h : Hd) (ty : Ty) (d a : Opnd) (imm : BitVec 20) : Op := logicI .andn h ty d a imm
/-- ANDN_IMM, R259, R232. -/
def execAndnImm (h : Hd) (ty : Ty) (d a : Opnd) (imm : BitVec 20) (s : State) : Host.Outcome State Fault Refusal :=
  issue s h (.andnImm h ty d a imm) (opAndnImm h ty d a imm)

/-- SHL_IMM, R259, R232. -/
def opShlImm (h : Hd) (ty : Ty) (d a : Opnd) (imm : BitVec 20) : Op := logicI .shl h ty d a imm
/-- SHL_IMM, R259, R232. -/
def execShlImm (h : Hd) (ty : Ty) (d a : Opnd) (imm : BitVec 20) (s : State) : Host.Outcome State Fault Refusal :=
  issue s h (.shlImm h ty d a imm) (opShlImm h ty d a imm)

/-- SHR_IMM, R259, R232. -/
def opShrImm (h : Hd) (ty : Ty) (d a : Opnd) (imm : BitVec 20) : Op := logicI .shr h ty d a imm
/-- SHR_IMM, R259, R232. -/
def execShrImm (h : Hd) (ty : Ty) (d a : Opnd) (imm : BitVec 20) (s : State) : Host.Outcome State Fault Refusal :=
  issue s h (.shrImm h ty d a imm) (opShrImm h ty d a imm)

/-- SAR_IMM, R259, R232. -/
def opSarImm (h : Hd) (ty : Ty) (d a : Opnd) (imm : BitVec 20) : Op := logicI .sar h ty d a imm
/-- SAR_IMM, R259, R232. -/
def execSarImm (h : Hd) (ty : Ty) (d a : Opnd) (imm : BitVec 20) (s : State) : Host.Outcome State Fault Refusal :=
  issue s h (.sarImm h ty d a imm) (opSarImm h ty d a imm)

/-- ROTL_IMM, R259, R232. -/
def opRotlImm (h : Hd) (ty : Ty) (d a : Opnd) (imm : BitVec 20) : Op := logicI .rotl h ty d a imm
/-- ROTL_IMM, R259, R232. -/
def execRotlImm (h : Hd) (ty : Ty) (d a : Opnd) (imm : BitVec 20) (s : State) : Host.Outcome State Fault Refusal :=
  issue s h (.rotlImm h ty d a imm) (opRotlImm h ty d a imm)

/-- SET_EQ, R261. -/
def opSetEq (h : Hd) (ty : Ty) (d a b : Opnd) : Op := icmp2 .eq h ty d a b
/-- SET_EQ, R261. -/
def execSetEq (h : Hd) (ty : Ty) (d a b : Opnd) (s : State) : Host.Outcome State Fault Refusal :=
  issue s h (.setEq h ty d a b) (opSetEq h ty d a b)

/-- SET_NE, R261. -/
def opSetNe (h : Hd) (ty : Ty) (d a b : Opnd) : Op := icmp2 .ne h ty d a b
/-- SET_NE, R261. -/
def execSetNe (h : Hd) (ty : Ty) (d a b : Opnd) (s : State) : Host.Outcome State Fault Refusal :=
  issue s h (.setNe h ty d a b) (opSetNe h ty d a b)

/-- SET_LT, R261. -/
def opSetLt (h : Hd) (ty : Ty) (d a b : Opnd) : Op := icmp2 .lt h ty d a b
/-- SET_LT, R261. -/
def execSetLt (h : Hd) (ty : Ty) (d a b : Opnd) (s : State) : Host.Outcome State Fault Refusal :=
  issue s h (.setLt h ty d a b) (opSetLt h ty d a b)

/-- SET_LE, R261. -/
def opSetLe (h : Hd) (ty : Ty) (d a b : Opnd) : Op := icmp2 .le h ty d a b
/-- SET_LE, R261. -/
def execSetLe (h : Hd) (ty : Ty) (d a b : Opnd) (s : State) : Host.Outcome State Fault Refusal :=
  issue s h (.setLe h ty d a b) (opSetLe h ty d a b)

/-- SET_GT, R261. -/
def opSetGt (h : Hd) (ty : Ty) (d a b : Opnd) : Op := icmp2 .gt h ty d a b
/-- SET_GT, R261. -/
def execSetGt (h : Hd) (ty : Ty) (d a b : Opnd) (s : State) : Host.Outcome State Fault Refusal :=
  issue s h (.setGt h ty d a b) (opSetGt h ty d a b)

/-- SET_GE, R261. -/
def opSetGe (h : Hd) (ty : Ty) (d a b : Opnd) : Op := icmp2 .ge h ty d a b
/-- SET_GE, R261. -/
def execSetGe (h : Hd) (ty : Ty) (d a b : Opnd) (s : State) : Host.Outcome State Fault Refusal :=
  issue s h (.setGe h ty d a b) (opSetGe h ty d a b)

/-- SET_EQ_IMM, R261, R232. -/
def opSetEqImm (h : Hd) (ty : Ty) (d a : Opnd) (imm : BitVec 20) : Op := icmpI .eq h ty d a imm
/-- SET_EQ_IMM, R261, R232. -/
def execSetEqImm (h : Hd) (ty : Ty) (d a : Opnd) (imm : BitVec 20) (s : State) : Host.Outcome State Fault Refusal :=
  issue s h (.setEqImm h ty d a imm) (opSetEqImm h ty d a imm)

/-- SET_NE_IMM, R261, R232. -/
def opSetNeImm (h : Hd) (ty : Ty) (d a : Opnd) (imm : BitVec 20) : Op := icmpI .ne h ty d a imm
/-- SET_NE_IMM, R261, R232. -/
def execSetNeImm (h : Hd) (ty : Ty) (d a : Opnd) (imm : BitVec 20) (s : State) : Host.Outcome State Fault Refusal :=
  issue s h (.setNeImm h ty d a imm) (opSetNeImm h ty d a imm)

/-- SET_LT_IMM, R261, R232. -/
def opSetLtImm (h : Hd) (ty : Ty) (d a : Opnd) (imm : BitVec 20) : Op := icmpI .lt h ty d a imm
/-- SET_LT_IMM, R261, R232. -/
def execSetLtImm (h : Hd) (ty : Ty) (d a : Opnd) (imm : BitVec 20) (s : State) : Host.Outcome State Fault Refusal :=
  issue s h (.setLtImm h ty d a imm) (opSetLtImm h ty d a imm)

/-- SET_LE_IMM, R261, R232. -/
def opSetLeImm (h : Hd) (ty : Ty) (d a : Opnd) (imm : BitVec 20) : Op := icmpI .le h ty d a imm
/-- SET_LE_IMM, R261, R232. -/
def execSetLeImm (h : Hd) (ty : Ty) (d a : Opnd) (imm : BitVec 20) (s : State) : Host.Outcome State Fault Refusal :=
  issue s h (.setLeImm h ty d a imm) (opSetLeImm h ty d a imm)

/-- SET_GT_IMM, R261, R232. -/
def opSetGtImm (h : Hd) (ty : Ty) (d a : Opnd) (imm : BitVec 20) : Op := icmpI .gt h ty d a imm
/-- SET_GT_IMM, R261, R232. -/
def execSetGtImm (h : Hd) (ty : Ty) (d a : Opnd) (imm : BitVec 20) (s : State) : Host.Outcome State Fault Refusal :=
  issue s h (.setGtImm h ty d a imm) (opSetGtImm h ty d a imm)

/-- SET_GE_IMM, R261, R232. -/
def opSetGeImm (h : Hd) (ty : Ty) (d a : Opnd) (imm : BitVec 20) : Op := icmpI .ge h ty d a imm
/-- SET_GE_IMM, R261, R232. -/
def execSetGeImm (h : Hd) (ty : Ty) (d a : Opnd) (imm : BitVec 20) (s : State) : Host.Outcome State Fault Refusal :=
  issue s h (.setGeImm h ty d a imm) (opSetGeImm h ty d a imm)

/-- MOV, R262. -/
def opMov (h : Hd) (ty : Ty) (d a : Opnd) : Op := movOp h ty d a
/-- MOV, R262. -/
def execMov (h : Hd) (ty : Ty) (d a : Opnd) (s : State) : Host.Outcome State Fault Refusal :=
  issue s h (.mov h ty d a) (opMov h ty d a)

/-- SEL, R262. -/
def opSel (h : Hd) (ty : Ty) (d a b c : Opnd) : Op := selOp h ty d a b c
/-- SEL, R262. -/
def execSel (h : Hd) (ty : Ty) (d a b c : Opnd) (s : State) : Host.Outcome State Fault Refusal :=
  issue s h (.sel h ty d a b c) (opSel h ty d a b c)

/-- MOVI, R263. -/
def opMovi (h : Hd) (ty : Ty) (d : Opnd) (imm : BitVec 20) : Op := immOp h ty d imm 0
/-- MOVI, R263. -/
def execMovi (h : Hd) (ty : Ty) (d : Opnd) (imm : BitVec 20) (s : State) : Host.Outcome State Fault Refusal :=
  issue s h (.movi h ty d imm) (opMovi h ty d imm)

/-- MOVHI, R263. -/
def opMovhi (h : Hd) (ty : Ty) (d : Opnd) (imm : BitVec 20) : Op := immOp h ty d imm 12
/-- MOVHI, R263. -/
def execMovhi (h : Hd) (ty : Ty) (d : Opnd) (imm : BitVec 20) (s : State) : Host.Outcome State Fault Refusal :=
  issue s h (.movhi h ty d imm) (opMovhi h ty d imm)

/-- ADDPC, R238. -/
def opAddpc (h : Hd) (ty : Ty) (d : Opnd) (imm : BitVec 20) : Op := addpcOp h d imm
/-- ADDPC, R238. -/
def execAddpc (h : Hd) (ty : Ty) (d : Opnd) (imm : BitVec 20) (s : State) : Host.Outcome State Fault Refusal :=
  issue s h (.addpc h ty d imm) (opAddpc h ty d imm)

/-- ADDLO, R238. -/
def opAddlo (h : Hd) (ty : Ty) (d a : Opnd) (imm : BitVec 20) : Op := addloOp h d a imm
/-- ADDLO, R238. -/
def execAddlo (h : Hd) (ty : Ty) (d a : Opnd) (imm : BitVec 20) (s : State) : Host.Outcome State Fault Refusal :=
  issue s h (.addlo h ty d a imm) (opAddlo h ty d a imm)

/-- ADD2, R264. -/
def opAdd2 (h : Hd) (ty : Ty) (d a b : Opnd) : Op := pk16 .add h ty d a b
/-- ADD2, R264. -/
def execAdd2 (h : Hd) (ty : Ty) (d a b : Opnd) (s : State) : Host.Outcome State Fault Refusal :=
  issue s h (.add2 h ty d a b) (opAdd2 h ty d a b)

/-- SUB2, R264. -/
def opSub2 (h : Hd) (ty : Ty) (d a b : Opnd) : Op := pk16 .sub h ty d a b
/-- SUB2, R264. -/
def execSub2 (h : Hd) (ty : Ty) (d a b : Opnd) (s : State) : Host.Outcome State Fault Refusal :=
  issue s h (.sub2 h ty d a b) (opSub2 h ty d a b)

/-- MIN2, R264. -/
def opMin2 (h : Hd) (ty : Ty) (d a b : Opnd) : Op := pk16 .min h ty d a b
/-- MIN2, R264. -/
def execMin2 (h : Hd) (ty : Ty) (d a b : Opnd) (s : State) : Host.Outcome State Fault Refusal :=
  issue s h (.min2 h ty d a b) (opMin2 h ty d a b)

/-- MAX2, R264. -/
def opMax2 (h : Hd) (ty : Ty) (d a b : Opnd) : Op := pk16 .max h ty d a b
/-- MAX2, R264. -/
def execMax2 (h : Hd) (ty : Ty) (d a b : Opnd) (s : State) : Host.Outcome State Fault Refusal :=
  issue s h (.max2 h ty d a b) (opMax2 h ty d a b)

/-- MAXD2, R265. -/
def opMaxd2 (h : Hd) (ty : Ty) (d a b c : Opnd) : Op := maxd2Op h ty d a b c
/-- MAXD2, R265. -/
def execMaxd2 (h : Hd) (ty : Ty) (d a b c : Opnd) (s : State) : Host.Outcome State Fault Refusal :=
  issue s h (.maxd2 h ty d a b c) (opMaxd2 h ty d a b c)

end Sys2Proof.Machine
end

