-- ==== Sys2Proof/Machine/FloatOps.lean ====
section
/-! DEFINITION. Machine/FloatOps.lean: float arithmetic, compares, functions, packed halves, conversion and narrowing with
error feedback (R276 to R294, R100, R101). -/
namespace Sys2Proof.Machine

/-! ### Operands and modifiers (R276 to R278) -/

def wFSrc (h : Hd) (ty : Ty) (o : Opnd) : Want := Want.at o (srcOk h.grp false ty o) ty
def wFDst (h : Hd) (ty : Ty) (o : Opnd) : Want := Want.at o (dstOk h.grp false ty o) ty

/-- A modifier word of zeros. -/
def Mod.zero : Mod :=
  { setn := 0, rmode := .own, scale := 0, sat := false, clamp := false, absA := false, negA := false, absB := false
    negB := false, absC := false, negC := false, ext := 0 }
/-- The modifier fields of an instruction; without a modifier word they are 0 (R236). -/
def Hd.mods (h : Hd) : Mod := h.mod.getD Mod.zero

/-- The control of one operation (R278, R93). -/
def ctlOf (h : Hd) (fpc : BitVec 2) : Ctl :=
  let x := Hd.mods h
  { rnd := rndOf x.rmode, scale := x.scale.toInt, sat := x.sat, clamp := x.clamp, daz := fpc.getLsbD 0, ftz := fpc.getLsbD 1 }
def Eval.ctl (e : Eval) (h : Hd) : Ctl := ctlOf h (fpcOf e.m e.t.ctx)

/-- The sources A, B and C after DAZ, ABSx and NEGx (R277). -/
def modA (h : Hd) (f : Fmt) (c : Ctl) (v : Nat) : Nat := srcMods f c.daz (Hd.mods h).absA (Hd.mods h).negA v
def modB (h : Hd) (f : Fmt) (c : Ctl) (v : Nat) : Nat := srcMods f c.daz (Hd.mods h).absB (Hd.mods h).negB v
def modC (h : Hd) (f : Fmt) (c : Ctl) (v : Nat) : Nat := srcMods f c.daz (Hd.mods h).absC (Hd.mods h).negC v

/-- The format of a float type. -/
def Ty.fmtD (ty : Ty) : Fmt := ty.fmt?.getD .f32

/-! ### Arithmetic (R280 to R283, R285, R289) -/

/-- An operation that rounds, or `fmin` and `fmax`. -/
inductive FKind where
  | round (op : FOp)
  | minmax (mx : Bool)
deriving DecidableEq, Repr

/-- One element (R281, R283). -/
def fElem (k : FKind) (f : Fmt) (h : Hd) (c : Ctl) (a b d : Nat) : Nat :=
  match k with
  | .round op => fop f c op (modA h f c a) (modB h f c b) (modC h f c d)
  | .minmax mx => flush f c.ftz (fminmax f mx (modA h f c a) (modB h f c b))

def farith1 (k : FKind) (h : Hd) (ty : Ty) (d a : Opnd) : Op :=
  valOp h [wFDst h ty d, wFSrc h ty a] d ty.wide ty.tag
    (fun e l => lift3 ty (fElem k (Ty.fmtD ty) h (e.ctl h)) (e.src 0 ty a l) 0 0)
def farith2 (k : FKind) (h : Hd) (ty : Ty) (d a b : Opnd) : Op :=
  valOp h [wFDst h ty d, wFSrc h ty a, wFSrc h ty b] d ty.wide ty.tag
    (fun e l => lift3 ty (fElem k (Ty.fmtD ty) h (e.ctl h)) (e.src 0 ty a l) (e.src 1 ty b l) 0)
def farith3 (k : FKind) (h : Hd) (ty : Ty) (d a b c : Opnd) : Op :=
  valOp h [wFDst h ty d, wFSrc h ty a, wFSrc h ty b, wFSrc h ty c] d ty.wide ty.tag
    (fun e l => lift3 ty (fElem k (Ty.fmtD ty) h (e.ctl h)) (e.src 0 ty a l) (e.src 1 ty b l) (e.src 2 ty c l))

/-- A compare (R284). -/
def fsetOp (cc : FCond) (h : Hd) (ty : Ty) (d a b : Opnd) : Op :=
  predOp h [wFSrc h ty a, wFSrc h ty b] d (fun e l =>
    let c := e.ctl h
    fcompare (Ty.fmtD ty) cc (modA h (Ty.fmtD ty) c (e.src 0 ty a l).toNat) (modB h (Ty.fmtD ty) c (e.src 1 ty b l).toNat))

/-- `fclass` (R287). -/
def fclassOp (h : Hd) (ty : Ty) (d a : Opnd) : Op :=
  valOp h [wOne d (dstOk h.grp false .n32 d), wFSrc h ty a] d false (if h.grp then 6 else 2)
    (fun e l => BitVec.ofNat 64 (fclassBits (Ty.fmtD ty) (e.src 0 ty a l).toNat))

/-- `frint` (R288). -/
def frintOp (h : Hd) (ty : Ty) (d a : Opnd) : Op :=
  valOp h [wFDst h ty d, wFSrc h ty a] d ty.wide ty.tag (fun e l =>
    let c := e.ctl h
    BitVec.ofNat 64 (frintBits (Ty.fmtD ty) c.rnd (modA h (Ty.fmtD ty) c (e.src 0 ty a l).toNat)))

/-! ### Conversion (R290 to R292) -/

/-- The sign operations of ABSA and NEGA on a decoded QN4 value (R292). -/
def Rat4.mods (ab ng : Bool) (x : Rat4) : Rat4 :=
  let s (n : Bool) : Bool := (n && !ab) != ng
  match x with
  | .nan n fr => .nan (s n) fr
  | .inf n => .inf (s n)
  | .zero n => .zero (s n)
  | .rat n a d e => .rat (s n) a d e

/-- CONV of one element (R292): `s` and `b` are the superscale and block scale of a .q4 source. -/
def convElem (h : Hd) (c : Ctl) (src dst : Ty) (s b raw : Nat) : Nat :=
  let lo := intMin dst.signed dst.ew
  let hi := intMax dst.signed dst.ew
  let q := Rat4.mods (Hd.mods h).absA (Hd.mods h).negA (qValue raw (srcMods .f32 c.daz false false s) (b % 256))
  match src.fmt?, dst.fmt? with
  | some fs, some fd => cvtFF fs fd c (modA h fs c raw)
  | some fs, none => wrapTo dst.ew (cvtFI c.rnd c.scale lo hi (FV.dec fs (modA h fs c raw)))
  | none, some fd => if src = .q4 then finishEx fd c (q.toEx fd) else cvtIF fd c (intOf src.signed src.ew raw)
  | none, none =>
    if src = .q4 then wrapTo dst.ew (q.toInt c.rnd c.scale lo hi)
    else fitInt dst.signed dst.ew c.sat (intOf src.signed src.ew raw)

/-- P of R291 and R293. -/
def Hd.part (h : Hd) : Nat := ((Hd.mods h).ext.extractLsb' 0 3).toNat

/-- The unit of D after a conversion of the unit `a`, over the unit `old` (R291). -/
def convUnit (h : Hd) (c : Ctl) (src dst : Ty) (s b : Nat) (a old : DWord) : DWord :=
  let k := min src.count dst.count
  let p := Hd.part h
  if dst.count ≤ src.count then
    packElems dst.ew ((List.range dst.count).map (fun j => convElem h c src dst s b (elem src.ew (p * k + j) a)))
  else
    packElems dst.ew ((List.range dst.count).map (fun j =>
      if p * k ≤ j ∧ j < p * k + k then convElem h c src dst s b (elem src.ew (j - p * k) a) else elem dst.ew j old))

/-- `cvt` (R290 to R292). P is checked with the operands, right after check 8 (R291), so also at GROUP scope where the guard holds
in no active lane; R227 gives such an instruction no effect (DESIGN CHOICE, log entry 56). -/
def cvtOp (h : Hd) (ty src : Ty) (d a b c : Opnd) : Op :=
  let ws := [wFDst h ty d, wFSrc h src a] ++ (if src = .q4 then [wFSrc h .f32 b, wFSrc h .n32 c] else [])
  { valOp h ws d ty.wide ty.tag (fun e l =>
      convUnit h (e.ctl h) src ty (e.src 1 .f32 b l).toNat (e.src 2 .n32 c l).toNat (e.src 0 src a l)
        (e.src 3 (if ty.wide then .n64 else .n32) d l)) with
    chk := fun t _ _ => match checkWants t.valloc ws with
      | some x => some x
      | none => if max src.count ty.count / min src.count ty.count ≤ Hd.part h then some 0x47 else none }

/-! ### Narrowing with error feedback (R100, R101, R293, R294) -/

def f32Fin (x : Nat) : Bool := decide (x % 2 ^ 31 < 0x7F800000)

/-- One element of a block: y, and the residual after it (R100, R101). -/
def efStep (ty : Ty) (daz ftz : Bool) (s b : Nat) (e x : Nat) : Nat × Nat :=
  let c := { plainCtl with ftz := ftz }
  let t := fop .f32 c .add (srcMods .f32 daz false false x) (srcMods .f32 daz false false e) 0
  let sub (v : Nat) : Nat := fop .f32 c .sub t v 0
  match ty.fmt? with
  | some f =>
    let y := cvtFF .f32 f plainCtl t
    let yv := cvtFF f .f32 plainCtl y
    (y, if !f32Fin t || !f32Fin yv || decide (cvtFF f .f32 plainCtl (maxFinite f) < t % 2 ^ 31) then 0 else sub yv)
  | none =>
    let sz := s % 2 ^ 31
    if b = 0 ∨ sz = 0 ∨ 0x7F800000 ≤ sz then (8, if f32Fin t then t else 0)
    else (qCode t s b, if !f32Fin t || qOver t s b then 0 else sub (finishEx .f32 plainCtl ((qValue (qCode t s b) s b).toEx .f32)))

/-- The block's elements in order: the list of y (R100). -/
def efBlock (ty : Ty) (daz ftz : Bool) (s b : Nat) : Nat → List (Nat × Nat) → List (Nat × Nat)
  | _, [] => []
  | e, (i, x) :: r => (i, (efStep ty daz ftz s b e x).1) :: efBlock ty daz ftz s b (efStep ty daz ftz s b e x).2 r

/-- Replace element k of width w. -/
def setElem (w k : Nat) (old : DWord) (v : Nat) : DWord :=
  BitVec.ofNat 64 (old.toNat % 2 ^ (w * k) + (v % 2 ^ w) * 2 ^ (w * k) + (old.toNat / 2 ^ (w * k + w)) * 2 ^ (w * k + w))

/-- `cvtef` (R293, R294). Each member of a set-wide one reads its own S and b, so that its result is that of a LANE-scope CVTEF
by that member alone (R294); R34 would have the lead's scalars read (DEDUCED, log entry 78). -/
def cvtefOp (kb : Nat) (h : Hd) (ty : Ty) (d a b c : Opnd) : Op :=
  let ws := [wOne d d.isV, { o := a, ok := a.isV, span := kb, pair := kb == 2 }] ++
    (if ty = .q4 then [wOne b (b.isS || b.isCAt .f32), wOne c (c.isS || c.isIntC)] else [])
  { chk := fun t _ _ => match checkWants t.valloc ws with
      | some x => some x
      | none => if ty.count / kb ≤ Hd.part h then some 0x47 else none
    body := regBody h.scope (d.ids false) (fun _ m t _ g mb r =>
      let fpc := fpcOf m t.ctx
      let s := srcMods .f32 (fpc.getLsbD 0) false false (srcVal g g m.draw 1 .f32 b 0).toNat
      let sb := (srcVal g g m.draw 2 .n32 c 0).toNat % 256
      let an := (a.vnum?).getD 0
      let xs := (List.range kb).flatMap (fun k => (lanesOf mb.act).map (fun l =>
        (32 * k + l, (srcVal g g m.draw k .f32 (.v (BitVec.ofNat 8 (an + k))) l).toNat)))
      let ys := efBlock ty (fpc.getLsbD 0) (fpc.getLsbD 1) (if ty = .q4 then s else 0) (if ty = .q4 then sb else 0) 0 xs
      let y (i : Nat) : Nat := ((ys.find? (fun p => p.1 == i)).map (fun p => p.2)).getD 0
      putVal g.present mb d false ty.tag (fun l =>
        (List.range kb).foldl (fun v k => setElem ty.ew (Hd.part h * kb + k) v (y (32 * k + l)))
          (srcVal g g m.draw 3 .n32 d l)) r) }

/-! ### The instructions -/

/-- FADD, R280. -/
def opFadd (h : Hd) (ty : Ty) (d a b : Opnd) : Op := farith2 (.round .add) h ty d a b
/-- FADD, R280. -/
def execFadd (h : Hd) (ty : Ty) (d a b : Opnd) (s : State) : Host.Outcome State Fault Refusal :=
  issue s h (.fadd h ty d a b) (opFadd h ty d a b)

/-- FSUB, R280. -/
def opFsub (h : Hd) (ty : Ty) (d a b : Opnd) : Op := farith2 (.round .sub) h ty d a b
/-- FSUB, R280. -/
def execFsub (h : Hd) (ty : Ty) (d a b : Opnd) (s : State) : Host.Outcome State Fault Refusal :=
  issue s h (.fsub h ty d a b) (opFsub h ty d a b)

/-- FMUL, R280. -/
def opFmul (h : Hd) (ty : Ty) (d a b : Opnd) : Op := farith2 (.round .mul) h ty d a b
/-- FMUL, R280. -/
def execFmul (h : Hd) (ty : Ty) (d a b : Opnd) (s : State) : Host.Outcome State Fault Refusal :=
  issue s h (.fmul h ty d a b) (opFmul h ty d a b)

/-- FMA, R280. -/
def opFma (h : Hd) (ty : Ty) (d a b c : Opnd) : Op := farith3 (.round .fma) h ty d a b c
/-- FMA, R280. -/
def execFma (h : Hd) (ty : Ty) (d a b c : Opnd) (s : State) : Host.Outcome State Fault Refusal :=
  issue s h (.fma h ty d a b c) (opFma h ty d a b c)

/-- FMIN, R283. -/
def opFmin (h : Hd) (ty : Ty) (d a b : Opnd) : Op := farith2 (.minmax false) h ty d a b
/-- FMIN, R283. -/
def execFmin (h : Hd) (ty : Ty) (d a b : Opnd) (s : State) : Host.Outcome State Fault Refusal :=
  issue s h (.fmin h ty d a b) (opFmin h ty d a b)

/-- FMAX, R283. -/
def opFmax (h : Hd) (ty : Ty) (d a b : Opnd) : Op := farith2 (.minmax true) h ty d a b
/-- FMAX, R283. -/
def execFmax (h : Hd) (ty : Ty) (d a b : Opnd) (s : State) : Host.Outcome State Fault Refusal :=
  issue s h (.fmax h ty d a b) (opFmax h ty d a b)

/-- FSET_EQ, R284. -/
def opFsetEq (h : Hd) (ty : Ty) (d a b : Opnd) : Op := fsetOp .eq h ty d a b
/-- FSET_EQ, R284. -/
def execFsetEq (h : Hd) (ty : Ty) (d a b : Opnd) (s : State) : Host.Outcome State Fault Refusal :=
  issue s h (.fsetEq h ty d a b) (opFsetEq h ty d a b)

/-- FSET_NE, R284. -/
def opFsetNe (h : Hd) (ty : Ty) (d a b : Opnd) : Op := fsetOp .ne h ty d a b
/-- FSET_NE, R284. -/
def execFsetNe (h : Hd) (ty : Ty) (d a b : Opnd) (s : State) : Host.Outcome State Fault Refusal :=
  issue s h (.fsetNe h ty d a b) (opFsetNe h ty d a b)

/-- FSET_LT, R284. -/
def opFsetLt (h : Hd) (ty : Ty) (d a b : Opnd) : Op := fsetOp .lt h ty d a b
/-- FSET_LT, R284. -/
def execFsetLt (h : Hd) (ty : Ty) (d a b : Opnd) (s : State) : Host.Outcome State Fault Refusal :=
  issue s h (.fsetLt h ty d a b) (opFsetLt h ty d a b)

/-- FSET_LE, R284. -/
def opFsetLe (h : Hd) (ty : Ty) (d a b : Opnd) : Op := fsetOp .le h ty d a b
/-- FSET_LE, R284. -/
def execFsetLe (h : Hd) (ty : Ty) (d a b : Opnd) (s : State) : Host.Outcome State Fault Refusal :=
  issue s h (.fsetLe h ty d a b) (opFsetLe h ty d a b)

/-- FSET_GT, R284. -/
def opFsetGt (h : Hd) (ty : Ty) (d a b : Opnd) : Op := fsetOp .gt h ty d a b
/-- FSET_GT, R284. -/
def execFsetGt (h : Hd) (ty : Ty) (d a b : Opnd) (s : State) : Host.Outcome State Fault Refusal :=
  issue s h (.fsetGt h ty d a b) (opFsetGt h ty d a b)

/-- FSET_GE, R284. -/
def opFsetGe (h : Hd) (ty : Ty) (d a b : Opnd) : Op := fsetOp .ge h ty d a b
/-- FSET_GE, R284. -/
def execFsetGe (h : Hd) (ty : Ty) (d a b : Opnd) (s : State) : Host.Outcome State Fault Refusal :=
  issue s h (.fsetGe h ty d a b) (opFsetGe h ty d a b)

/-- FSET_UNORD, R284. -/
def opFsetUnord (h : Hd) (ty : Ty) (d a b : Opnd) : Op := fsetOp .unord h ty d a b
/-- FSET_UNORD, R284. -/
def execFsetUnord (h : Hd) (ty : Ty) (d a b : Opnd) (s : State) : Host.Outcome State Fault Refusal :=
  issue s h (.fsetUnord h ty d a b) (opFsetUnord h ty d a b)

/-- FSET_ORD, R284. -/
def opFsetOrd (h : Hd) (ty : Ty) (d a b : Opnd) : Op := fsetOp .ord h ty d a b
/-- FSET_ORD, R284. -/
def execFsetOrd (h : Hd) (ty : Ty) (d a b : Opnd) (s : State) : Host.Outcome State Fault Refusal :=
  issue s h (.fsetOrd h ty d a b) (opFsetOrd h ty d a b)

/-- FRCP, R285. -/
def opFrcp (h : Hd) (ty : Ty) (d a : Opnd) : Op := farith1 (.round .rcp) h ty d a
/-- FRCP, R285. -/
def execFrcp (h : Hd) (ty : Ty) (d a : Opnd) (s : State) : Host.Outcome State Fault Refusal :=
  issue s h (.frcp h ty d a) (opFrcp h ty d a)

/-- FSQRT, R285. -/
def opFsqrt (h : Hd) (ty : Ty) (d a : Opnd) : Op := farith1 (.round .sqrt) h ty d a
/-- FSQRT, R285. -/
def execFsqrt (h : Hd) (ty : Ty) (d a : Opnd) (s : State) : Host.Outcome State Fault Refusal :=
  issue s h (.fsqrt h ty d a) (opFsqrt h ty d a)

/-- FRSQRT, R285. -/
def opFrsqrt (h : Hd) (ty : Ty) (d a : Opnd) : Op := farith1 (.round .rsqrt) h ty d a
/-- FRSQRT, R285. -/
def execFrsqrt (h : Hd) (ty : Ty) (d a : Opnd) (s : State) : Host.Outcome State Fault Refusal :=
  issue s h (.frsqrt h ty d a) (opFrsqrt h ty d a)

/-- FEXP2, R285. -/
def opFexp2 (h : Hd) (ty : Ty) (d a : Opnd) : Op := farith1 (.round .exp2) h ty d a
/-- FEXP2, R285. -/
def execFexp2 (h : Hd) (ty : Ty) (d a : Opnd) (s : State) : Host.Outcome State Fault Refusal :=
  issue s h (.fexp2 h ty d a) (opFexp2 h ty d a)

/-- FLOG2, R285. -/
def opFlog2 (h : Hd) (ty : Ty) (d a : Opnd) : Op := farith1 (.round .log2) h ty d a
/-- FLOG2, R285. -/
def execFlog2 (h : Hd) (ty : Ty) (d a : Opnd) (s : State) : Host.Outcome State Fault Refusal :=
  issue s h (.flog2 h ty d a) (opFlog2 h ty d a)

/-- FCLASS, R287. -/
def opFclass (h : Hd) (ty : Ty) (d a : Opnd) : Op := fclassOp h ty d a
/-- FCLASS, R287. -/
def execFclass (h : Hd) (ty : Ty) (d a : Opnd) (s : State) : Host.Outcome State Fault Refusal :=
  issue s h (.fclass h ty d a) (opFclass h ty d a)

/-- FRINT, R288. -/
def opFrint (h : Hd) (ty : Ty) (d a : Opnd) : Op := frintOp h ty d a
/-- FRINT, R288. -/
def execFrint (h : Hd) (ty : Ty) (d a : Opnd) (s : State) : Host.Outcome State Fault Refusal :=
  issue s h (.frint h ty d a) (opFrint h ty d a)

/-- FDIV, R285. -/
def opFdiv (h : Hd) (ty : Ty) (d a b : Opnd) : Op := farith2 (.round .div) h ty d a b
/-- FDIV, R285. -/
def execFdiv (h : Hd) (ty : Ty) (d a b : Opnd) (s : State) : Host.Outcome State Fault Refusal :=
  issue s h (.fdiv h ty d a b) (opFdiv h ty d a b)

/-- FADD2, R289. -/
def opFadd2 (h : Hd) (ty : Ty) (d a b : Opnd) : Op := farith2 (.round .add) h ty d a b
/-- FADD2, R289. -/
def execFadd2 (h : Hd) (ty : Ty) (d a b : Opnd) (s : State) : Host.Outcome State Fault Refusal :=
  issue s h (.fadd2 h ty d a b) (opFadd2 h ty d a b)

/-- FSUB2, R289. -/
def opFsub2 (h : Hd) (ty : Ty) (d a b : Opnd) : Op := farith2 (.round .sub) h ty d a b
/-- FSUB2, R289. -/
def execFsub2 (h : Hd) (ty : Ty) (d a b : Opnd) (s : State) : Host.Outcome State Fault Refusal :=
  issue s h (.fsub2 h ty d a b) (opFsub2 h ty d a b)

/-- FMUL2, R289. -/
def opFmul2 (h : Hd) (ty : Ty) (d a b : Opnd) : Op := farith2 (.round .mul) h ty d a b
/-- FMUL2, R289. -/
def execFmul2 (h : Hd) (ty : Ty) (d a b : Opnd) (s : State) : Host.Outcome State Fault Refusal :=
  issue s h (.fmul2 h ty d a b) (opFmul2 h ty d a b)

/-- FMA2, R289. -/
def opFma2 (h : Hd) (ty : Ty) (d a b c : Opnd) : Op := farith3 (.round .fma) h ty d a b c
/-- FMA2, R289. -/
def execFma2 (h : Hd) (ty : Ty) (d a b c : Opnd) (s : State) : Host.Outcome State Fault Refusal :=
  issue s h (.fma2 h ty d a b c) (opFma2 h ty d a b c)

/-- FMIN2, R289. -/
def opFmin2 (h : Hd) (ty : Ty) (d a b : Opnd) : Op := farith2 (.minmax false) h ty d a b
/-- FMIN2, R289. -/
def execFmin2 (h : Hd) (ty : Ty) (d a b : Opnd) (s : State) : Host.Outcome State Fault Refusal :=
  issue s h (.fmin2 h ty d a b) (opFmin2 h ty d a b)

/-- FMAX2, R289. -/
def opFmax2 (h : Hd) (ty : Ty) (d a b : Opnd) : Op := farith2 (.minmax true) h ty d a b
/-- FMAX2, R289. -/
def execFmax2 (h : Hd) (ty : Ty) (d a b : Opnd) (s : State) : Host.Outcome State Fault Refusal :=
  issue s h (.fmax2 h ty d a b) (opFmax2 h ty d a b)

/-- CVT, R290. -/
def opCvt (h : Hd) (ty src : Ty) (d a b c : Opnd) : Op := cvtOp h ty src d a b c
/-- CVT, R290. -/
def execCvt (h : Hd) (ty src : Ty) (d a b c : Opnd) (s : State) : Host.Outcome State Fault Refusal :=
  issue s h (.cvt h ty src d a b c) (opCvt h ty src d a b c)

/-- CVTEF, R293. -/
def opCvtef (h : Hd) (ty : Ty) (d a b c : Opnd) : Op := cvtefOp 1 h ty d a b c
/-- CVTEF, R293. -/
def execCvtef (h : Hd) (ty : Ty) (d a b c : Opnd) (s : State) : Host.Outcome State Fault Refusal :=
  issue s h (.cvtef h ty d a b c) (opCvtef h ty d a b c)

/-- CVTEF_X2, R293. -/
def opCvtefX2 (h : Hd) (ty : Ty) (d a b c : Opnd) : Op := cvtefOp 2 h ty d a b c
/-- CVTEF_X2, R293. -/
def execCvtefX2 (h : Hd) (ty : Ty) (d a b c : Opnd) (s : State) : Host.Outcome State Fault Refusal :=
  issue s h (.cvtefX2 h ty d a b c) (opCvtefX2 h ty d a b c)

end Sys2Proof.Machine
end

