-- ==== Sys2Proof/Machine/Tokens.lean ====
section
/-! DEFINITION. Machine/Tokens.lean: the tokens of accumulator tiles (R76, R77, R217), SACC (R220) and a group's exit (R25, R51). -/
namespace Sys2Proof.Machine

def Mach.tile (m : Mach) (core : Nat) (t : BitVec 2) : Tile := (m.core core).tiles.getD t.toNat Tile.initial
def Mach.modTile (m : Mach) (core : Nat) (t : BitVec 2) (f : Tile → Tile) : Mach :=
  m.modCore core (fun k => { k with tiles := modAt Tile.initial k.tiles t.toNat f })

/-- The groups of a core's teams that wait in MACQ for a tile, the longest wait first, then the lower group number
(R217). -/
def macqWaiters (m : Mach) (core : Nat) (t : BitVec 2) : List (GRef × Nat × BitVec 12) :=
  (m.teams.filter (fun x => x.core == core)).flatMap (fun x =>
    (x.groups.filter (fun g => g.waits == some (.macq t))).map (fun g => ({ tid := x.tid, gno := g.gno }, g.since, x.ctx)))

/-- The first of two waiters. -/
def firstWaiter (a b : GRef × Nat × BitVec 12) : GRef × Nat × BitVec 12 :=
  if b.2.1 < a.2.1 ∨ (b.2.1 = a.2.1 ∧ b.1.gno < a.1.gno) then b else a

/-- A group of a lower number on the core may still issue in this cycle, so that a MACQ of this cycle waits for the cycle's
end (R217). -/
def tokenRival (m : Mach) (core gno : Nat) : Bool :=
  m.teams.any (fun t => t.core == core && t.acc && t.groups.any (fun g => decide (g.gno < gno) && mayIssue m t g))

/-- A token that nobody holds passes to the oldest waiting MACQ (R217). -/
def grantToken (m : Mach) (core : Nat) (t : BitVec 2) : Mach :=
  if (m.tile core t).holder ≠ .nobody then m else
  match macqWaiters m core t with
  | [] => m
  | w :: ws =>
    let x := ws.foldl firstWaiter w
    if x.2.1 = m.cycle ∧ tokenRival m core x.1.gno then m else
    unparkGroup (m.modTile core t (fun k => { k with holder := .group x.1.tid x.1.gno, inuse := true })) x.1 x.2.2

/-! ### SACC (R220) -/

/-- A scratchpad word as an engine reads it in step k: a word stored since the instruction issued reads as either value (R216,
R17). -/
def engRead (m : Mach) (tid : Nat) (snap : List Host.Cell) (k o : Nat) : Word :=
  let old := Memory.word snap o
  match m.team? tid with
  | none => old
  | some t =>
    let new := Memory.word t.scratch o
    if old = new then new else if Config.pick m.draw 40 (2 ^ 22 * k + o) % 2 = 0 then new else old

/-- Element (r, c) of a tile. -/
def Tile.get (k : Tile) (r c : Nat) : Word := Sparse.get k.els (192 * r + c)
def Tile.put (k : Tile) (r c : Nat) (v : Word) : Tile := { k with els := Sparse.set k.els (192 * r + c) v }
/-- Update the elements of rows below `rows` and columns below `cols`. -/
def Tile.upd (k : Tile) (rows cols : Nat) (f : Nat → Nat → Word → Word) : Tile :=
  (List.range rows).foldl (fun k r => (List.range cols).foldl (fun k c => k.put r c (f r c (k.get r c))) k) k

/-- RNE(src × rs × cs, F32): one rounding of the exact product. -/
def saccTerm (src : Word) (rs cs : Word) : Nat :=
  let a : FV := if src = 0 then .zero false else .fin src.msb src.toInt.natAbs 0
  let x := FV.dec .f32 rs.toNat
  let y := FV.dec .f32 cs.toNat
  match firstNan .f32 [x, y] with
  | some b => b
  | none => finishEx .f32 plainCtl (exMul .f32 (exMul .f32 a x).toFV y)

/-- Perform one SACC: every element of the destination, which becomes dirty. -/
def doSacc (m : Mach) (core : Nat) (x : Sacc) : Mach :=
  let s := m.tile core x.src
  let rs := (List.range 96).map (fun i => engRead m x.tid x.snap 0 (x.rs + 4 * i))
  let cs := match x.cs with
    | some o => (List.range 192).map (fun i => engRead m x.tid x.snap 0 (o + 4 * i))
    | none => List.replicate 192 0x3F800000#32
  m.modTile core x.dst (fun k =>
    { k.upd 96 192 (fun r c v =>
        BitVec.ofNat 32 (fop .f32 plainCtl .add v.toNat (saccTerm (s.get r c) (rs.getD r 0) (cs.getD c 0)) 0)) with dirty := true })

/-- Release a token as MREL does (R77); the dirty flag stays. -/
def releaseToken (m : Mach) (core : Nat) (t : BitVec 2) : Mach :=
  grantToken (m.modTile core t (fun k => { k with holder := .nobody, inuse := false })) core t

/-- The engine still works on a tile for a group: an SACC of its that reads or writes the tile waits, or a drain of the tile
to scratchpad is not complete (R25). -/
def tileBusy (m : Mach) (core : Nat) (r : GRef) (t : BitVec 2) : Bool :=
  (m.core core).saccs.any (fun x => x.tid == r.tid && x.gno == r.gno && (x.dst == t || x.src == t))
    || (m.team? r.tid).any (fun k => k.works.any (fun w => w.gno == r.gno && w.st != .cancelled && (match w.kind with
      | .drain d _ _ => d == t
      | _ => false)))

/-- The token of a tile is to go when the group exits: the group holds it, or the engine does and its loop on the tile is
complete (R25, R77). -/
def exitFrees (m : Mach) (core : Nat) (r : GRef) (t : BitVec 2) : Bool :=
  match (m.tile core t).holder with
  | .nobody => false
  | .group a b => a == r.tid && b == r.gno
  | .engine a b => a == r.tid && b == r.gno && !(m.core core).loops.any (fun l => l.tile == t)

/-- The tokens that an exited group holds are released, each once the engine's work on its tile is done (R25). -/
def releaseTokens (m : Mach) (core : Nat) (r : GRef) : Mach :=
  ([0, 1, 2, 3] : List (BitVec 2)).foldl (fun m t =>
    if exitFrees m core r t && !tileBusy m core r t then releaseToken m core t else m) m

/-- As the engine ends a piece of work of a group: the tokens that waited for it are released if the group has exited. -/
def freeIfExited (m : Mach) (core : Nat) (r : GRef) : Mach :=
  if (m.group? r).any (fun g => g.live) then m else releaseTokens m core r

/-- The group's last lane leaves (R25, R51). -/
def exitGroup (m : Mach) (r : GRef) : Mach :=
  match m.team? r.tid with
  | none => m
  | some t =>
    releaseTokens (m.modGroup r (fun g =>
      { g with status := .exited, amask := 0, stack := [], redo := none, lost := [], retired := g.retired + 1 })) t.core r

/-- A group is ended from outside: every lane exits (R392, R438). -/
def killGroup (m : Mach) (r : GRef) : Mach :=
  match m.team? r.tid with
  | none => m
  | some t =>
    releaseTokens (m.modGroup r (fun g => { g with status := .exited, amask := 0, stack := [], redo := none, lost := [] })) t.core r

end Sys2Proof.Machine
end

