-- ==== Sys2Proof/Machine/Access.lean ====
section
/-! DEFINITION. Machine/Access.lean: accesses of 1 to 8 bytes made lane by lane (R109, R110, R296), their failures
(R46, R420), watchpoints (R457) and pending releases (R312). -/
namespace Sys2Proof.Machine

/-- Accesses that a team's core makes for one of its groups. -/
def whoOf (t : Team) (gno : Nat) : Who := { ctx := t.ctx, core := t.core, level := t.level, grp := some { tid := t.tid, gno := gno } }

/-- The generic address lies in the stack aperture (R109). -/
def isStackAddr (a : DWord) : Bool := decide (0xF200000000000 ≤ a.toNat ∧ a.toNat < 0xF200000000000 + 2 ^ 32)

/-- The word that holds a location's first byte, and the words that an access touches. -/
def Loc.word : Loc → Loc
  | .glob va => .glob (va - va % 4)
  | .sp t o c => .sp t (o - o % 4) c
def accWords (l : Loc) (stack : Bool) (size : Nat) : List Loc :=
  l.word :: (if size = 8 then [(l.next stack).word] else [])
/-- Two locations name one word, by whichever aperture (R134, R160). -/
def Loc.sameWord : Loc → Loc → Bool
  | .glob a, .glob b => a == b
  | .sp t o _, .sp t' o' _ => t == t' && o == o'
  | _, _ => false
/-- The global address of a location. -/
def Loc.va? : Loc → Option Nat
  | .glob va => some va
  | .sp _ _ _ => none

/-- A read of a word of a loss target that no cache answers: its request goes to the target (R429). -/
def goesFar (m : Mach) (w : Who) (va : Nat) : Bool :=
  (l1Find (m.core w.core) w.ctx va).isNone && (belowL1 m w.core w.ctx va).isNone && (homePeek m w.ctx va).isNone
    && ((paOf m w.ctx va).bind targetOf).isSome

/-- A word that one pass has read. -/
structure WordRead where
  loc : Loc
  res : Except Cause (Word × Attr)

/-- Read the words of one pass, each once, so that its lanes read each from one write (R297). A word that the pass reads by
both apertures is read as its newest store left it. -/
def readWords (m : Mach) (w : Who) (slot : Nat) (ls : List Loc) : List WordRead × Mach :=
  ls.foldl (fun (acc : List WordRead × Mach) l =>
    if acc.1.any (fun x => x.loc.sameWord l) then acc else
    match l with
    | .glob va =>
      (match readGlob acc.2 w va with
       | (r, m) => (acc.1 ++ [{ loc := l, res := r }], m))
    | .sp tid o cl =>
      match (if ls.contains (.sp tid o (!cl)) then spNewest (spNewest acc.2 tid o (!cl) w.grp).2 tid o cl w.grp
        else spRead acc.2 tid o cl w.grp slot) with
      | (v, m) => (acc.1 ++ [{ loc := l, res := .ok (v, Attr.full) }], m)) ([], m)

/-- The word at a location among those read. -/
def wordIn (rs : List WordRead) (l : Loc) : Except Cause (Word × Attr) :=
  ((rs.find? (fun x => x.loc.sameWord l.word)).map (fun x => x.res)).getD (.ok (0, Attr.full))

/-- `size` bytes (1, 2, 4 or 8) at a location from words read, with the attributes of its word. -/
def loadAt (rs : List WordRead) (l : Loc) (stack : Bool) (size : Nat) : Except Cause (DWord × Attr) :=
  match wordIn rs l with
  | .error c => .error c
  | .ok (lo, a) =>
    if size = 8 then
      match wordIn rs (l.next stack) with
      | .error c => .error c
      | .ok (hi, _) => .ok (hi ++ lo, a)
    else
      let k := match l with
        | .glob va => va % 4
        | .sp _ o _ => o % 4
      .ok (BitVec.ofNat 64 ((lo.toNat / 2 ^ (8 * k)) % 2 ^ (8 * size)), a)

/-- Read `size` bytes at a location. -/
def readAt (m : Mach) (w : Who) (l : Loc) (stack : Bool) (size slot : Nat) : Except Cause (DWord × Attr) × Mach :=
  match readWords m w slot (accWords l stack size) with
  | (rs, m) => (loadAt rs l stack size, m)

/-- Write the low `size` bytes of a value at a location. Permission for both words of 8 bytes is obtained before the
first is written; where the two words of a stack store (R112) fail with different causes, the lane takes that of the second: the
spec does not say which (DESIGN CHOICE, log entry 82). -/
def writeAt (m : Mach) (w : Who) (k : Kind) (l : Loc) (stack : Bool) (size : Nat) (v : DWord) : Except Cause Unit × Mach :=
  let second : Except Cause Unit × Mach := if size = 8 then
      (match l.next stack with
       | .glob va => (match writePerm m w k va with
         | (.error c, m) => (.error c, m)
         | (.ok _, m) => (.ok (), m))
       | .sp _ _ _ => (.ok (), m))
    else (.ok (), m)
  match second with
  | (.error c, m) => (.error c, m)
  | (.ok (), m) =>
    match writeWordAt m w k l (if size = 8 then 4 else size) (v.extractLsb' 0 32) with
    | (.error c, m) => (.error c, m)
    | (.ok (), m) =>
      if size = 8 then
        match writeWordAt m w k (l.next stack) 4 (v.extractLsb' 32 32) with
        | (.error c, m) => (.error c, m)
        | (.ok (), m) => (.ok (), m)
      else (.ok (), m)

/-- What the lanes of one member's pass have done so far; `owner` is the owner number of an owner-lost lane (R431), `reqs` what
its lanes accessed of global memory. -/
structure LaneAcc where
  m : Mach
  vals : List (Nat × DWord)
  bad : List (Nat × Cause × DWord)
  hits : List (Nat × DWord)
  unk : Bool
  owner : BitVec 8
  reqs : List ReqLane

/-- Where a lane's access goes. -/
structure Target where
  ga : DWord
  loc : Except Cause Loc
  stack : Bool

/-- The accesses that a lane made: it read, it wrote (R314, R457). -/
structure Made where
  rd : Bool
  wr : Bool

/-- The watch registers that an access of the context can hit (R445, R457). -/
def watchHit (fw : Firmware) (m : Mach) (c : BitVec 12) (a : Made) (ga : DWord) (size : Nat) : Bool :=
  match m.ctx? c with
  | none => false
  | some k =>
    let ch := chamOf fw k.part.toNat
    (List.range 4).any (fun i =>
      let ct := ch.wctl.getD i 0
      let len := 2 ^ (ct.extractLsb' 0 5).toNat
      let lo := (ch.waddr.getD i 0).toNat / len * len
      ct.extractLsb' 20 12 == c && ((a.wr && ct.getLsbD 19) || (a.rd && ct.getLsbD 18))
        && decide (ga.toNat < lo + len ∧ lo < ga.toNat + size))

/-- The word at fault of an access that met an owner loss or poison (R431). -/
def poisonedOf (m : Mach) (c : BitVec 12) (l : Loc) (stack : Bool) (size : Nat) : Option Nat :=
  match l with
  | .sp _ _ _ => none
  | .glob va =>
    let w0 := va - va % 4
    let w1 := if stack then w0 + 128 else w0 + 4
    if isPoisoned m c w0 || size != 8 || !isPoisoned m c w1 then some w0 else some w1

/-- What a lane's failure reports: its cause, its address, and the former owner of a word whose owner is lost (R130, R431).
The fault of an owner that did not answer is that of the lanes whose read was forwarded; the others find the word poisoned. -/
def laneFault (m : Mach) (c : BitVec 12) (l : Loc) (stack : Bool) (size lane : Nat) (ga : DWord) (e : Cause) : Cause × DWord × BitVec 8 :=
  if e ≠ 0x140 ∧ e ≠ 0x141 then (e, ga, 0) else
  match poisonedOf m c l stack size with
  | none => (e, ga, 0)
  | some w =>
    let a := BitVec.ofNat 64 w
    if e = 0x141 then (e, a, 0) else
    match (m.cur.bind (fun r => m.group? r)).bind (fun g => g.lostRd) with
    | some x => if x.1 = w && !x.2.2.has lane then (0x141, a, 0) else (0x140, a, x.2.1)
    | none => (0x140, a, (ownerOf m c w).getD 0)

/-- The lanes a memory instruction accesses: act(G), or one access with lane 0's stack at GROUP scope (R109, R296). -/
def accLanes (sc : Scope) (act : Mask) : List Nat := if sc = .group then [0] else lanesOf act

/-- The results of one member's lanes. -/
structure PassRes where
  gno : Nat
  act : Mask
  tot : Mask
  acc : List (Nat × DWord)
  bad : List (Nat × Cause × DWord)
  hits : List (Nat × DWord)
  unk : Bool
  owner : BitVec 8
  reqs : List ReqLane

/-- The least cause among failures (R420). -/
def minCause (l : List (Nat × Cause × DWord)) : Option Cause :=
  l.foldl (fun r x => match r with
    | none => some x.2.1
    | some c => some (if x.2.1.toNat < c.toNat then x.2.1 else c)) none

/-- At GROUP scope a failure concerns the whole active mask. -/
def laneMask (sc : Scope) (all : Mask) (ls : List Nat) : Mask :=
  if sc = .group then (if ls = [] then 0 else all) else maskOf (fun l => ls.contains l)

/-- A link loss leaves it unknown whether an atomic reached memory (R310). -/
def unkCause (c : Cause) : Bool := c == 0x200 || c == 0x201 || c == 0x203

/-- The hit of the lowest lane. -/
def lowestHit (l : List (Nat × DWord)) : Option (Nat × DWord) :=
  l.foldl (fun r x => match r with
    | none => some x
    | some y => some (if x.1 < y.1 then x else y)) none

/-- The watchpoint of an instruction that is complete (R457). -/
def watchEnd (sc : Scope) (ps : List PassRes) : End :=
  match ps.findSome? (fun p => lowestHit p.hits) with
  | none => .done
  | some x =>
    .fail { Fail.whole 0x281 with
      addr := x.2, dbg := true
      ms := ps.map (fun p => (p.gno, laneMask sc (p.act ||| p.tot) (p.hits.map (fun x => x.1)), 0, 0)) }

/-- How the passes of a memory instruction end: the failures of least cause (R46, R420), the watchpoints met so far being
kept; else a watchpoint (R457). -/
def endOf (sc : Scope) (ps : List PassRes) : End :=
  match minCause (ps.flatMap (fun p => p.bad)) with
  | some c =>
    let addr := (ps.flatMap (fun p => p.bad.filter (fun x => x.2.1 == c))).head?.elim 0 (fun x => x.2.2)
    .fail { cause := c, addr := addr, aux := 0, unk := unkCause c && ps.any (fun p => p.unk), perLane := true, dbg := false
            detail := if c = 0x140 then ps.foldl (fun d p => d ||| p.owner.setWidth 32) 0 else 0
            watch := ps.flatMap (fun p => p.hits.map (fun x => (p.gno, x.1, x.2)))
            ms := ps.map (fun p =>
              let all := laneMask sc p.act (p.bad.map (fun x => x.1))
              (p.gno, laneMask sc p.act ((p.bad.filter (fun x => x.2.1 == c)).map (fun x => x.1)), all, p.tot &&& ~~~all)) }
  | none => watchEnd sc ps

/-- Run the lanes of one member: `tgt` gives each lane's address, `access` makes the access, `made` tells what it was, `far`
whether its request went to a loss target. -/
def runLanes (fw : Firmware) (ctx : BitVec 12) (made : Nat → DWord → Made) (size : Nat → Nat) (lanes : List Nat) (tgt : Nat → Target)
    (far : Nat → Loc → Bool → Bool) (access : Mach → Nat → Loc → Bool → Except Cause DWord × Mach) (m : Mach) : LaneAcc :=
  lanes.foldl (fun a l =>
    let t := tgt l
    match t.loc with
    | .error c => { a with bad := a.bad ++ [(l, c, t.ga)] }
    | .ok loc =>
      match access a.m l loc t.stack with
      | (.error c, m) =>
        let f := laneFault m ctx loc t.stack (size l) l t.ga c
        { a with m := m, bad := a.bad ++ [(l, f.1, f.2.1)], owner := a.owner ||| f.2.2 }
      | (.ok v, m) =>
        { a with m := m, vals := a.vals ++ [(l, v)]
                 hits := if watchHit fw m ctx (made l v) t.ga (size l) then a.hits ++ [(l, t.ga)] else a.hits
                 reqs := a.reqs ++ (loc.va?.map (fun va => { lane := l, va := va, size := size l, far := far l loc t.stack : ReqLane })).toList })
    { m := m, vals := [], bad := [], hits := [], unk := false, owner := 0, reqs := [] }

/-- A load of a lane goes to a loss target: no cache answers one of its words, in the machine before its instruction (R429). All
lanes of a line that misses wait for its fill. -/
def loadFar (m : Mach) (w : Who) (size : Nat) (l : Loc) (stack : Bool) : Bool :=
  (accWords l stack size).any (fun x => x.va?.any (goesFar m w))

/-- An atomic on a word of a loss target goes to it: from its point (R127), which a clean copy nearer to the core does not
answer, where neither that point nor a dirty word of the core holds the word; on the host path always (R429, R465). -/
def atomGoesFar (m : Mach) (w : Who) (sc : MScope) (va : Nat) : Bool :=
  let mine := (l1Find (m.core w.core) w.ctx va).any (fun e => e.d)
  let die := rdcFind m (dieOf w.core) w.ctx va
  ((paOf m w.ctx va).bind targetOf).isSome && (match pointOf m w sc va with
    | .link => true
    | .home => !mine && !die.any (fun e => e.d && e.writer == w.core % 24) && (homePeek m w.ctx va).isNone
    | .rdc => !mine && !die.any (rdcFresh m w.core) && (homePeek m w.ctx va).isNone
    | .l1 => goesFar m w va)
def atomFar (m : Mach) (w : Who) (sc : MScope) (size : Nat) (l : Loc) (stack : Bool) : Bool :=
  (accWords l stack size).any (fun x => x.va?.any (atomGoesFar m w sc))

/-- A load or atomic of a group is outstanding (R52): with the image that its results join, its lanes `act` and, of a generic
access, what they resolved to. -/
def Group.request (g : Group) (i : Instr) (ids : List RegId) (lanes : List ReqLane) (late : Bool) (act : Mask) (gen : List GenLane) : Group :=
  if lanes.isEmpty then g else
  { g with reqs := g.reqs ++ [{ i := i, pc := g.pc, ids := ids, img := g.old.length, lanes := lanes, late := late, act := act, gen := gen }] }

/-- An access to words of an outstanding load's: the load has returned its value (R172). -/
def Group.fixWords (g : Group) (vas : List Nat) : Group :=
  { g with reqs := g.reqs.map (fun q => { q with
      late := q.late && !q.lanes.any (fun l => vas.any (fun va => decide (va / 4 ≤ (l.va + l.size - 1) / 4 ∧ l.va / 4 ≤ va / 4))) }) }

/-- The watchpoints that the lanes done of a reissued instruction met (R457). -/
def Group.metWatch (g : Group) : List (Nat × DWord) := (g.redo.map (fun d => d.watch)).getD []

/-- The value a lane got, if it got one. -/
def valOf (vals : List (Nat × DWord)) (l : Nat) : DWord := ((vals.find? (fun x => x.1 == l)).map (fun x => x.2)).getD 0

/-- A single failing access made for the whole group: it is reissued whole. -/
def Fail.at (c : Cause) (a : DWord) : Fail := { Fail.whole c with addr := a }

/-- A read of `size` bytes by a group at a generic address, as lane 0 (R109, R254); what a failing one reports (R431). -/
def groupRead (m : Mach) (t : Team) (g : Group) (a : DWord) (size slot : Nat) : Except Fail DWord × Mach :=
  if a.toNat % size ≠ 0 then (.error (Fail.at 0xC1 a), m) else
  match steer m t g 0 a size with
  | .error c => (.error (Fail.at c a), m)
  | .ok l =>
    match readAt m (whoOf t g.gno) l (isStackAddr a) size slot with
    | (.error c, m) =>
      let x := laneFault m t.ctx l (isStackAddr a) size 0 a c
      (.error { Fail.at x.1 x.2.1 with detail := x.2.2.setWidth 32 }, m)
    | (.ok (v, _), m) => (.ok v, m)

end Sys2Proof.Machine
end

