-- ==== Sys2Proof/Machine/Control.lean ====
section
/-! DEFINITION. Machine/Control.lean: branches, calls, divergence, exit and traps (R47, R48, R51, R234, R240, R251 to
R256). -/
namespace Sys2Proof.Machine

/-! ### Shared operations -/

/-- The branch target T (R234). -/
def brTarget (pc : DWord) (off : BitVec 32) : DWord := pc + (off.signExtend 64 <<< 3)
/-- The join PC J (R234). -/
def joinPc (pc : DWord) (j : BitVec 16) : DWord := pc + (j.setWidth 64 <<< 3)

/-- An effect on one group alone: its team and itself as they stand. -/
def groupBody (f : Firmware → Mach → Team → Group → Member → Mach × End) :
    Firmware → Mach → Nat → List Member → Mach × End :=
  fun fw m tid ms =>
    match m.team? tid, ms with
    | some t, mb :: _ =>
      (match t.group? mb.gno with
       | some g => f fw m t g mb
       | none => (m, .done))
    | _, _ => (m, .done)

def Team.gref (t : Team) (g : Group) : GRef := { tid := t.tid, gno := g.gno }

/-- Write the link N to s63 (R252). -/
def writeLink (m : Mach) (r : GRef) (n : DWord) : Mach := m.modGroup r (fun g => g.writeNow (fun x => x.setS 63 6 n))

/-- Transfer to `pc`, with a trace record when that is not N (R253, R453). -/
def transfer (fw : Firmware) (m : Mach) (t : Team) (g : Group) (h : Hd) (pc : DWord) : Mach × End :=
  ((if pc = nextPc g.pc h then m else traceBranch fw m (t.gref g) t g pc g.amask), .goto pc)

/-- A transfer to a target that a register or memory gives (R240, R252, R253). -/
def jumpTo (fw : Firmware) (m : Mach) (t : Team) (g : Group) (h : Hd) (link : Bool) (pc : DWord) : Mach × End :=
  if pc.toNat % 8 ≠ 0 then (m, .fail (Fail.whole 0x49))
  else transfer fw (if link then writeLink m (t.gref g) (nextPc g.pc h) else m) t g h pc

def noChk : Team → Group → Nat → Option Cause := fun _ _ _ => none

def brOp (h : Hd) (off : BitVec 32) (link : Bool) : Op :=
  { chk := noChk
    body := groupBody (fun fw m t g _ =>
      transfer fw (if link then writeLink m (t.gref g) (nextPc g.pc h) else m) t g h (brTarget g.pc off)) }

/-- BRD (R47): the guard is the condition. -/
def brdOp (h : Hd) (off : BitVec 32) (j : BitVec 16) : Op :=
  { chk := noChk
    body := groupBody (fun fw m t g mb =>
      let taken := mb.act
      let nottaken := g.amask &&& ~~~taken
      let n := nextPc g.pc h
      let tg := brTarget g.pc off
      if taken = 0 then (m, .done)
      else if nottaken = 0 then transfer fw m t g h tg
      else if g.stack.length = 32 then (m, .fail (Fail.whole 0x184))
      else
        let e : Entry := { j := joinPc g.pc j, res := tg, pend := taken, save := g.amask }
        let m := traceBranch fw m (t.gref g) t g n nottaken
        (m.modGroup (t.gref g) (fun g => { g with stack := e :: g.stack, amask := nottaken }), .done)) }

/-- The JOIN effect on the top entry (R48): the mask, the stack and the PC after it. -/
def joinEffect (e : Entry) (rest : List Entry) : Mask × List Entry × DWord :=
  if e.pend ≠ 0 then (e.pend, { e with pend := 0 } :: rest, e.res) else (e.save, rest, e.j)

/-- JOIN (R48); it is traced where it does more than go to N (R453). -/
def joinOp (h : Hd) : Op :=
  { chk := noChk
    body := groupBody (fun fw m t g _ =>
      match g.stack with
      | [] => (m, .fail (Fail.whole 0x185))
      | e :: rest =>
        let x := joinEffect e rest
        let m := if x.1 = g.amask ∧ x.2.2 = nextPc g.pc h then m else traceBranch fw m (t.gref g) t g x.2.2 x.1
        (m.modGroup (t.gref g) (fun g => { g with amask := x.1, stack := x.2.1 }), .goto x.2.2)) }

/-- Apply JOIN while the mask is empty and the stack is not (R51). Each entry is met at most twice: `n` bounds the
work. -/
def exitJoin : Nat → Mask × List Entry × DWord → Mask × List Entry × DWord
  | 0, x => x
  | n + 1, (mask, st, pc) =>
    if mask ≠ 0 then (mask, st, pc) else
    match st with
    | [] => (mask, st, pc)
    | e :: rest => exitJoin n (joinEffect e rest)

/-- EXIT (R51). -/
def exitOp (h : Hd) : Op :=
  { chk := noChk
    body := groupBody (fun fw m t g mb =>
      let n := nextPc g.pc h
      let st := g.stack.map (fun e => { e with pend := e.pend &&& ~~~mb.act, save := e.save &&& ~~~mb.act })
      let x := exitJoin (2 * st.length + 1) (g.amask &&& ~~~mb.act, st, n)
      if x.1 = 0 then
        (exitGroup (traceBranch fw m (t.gref g) t g g.pc 0) (t.gref g), .gone)
      else
        let m := if x.1 = g.amask ∧ x.2.2 = n then m else traceBranch fw m (t.gref g) t g x.2.2 x.1
        (m.modGroup (t.gref g) (fun g => { g with amask := x.1, stack := x.2.1 }), .goto x.2.2)) }

def retOp (h : Hd) : Op :=
  { chk := noChk, body := groupBody (fun fw m t g _ => jumpTo fw m t g h false (readS g 63 m.draw 0)) }

/-- `callr` (R253): the target is read before the link is written (R252). -/
def callrOp (h : Hd) (a : Opnd) : Op :=
  { chk := fun t _ _ => checkWants t.valloc [{ o := a, ok := engOk a, span := 1, pair := false }]
    body := groupBody (fun fw m t g _ => jumpTo fw m t g h true (engVal g m.draw 0 a)) }

/-- `callt` (R240, R254). -/
def calltOp (h : Hd) (idx : BitVec 17) : Op :=
  { chk := noChk
    body := groupBody (fun fw m t g _ =>
      let base := ((m.ctx? t.ctx).map (fun k => k.ctxb)).getD 0
      let a := base + (idx.setWidth 64 <<< 3)
      match groupRead m t g a 8 0 with
      | (.error f, m) => (m, .fail f)
      | (.ok v, m) => jumpTo fw m t g h true v) }

/-- `trap n` (R256): AUX holds N (R389). -/
def trapOp (h : Hd) (n : BitVec 6) : Op :=
  { chk := noChk
    body := groupBody (fun _ m _ g _ =>
      (m, .fail { Fail.whole (0x2C0 + n.setWidth 10) with aux := nextPc g.pc h })) }

/-- `nop` (R255). -/
def nopOp : Op := { chk := noChk, body := fun _ m _ _ => (m, .done) }

/-! ### The instructions -/

/-- BR, R253. -/
def opBr (h : Hd) (off : BitVec 32) : Op := brOp h off false
/-- BR, R253. -/
def execBr (h : Hd) (off : BitVec 32) (s : State) : Host.Outcome State Fault Refusal :=
  issue s h (.br h off) (opBr h off)

/-- CALL, R253. -/
def opCall (h : Hd) (off : BitVec 32) : Op := brOp h off true
/-- CALL, R253. -/
def execCall (h : Hd) (off : BitVec 32) (s : State) : Host.Outcome State Fault Refusal :=
  issue s h (.call h off) (opCall h off)

/-- BRD, R47. -/
def opBrd (h : Hd) (off : BitVec 32) (join16 : BitVec 16) : Op := brdOp h off join16
/-- BRD, R47. -/
def execBrd (h : Hd) (off : BitVec 32) (join16 : BitVec 16) (s : State) : Host.Outcome State Fault Refusal :=
  issue s h (.brd h off join16) (opBrd h off join16)

/-- JOIN, R48. -/
def opJoin (h : Hd) : Op := joinOp h
/-- JOIN, R48. -/
def execJoin (h : Hd) (s : State) : Host.Outcome State Fault Refusal :=
  issue s h (.join h) (opJoin h)

/-- EXIT, R51. -/
def opExit (h : Hd) : Op := exitOp h
/-- EXIT, R51. -/
def execExit (h : Hd) (s : State) : Host.Outcome State Fault Refusal :=
  issue s h (.exit h) (opExit h)

/-- RET, R253. -/
def opRet (h : Hd) : Op := retOp h
/-- RET, R253. -/
def execRet (h : Hd) (s : State) : Host.Outcome State Fault Refusal :=
  issue s h (.ret h) (opRet h)

/-- CALLT, R254. -/
def opCallt (h : Hd) (idx : BitVec 17) : Op := calltOp h idx
/-- CALLT, R254. -/
def execCallt (h : Hd) (idx : BitVec 17) (s : State) : Host.Outcome State Fault Refusal :=
  issue s h (.callt h idx) (opCallt h idx)

/-- CALLR, R253. -/
def opCallr (h : Hd) (a : Opnd) : Op := callrOp h a
/-- CALLR, R253. -/
def execCallr (h : Hd) (a : Opnd) (s : State) : Host.Outcome State Fault Refusal :=
  issue s h (.callr h a) (opCallr h a)

/-- TRAP, R256. -/
def opTrap (h : Hd) (n : BitVec 6) : Op := trapOp h n
/-- TRAP, R256. -/
def execTrap (h : Hd) (n : BitVec 6) (s : State) : Host.Outcome State Fault Refusal :=
  issue s h (.trap h n) (opTrap h n)

/-- NOP, R255. -/
def opNop (h : Hd) : Op := nopOp
/-- NOP, R255. -/
def execNop (h : Hd) (s : State) : Host.Outcome State Fault Refusal :=
  issue s h (.nop h) (opNop h)

end Sys2Proof.Machine
end

