-- ==== Sys2Proof/Machine/Batch.lean ====
section
/-! DEFINITION. Machine/Batch.lean: batches of engine work (R137, R138), entering work and completing it, and barriers
(R149, R150, R341) that engines lower. -/
namespace Sys2Proof.Machine

/-! ### Batches -/

/-- Enter one piece of work into the group's open batch, or trap batch-overflow (R137). -/
def enterWork (m : Mach) (t : Team) (g : Group) (k : WorkKind) : Mach × End :=
  if 64 ≤ g.openCnt then (m, .fail (Fail.whole 0x1C0)) else
  let wid := m.nextWid
  let m := { m with nextWid := wid + 1 }
  let m := m.modTeam t.tid (fun t => { t with works := t.works ++ [{ wid := wid, gno := g.gno, kind := k, st := .run }] })
  let m := markLater m (t.gref g) (.batch (g.lastSeal + 1))
  (m.modGroup (t.gref g) (fun g => { g with openCnt := g.openCnt + 1, openW := g.openW ++ [wid] }), .done)

/-- An entry that is complete at once. -/
def enterDone (m : Mach) (t : Team) (g : Group) : Mach × End :=
  if 64 ≤ g.openCnt then (m, .fail (Fail.whole 0x1C0))
  else (m.modGroup (t.gref g) (fun g => { g with openCnt := g.openCnt + 1 }), .done)

/-- The batch number that a record of the work names (R142). -/
def batchNum (g : Group) (wid : Nat) : BitVec 16 :=
  match g.sealed.find? (fun b => b.wids.contains wid) with
  | some b => b.num
  | none => g.lastSeal + 1

/-- Seal the open batch and write its number to d (R137, R332). -/
def Group.seal (g : Group) (d : Opnd) : Group :=
  let n := g.lastSeal + 1
  let g := { g with lastSeal := n
                    sealed := if g.openW = [] then g.sealed else g.sealed ++ [{ num := n, wids := g.openW, clean := g.openClean }]
                    openW := [], openClean := [], openCnt := 0 }
  match d with
  | .s k => g.writeNow (fun r => r.setS k.toNat 6 (n.setWidth 64))
  | _ => g

/-- Clean words of runs of memory leave a core's L1 and its die's RDC (R156). -/
def dropClean (m : Mach) (core : Nat) (c : BitVec 12) (runs : List (Nat × Nat)) : Mach :=
  if runs.isEmpty then m else
  let inR := fun (x : BitVec 12) (va : Nat) => x == c && runs.any (fun r => decide (r.1 ≤ va ∧ va < r.1 + r.2))
  let m := m.modCore core (fun k => { k with l1 := k.l1.filter (fun w => w.d || !inR w.ctx w.va) })
  { m with rdc := modAt [] m.rdc (dieOf core) (fun l => l.filter (fun w => w.d || !inR w.ctx w.va)) }

/-- A group's open batch is sealed; one with no work left is complete at once. -/
def sealBatch (m : Mach) (t : Team) (g : Group) (d : Opnd) : Mach :=
  (if g.openW.isEmpty then dropClean m t.core t.ctx g.openClean else m).modGroup (t.gref g) (fun g => g.seal d)

/-- The condition of WAITB: none of the named batches is incomplete (R138). -/
def waitbMet (g : Group) (nums : List (BitVec 16)) : Bool := nums.all (fun n => !g.sealed.any (fun b => b.num == n))

/-- A parked WAITB or SEAL resumes when its condition is met (R137, R138); the events of the batches come before what the group
does next (R167). -/
def wakeBatch (m : Mach) (r : GRef) : Mach :=
  match m.team? r.tid with
  | none => m
  | some t =>
    match t.group? r.gno with
    | none => m
    | some g =>
      match g.waits with
      | some (.waitb nums) =>
        if waitbMet g nums then unparkGroup (seeLater m r (fun k => nums.any (fun n => k == .batch n))) r t.ctx else m
      | some (.seal d) => if g.sealed.length < 32 then unparkGroup (sealBatch m t g d) r t.ctx else m
      | _ => m

/-- The run of memory whose clean copies a complete piece of work leaves stale (R156). -/
def Work.stale (w : Work) : List (Nat × Nat) :=
  match w.kind with
  | .row _ dst _ _ f _ => [(dst.toNat, 2048 * f)]
  | _ => []

/-- Work `wid` leaves its group's batches. -/
def Group.workLeaves (g : Group) (wid : Nat) (stale : List (Nat × Nat)) : Group :=
  { g with openClean := if g.openW.contains wid then g.openClean ++ stale else g.openClean
           openW := g.openW.filter (fun x => x != wid)
           sealed := g.sealed.map (fun b => if b.wids.contains wid then
             { b with wids := b.wids.filter (fun x => x != wid), clean := b.clean ++ stale } else b) }

/-- A piece of work is complete: its entry leaves its batch, and a sealed batch with none left is complete (R137, R156). -/
def workDone (m : Mach) (tid wid : Nat) : Mach :=
  match m.team? tid with
  | none => m
  | some t =>
    match t.works.find? (fun w => w.wid == wid) with
    | none => m
    | some w =>
      let r : GRef := { tid := tid, gno := w.gno }
      let m := m.modTeam tid (fun t => { t with works := t.works.filter (fun x => x.wid != wid) })
      let m := m.modGroup r (fun g => g.workLeaves wid w.stale)
      let runs := ((m.group? r).map (fun g => (g.sealed.filter (fun b => b.wids.isEmpty)).flatMap (fun b => b.clean))).getD []
      wakeBatch ((dropClean m t.core t.ctx runs).modGroup r (fun g => { g with sealed := g.sealed.filter (fun b => !b.wids.isEmpty) })) r

def Mach.work? (m : Mach) (tid wid : Nat) : Option Work :=
  (m.team? tid).bind (fun t => t.works.find? (fun w => w.wid == wid))
def Mach.modWork (m : Mach) (tid wid : Nat) (f : Work → Work) : Mach :=
  m.modTeam tid (fun t => { t with works := t.works.map (fun w => if w.wid == wid then f w else w) })

/-- Engine work meets a fault (R142, R425): with a page to wait for only the work waits; any other cause stops the issuer
as well. DETAIL is the batch number. -/
def stopWork (fw : Firmware) (m : Mach) (tid : Nat) (w : Work) (cause : Cause) (addr : DWord) : Mach :=
  match m.group? { tid := tid, gno := w.gno } with
  | none => m
  | some g =>
    takeStop fw (m.modWork tid w.wid (fun w => { w with st := .stopped })) tid
      { Stop.trap cause g g.pc with
        hits := [{ gno := w.gno, lmask := 0, left := 0, fin := 0 }]
        addr := addr, detail := (batchNum g w.wid).setWidth 32, eng := true, wid := some w.wid }

/-! ### Barriers -/

/-- A barrier at launch (R149). -/
def Barrier.initial : Barrier := { tgt := 0, cnt := 0, p := 0, phase := false, broken := false }
def Team.bar (t : Team) (b : Nat) : Barrier := t.bars.getD b Barrier.initial
def Team.modBar (t : Team) (b : Nat) (f : Barrier → Barrier) : Team := { t with bars := modAt Barrier.initial t.bars b f }

/-- The groups parked on a barrier, lowest first. -/
def barWaiters (t : Team) (b : Nat) : List (Nat × Option MScope) :=
  t.groups.filterMap (fun g => match g.waits with
    | some (.barrier k a) => if k = b then some (g.gno, a) else none
    | _ => none)

/-- An ordered wait at a barrier acquires; what its group stored before its own ordered arrival there comes before it too
(R168). -/
def acquireBar (m : Mach) (r : GRef) (ctx : BitVec 12) (core : Nat) (sc : MScope) (lmode : BitVec 2) (b : Nat) : Mach :=
  seeLater (acquireBy m r ctx core sc lmode) r (fun k => k == .barrier b)

/-- READY (R341): at the target with P = 0 the phase inverts and every group parked on the barrier resumes, an ordered
wait with its acquire (R168, R342). RW of the team starts anew (R409). -/
def barReady (m : Mach) (lmode : BitVec 2) (tid b : Nat) : Mach :=
  match m.team? tid with
  | none => m
  | some t =>
    let k := t.bar b
    if k.cnt != k.tgt || k.p != 0 then m else
    let m := m.modTeam tid (fun t =>
      { t.modBar b (fun k => { k with phase := !k.phase, cnt := 0 }) with groups := t.groups.map (fun g => { g with rw := 0 }) })
    (barWaiters t b).foldl (fun m w =>
      let r : GRef := { tid := tid, gno := w.1 }
      let m := match w.2 with
        | some sc => acquireBar m r t.ctx t.core sc lmode b
        | none => m
      unparkGroup m r t.ctx) m

/-- A barrier breaks: every group parked on it leaves its wait with barrier-broken (R150). -/
def barBreak (fw : Firmware) (m : Mach) (tid b : Nat) : Mach :=
  match m.team? tid with
  | none => m
  | some t =>
    let m := m.modTeam tid (fun t => t.modBar b (fun k => { k with broken := true }))
    (barWaiters t b).foldl (fun m w =>
      match t.group? w.1 with
      | some g => takeStop fw (m.modGroup { tid := tid, gno := w.1 } Group.leaveWait) tid
          { Stop.trap 0x1CA g g.npc with own := true }
      | none => m) m

/-- An engine lowers P (R149, R150). -/
def barLower (fw : Firmware) (m : Mach) (tid b n : Nat) : Mach :=
  match m.team? tid with
  | none => m
  | some t =>
    let k := t.bar b
    if k.broken then m
    else if k.p - (n : Int) < -(2 ^ 24 : Nat) then barBreak fw m tid b
    else barReady (m.modTeam tid (fun t => t.modBar b (fun k => { k with p := k.p - n }))) fw.lmode tid b

/-- Lower P of a barrier that the work names. -/
def barLower? (fw : Firmware) (m : Mach) (tid : Nat) (b : Option Nat) (n : Nat) : Mach :=
  match b with
  | none => m
  | some b => barLower fw m tid b n

end Sys2Proof.Machine
end

