-- ==== Sys2Proof/Machine/Memory.lean ====
section
/-! DEFINITION. Machine/Memory.lean: loads, stores, atomics, reductions, fences and page requests (R295 to R313). -/
namespace Sys2Proof.Machine

/-! ### Operands and addresses (R233, R295) -/

/-- A 64-bit address or a 32-bit offset: an even v pair or a single v register, or an s register (R295). -/
def wAddr (h : Hd) (pair : Bool) (o : Opnd) : Want :=
  { o := o, ok := if h.grp then o.isS else o.isV || o.isS, span := if pair then 2 else 1, pair := pair }
def wData (h : Hd) (ty : Ty) (o : Opnd) : Want := Want.at o (srcOk h.grp false ty o) ty
def wLoad (h : Hd) (ty : Ty) (o : Opnd) : Want := Want.at o (dstOk h.grp false ty o) ty

/-- SPACE forms a 64-bit address (R233). -/
def Space64 (sp : Space) : Bool := sp == .generic || sp == .global

/-- Where a lane's access goes, and the value whose alignment counts (R233). -/
def spaceTarget (m : Mach) (t : Team) (lead g : Group) (sp : Space) (base : Opnd) (off : BitVec 20) (size lane : Nat) :
    Target × Int :=
  let o : Int := ((srcVal lead g m.draw 0 .n32 base lane).toNat : Int) + off.toInt
  let a : DWord := srcVal lead g m.draw 0 .n64 base lane + off.signExtend 64
  match sp with
  | .generic => ({ ga := a, loc := steer m t g lane a size, stack := isStackAddr a }, a.toNat)
  | .global =>
    ({ ga := a, loc := if a.toNat < 0xF000000000000 then .ok (.glob a.toNat) else .error 0xC0, stack := false }, a.toNat)
  | .scratch => ({ ga := 0xF000000000000 + BitVec.ofInt 64 o, loc := locTeamSp t o size, stack := false }, o)
  | .cscratch =>
    ({ ga := 0xF100000000000 + BitVec.ofInt 64 o, loc := locClSp m t (o / 2 ^ 21) (o % 2 ^ 21).toNat size, stack := false }, o)
  | .stack => ({ ga := 0xF200000000000 + BitVec.ofInt 64 o, loc := locStack t g lane o size, stack := true }, o)

/-- A generic 64-bit address with no offset (R304, R306). -/
def genTarget (m : Mach) (t : Team) (lead g : Group) (a : Opnd) (size lane : Nat) : Target × Int :=
  let v := srcVal lead g m.draw 0 .n64 a lane
  ({ ga := v, loc := steer m t g lane v size, stack := isStackAddr v }, v.toNat)

/-- The first misaligned lane of all members: the whole instruction traps before any lane's effect (R110). -/
def misaligned (sc : Scope) (gs : List (Group × Member)) (size : Group → Nat → Nat) (tgt : Group → Nat → Target × Int) :
    Option DWord :=
  (gs.flatMap (fun x => (accLanes sc x.2.act).filterMap (fun l =>
    if (tgt x.1 l).2 % (size x.1 l : Int) ≠ 0 then some (tgt x.1 l).1.ga else none))).head?

/-- The passes of a memory instruction, one per member (R35, R296): `pre` reads words for a whole pass, `access` is one
lane's access, `far` tells whether it went to a loss target. -/
def memPasses (fw : Firmware) (sc : Scope) (c : BitVec 12) (made : Group → Nat → DWord → Made) (size : Group → Nat → Nat)
    (gs : List (Group × Member)) (tgt : Group → Nat → Target × Int) (pre : Group → List Loc → Mach → List WordRead × Mach)
    (far : Group → Nat → Loc → Bool → Bool)
    (access : Group → List WordRead → Mach → Nat → Loc → Bool → Except Cause DWord × Mach) (m : Mach) : Mach × List PassRes :=
  gs.foldl (fun mp x =>
    if passes sc x.2 then
      let lanes := accLanes sc x.2.act
      let ws := pre x.1 (lanes.flatMap (fun l => match (tgt x.1 l).1.loc with
        | .ok loc => accWords loc (tgt x.1 l).1.stack (size x.1 l)
        | .error _ => [])) mp.1
      let a := runLanes fw c (made x.1) (size x.1) lanes (fun l => (tgt x.1 l).1) (far x.1) (access x.1 ws.1) ws.2
      (a.m, mp.2 ++ [{ gno := x.1.gno, act := x.2.act, tot := x.2.tot, acc := a.vals, bad := a.bad, hits := x.1.metWatch ++ a.hits, unk := a.unk, owner := a.owner
                       reqs := a.reqs }])
    else mp) (m, [])

/-- The passes of a load: each word of a pass is read once (R297). -/
def loadPasses (fw : Firmware) (sc : Scope) (t : Team) (size : Nat) (gs : List (Group × Member)) (tgt : Group → Nat → Target × Int)
    (m : Mach) : Mach × List PassRes :=
  memPasses fw sc t.ctx (fun _ _ _ => ⟨true, false⟩) (fun _ _ => size) gs tgt (fun g ls m => readWords m (whoOf t g.gno) 3 ls)
    (fun g _ => loadFar m (whoOf t g.gno) size)
    (fun _ ws m _ loc st => ((loadAt ws loc st size).map (fun x => x.1), m)) m

/-- Write what the passes of an instruction loaded: the lanes that were read (R46, R300). The results of `i` are outstanding
(R52); with `late`, a load's value may be read anew as it returns (R184). -/
def putLoads (m : Mach) (tid : Nat) (sc : Scope) (i : Instr) (late : Bool) (d : Opnd) (wide : Bool) (tag : PassRes → BitVec 4) (ps : List PassRes) : Mach :=
  ps.foldl (fun m p =>
    if p.acc.isEmpty && !(p.act == 0) then m else
    m.modGroup { tid := tid, gno := p.gno } (fun g =>
      let bad := laneMask sc p.act (p.bad.map (fun x => x.1))
      let one := late && g.redo.isNone && p.bad.isEmpty && p.reqs.length == p.acc.length
      let act := p.act &&& ~~~bad
      (g.request i (d.ids wide) p.reqs one act []).produceMem (d.ids wide) (putVal g.present { gno := p.gno, act := act, tot := p.tot &&& ~~~bad } d wide
        (tag p) (fun l => valOf p.acc l)))) m

/-- The lanes of a reduction whose requests went to a loss target are outstanding until their group's next release (R165, R429). -/
def putReds (m : Mach) (tid : Nat) (i : Instr) (ps : List PassRes) : Mach :=
  ps.foldl (fun m p => if p.reqs.all (fun q => !q.far) then m else
    m.modGroup { tid := tid, gno := p.gno } (fun g => g.request i [] (p.reqs.filter (fun q => q.far)) false p.act [])) m

/-- The global words that the lanes of an access name. -/
def lanesVa (sc : Scope) (act : Mask) (size : Nat) (tgt : Nat → Target × Int) : List Nat :=
  (accLanes sc act).flatMap (fun l => match (tgt l).1.loc with
    | .ok loc => (accWords loc (tgt l).1.stack size).filterMap Loc.va?
    | .error _ => [])
/-- Outstanding loads of words that the members of an access now name have returned (R172). -/
def fixAll (m : Mach) (tid : Nat) (sc : Scope) (size : Nat) (gs : List (Group × Member)) (tgt : Group → Nat → Target × Int) : Mach :=
  gs.foldl (fun m x => if x.1.reqs.isEmpty then m else
    m.modGroup { tid := tid, gno := x.1.gno } (fun g => g.fixWords (lanesVa sc x.2.act size (tgt x.1)))) m

/-- Nothing failed. -/
def allOk (ps : List PassRes) : Bool := ps.all (fun p => p.bad.isEmpty)

/-! ### Loads and stores (R299 to R303) -/

/-- Every member of an instruction acquires (R302, R309). -/
def acquireAll (m : Mach) (t : Team) (ms : List Member) (sc : MScope) (lmode : BitVec 2) : Mach :=
  acquire (ms.foldl (fun m mb => orderAliases m { tid := t.tid, gno := mb.gno } sc) m) t.ctx t.core sc lmode

def ldOp (h : Hd) (ty : Ty) (d base : Opnd) (off : BitVec 20) (sp : Space) (ord : Bool) (sc : MScope) : Op :=
  { chk := fun t _ _ => checkWants t.valloc [wLoad h ty d, wAddr h (Space64 sp) base]
    body := fun fw m tid ms =>
      match m.team? tid with
      | none => (m, .done)
      | some t =>
        let gs := memberGroups t ms
        let tgt := fun g l => spaceTarget m t (leadOf gs g) g sp base off ty.bytes l
        match misaligned h.scope gs (fun _ _ => ty.bytes) tgt with
        | some a => (m, .fail (Fail.at 0xC1 a))
        | none =>
          let r := loadPasses fw h.scope t ty.bytes gs tgt (fixAll m tid h.scope ty.bytes gs tgt)
          let late := !ord && (h.scope == .lane || h.scope == .group) && !(ty.bytes == 8 && sp != .global)
          let m := putLoads r.1 tid h.scope (.ld h ty d base off sp ord sc) late d ty.wide (fun _ => ty.tag) r.2
          let m := if ord && allOk r.2 then acquireAll m t ms sc fw.lmode else m
          (m, endOf h.scope r.2) }

/-- A load's values as they return: read anew, each word once (R297), where nothing has used or passed them yet (R54, R184). A
failing read leaves what the load read first. -/
def rereadLoad (m : Mach) (t : Team) (gno : Nat) (q : Req) : Mach :=
  match q.i with
  | .ld _ ty d _ _ _ _ _ =>
    match readWords m (whoOf t gno) 73 (q.lanes.flatMap (fun l => accWords (.glob l.va) false l.size)) with
    | (ws, m1) =>
    let vs := q.lanes.map (fun l => (l.lane, loadAt ws (.glob l.va) false l.size))
    let m1 := { m1 with parts := m.parts }
    if vs.any (fun x => !x.2.isOk) then m1 else
    m1.modGroup { tid := t.tid, gno := gno } (fun g =>
      let a := maskOf (fun l => q.lanes.any (fun x => x.lane == l))
      let put := putVal g.present { gno := gno, act := a, tot := a } d ty.wide ty.tag
        (valOf (vs.filterMap (fun x => x.2.toOption.map (fun v => (x.1, v.1)))))
      { g with regs := put g.regs, old := g.old.mapIdx (fun k r => if q.img < k then put r else r) })
  | _ => m

/-- Release before a store or atomic: pending ones of every member, then the ordered one (R302, R309, R312). A reissue over
the lanes left made it at its first issue (R314). -/
def relBefore (m : Mach) (t : Team) (ms : List Member) (ord : Bool) (sc : MScope) : Mach :=
  let again := ms.any (fun mb => (t.group? mb.gno).any (fun g => g.redo.isSome))
  let m := ms.foldl (fun m mb => settle m { tid := t.tid, gno := mb.gno }) m
  if ord && !again then release (ms.foldl (fun m mb => publish m { tid := t.tid, gno := mb.gno } sc) m) t.core sc (fun _ => true) else m

def stOp (h : Hd) (ty : Ty) (d base : Opnd) (off : BitVec 20) (sp : Space) (ord : Bool) (sc : MScope) : Op :=
  { chk := fun t _ _ => checkWants t.valloc [wData h ty d, wAddr h (Space64 sp) base]
    body := fun fw m tid ms =>
      match m.team? tid with
      | none => (m, .done)
      | some t =>
        let gs := memberGroups t ms
        let tgt := fun g l => spaceTarget m t (leadOf gs g) g sp base off ty.bytes l
        match misaligned h.scope gs (fun _ _ => ty.bytes) tgt with
        | some a => (m, .fail (Fail.at 0xC1 a))
        | none =>
          let m0 := m
          let r := memPasses fw h.scope t.ctx (fun _ _ _ => ⟨false, true⟩) (fun _ _ => ty.bytes) gs tgt (fun _ _ m => ([], m))
            (fun _ _ _ _ => false)
            (fun g _ m l loc st => match writeAt m (whoOf t g.gno) .store loc st ty.bytes (srcVal (leadOf gs g) g m0.draw 1 ty d l) with
              | (.error c, m) => (.error c, m)
              | (.ok (), m) => (.ok 0, m)) (relBefore (fixAll m tid h.scope ty.bytes gs tgt) t ms ord sc)
          (r.1, endOf h.scope r.2) }

/-- A cause that LDNF turns into a cleared bit (R132, R420, R430). -/
def softCause (c : Cause) : Bool := c == 0x100 || c == 0x101 || c == 0x200 || c == 0x201 || c == 0x203

/-- `ldnf` (R304). D is written first and then C, so that at GROUP scope, with one s register as both, C's 1 or 0 stands: the spec
does not order the two writes (DESIGN CHOICE, log entry 72). -/
def ldnfOp (h : Hd) (ty : Ty) (d a c : Opnd) : Op :=
  { chk := fun t _ _ => checkWants t.valloc [wLoad h ty d, wAddr h true a, wOne c (pdstOk h.grp c)]
    body := fun fw m tid ms =>
      match m.team? tid with
      | none => (m, .done)
      | some t =>
        let gs := memberGroups t ms
        let tgt := fun g l => genTarget m t (leadOf gs g) g a ty.bytes l
        match misaligned h.scope gs (fun _ _ => ty.bytes) tgt with
        | some x => (m, .fail (Fail.at 0xC1 x))
        | none =>
          let r := loadPasses fw h.scope t ty.bytes gs tgt m
          let ps := r.2.map (fun p => { p with
            bad := p.bad.filter (fun x => !softCause x.2.1)
            acc := p.acc ++ (p.bad.filter (fun x => softCause x.2.1)).map (fun x => (x.1, 0)), reqs := [] })
          let m := putLoads r.1 tid h.scope (.ldnf h ty d a c) false d ty.wide (fun _ => ty.tag) ps
          let read := fun (p : PassRes) => (r.2.filter (fun q => q.gno == p.gno)).flatMap (fun q => q.acc.map (fun x => x.1))
          let m := ps.foldl (fun m p =>
            if p.acc.isEmpty && !(p.act == 0) then m else
            m.modGroup { tid := tid, gno := p.gno } (fun g =>
              let bad := laneMask h.scope p.act (p.bad.map (fun x => x.1))
              g.produceMem (c.ids false) (putVal g.present { gno := p.gno, act := p.act &&& ~~~bad, tot := p.tot } c false 6
                (fun l => bit 64 ((read p).contains l))))) m
          (m, endOf h.scope ps) }

/-! ### Atomics and reductions (R306 to R310) -/

/-- The operations (R307). -/
inductive AOp where | add | sub | min | max | and | or | xor | exch | cas | inc | dec | fadd
deriving DecidableEq, Repr

/-- The new value of an atomic, or none where a compare fails (R307). Values are at the type's width. -/
def atomNew (op : AOp) (ty : Ty) (old b c : Nat) : Option Nat :=
  let w := ty.ew
  let x := intOf ty.signed w old
  let y := intOf ty.signed w b
  match op with
  | .add => some (wrapTo w (x + y))
  | .sub => some (wrapTo w (x - y))
  | .min => some (wrapTo w (if y < x then y else x))
  | .max => some (wrapTo w (if x < y then y else x))
  | .and => some (old &&& b)
  | .or => some (old ||| b)
  | .xor => some (old ^^^ b)
  | .exch => some b
  | .cas => if old = c then some b else none
  | .inc => some (if b ≤ old then 0 else old + 1)
  | .dec => some (if old = 0 ∨ b < old then b else old - 1)
  | .fadd => some (fop ((ty.fmt?).getD .f32) plainCtl .add old b 0)

/-- An atomic whose target is lost may have reached its memory or not: a free choice (R310). -/
def atomLost (m : Mach) (w : Who) (va size : Nat) (f : Nat → Option Nat) : Mach :=
  if Config.pick m.draw 67 va % 2 = 0 then m else
  match paOf m w.ctx va with
  | none => m
  | some pa =>
    let lo := Memory.word m.mem pa
    match f (if size = 8 then (Memory.word m.mem (pa + 4) ++ lo).toNat else lo.toNat) with
    | none => m
    | some v =>
      let m := dramWrite m pa (BitVec.ofNat 32 v)
      if size = 8 then dramWrite m (pa + 4) (BitVec.ofNat 32 (v / 2 ^ 32)) else m

/-- One atomic of 4 or 8 bytes at its point (R127, R160): `f` gives the new value from the old. -/
def atomAt (m : Mach) (w : Who) (sc : MScope) (loc : Loc) (size : Nat) (f : Nat → Option Nat) : Except Cause DWord × Mach :=
  match loc with
  | .sp tid o cl =>
    (match m.team? tid with
     | none => (.ok 0, m)
     | some t =>
       let old := if size = 8 then (spWord t (o + 4) ++ spWord t o).toNat else (spWord t o).toNat
       match f old with
       | none =>
         let m := (spNewest m tid o cl w.grp).2
         (.ok (BitVec.ofNat 64 old), if size = 8 then (spNewest m tid (o + 4) cl w.grp).2 else m)
       | some v =>
         let m := spWrite m w.grp tid o cl (BitVec.ofNat 32 v)
         (.ok (BitVec.ofNat 64 old), if size = 8 then spWrite m w.grp tid (o + 4) cl (BitVec.ofNat 32 (v / 2 ^ 32)) else m))
  | .glob va =>
    match atomRead m w sc va with
    | (.error c, m) => (.error c, if unkCause c then atomLost m w va size f else m)
    | (.ok (lo, a), m) =>
      if size = 8 then
        match atomRead m w sc (va + 4) with
        | (.error c, m) => (.error c, m)
        | (.ok (hi, _), m) =>
          (match f (hi ++ lo).toNat with
           | none => (.ok (hi ++ lo), m)
           | some v => (.ok (hi ++ lo), atomWrite m w sc [(va, BitVec.ofNat 32 v), (va + 4, BitVec.ofNat 32 (v / 2 ^ 32))] a))
      else
        match f lo.toNat with
        | none => (.ok (lo.setWidth 64), m)
        | some v => (.ok (lo.setWidth 64), atomWrite m w sc [(va, BitVec.ofNat 32 v)] a)

def markUnk (ps : List PassRes) : List PassRes :=
  ps.map (fun p => { p with unk := p.bad.any (fun x => unkCause x.2.1) })

/-- The instruction of an atomic that returns its old value. -/
def atmInstr (op : AOp) (h : Hd) (ty : Ty) (d a b : Opnd) (c : Option Opnd) (ord : Bool) (sc : MScope) : Instr :=
  match op with
  | .add => .atmAdd h ty d a b ord sc
  | .sub => .atmSub h ty d a b ord sc
  | .min => .atmMin h ty d a b ord sc
  | .max => .atmMax h ty d a b ord sc
  | .and => .atmAnd h ty d a b ord sc
  | .or => .atmOr h ty d a b ord sc
  | .xor => .atmXor h ty d a b ord sc
  | .exch => .atmExch h ty d a b ord sc
  | .cas => .atmCas h ty d a b (c.getD b) ord sc
  | .inc => .atmInc h ty d a b ord sc
  | .dec => .atmDec h ty d a b ord sc
  | .fadd => .atmFadd h ty d a b ord sc

/-- The instruction of a reduction. -/
def redInstr (op : AOp) (h : Hd) (ty : Ty) (a b : Opnd) (ord : Bool) (sc : MScope) : Instr :=
  match op with
  | .sub => .redSub h ty a b ord sc
  | .min => .redMin h ty a b ord sc
  | .max => .redMax h ty a b ord sc
  | .and => .redAnd h ty a b ord sc
  | .or => .redOr h ty a b ord sc
  | .xor => .redXor h ty a b ord sc
  | .inc => .redInc h ty a b ord sc
  | .dec => .redDec h ty a b ord sc
  | .fadd => .redFadd h ty a b ord sc
  | .add | .exch | .cas => .redAdd h ty a b ord sc

/-- Atomics and reductions: lanes in increasing number, passes in increasing ordinal (R308). A lane of 8 bytes in the stack
aperture that also fails STKSZ takes 0xC6 (R478) and not 0xC4 (R110): the spec does not order the two (DESIGN CHOICE, log
entry 74). -/
def atomBody (h : Hd) (ty : Ty) (d : Option Opnd) (op : AOp) (a b : Opnd) (c : Option Opnd) (ord : Bool) (sc : MScope) :
    Firmware → Mach → Nat → List Member → Mach × End :=
  fun fw m tid ms =>
    match m.team? tid with
    | none => (m, .done)
    | some t =>
      let gs := memberGroups t ms
      let size := ty.bytes
      let tgt := fun g l =>
        let x := genTarget m t (leadOf gs g) g a size l
        (if size = 8 ∧ x.1.stack then { x.1 with loc := .error 0xC6 } else x.1, x.2)
      match misaligned h.scope gs (fun _ _ => size) tgt with
      | some x => (m, .fail (Fail.at 0xC1 x))
      | none =>
        let m0 := m
        let new := fun (g : Group) (l old : Nat) =>
          atomNew op ty old (srcVal (leadOf gs g) g m0.draw 1 ty b l).toNat (match c with
            | some c => (srcVal (leadOf gs g) g m0.draw 2 ty c l).toNat
            | none => 0)
        let r := memPasses fw h.scope t.ctx (fun g l v => ⟨true, (new g l v.toNat).isSome⟩) (fun _ _ => size) gs tgt (fun _ _ m => ([], m))
          (fun g _ => atomFar m0 (whoOf t g.gno) sc size)
          (fun g _ m l loc _ => atomAt m (whoOf t g.gno) sc loc size (new g l)) (relBefore m t ms ord sc)
        let ps := markUnk r.2
        match d with
        | none => (putReds r.1 tid (redInstr op h ty a b ord sc) ps, endOf h.scope ps)
        | some d =>
          let m := putLoads r.1 tid h.scope (atmInstr op h ty d a b c ord sc) false d ty.wide (fun _ => ty.tag) ps
          (if ord && allOk ps then acquireAll m t ms sc fw.lmode else m, endOf h.scope ps)

def atmOp (h : Hd) (ty : Ty) (op : AOp) (d a b : Opnd) (ord : Bool) (sc : MScope) : Op :=
  { chk := fun t _ _ => checkWants t.valloc [wLoad h ty d, wAddr h true a, wData h ty b]
    body := atomBody h ty (some d) op a b none ord sc }
def casOp (h : Hd) (ty : Ty) (d a b c : Opnd) (ord : Bool) (sc : MScope) : Op :=
  { chk := fun t _ _ => checkWants t.valloc [wLoad h ty d, wAddr h true a, wData h ty b, wData h ty c]
    body := atomBody h ty (some d) .cas a b (some c) ord sc }
def redOp (h : Hd) (ty : Ty) (op : AOp) (a b : Opnd) (ord : Bool) (sc : MScope) : Op :=
  { chk := fun t _ _ => checkWants t.valloc [wAddr h true a, wData h ty b]
    body := atomBody h ty none op a b none ord sc }

/-! ### Fences and region forms (R311 to R313) -/

def fenceOp (sc : MScope) : Op :=
  { chk := noChk
    body := groupBody (fun fw m t g _ =>
      let r := t.gref g
      (fencePaths (acquireBy (releaseBy (settle m r) r t.core sc) r t.ctx t.core sc fw.lmode) r, .done)) }
def acqOp (sc : MScope) : Op :=
  { chk := noChk, body := groupBody (fun fw m t g _ => (acquireBy m (t.gref g) t.ctx t.core sc fw.lmode, .done)) }
/-- `rel` does not stop the group: its work is done at RELEASE_COMPLETE, or before the group's next write (R312). -/
def relOp (sc : MScope) : Op :=
  { chk := noChk
    body := groupBody (fun _ m t g _ =>
      ((settle m (t.gref g)).modGroup (t.gref g) (fun g => { g with relPend := some (sc, g.pc) }), .done)) }

/-- The range of INVR and WBR, checked (R313). -/
def regionOp (len base : Opnd) (f : Firmware → Mach → Team → (Nat → Bool) → Mach) : Op :=
  { chk := fun t _ _ => checkWants t.valloc [wOne len len.isS, wOne base base.isS]
    body := groupBody (fun fw m t g _ =>
      let n := (srcVal g g m.draw 1 .n64 len 0).toNat
      let a := (srcVal g g m.draw 0 .n64 base 0).toNat
      if a % 4 ≠ 0 ∨ n % 4 ≠ 0 then (m, .fail (Fail.at 0xC1 (BitVec.ofNat 64 a)))
      else if n ≠ 0 ∧ 0xF000000000000 < a + n then (m, .fail (Fail.at 0xC0 (BitVec.ofNat 64 a)))
      else (f fw (settle m (t.gref g)) t (fun va => decide (a ≤ va ∧ va < a + n)), .done)) }

/-- The record of a page request of a group's work, and its pending service (R305, R390). -/
def postRequest (fw : Firmware) (m : Mach) (t : Team) (g : Group) (wid va : Nat) : Mach :=
  match takeSeq m t.ctx with
  | (seq, m) =>
    let num : BitVec 32 := (batchNum g wid).setWidth 32
    let r : Rec :=
      { cause := 3, setw := false, replay := false, info := true, unk := false, held := false, eng := false, ns := false, setn := 0xFE
        group := BitVec.ofNat 8 g.gno, ctx := t.ctx, team := BitVec.ofNat 32 t.index, grid := serialOf m t, retired := g.retired
        pc := g.pc, lmask := 0, detail := num, addr := BitVec.ofNat 64 va, aux := 0 }
    let pd : Pending :=
      { seq := seq, cause := 3, flags := r.flags, setn := 0xFE, tid := t.tid, gno := g.gno, pc := g.pc, lmask := 0, addr := BitVec.ofNat 64 va
        detail := num, aux := 0, npc := none, again := none, wid := some wid, add := none, acted := false }
    let m := match m.ctx? t.ctx with
      | some k => m.setCtx { k with pend := k.pend ++ [pd] }
      | none => m
    fqPost fw m t.ctx (r.bytes seq)

/-- A request for a page that is not there enters the open batch, and its record the fault queue (R305). -/
def pageRequest (fw : Firmware) (m : Mach) (t : Team) (g : Group) (va : Nat) : Mach × End :=
  let wid := m.nextWid
  match enterWork m t g (.pgreq va) with
  | (m, .done) => (postRequest fw m t g wid va, .done)
  | r => r

/-- PGREQ (R305): a page that is present and resident completes its entry at once, another gives a page-request record
(R395). A stack address must pass the bound check of R110 with size 1: R305 names the aperture check only (DESIGN CHOICE, log
entry 82). -/
def pgreqOp (base : Opnd) (off : BitVec 20) (sp : Space) : Op :=
  { chk := fun t _ _ => checkWants t.valloc [wOne base base.isS]
    body := groupBody (fun fw m t g _ =>
      let a := srcVal g g m.draw 0 .n64 base 0 + off.signExtend 64
      let loc := if a.toNat < 0xF000000000000 then .ok (.glob a.toNat)
        else if sp = .generic ∧ isStackAddr a then steer m t g 0 a 1 else .error 0xC0
      match loc with
      | .error c => (m, .fail (Fail.at c a))
      | .ok (.sp _ _ _) => (m, .fail (Fail.at 0xC0 a))
      | .ok (.glob va) =>
        match findLeaf m t.ctx va with
        | (.ok _, m) => enterDone m t g
        | (.error _, m) => pageRequest fw m t g va) }

/-! ### The instructions -/

/-- LD, R303. -/
def opLd (h : Hd) (ty : Ty) (d base : Opnd) (off : BitVec 20) (sp : Space) (ord : Bool) (sc : MScope) : Op := ldOp h ty d base off sp ord sc
/-- LD, R303. -/
def execLd (h : Hd) (ty : Ty) (d base : Opnd) (off : BitVec 20) (sp : Space) (ord : Bool) (sc : MScope) (s : State) : Host.Outcome State Fault Refusal :=
  issue s h (.ld h ty d base off sp ord sc) (opLd h ty d base off sp ord sc)

/-- ST, R303. -/
def opSt (h : Hd) (ty : Ty) (d base : Opnd) (off : BitVec 20) (sp : Space) (ord : Bool) (sc : MScope) : Op := stOp h ty d base off sp ord sc
/-- ST, R303. -/
def execSt (h : Hd) (ty : Ty) (d base : Opnd) (off : BitVec 20) (sp : Space) (ord : Bool) (sc : MScope) (s : State) : Host.Outcome State Fault Refusal :=
  issue s h (.st h ty d base off sp ord sc) (opSt h ty d base off sp ord sc)

/-- LDNF, R304. -/
def opLdnf (h : Hd) (ty : Ty) (d a c : Opnd) : Op := ldnfOp h ty d a c
/-- LDNF, R304. -/
def execLdnf (h : Hd) (ty : Ty) (d a c : Opnd) (s : State) : Host.Outcome State Fault Refusal :=
  issue s h (.ldnf h ty d a c) (opLdnf h ty d a c)

/-- ATM_ADD, R307. -/
def opAtmAdd (h : Hd) (ty : Ty) (d a b : Opnd) (ord : Bool) (sc : MScope) : Op := atmOp h ty .add d a b ord sc
/-- ATM_ADD, R307. -/
def execAtmAdd (h : Hd) (ty : Ty) (d a b : Opnd) (ord : Bool) (sc : MScope) (s : State) : Host.Outcome State Fault Refusal :=
  issue s h (.atmAdd h ty d a b ord sc) (opAtmAdd h ty d a b ord sc)

/-- ATM_SUB, R307. -/
def opAtmSub (h : Hd) (ty : Ty) (d a b : Opnd) (ord : Bool) (sc : MScope) : Op := atmOp h ty .sub d a b ord sc
/-- ATM_SUB, R307. -/
def execAtmSub (h : Hd) (ty : Ty) (d a b : Opnd) (ord : Bool) (sc : MScope) (s : State) : Host.Outcome State Fault Refusal :=
  issue s h (.atmSub h ty d a b ord sc) (opAtmSub h ty d a b ord sc)

/-- ATM_MIN, R307. -/
def opAtmMin (h : Hd) (ty : Ty) (d a b : Opnd) (ord : Bool) (sc : MScope) : Op := atmOp h ty .min d a b ord sc
/-- ATM_MIN, R307. -/
def execAtmMin (h : Hd) (ty : Ty) (d a b : Opnd) (ord : Bool) (sc : MScope) (s : State) : Host.Outcome State Fault Refusal :=
  issue s h (.atmMin h ty d a b ord sc) (opAtmMin h ty d a b ord sc)

/-- ATM_MAX, R307. -/
def opAtmMax (h : Hd) (ty : Ty) (d a b : Opnd) (ord : Bool) (sc : MScope) : Op := atmOp h ty .max d a b ord sc
/-- ATM_MAX, R307. -/
def execAtmMax (h : Hd) (ty : Ty) (d a b : Opnd) (ord : Bool) (sc : MScope) (s : State) : Host.Outcome State Fault Refusal :=
  issue s h (.atmMax h ty d a b ord sc) (opAtmMax h ty d a b ord sc)

/-- ATM_AND, R307. -/
def opAtmAnd (h : Hd) (ty : Ty) (d a b : Opnd) (ord : Bool) (sc : MScope) : Op := atmOp h ty .and d a b ord sc
/-- ATM_AND, R307. -/
def execAtmAnd (h : Hd) (ty : Ty) (d a b : Opnd) (ord : Bool) (sc : MScope) (s : State) : Host.Outcome State Fault Refusal :=
  issue s h (.atmAnd h ty d a b ord sc) (opAtmAnd h ty d a b ord sc)

/-- ATM_OR, R307. -/
def opAtmOr (h : Hd) (ty : Ty) (d a b : Opnd) (ord : Bool) (sc : MScope) : Op := atmOp h ty .or d a b ord sc
/-- ATM_OR, R307. -/
def execAtmOr (h : Hd) (ty : Ty) (d a b : Opnd) (ord : Bool) (sc : MScope) (s : State) : Host.Outcome State Fault Refusal :=
  issue s h (.atmOr h ty d a b ord sc) (opAtmOr h ty d a b ord sc)

/-- ATM_XOR, R307. -/
def opAtmXor (h : Hd) (ty : Ty) (d a b : Opnd) (ord : Bool) (sc : MScope) : Op := atmOp h ty .xor d a b ord sc
/-- ATM_XOR, R307. -/
def execAtmXor (h : Hd) (ty : Ty) (d a b : Opnd) (ord : Bool) (sc : MScope) (s : State) : Host.Outcome State Fault Refusal :=
  issue s h (.atmXor h ty d a b ord sc) (opAtmXor h ty d a b ord sc)

/-- ATM_EXCH, R307. -/
def opAtmExch (h : Hd) (ty : Ty) (d a b : Opnd) (ord : Bool) (sc : MScope) : Op := atmOp h ty .exch d a b ord sc
/-- ATM_EXCH, R307. -/
def execAtmExch (h : Hd) (ty : Ty) (d a b : Opnd) (ord : Bool) (sc : MScope) (s : State) : Host.Outcome State Fault Refusal :=
  issue s h (.atmExch h ty d a b ord sc) (opAtmExch h ty d a b ord sc)

/-- ATM_INC, R307. -/
def opAtmInc (h : Hd) (ty : Ty) (d a b : Opnd) (ord : Bool) (sc : MScope) : Op := atmOp h ty .inc d a b ord sc
/-- ATM_INC, R307. -/
def execAtmInc (h : Hd) (ty : Ty) (d a b : Opnd) (ord : Bool) (sc : MScope) (s : State) : Host.Outcome State Fault Refusal :=
  issue s h (.atmInc h ty d a b ord sc) (opAtmInc h ty d a b ord sc)

/-- ATM_DEC, R307. -/
def opAtmDec (h : Hd) (ty : Ty) (d a b : Opnd) (ord : Bool) (sc : MScope) : Op := atmOp h ty .dec d a b ord sc
/-- ATM_DEC, R307. -/
def execAtmDec (h : Hd) (ty : Ty) (d a b : Opnd) (ord : Bool) (sc : MScope) (s : State) : Host.Outcome State Fault Refusal :=
  issue s h (.atmDec h ty d a b ord sc) (opAtmDec h ty d a b ord sc)

/-- ATM_FADD, R307. -/
def opAtmFadd (h : Hd) (ty : Ty) (d a b : Opnd) (ord : Bool) (sc : MScope) : Op := atmOp h ty .fadd d a b ord sc
/-- ATM_FADD, R307. -/
def execAtmFadd (h : Hd) (ty : Ty) (d a b : Opnd) (ord : Bool) (sc : MScope) (s : State) : Host.Outcome State Fault Refusal :=
  issue s h (.atmFadd h ty d a b ord sc) (opAtmFadd h ty d a b ord sc)

/-- ATM_CAS, R307. -/
def opAtmCas (h : Hd) (ty : Ty) (d a b c : Opnd) (ord : Bool) (sc : MScope) : Op := casOp h ty d a b c ord sc
/-- ATM_CAS, R307. -/
def execAtmCas (h : Hd) (ty : Ty) (d a b c : Opnd) (ord : Bool) (sc : MScope) (s : State) : Host.Outcome State Fault Refusal :=
  issue s h (.atmCas h ty d a b c ord sc) (opAtmCas h ty d a b c ord sc)

/-- RED_ADD, R307. -/
def opRedAdd (h : Hd) (ty : Ty) (a b : Opnd) (ord : Bool) (sc : MScope) : Op := redOp h ty .add a b ord sc
/-- RED_ADD, R307. -/
def execRedAdd (h : Hd) (ty : Ty) (a b : Opnd) (ord : Bool) (sc : MScope) (s : State) : Host.Outcome State Fault Refusal :=
  issue s h (.redAdd h ty a b ord sc) (opRedAdd h ty a b ord sc)

/-- RED_SUB, R307. -/
def opRedSub (h : Hd) (ty : Ty) (a b : Opnd) (ord : Bool) (sc : MScope) : Op := redOp h ty .sub a b ord sc
/-- RED_SUB, R307. -/
def execRedSub (h : Hd) (ty : Ty) (a b : Opnd) (ord : Bool) (sc : MScope) (s : State) : Host.Outcome State Fault Refusal :=
  issue s h (.redSub h ty a b ord sc) (opRedSub h ty a b ord sc)

/-- RED_MIN, R307. -/
def opRedMin (h : Hd) (ty : Ty) (a b : Opnd) (ord : Bool) (sc : MScope) : Op := redOp h ty .min a b ord sc
/-- RED_MIN, R307. -/
def execRedMin (h : Hd) (ty : Ty) (a b : Opnd) (ord : Bool) (sc : MScope) (s : State) : Host.Outcome State Fault Refusal :=
  issue s h (.redMin h ty a b ord sc) (opRedMin h ty a b ord sc)

/-- RED_MAX, R307. -/
def opRedMax (h : Hd) (ty : Ty) (a b : Opnd) (ord : Bool) (sc : MScope) : Op := redOp h ty .max a b ord sc
/-- RED_MAX, R307. -/
def execRedMax (h : Hd) (ty : Ty) (a b : Opnd) (ord : Bool) (sc : MScope) (s : State) : Host.Outcome State Fault Refusal :=
  issue s h (.redMax h ty a b ord sc) (opRedMax h ty a b ord sc)

/-- RED_AND, R307. -/
def opRedAnd (h : Hd) (ty : Ty) (a b : Opnd) (ord : Bool) (sc : MScope) : Op := redOp h ty .and a b ord sc
/-- RED_AND, R307. -/
def execRedAnd (h : Hd) (ty : Ty) (a b : Opnd) (ord : Bool) (sc : MScope) (s : State) : Host.Outcome State Fault Refusal :=
  issue s h (.redAnd h ty a b ord sc) (opRedAnd h ty a b ord sc)

/-- RED_OR, R307. -/
def opRedOr (h : Hd) (ty : Ty) (a b : Opnd) (ord : Bool) (sc : MScope) : Op := redOp h ty .or a b ord sc
/-- RED_OR, R307. -/
def execRedOr (h : Hd) (ty : Ty) (a b : Opnd) (ord : Bool) (sc : MScope) (s : State) : Host.Outcome State Fault Refusal :=
  issue s h (.redOr h ty a b ord sc) (opRedOr h ty a b ord sc)

/-- RED_XOR, R307. -/
def opRedXor (h : Hd) (ty : Ty) (a b : Opnd) (ord : Bool) (sc : MScope) : Op := redOp h ty .xor a b ord sc
/-- RED_XOR, R307. -/
def execRedXor (h : Hd) (ty : Ty) (a b : Opnd) (ord : Bool) (sc : MScope) (s : State) : Host.Outcome State Fault Refusal :=
  issue s h (.redXor h ty a b ord sc) (opRedXor h ty a b ord sc)

/-- RED_INC, R307. -/
def opRedInc (h : Hd) (ty : Ty) (a b : Opnd) (ord : Bool) (sc : MScope) : Op := redOp h ty .inc a b ord sc
/-- RED_INC, R307. -/
def execRedInc (h : Hd) (ty : Ty) (a b : Opnd) (ord : Bool) (sc : MScope) (s : State) : Host.Outcome State Fault Refusal :=
  issue s h (.redInc h ty a b ord sc) (opRedInc h ty a b ord sc)

/-- RED_DEC, R307. -/
def opRedDec (h : Hd) (ty : Ty) (a b : Opnd) (ord : Bool) (sc : MScope) : Op := redOp h ty .dec a b ord sc
/-- RED_DEC, R307. -/
def execRedDec (h : Hd) (ty : Ty) (a b : Opnd) (ord : Bool) (sc : MScope) (s : State) : Host.Outcome State Fault Refusal :=
  issue s h (.redDec h ty a b ord sc) (opRedDec h ty a b ord sc)

/-- RED_FADD, R307. -/
def opRedFadd (h : Hd) (ty : Ty) (a b : Opnd) (ord : Bool) (sc : MScope) : Op := redOp h ty .fadd a b ord sc
/-- RED_FADD, R307. -/
def execRedFadd (h : Hd) (ty : Ty) (a b : Opnd) (ord : Bool) (sc : MScope) (s : State) : Host.Outcome State Fault Refusal :=
  issue s h (.redFadd h ty a b ord sc) (opRedFadd h ty a b ord sc)

/-- FENCE, R311. -/
def opFence (h : Hd) (sc : MScope) : Op := fenceOp sc
/-- FENCE, R311. -/
def execFence (h : Hd) (sc : MScope) (s : State) : Host.Outcome State Fault Refusal :=
  issue s h (.fence h sc) (opFence h sc)

/-- ACQ, R311. -/
def opAcq (h : Hd) (sc : MScope) : Op := acqOp sc
/-- ACQ, R311. -/
def execAcq (h : Hd) (sc : MScope) (s : State) : Host.Outcome State Fault Refusal :=
  issue s h (.acq h sc) (opAcq h sc)

/-- REL, R311. -/
def opRel (h : Hd) (sc : MScope) : Op := relOp sc
/-- REL, R311. -/
def execRel (h : Hd) (sc : MScope) (s : State) : Host.Outcome State Fault Refusal :=
  issue s h (.rel h sc) (opRel h sc)

/-- INVR, R311, R313. -/
def opInvr (h : Hd) (len base : Opnd) (sc : MScope) : Op := regionOp len base (fun fw m t rng => invalRange m t.ctx t.core sc fw.lmode rng)
/-- INVR, R311, R313. -/
def execInvr (h : Hd) (len base : Opnd) (sc : MScope) (s : State) : Host.Outcome State Fault Refusal :=
  issue s h (.invr h len base sc) (opInvr h len base sc)

/-- WBR, R311, R313. -/
def opWbr (h : Hd) (len base : Opnd) (sc : MScope) : Op := regionOp len base (fun _ m t rng => release m t.core sc rng)
/-- WBR, R311, R313. -/
def execWbr (h : Hd) (len base : Opnd) (sc : MScope) (s : State) : Host.Outcome State Fault Refusal :=
  issue s h (.wbr h len base sc) (opWbr h len base sc)

/-- PGREQ, R305. -/
def opPgreq (h : Hd) (base : Opnd) (off : BitVec 20) (sp : Space) : Op := pgreqOp base off sp
/-- PGREQ, R305. -/
def execPgreq (h : Hd) (base : Opnd) (off : BitVec 20) (sp : Space) (s : State) : Host.Outcome State Fault Refusal :=
  issue s h (.pgreq h base off sp) (opPgreq h base off sp)

end Sys2Proof.Machine
end

