-- ==== Sys2Proof/Machine/Generic.lean ====
section
/-! DEFINITION. Machine/Generic.lean: the generic instructions and their sites (R186 to R202, R315 to R323). A QUICK form
whose guard passes has the generic effect (R194), so the generic effect is always the one performed. -/
namespace Sys2Proof.Machine

/-! ### The site field (R188, R189, R195) -/

/-- What a site or an execution says of its dimensions; ANY is 3 for SPACE, 0xF for EFMT, false for UNI. -/
structure Dims where
  space : BitVec 2
  fmt : BitVec 4
  uni : Bool
deriving DecidableEq, Repr

def siteState (s : BitVec 13) : BitVec 2 := s.extractLsb' 11 2
def siteDims (s : BitVec 13) : Dims := { space := s.extractLsb' 9 2, fmt := s.extractLsb' 5 4, uni := s.getLsbD 4 }
def siteFlips (s : BitVec 13) : Nat := (s.extractLsb' 2 2).toNat

/-- WIDTH of a format code (R188). -/
def siteWidth (f : BitVec 4) : BitVec 2 :=
  if f = 15 then 0 else
  match (tyOfTag f).bytes with
  | 1 => 0 | 2 => 1 | 4 => 2
  | _ => 3

/-- Put a SITE field together. -/
def siteOf (st : BitVec 2) (d : Dims) (flips : Nat) : BitVec 13 :=
  st ++ d.space ++ d.fmt ++ bit 1 d.uni ++ BitVec.ofNat 2 flips ++ siteWidth d.fmt

def Dims.any : Dims := { space := 3, fmt := 15, uni := false }
/-- At least one dimension holds one value. -/
def Dims.some (d : Dims) : Bool := d.space != 3 || d.fmt != 15 || d.uni

/-- A well-formed SITE field (R189); `acc` tells an instruction that resolves SPACE. -/
def siteOk (acc : Bool) (s : BitVec 13) : Bool :=
  (s.extractLsb' 0 2 == siteWidth (siteDims s).fmt) && (acc || (siteDims s).space == 3)
    && (match (siteState s).toNat with
        | 0 => s == 0x7E0
        | 1 => true
        | 2 => decide (1 ≤ siteFlips s)
        | _ => siteDims s == Dims.any && decide (1 ≤ siteFlips s))

/-- The new SITE field of an execution (R195). -/
def siteNext (s : BitVec 13) (r : Dims) (qlim : Nat) : BitVec 13 :=
  let d := siteDims s
  let fl := siteFlips s
  match (siteState s).toNat with
  | 0 => if r.some then siteOf 1 r 0 else s
  | 1 =>
    let bs := d.space != 3 && d.space != r.space
    let bf := d.fmt != 15 && d.fmt != r.fmt
    let bu := d.uni && !r.uni
    if !(bs || bf || bu) then s
    else if fl + 1 < qlim then
      siteOf 2 { space := if bs then 3 else d.space, fmt := if bf then 15 else d.fmt, uni := if bu then false else d.uni } (fl + 1)
    else siteOf 3 Dims.any (Nat.min (fl + 1) 3)
  | 2 => if r.some then siteOf 1 r fl else siteOf 2 Dims.any fl
  | _ => s

/-- The page of an instruction address has Q, as the core's instruction cache or the page table says (R197). -/
def codePageQ (m : Mach) (core : Nat) (c : BitVec 12) (pc : Nat) : Bool :=
  match (m.core core).icache.find? (fun l => l.ctx == c && l.va == pc - pc % 128) with
  | some l => l.q
  | none =>
    match (findLeaf m c pc).1 with
    | .ok l => (leafAttr l.leaf).q
    | .error _ => false

/-- Drop the line that holds a word from a core's instruction cache. -/
def icacheDrop (k : Core) (c : BitVec 12) (pc : Nat) : Core :=
  { k with icache := k.icache.filter (fun l => !(l.ctx == c && l.va == pc - pc % 128)) }

/-- The rewrite that a retiring generic instruction issues (R198, R316). One computed from a word that SITERST has reset since
it was fetched is dropped (R200, R203). Lanes that a loss ended are executed again with no rewrite: their instruction made its
own when it retired. -/
def issueRewrite (m : Mach) (t : Team) (g : Group) (w : DWord) (site : BitVec 13) (r : Dims) : Mach :=
  let q := ((m.ctx? t.ctx).map (fun k => k.qlim.toNat)).getD 0
  let new := siteNext site r q
  if q = 0 ∨ new = site ∨ g.back.isSome ∨ !codePageQ m t.core t.ctx g.pc.toNat then m
  else if g.stale then (m.modCore t.core (fun k => icacheDrop k t.ctx g.pc.toNat)).countFix t.ctx 4 1 else
  { m with rewrites := m.rewrites ++ [{ core := t.core, ctx := t.ctx, tid := t.tid, gno := g.gno, gid := gidOf g, pc := g.pc.toNat, old := w
                                        new := (w &&& ~~~(0x1FFF#64 <<< 9)) ||| (new.setWidth 64 <<< 9) }] }

/-- A resolution over what the lanes gave: one value, or ANY (R191). -/
def oneOf {α : Type} [DecidableEq α] (any : α) (xs : List α) : α :=
  match xs with
  | [] => any
  | x :: r => if r.all (fun y => decide (y = x)) then x else any
def allEq {α : Type} [DecidableEq α] (xs : List α) : Bool :=
  match xs with
  | [] => true
  | x :: r => r.all (fun y => decide (y = x))

/-! ### Generic accesses (R191, R192, R318 to R320) -/

/-- The space of a generic address, as SITE codes it (R188). -/
def spaceCode (a : DWord) : BitVec 2 :=
  if a.toNat < 0xF000000000000 then 0 else if isStackAddr a then 2 else 1

/-- The tag that loads of lanes of these formats give (R192). -/
def gldTag (fs : List (BitVec 4)) : BitVec 4 :=
  let f := oneOf 15 fs
  match f.toNat with
  | 7 | 8 | 11 | 12 | 3 | 15 => 3
  | 13 | 9 | 1 => 1
  | 14 | 10 | 2 => 2
  | _ => f

/-- A head without modifiers, for operations that take none. -/
def plainHd : Hd := { w := false, scope := .lane, pneg := false, pred := 7, mod := none, resv := false }

/-- A value under a type as binary32, B32 as N32 (R96, R192). -/
def toF32 (c : Ctl) (ty : Ty) (v : DWord) : DWord :=
  BitVec.ofNat 64 (match ty.fmt? with
    | some f => cvtFF f .f32 c (srcMods f c.daz false false (v.toNat % 2 ^ ty.ew))
    | none => cvtIF .f32 c (intOf ty.signed ty.ew v.toNat))

/-- A loaded element as the result register holds it (R192): exact where the lanes have one format, rounded under the
context's FPC in a mixture (R93, log entry 59). -/
def gldVal (fpc : BitVec 2) (same : Bool) (f : BitVec 4) (v : DWord) : DWord :=
  let ty := tyOfTag f
  if !same then toF32 (ctlOf plainHd fpc) ty v
  else if ty.wide || ty.ew == 32 then v
  else match ty.fmt? with
    | some _ => toF32 plainCtl ty v
    | none => BitVec.ofNat 64 (wrapTo 32 (intOf ty.signed ty.ew v.toNat))

/-- The tag and U of a source; an inline constant is I32 or F32 with U = 1, an s register has U = 1 (R317, R67). -/
def srcTag (g : Group) (m : Mach) (slot : Nat) (o : Opnd) : BitVec 4 × Bool :=
  match o with
  | .v n => readVTag g n.toNat m.draw slot
  | .s n => (readSTag g n.toNat m.draw slot, true)
  | .c n => (if n.toNat < 24 then 1 else 3, true)
  | _ => (0, true)

/-- A 64-bit tag on an odd register (R317). -/
def oddPair (o : Opnd) (tag : BitVec 4) : Bool :=
  (tyOfTag tag).wide && (match o.vnum? with
    | some n => n % 2 == 1
    | none => false)

/-- The check of a destination that receives a result of the tag (R317). -/
def dstPair (t : Team) (o : Opnd) (tag : BitVec 4) : Option Cause :=
  if oddPair o tag then some 0x45
  else if (tyOfTag tag).wide && (match o.vnum? with
    | some n => decide (t.valloc ≤ n + 1)
    | none => false) then some 0x46
  else none

/-- A source's value converted for a store to a lane of format f (R319), under a float control (R93, log entry 59). -/
def gstVal (c : Ctl) (tag : BitVec 4) (f : BitVec 4) (v : DWord) : DWord :=
  let ty := tyOfTag tag
  let dst := tyOfTag f
  let e := elem ty.ew 0 v
  if f = 0 then BitVec.ofNat 64 (e % 2 ^ 32)
  else BitVec.ofNat 64 (match ty.fmt?, dst.fmt? with
    | some a, some b => cvtFF a b c (srcMods a c.daz false false e)
    | some a, none => wrapTo dst.ew (cvtFI .rne 0 (intMin dst.signed dst.ew) (intMax dst.signed dst.ew) (FV.dec a e))
    | none, some b => cvtIF b c (intOf ty.signed ty.ew e)
    | none, none => fitInt dst.signed dst.ew true (intOf ty.signed ty.ew e))

/-- The operations of a generic atomic that honour subnormals whatever FPC holds (R320). -/
def AOp.honours : AOp → Bool
  | .add | .sub => true
  | _ => false

/-- The new value of a generic atomic at a lane of format f (R320): `min` and `max` combine floats as R283 gives, under FPC. -/
def gatmNew (fpc : BitVec 2) (op : AOp) (f : BitVec 4) (old b : Nat) : Option Nat :=
  let ty := if f = 0 then Ty.n32 else tyOfTag f
  let c := ctlOf plainHd fpc
  match ty.fmt?, op with
  | some ff, .add => some (fop ff plainCtl .add old b 0)
  | some ff, .sub => some (fop ff plainCtl .sub old b 0)
  | some ff, .min => some (fElem (.minmax false) ff plainHd c old b 0)
  | some ff, .max => some (fElem (.minmax true) ff plainHd c old b 0)
  | _, _ => atomNew op ty old b 0

/-- Where a generic access is, its kind, and what it does at one element. -/
structure GAccess where
  /-- the destination of loaded values -/
  d : Option Opnd
  /-- the source whose tag is checked -/
  b : Option Opnd
  write : Bool
  atomic : Bool
  made : Made
  ord : Bool
  sc : MScope
  addr : Group → Nat → DWord
  run : Mach → Team → Group → BitVec 4 → List WordRead → Mach → Nat → Loc → Bool → Except Cause DWord × Mach

/-- What the accesses of the lanes planned so far have left: the words that a load has read, and the machine. It only tells which
format each access finds; the accesses themselves are made once all lanes are planned. -/
structure Dry where
  rs : List WordRead
  m : Mach

/-- A load reads a word, once (R297). -/
def Dry.read (w : Who) (d : Dry) (l : Loc) : Dry :=
  match l with
  | .sp _ _ _ => d
  | .glob va =>
    if d.rs.any (fun r => r.loc == l) then d else
    match readGlob d.m w va with
    | (r, m) => { rs := d.rs ++ [{ loc := l, res := r }], m := m }

/-- The attributes of a global word as a lane's access finds them: a load in the line that answers it, a store where its
permission comes from, an atomic at its point (R114, R127, R415, R419). -/
def GAccess.attr (x : GAccess) (w : Who) (d : Dry) (va : Nat) : Except Cause Attr :=
  if x.atomic then (atomRead d.m w x.sc va).1.map (fun r => r.2)
  else if x.write then (writePerm d.m w .store va).1
  else (wordIn (d.read w (.glob va)).rs (.glob va)).map (fun r => r.2)

/-- The format that a lane's access finds (R191, R316): the team's in the scratchpad, else that of its page. An access that fails
has the format of its page all the same, if the page is there. -/
def GAccess.fmt (x : GAccess) (t : Team) (g : Group) (d : Dry) (l : Loc) : Except Cause (BitVec 4) :=
  match l.word with
  | .sp _ _ _ => .ok t.spfmt
  | .glob va =>
    match x.attr (whoOf t g.gno) d va with
    | .ok a => .ok a.efmt
    | .error c => match (translate d.m t.ctx t.level .site va).1 with
      | .ok r => .ok r.2.efmt
      | .error _ => .error c

/-- One lane of a generic access: its address, its format if known, and where its element lies. -/
structure GPlan where
  lane : Nat
  addr : DWord
  fmt : Option (BitVec 4)
  loc : Except Cause Loc

/-- What a lane's access will be (R191, R320). A scratchpad address has the team's format, in its bounds or not. A stack
address whose first byte fails STKSZ has no page and so no format: it takes 0xC4, also for an atomic (R478; DESIGN CHOICE,
log entry 74). The untyped-page trap of a page with EFMT 0xF comes before a missing permission and before the code-write fault:
the spec does not order them (DESIGN CHOICE, log entry 81). -/
def planLane (x : GAccess) (m0 : Mach) (t : Team) (g : Group) (lane : Nat) (d : Dry) : GPlan × Dry :=
  let a := x.addr g lane
  match steer m0 t g lane a 1 with
  | .error c => ({ lane := lane, addr := a, fmt := if c = 0xC2 ∨ c = 0xC3 then some t.spfmt else none, loc := .error c }, d)
  | .ok l =>
    match x.fmt t g d l with
    | .error c => ({ lane := lane, addr := a, fmt := none, loc := .error c }, d)
    | .ok f =>
      if f = 15 then ({ lane := lane, addr := a, fmt := none, loc := .error 0xC5 }, d)
      else
        let n := (tyOfTag f).bytes
        if x.atomic && (decide (n < 4) || (n == 8 && isStackAddr a)) then
          ({ lane := lane, addr := a, fmt := some f, loc := .error 0xC6 }, d)
        else
          let loc := steer m0 t g lane a n
          ({ lane := lane, addr := a, fmt := some f, loc := loc }, match loc with
            | .error _ => d
            | .ok l =>
              if x.write then { d with m := (x.run m0 t g f [] d.m lane l (isStackAddr a)).2 }
              else (accWords l (isStackAddr a) n).foldl (Dry.read (whoOf t g.gno)) d)

/-- The lanes in increasing number, each as it finds the machine after the accesses of those before it (R316). -/
def planLanes (x : GAccess) (m0 : Mach) (t : Team) (g : Group) (lanes : List Nat) (m : Mach) : List GPlan :=
  (lanes.foldl (fun (r : List GPlan × Dry) l =>
    match planLane x m0 t g l r.2 with
    | (p, d) => (r.1 ++ [p], d)) ([], { rs := [], m := m })).1

def GPlan.bytes (p : GPlan) : Nat := (p.fmt.map (fun f => (tyOfTag f).bytes)).getD 1
/-- The lane's element is misaligned (R110, R191); an atomic on an element of less than 4 bytes makes no access (R320). -/
def GPlan.misaligned (atomic : Bool) (p : GPlan) : Bool :=
  p.fmt.isSome && !(atomic && decide (p.bytes < 4)) && p.addr.toNat % p.bytes != 0

/-- The lanes done before and what they gave, and the lanes planned now, as one resolution (R191, R198). -/
def resOf (done : List GenLane) (ps : List GPlan) : Dims :=
  let fs := done.map (fun x => x.fmt) ++ ps.filterMap (fun p => p.fmt)
  let ss := done.map (fun x => x.space) ++ ps.map (fun p => spaceCode p.addr)
  let as := done.map (fun x => x.addr) ++ ps.map (fun p => p.addr)
  { space := oneOf 3 ss, fmt := oneOf 15 fs, uni := allEq as }

/-- What the lanes that made their access resolved to. -/
def nowDone (ps : List GPlan) (a : LaneAcc) : List GenLane :=
  ps.filterMap (fun p => if a.vals.any (fun v => v.1 == p.lane) then
    (p.fmt.map (fun f => { lane := p.lane, fmt := f, space := spaceCode p.addr, addr := p.addr : GenLane })) else none)

/-- Write what the lanes loaded (R192); the results are outstanding (R52). Where the formats turn out mixed, what lanes of an
earlier issue loaded, `done`, is brought to F32: it stands in the register under their own tag. -/
def gldPut (i : Instr) (m : Mach) (t : Team) (g : Group) (sc : Scope) (mb : Member) (d : Opnd) (done : List GenLane) (fs : List (BitVec 4))
    (ps : List GPlan) (a : LaneAcc) : Mach :=
  if a.vals.isEmpty then m else
  let tag := gldTag fs
  let was := gldTag (done.map (fun x => x.fmt))
  let cur := { g with old := [] }
  let bad := laneMask sc mb.act (a.bad.map (fun x => x.1))
  let fin := mb.tot &&& ~~~mb.act
  let conv := fin != 0 && tag == 3 && was != 3
  let fmtOf := fun (l : Nat) => (((ps.find? (fun p => p.lane == l)).bind (fun p => p.fmt)).getD 3)
  let ids := d.ids (tyOfTag tag).wide
  m.modGroup (t.gref g) (fun x => (x.request i ids a.reqs false (mb.act &&& ~~~bad) (done ++ nowDone ps a)).produceMem ids
    (putVal g.present { gno := g.gno, act := (mb.act &&& ~~~bad) ||| (if conv then fin else 0), tot := mb.tot &&& ~~~bad } d
      (tyOfTag tag).wide tag (fun l =>
        if fin.has l then toF32 (ctlOf plainHd (fpcOf m t.ctx)) (tyOfTag was) (srcVal cur cur m.draw 9 (tyOfTag was) d l)
        else gldVal (fpcOf m t.ctx) (allEq fs) (fmtOf l) (valOf a.vals l))))

/-- The word of an instruction as fetched. -/
def wordOfInstr (i : Instr) : DWord := (encode i).headD 0

/-- A generic access of one group (R316, R318 to R320). -/
def gaccess (i : Instr) (h : Hd) (site : BitVec 13) (x : GAccess) :
    Firmware → Mach → Nat → List Member → Mach × End :=
  groupBody (fun fw m t g mb =>
    if mb.tot = 0 then (m, .done) else
    let lanes := accLanes h.scope mb.act
    let done := g.genRes.filter (fun r => (mb.tot &&& ~~~mb.act).has r.lane)
    let m1 := if x.write then relBefore m t [mb] x.ord x.sc else m
    let ps := planLanes x m t g lanes m1
    let fs := done.map (fun r => r.fmt) ++ ps.filterMap (fun p => p.fmt)
    match ps.find? (GPlan.misaligned x.atomic) with
    | some p => (m, .fail (Fail.at 0xC1 p.addr))
    | none =>
      let trap := match (x.d.bind (fun d => dstPair t d (gldTag fs))), x.b with
        | some c, _ => some c
        | none, some b => if oddPair b (srcTag g m 1 b).1 then some 0x45 else none
        | none, none => none
      match trap with
      | some c => (m, .fail (Fail.whole c))
      | none =>
        let ws := if x.write then ([], m1) else readWords m1 (whoOf t g.gno) 3 (ps.flatMap (fun p => match p.loc with
          | .ok loc => accWords loc (isStackAddr p.addr) p.bytes
          | .error _ => []))
        let fmtOf := fun (l : Nat) => (((ps.find? (fun p => p.lane == l)).bind (fun p => p.fmt)).getD 3)
        let a := runLanes fw t.ctx (fun _ _ => x.made) (fun l => (tyOfTag (fmtOf l)).bytes) lanes
          (fun l => match ps.find? (fun p => p.lane == l) with
            | some p => { ga := p.addr, loc := p.loc, stack := isStackAddr p.addr : Target }
            | none => { ga := 0, loc := .error 0xC0, stack := false : Target })
          (fun l => (if x.atomic then atomFar m (whoOf t g.gno) x.sc else loadFar m (whoOf t g.gno)) (tyOfTag (fmtOf l)).bytes)
          (fun m' l loc st => x.run m t g (fmtOf l) ws.1 m' l loc st) ws.2
        let ps1 : List PassRes := [{ gno := g.gno, act := mb.act, tot := mb.tot, acc := a.vals, bad := a.bad, hits := g.metWatch ++ a.hits
                                     unk := x.atomic && a.bad.any (fun y => unkCause y.2.1), owner := a.owner, reqs := [] }]
        let m := match x.d with
          | some d => gldPut i a.m t g h.scope mb d done fs ps a
          | none => a.m
        let m := if x.atomic && x.ord && allOk ps1 then acquireBy m (t.gref g) t.ctx t.core x.sc fw.lmode else m
        let e := endOf h.scope ps1
        if allOk ps1 then (issueRewrite m t g (wordOfInstr i) site (resOf done ps), e)
        else (m.modGroup (t.gref g) (fun g => { g with genRes := done ++ nowDone ps a }), e))

/-- A generic source (R59, R317) and destination. -/
def wGSrc (h : Hd) (o : Opnd) : Want :=
  wOne o (match o with
    | .c _ => true
    | _ => if h.grp then o.isS else o.isV || o.isS)
def wGDst (h : Hd) (o : Opnd) : Want := wOne o (if h.grp then o.isS else o.isV)

/-- Checks 6 to 8, then the SITE field (R189, R315). -/
def gChk (ws : List Want) (acc : Bool) (site : BitVec 13) : Team → Group → Nat → Option Cause :=
  fun t _ _ => match checkWants t.valloc ws with
    | some c => some c
    | none => if siteOk acc site then none else some 0x240

def gldOp (i : Instr) (h : Hd) (d a : Opnd) (site : BitVec 13) (off : BitVec 9) : Op :=
  { chk := gChk [wGDst h d, wAddr h true a] true site
    body := fun fw m tid ms => gaccess i h site
      { d := some d, b := none, write := false, atomic := false, made := ⟨true, false⟩, ord := false, sc := .team
        addr := fun g l => srcVal g g m.draw 0 .n64 a l + off.signExtend 64
        run := fun _ _ _ f ws m _ loc st => ((loadAt ws loc st (tyOfTag f).bytes).map (fun x => x.1), m) } fw m tid ms }

/-- The value of B for a lane of format f (R319). -/
def gstSrc (c : Ctl) (m0 : Mach) (g : Group) (b : Opnd) (f : BitVec 4) (l : Nat) : DWord :=
  let tag := (srcTag g m0 1 b).1
  gstVal c tag f (srcVal g g m0.draw 1 (tyOfTag tag) b l)

def gstOp (i : Instr) (h : Hd) (a b : Opnd) (site : BitVec 13) (off : BitVec 9) : Op :=
  { chk := gChk [wAddr h true a, wGSrc h b] true site
    body := fun fw m tid ms => gaccess i h site
      { d := none, b := some b, write := true, atomic := false, made := ⟨false, true⟩, ord := false, sc := .team
        addr := fun g l => srcVal g g m.draw 0 .n64 a l + off.signExtend 64
        run := fun m0 t g f _ m l loc st =>
          match writeAt m (whoOf t g.gno) .store loc st (tyOfTag f).bytes (gstSrc (ctlOf plainHd (fpcOf m0 t.ctx)) m0 g b f l) with
          | (.error c, m) => (.error c, m)
          | (.ok (), m) => (.ok 0, m) } fw m tid ms }

def gatmOp (i : Instr) (op : AOp) (h : Hd) (d a b : Opnd) (site : BitVec 13) (ord : Bool) (sc : MScope) : Op :=
  { chk := gChk [wGDst h d, wAddr h true a, wGSrc h b] true site
    body := fun fw m tid ms => gaccess i h site
      { d := some d, b := some b, write := true, atomic := true, made := ⟨true, true⟩, ord := ord, sc := sc
        addr := fun g l => srcVal g g m.draw 0 .n64 a l
        run := fun m0 t g f _ m l loc _ =>
          atomAt m (whoOf t g.gno) sc loc (tyOfTag f).bytes (fun old =>
            gatmNew (fpcOf m0 t.ctx) op f old (gstSrc (if op.honours then plainCtl else ctlOf plainHd (fpcOf m0 t.ctx)) m0 g b f l).toNat) } fw m tid ms }

/-! ### Generic arithmetic (R193, R321 to R323) -/

/-- The common format of differing tags (R193). -/
def commonTag (ts : List (BitVec 4)) : BitVec 4 :=
  if allEq ts then ts.headD 0 else
  let tys := ts.map tyOfTag
  let fl := tys.any (fun t => t.fmt?.isSome)
  let i64 := tys.any (fun t => t.wide && t.fmt?.isNone)
  let sg := tys.any (fun t => t.signed)
  if ts.contains 4 || (i64 && fl) then 4
  else if fl then 3
  else if i64 then (if sg then 5 else 6)
  else (if sg then 1 else 2)

/-- B32 computes as N32 (R193). -/
def calcTy (tag : BitVec 4) : Ty := if tag = 0 then .n32 else tyOfTag tag

/-- Element 0 of a source converted into a common integer format (R193). -/
def toCommon (tag cf : BitVec 4) (v : DWord) : DWord :=
  let ty := calcTy tag
  BitVec.ofNat 64 (wrapTo (calcTy cf).ew (intOf ty.signed ty.ew (elem ty.ew 0 v)))

/-- An integer as an exact value. -/
def FV.ofInt (v : Int) : FV := if v = 0 then .zero false else .fin (v < 0) v.natAbs 0

/-- Element 0 of a source converted into a common float format (R193): exactly, but a 64-bit integer is rounded to F64. A
subnormal reads as zero under DAZ (R93). -/
def exactOf (c : Ctl) (tag : BitVec 4) (v : DWord) : FV :=
  let ty := calcTy tag
  let e := elem ty.ew 0 v
  match ty.fmt? with
  | some a => FV.dec a (srcMods a c.daz false false e)
  | none => if ty.wide then FV.dec .f64 (cvtIF .f64 plainCtl (intOf ty.signed ty.ew e)) else FV.ofInt (intOf ty.signed ty.ew e)

/-- The sources of generic arithmetic at one lane, with their tags (R193). -/
def gArgs (g : Group) (m : Mach) (os : List Opnd) (l : Nat) : List (BitVec 4 × DWord) :=
  os.mapIdx (fun k o =>
    let tag := (srcTag g m k o).1
    (tag, srcVal g g m.draw k (tyOfTag tag) o l))

/-- The operations of generic arithmetic (R321). -/
inductive GOp where | add | sub | mul | fma | min | max
deriving DecidableEq, Repr

def GOp.int : GOp → IOp
  | .add => .add | .sub => .sub | .mul => .mul | .fma => .mad | .min => .min | .max => .max
def GOp.flt : GOp → FKind
  | .add => .round .add | .sub => .round .sub | .mul => .round .mul | .fma => .round .fma
  | .min => .minmax false | .max => .minmax true

/-- The result where the sources share a tag, or have a common integer format (R321). -/
def gCalc (op : GOp) (cf : BitVec 4) (fpc : BitVec 2) (xs : List DWord) : DWord :=
  let ty := calcTy cf
  lift3 ty (match ty.fmt? with
    | some f => fElem op.flt f plainHd (ctlOf plainHd fpc)
    | none => iElem op.int ty false) (xs.getD 0 0) (xs.getD 1 0) (xs.getD 2 0)

/-- The sign of an exact difference x − y of values that are no NaN; −0 and +0 are equal. -/
def FV.cmp (x y : FV) : Int :=
  match x, y with
  | .inf n, .inf k => if n = k then 0 else if n then -1 else 1
  | .inf n, _ => if n then -1 else 1
  | _, .inf k => if k then 1 else -1
  | .fin n p e, .fin k q d => (atExp n p e (min e d) - atExp k q d (min e d)).sign
  | .fin n _ _, _ => if n then -1 else 1
  | _, .fin k _ _ => if k then 1 else -1
  | _, _ => 0
def FV.isNan : FV → Bool
  | .nan _ _ => true
  | _ => false
def FV.isNeg : FV → Bool
  | .nan n _ | .inf n | .zero n | .fin n _ _ => n
/-- An exact value as what rounds once. -/
def FV.toEx (f : Fmt) : FV → Ex
  | .nan n fr => .nan (nanBits f n fr)
  | .inf n => .inf n
  | .zero n => .zero n
  | .fin n m e => .fin n m e false

/-- `fmin` and `fmax` on exact values (R283). -/
def FV.minmax (mx : Bool) (x y : FV) : FV :=
  if x.isNan then (if y.isNan then x else y)
  else if y.isNan then x
  else
    let lt := x.cmp y < 0 || (x.cmp y == 0 && x.isNeg && !y.isNeg)
    if lt != mx then x else y

/-- The one rounding of an operation on exact values, in a common float format (R91, R193, R321). -/
def gFloat (op : GOp) (f : Fmt) (c : Ctl) (x y z : FV) : Nat :=
  finishEx f c (match op with
    | .add => exAdd f c.rnd x y
    | .sub => if x.isNan || y.isNan then exAdd f c.rnd x y else exAdd f c.rnd x y.neg
    | .mul => exMul f x y
    | .fma => exFma f c.rnd x y z
    | .min => (FV.minmax false x y).toEx f
    | .max => (FV.minmax true x y).toEx f)

/-- The result of generic arithmetic on tagged sources, in the common format (R193, R321). -/
def gResult (op : GOp) (fpc : BitVec 2) (xs : List (BitVec 4 × DWord)) : DWord :=
  let ts := xs.map (fun x => x.1)
  let cf := commonTag ts
  let c := ctlOf plainHd fpc
  if allEq ts then gCalc op cf fpc (xs.map (fun x => x.2)) else
  match (calcTy cf).fmt? with
  | some f =>
    let v := xs.map (fun x => exactOf c x.1 x.2)
    BitVec.ofNat 64 (gFloat op f c (v.getD 0 (.zero false)) (v.getD 1 (.zero false)) (v.getD 2 (.zero false)))
  | none => gCalc op cf fpc (xs.map (fun x => toCommon x.1 cf x.2))

/-- A generic instruction on registers: its sources, its checks on tags, what it writes (R316, R317). -/
def garith (h : Hd) (w : DWord) (site : BitVec 13) (os : List Opnd) (d : Opnd) (dtag : BitVec 4 → BitVec 4) (pred : Bool)
    (f : Mach → Team → Group → BitVec 4 → Nat → DWord) : Firmware → Mach → Nat → List Member → Mach × End :=
  groupBody (fun _ m t g mb =>
    if mb.act = 0 then (m, .done) else
    let ts := os.mapIdx (fun k o => srcTag g m k o)
    let cf := commonTag (ts.map (fun x => x.1))
    let tag := dtag cf
    if (os.mapIdx (fun k o => oddPair o (ts.getD k (0, true)).1)).any (fun b => b) then (m, .fail (Fail.whole 0x45)) else
    match (if pred then none else dstPair t d tag) with
    | some c => (m, .fail (Fail.whole c))
    | none =>
      let wide := !pred && (tyOfTag tag).wide
      let m' := m.modGroup (t.gref g) (fun x => x.produce (d.ids wide)
        (putVal g.present mb d wide tag (fun l => f m t g cf l)))
      (issueRewrite m' t g w site { space := 3, fmt := cf, uni := ts.all (fun x => x.2) }, .done))

def garithOp (i : Instr) (op : GOp) (h : Hd) (d a b : Opnd) (site : BitVec 13) : Op :=
  { chk := gChk [wGDst h d, wGSrc h a, wGSrc h b] false site
    body := garith h (wordOfInstr i) site (if op = .fma then [a, b, d] else [a, b]) d id false (fun m t g _ l =>
      gResult op (fpcOf m t.ctx) (gArgs g m (if op = .fma then [a, b, d] else [a, b]) l)) }

/-- A compare of exact values (R284, R322). -/
def FV.holds (cc : Cond) (x y : FV) : Bool :=
  if x.isNan || y.isNan then cc == .ne else
  match cc with
  | .eq => x.cmp y == 0
  | .ne => x.cmp y != 0
  | .lt => decide (x.cmp y < 0)
  | .le => decide (x.cmp y ≤ 0)
  | .gt => decide (0 < x.cmp y)
  | .ge => decide (0 ≤ x.cmp y)

/-- The outcome of `gset` on tagged sources (R193, R322). -/
def gsetVal (cc : Cond) (fpc : BitVec 2) (x y : BitVec 4 × DWord) : Bool :=
  let cf := commonTag [x.1, y.1]
  let c := ctlOf plainHd fpc
  match (calcTy cf).fmt? with
  | some _ => FV.holds cc (exactOf c x.1 x.2) (exactOf c y.1 y.2)
  | none => if x.1 = y.1 then cmpVals cc (calcTy cf) x.2 y.2 else cmpVals cc (calcTy cf) (toCommon x.1 cf x.2) (toCommon y.1 cf y.2)

def gsetOp (i : Instr) (h : Hd) (d a b : Opnd) (site : BitVec 13) (cc : Cond) : Op :=
  { chk := gChk [wOne d (pdstOk h.grp d), wGSrc h a, wGSrc h b] false site
    body := garith h (wordOfInstr i) site [a, b] d (fun _ => 6) true (fun m t g _ l =>
      let xs := gArgs g m [a, b] l
      bit 64 (gsetVal cc (fpcOf m t.ctx) (xs.getD 0 (0, 0)) (xs.getD 1 (0, 0)))) }

/-- `gcvt` of one lane (R323). -/
def gcvtVal (tag : BitVec 4) (ty : Ty) (fpc : BitVec 2) (v : DWord) : DWord :=
  let src := calcTy tag
  let n := if src.count = ty.count then ty.count else 1
  packElems ty.ew ((List.range n).map (fun k => convElem plainHd (ctlOf plainHd fpc) src ty 0 0 (elem src.ew k v)))

def gcvtOp (i : Instr) (h : Hd) (d a : Opnd) (site : BitVec 13) (ty : Ty) : Op :=
  { chk := gChk [wGDst h d, wGSrc h a] false site
    body := garith h (wordOfInstr i) site [a] d (fun _ => ty.tag) false (fun m t g cf l =>
      gcvtVal cf ty (fpcOf m t.ctx) (srcVal g g m.draw 0 (tyOfTag cf) a l)) }

/-! ### The instructions -/

/-- GLD, R318. -/
def opGld (h : Hd) (d a : Opnd) (site : BitVec 13) (off : BitVec 9) : Op := gldOp (.gld h d a site off) h d a site off
/-- GLD, R318. -/
def execGld (h : Hd) (d a : Opnd) (site : BitVec 13) (off : BitVec 9) (s : State) : Host.Outcome State Fault Refusal :=
  issue s h (.gld h d a site off) (opGld h d a site off)

/-- GST, R319. -/
def opGst (h : Hd) (a b : Opnd) (site : BitVec 13) (off : BitVec 9) : Op := gstOp (.gst h a b site off) h a b site off
/-- GST, R319. -/
def execGst (h : Hd) (a b : Opnd) (site : BitVec 13) (off : BitVec 9) (s : State) : Host.Outcome State Fault Refusal :=
  issue s h (.gst h a b site off) (opGst h a b site off)

/-- GATM_ADD, R320. -/
def opGatmAdd (h : Hd) (d a b : Opnd) (site : BitVec 13) (ord : Bool) (sc : MScope) : Op := gatmOp (.gatmAdd h d a b site ord sc) .add h d a b site ord sc
/-- GATM_ADD, R320. -/
def execGatmAdd (h : Hd) (d a b : Opnd) (site : BitVec 13) (ord : Bool) (sc : MScope) (s : State) : Host.Outcome State Fault Refusal :=
  issue s h (.gatmAdd h d a b site ord sc) (opGatmAdd h d a b site ord sc)

/-- GATM_SUB, R320. -/
def opGatmSub (h : Hd) (d a b : Opnd) (site : BitVec 13) (ord : Bool) (sc : MScope) : Op := gatmOp (.gatmSub h d a b site ord sc) .sub h d a b site ord sc
/-- GATM_SUB, R320. -/
def execGatmSub (h : Hd) (d a b : Opnd) (site : BitVec 13) (ord : Bool) (sc : MScope) (s : State) : Host.Outcome State Fault Refusal :=
  issue s h (.gatmSub h d a b site ord sc) (opGatmSub h d a b site ord sc)

/-- GATM_MIN, R320. -/
def opGatmMin (h : Hd) (d a b : Opnd) (site : BitVec 13) (ord : Bool) (sc : MScope) : Op := gatmOp (.gatmMin h d a b site ord sc) .min h d a b site ord sc
/-- GATM_MIN, R320. -/
def execGatmMin (h : Hd) (d a b : Opnd) (site : BitVec 13) (ord : Bool) (sc : MScope) (s : State) : Host.Outcome State Fault Refusal :=
  issue s h (.gatmMin h d a b site ord sc) (opGatmMin h d a b site ord sc)

/-- GATM_MAX, R320. -/
def opGatmMax (h : Hd) (d a b : Opnd) (site : BitVec 13) (ord : Bool) (sc : MScope) : Op := gatmOp (.gatmMax h d a b site ord sc) .max h d a b site ord sc
/-- GATM_MAX, R320. -/
def execGatmMax (h : Hd) (d a b : Opnd) (site : BitVec 13) (ord : Bool) (sc : MScope) (s : State) : Host.Outcome State Fault Refusal :=
  issue s h (.gatmMax h d a b site ord sc) (opGatmMax h d a b site ord sc)

/-- GATM_AND, R320. -/
def opGatmAnd (h : Hd) (d a b : Opnd) (site : BitVec 13) (ord : Bool) (sc : MScope) : Op := gatmOp (.gatmAnd h d a b site ord sc) .and h d a b site ord sc
/-- GATM_AND, R320. -/
def execGatmAnd (h : Hd) (d a b : Opnd) (site : BitVec 13) (ord : Bool) (sc : MScope) (s : State) : Host.Outcome State Fault Refusal :=
  issue s h (.gatmAnd h d a b site ord sc) (opGatmAnd h d a b site ord sc)

/-- GATM_OR, R320. -/
def opGatmOr (h : Hd) (d a b : Opnd) (site : BitVec 13) (ord : Bool) (sc : MScope) : Op := gatmOp (.gatmOr h d a b site ord sc) .or h d a b site ord sc
/-- GATM_OR, R320. -/
def execGatmOr (h : Hd) (d a b : Opnd) (site : BitVec 13) (ord : Bool) (sc : MScope) (s : State) : Host.Outcome State Fault Refusal :=
  issue s h (.gatmOr h d a b site ord sc) (opGatmOr h d a b site ord sc)

/-- GATM_XOR, R320. -/
def opGatmXor (h : Hd) (d a b : Opnd) (site : BitVec 13) (ord : Bool) (sc : MScope) : Op := gatmOp (.gatmXor h d a b site ord sc) .xor h d a b site ord sc
/-- GATM_XOR, R320. -/
def execGatmXor (h : Hd) (d a b : Opnd) (site : BitVec 13) (ord : Bool) (sc : MScope) (s : State) : Host.Outcome State Fault Refusal :=
  issue s h (.gatmXor h d a b site ord sc) (opGatmXor h d a b site ord sc)

/-- GATM_EXCH, R320. -/
def opGatmExch (h : Hd) (d a b : Opnd) (site : BitVec 13) (ord : Bool) (sc : MScope) : Op := gatmOp (.gatmExch h d a b site ord sc) .exch h d a b site ord sc
/-- GATM_EXCH, R320. -/
def execGatmExch (h : Hd) (d a b : Opnd) (site : BitVec 13) (ord : Bool) (sc : MScope) (s : State) : Host.Outcome State Fault Refusal :=
  issue s h (.gatmExch h d a b site ord sc) (opGatmExch h d a b site ord sc)

/-- GADD, R321. -/
def opGadd (h : Hd) (d a b : Opnd) (site : BitVec 13) : Op := garithOp (.gadd h d a b site) .add h d a b site
/-- GADD, R321. -/
def execGadd (h : Hd) (d a b : Opnd) (site : BitVec 13) (s : State) : Host.Outcome State Fault Refusal :=
  issue s h (.gadd h d a b site) (opGadd h d a b site)

/-- GSUB, R321. -/
def opGsub (h : Hd) (d a b : Opnd) (site : BitVec 13) : Op := garithOp (.gsub h d a b site) .sub h d a b site
/-- GSUB, R321. -/
def execGsub (h : Hd) (d a b : Opnd) (site : BitVec 13) (s : State) : Host.Outcome State Fault Refusal :=
  issue s h (.gsub h d a b site) (opGsub h d a b site)

/-- GMUL, R321. -/
def opGmul (h : Hd) (d a b : Opnd) (site : BitVec 13) : Op := garithOp (.gmul h d a b site) .mul h d a b site
/-- GMUL, R321. -/
def execGmul (h : Hd) (d a b : Opnd) (site : BitVec 13) (s : State) : Host.Outcome State Fault Refusal :=
  issue s h (.gmul h d a b site) (opGmul h d a b site)

/-- GFMA, R321. -/
def opGfma (h : Hd) (d a b : Opnd) (site : BitVec 13) : Op := garithOp (.gfma h d a b site) .fma h d a b site
/-- GFMA, R321. -/
def execGfma (h : Hd) (d a b : Opnd) (site : BitVec 13) (s : State) : Host.Outcome State Fault Refusal :=
  issue s h (.gfma h d a b site) (opGfma h d a b site)

/-- GMIN, R321. -/
def opGmin (h : Hd) (d a b : Opnd) (site : BitVec 13) : Op := garithOp (.gmin h d a b site) .min h d a b site
/-- GMIN, R321. -/
def execGmin (h : Hd) (d a b : Opnd) (site : BitVec 13) (s : State) : Host.Outcome State Fault Refusal :=
  issue s h (.gmin h d a b site) (opGmin h d a b site)

/-- GMAX, R321. -/
def opGmax (h : Hd) (d a b : Opnd) (site : BitVec 13) : Op := garithOp (.gmax h d a b site) .max h d a b site
/-- GMAX, R321. -/
def execGmax (h : Hd) (d a b : Opnd) (site : BitVec 13) (s : State) : Host.Outcome State Fault Refusal :=
  issue s h (.gmax h d a b site) (opGmax h d a b site)

/-- GSET, R322. -/
def opGset (h : Hd) (d a b : Opnd) (site : BitVec 13) (cc : Cond) : Op := gsetOp (.gset h d a b site cc) h d a b site cc
/-- GSET, R322. -/
def execGset (h : Hd) (d a b : Opnd) (site : BitVec 13) (cc : Cond) (s : State) : Host.Outcome State Fault Refusal :=
  issue s h (.gset h d a b site cc) (opGset h d a b site cc)

/-- GCVT, R323. -/
def opGcvt (h : Hd) (d a : Opnd) (site : BitVec 13) (ty : Ty) : Op := gcvtOp (.gcvt h d a site ty) h d a site ty
/-- GCVT, R323. -/
def execGcvt (h : Hd) (d a : Opnd) (site : BitVec 13) (ty : Ty) (s : State) : Host.Outcome State Fault Refusal :=
  issue s h (.gcvt h d a site ty) (opGcvt h d a site ty)

end Sys2Proof.Machine
end

