-- ==== Sys2Proof/Machine/Shape.lean ====
section
/-! DEFINITION. Machine/Shape.lean: shape registers (R71, R72, R74), the walk of a box and its swizzle (R143, R334), and
the words that engines read and write (R141). -/
namespace Sys2Proof.Machine

/-- A shape register as its field map gives it (R71). -/
structure Shape where
  base : DWord
  efmt : BitVec 4
  rank : Nat
  dim : List Nat
  stride : List Int
  box : List Nat
  planes : Nat
  layout : Nat
  oob : Nat
  sdst : Nat
  mapoff : Nat
  swz : Nat
deriving DecidableEq, Repr

def fieldNat (h : BitVec 512) (lo n : Nat) : Nat := (h.extractLsb' lo n).toNat

/-- Read the fields of a shape register (R71). -/
def Shape.of (h : BitVec 512) : Shape :=
  { base := h.extractLsb' 448 64, efmt := h.extractLsb' 444 4, rank := fieldNat h 441 3
    dim := [fieldNat h 409 32, fieldNat h 377 32, fieldNat h 345 32, fieldNat h 313 32]
    stride := [(h.extractLsb' 265 48).toInt, (h.extractLsb' 217 48).toInt, (h.extractLsb' 169 48).toInt]
    box := [fieldNat h 153 16, fieldNat h 137 16, fieldNat h 121 16, fieldNat h 105 16]
    planes := fieldNat h 100 5, layout := fieldNat h 97 3, oob := fieldNat h 95 2, sdst := fieldNat h 71 24
    mapoff := fieldNat h 55 16, swz := fieldNat h 51 4 }

/-- The place of a field: its lowest bit, its width, and whether it is signed (R71). -/
def shapeField (i : Nat) : Option (Nat × Nat × Bool) :=
  [(448, 64, false), (444, 4, false), (441, 3, false), (409, 32, false), (377, 32, false), (345, 32, false), (313, 32, false),
   (265, 48, true), (217, 48, true), (169, 48, true), (153, 16, false), (137, 16, false), (121, 16, false), (105, 16, false),
   (100, 5, false), (97, 3, false), (95, 2, false), (71, 24, false), (55, 16, false), (51, 4, false)][i]?

/-- Replace bits lo to lo + n − 1. -/
def setField (h : BitVec 512) (lo n v : Nat) : BitVec 512 :=
  (h &&& ~~~(BitVec.ofNat 512 (2 ^ n - 1) <<< lo)) ||| (BitVec.ofNat 512 (v % 2 ^ n) <<< lo)

/-- Elements of 4 bits (code 0xF). -/
def Shape.nib (s : Shape) : Bool := s.efmt == 15
def Shape.size (s : Shape) : Nat := (tyOfTag s.efmt).bytes
def Shape.boxAt (s : Shape) (i : Nat) : Nat := if i < s.rank then s.box.getD i 1 else 1
def Shape.dimAt (s : Shape) (i : Nat) : Nat := if i < s.rank then s.dim.getD i 1 else 1
def Shape.strideAt (s : Shape) (i : Nat) : Int := s.stride.getD (i - 1) 0

/-- The checks of R74; `accept` tells the formats that the instruction takes. -/
def Shape.ok (s : Shape) (accept : BitVec 4 → Bool) : Bool :=
  decide (1 ≤ s.rank ∧ s.rank ≤ 4)
    && (List.range s.rank).all (fun i => s.dim.getD i 0 != 0 && s.box.getD i 0 != 0)
    && decide (s.layout < 4) && decide (s.oob < 3) && decide (s.swz < 5)
    && (if s.layout = 2 then decide (1 ≤ s.planes ∧ s.planes ≤ 16) else s.planes == 0)
    && s.sdst % 64 == 0
    && !(s.nib && (s.dimAt 0 % 2 == 1 || s.boxAt 0 % 2 == 1))
    && accept s.efmt

/-- Bytes of one row of the box and of the tensor. -/
def Shape.rowBytes (s : Shape) : Nat := if s.nib then s.boxAt 0 / 2 else s.boxAt 0 * s.size
def Shape.dimBytes (s : Shape) : Nat := if s.nib then s.dimAt 0 / 2 else s.dimAt 0 * s.size
/-- The slice's dense size in bytes (R334). -/
def Shape.dense (s : Shape) : Nat := s.rowBytes * s.boxAt 1 * s.boxAt 2 * s.boxAt 3
/-- Some element of the box lies outside the tensor. -/
def Shape.outside (s : Shape) : Bool := (List.range s.rank).any (fun i => decide (s.dimAt i < s.boxAt i))

/-- The swizzle of R334; within a row it is its own inverse. -/
def Shape.place (s : Shape) (o : Nat) : Nat :=
  if s.swz = 0 then o else
  let z := 64 * 2 ^ s.swz
  if z * (s.dense / z) ≤ o then o else
  let q := o / z
  let u := (o % z) / 16
  (o - o % z) + (u ^^^ (q % (z / 16))) * 16 + o % 16

/-- Where the memory side of a dense byte is (R334). -/
inductive BSrc where
  | mem (a : Int)
  /-- the element of bits [7:4] of the byte, in both halves (code 0xF, clamped) -/
  | hi (a : Int)
  | out
deriving DecidableEq, Repr

/-- The memory byte of byte c of row (i1, i2, i3). -/
def Shape.memByte (s : Shape) (c i1 i2 i3 : Nat) : Int :=
  s.base.toNat + c + i1 * s.strideAt 1 + i2 * s.strideAt 2 + i3 * s.strideAt 3

/-- The memory side of dense byte o; outside the tensor as OOB gives (R334). -/
def Shape.byteAt (s : Shape) (o : Nat) : BSrc :=
  let c := o % s.rowBytes
  let r := o / s.rowBytes
  let i1 := r % s.boxAt 1
  let i2 := r / s.boxAt 1 % s.boxAt 2
  let i3 := r / s.boxAt 1 / s.boxAt 2
  if c < s.dimBytes ∧ i1 < s.dimAt 1 ∧ i2 < s.dimAt 2 ∧ i3 < s.dimAt 3 then .mem (s.memByte c i1 i2 i3)
  else if s.oob = 1 then
    let a := fun c => s.memByte c (Nat.min i1 (s.dimAt 1 - 1)) (Nat.min i2 (s.dimAt 2 - 1)) (Nat.min i3 (s.dimAt 3 - 1))
    if c < s.dimBytes then .mem (a c)
    else if s.nib then .hi (a (s.dimBytes - 1))
    else .mem (a (s.dimBytes - s.size + c % s.size))
  else .out

/-- The dense byte is inside the tensor: a store moves it. -/
def Shape.inside (s : Shape) (o : Nat) : Bool :=
  let r := o / s.rowBytes
  decide (o % s.rowBytes < s.dimBytes ∧ r % s.boxAt 1 < s.dimAt 1 ∧ r / s.boxAt 1 % s.boxAt 2 < s.dimAt 2
    ∧ r / s.boxAt 1 / s.boxAt 2 < s.dimAt 3)

/-- The slice writes memory byte a in a store. -/
def Shape.covers (s : Shape) (a : Int) : Bool :=
  let n := fun i => Nat.min (s.boxAt i) (s.dimAt i)
  (List.range (n 3)).any (fun i3 => (List.range (n 2)).any (fun i2 => (List.range (n 1)).any (fun i1 =>
    let x := a - s.memByte 0 i1 i2 i3
    decide (0 ≤ x ∧ x < (Nat.min s.rowBytes s.dimBytes : Nat)))))

/-- The dense byte that a scratchpad byte of the slice holds. -/
def Shape.denseOf (s : Shape) (p : Nat) : Option Nat :=
  if s.sdst ≤ p ∧ p < s.sdst + s.dense then some (s.place (p - s.sdst)) else none

/-- The least and the greatest memory byte of the slice, over every element of its box (R334 check 3). -/
def Shape.span (s : Shape) : Int × Int :=
  let tops := [1, 2, 3].map (fun i => ((s.boxAt i - 1 : Nat) : Int) * s.strideAt i)
  let lo := tops.foldl (fun a x => if x < 0 then a + x else a) (s.base.toNat : Int)
  let hi := tops.foldl (fun a x => if 0 < x then a + x else a) ((s.base.toNat : Int) + (s.rowBytes - 1 : Nat))
  (lo, hi)

/-- The end of the global window (R109). -/
def globalEnd : Nat := 0xF000000000000

/-! ### Words that engines read and write for a core (R141) -/

/-- Read the global words that hold some bytes, each once. -/
def engWords (m : Mach) (w : Who) : List Nat → List (Nat × Word) → Except (Cause × Nat) (List (Nat × Word)) × Mach
  | [], acc => (.ok acc, m)
  | a :: r, acc =>
    if acc.any (fun x => x.1 == a - a % 4) then engWords m w r acc else
    match readGlob m w (a - a % 4) with
    | (.error c, m) => (.error (c, a), m)
    | (.ok (v, _), m) => engWords m w r (acc ++ [(a - a % 4, v)])

def byteIn (ws : List (Nat × Word)) (a : Nat) : Byte :=
  match ws.find? (fun x => x.1 == a - a % 4) with
  | some x => getByte x.2 (a % 4)
  | none => 0

/-- Write global bytes word by word; a word that is only partly written is fetched first (R141, R115). Of two elements of one
slice that name a byte, as rows do whose STRIDE is small, the later in scratchpad order is written last: R143 speaks of
slices that overlap only (DESIGN CHOICE, log entry 69). -/
def engWrite (m : Mach) (w : Who) (bs : List (Nat × Byte)) : Except (Cause × Nat) Unit × Mach :=
  let words := (bs.map (fun x => x.1 - x.1 % 4)).eraseDups
  words.foldl (fun r a =>
    match r with
    | (.error e, m) => (.error e, m)
    | (.ok (), m) =>
      let mine := bs.filter (fun x => x.1 - x.1 % 4 == a)
      let full := [0, 1, 2, 3].all (fun k => mine.any (fun x => x.1 % 4 == k))
      let put := fun (old : Word) => mine.foldl (fun v x => setByte v (x.1 % 4) x.2) old
      match (if full then writeGlob m w .engine a (put 0) else match fetchStore m w a with
          | (.error c, m) => (.error c, m)
          | (.ok (v, _), m) => putGlob m w .engine a (put v) : Except Cause Unit × Mach) with
      | (.error c, m) => (.error (c, a), m)
      | (.ok (), m) => (.ok (), m)) (.ok (), m)

/-- One 4-byte word of engine work at a generic address, as the issuing group's lane sees it. -/
def engLoc (m : Mach) (t : Team) (gno lane : Nat) (a : DWord) : Except Cause Loc :=
  match t.group? gno with
  | none => .error 0xC0
  | some g => steer m t g lane a 4
def engReadWord (m : Mach) (t : Team) (w : Work) (lane : Nat) (a : DWord) : Except Cause Word × Mach :=
  match engLoc m t w.gno lane a with
  | .error c => (.error c, m)
  | .ok (.sp tid o cl) =>
    let n := ((t.group? w.gno).map (fun g => batchNum g w.wid)).getD 0
    (match spEngRead m tid (o - o % 4) cl { tid := t.tid, gno := w.gno } n 20 with
     | (v, m) => (.ok v, m))
  | .ok (.glob va) =>
    match readGlob m (whoOf t w.gno) va with
    | (.error c, m) => (.error c, m)
    | (.ok (v, _), m) => (.ok v, m)
/-- An engine has read scratchpad words for a piece of work as their newest stores left them (R167). -/
def engSaw (m : Mach) (tid : Nat) (w : Work) (f : Nat → Bool) : Mach :=
  match m.group? { tid := tid, gno := w.gno } with
  | none => m
  | some g => spEngSaw m tid f { tid := tid, gno := w.gno } (batchNum g w.wid)

def engWriteWord (m : Mach) (t : Team) (gno lane : Nat) (a : DWord) (v : Word) : Except Cause Unit × Mach :=
  match engLoc m t gno lane a with
  | .error c => (.error c, m)
  | .ok l =>
    writeWordAt m (whoOf t gno) .engine l 4 v

/-- Set bytes of a team's scratchpad (engine work on chunks, chunk maps and tiles): every later load sees them (R139, R145). -/
def Mach.setScratch (m : Mach) (tid o : Nat) (bs : List Byte) : Mach :=
  m.modTeam tid (fun t =>
    { t with scratch := Memory.setBytes t.scratch o bs
             aliases := t.aliases.filter (fun a => !decide (a.o < o + bs.length ∧ o < a.o + 4)) })

/-- Set single bytes of a team's scratchpad by an engine. -/
def Mach.setScratchAt (m : Mach) (tid : Nat) (bs : List (Nat × Byte)) : Mach :=
  m.modTeam tid (fun t =>
    { t with scratch := bs.foldl (fun sc x => Memory.set sc x.1 x.2) t.scratch
             aliases := t.aliases.filter (fun a => !bs.any (fun x => a.o == x.1 - x.1 % 4)) })

/-- Set one bit of a chunk map (R144). -/
def setMapBit (m : Mach) (tid map k : Nat) : Mach :=
  match m.team? tid with
  | none => m
  | some t => m.setScratch tid (map + k / 8) [Memory.get t.scratch (map + k / 8) ||| (1#8 <<< (k % 8))]

/-- The initial map: bit k is 1 unless k < n and `open k` (R144). -/
def mapInit (n : Nat) (opened : Nat → Bool) : List Byte :=
  (List.range (32 * ((n + 255) / 256))).map (fun b => (List.range 8).foldl (fun v j =>
    if decide (8 * b + j < n) && opened (8 * b + j) then v else v ||| (1#8 <<< j)) 0#8)

end Sys2Proof.Machine
end

