-- ==== Sys2Proof/Machine/Engines.lean ====
section
/-! DEFINITION. Machine/Engines.lean: staging, copies, batches, bulk transfers, chunk maps, multicast and row operations as
they are issued (R136 to R158, R329 to R339). What the engines then do is in Machine/EngineWork.lean. -/
namespace Sys2Proof.Machine

def wEng (o : Opnd) : Want := wOne o (engOk o)
def wSd (o : Opnd) : Want := wOne o o.isS

/-- `stage` (R329, R80): the first 16 registers of the range. -/
def stageOp (a : Opnd) (cnt : BitVec 8) : Op :=
  { chk := fun t _ _ => checkWants t.valloc [{ o := a, ok := a.isV, span := cnt.toNat + 1, pair := false }]
    body := groupBody (fun _ m t g _ =>
      (m.modGroup (t.gref g) (fun g =>
        { g with staged := (List.range (Nat.min (cnt.toNat + 1) 16)).map (fun i => (a.vnum?).getD 0 + i) }), .done)) }

/-- A barrier number that the team does not have (R235, R340). -/
def barBad (t : Team) (bar : Option (BitVec 7)) : Bool :=
  match bar with
  | some b => decide (t.bars.length ≤ b.toNat)
  | none => false

/-- Rows 3 and 4 of R140: each address lies in an aperture, then each range is in its bounds, the first address of `as` first; a
range that runs past the global window is met word by word by the engine (log entry 62). -/
def rangeFail (m : Mach) (t : Team) (g : Group) (as : List DWord) (len : Nat) : Option (Cause × DWord) :=
  let miss := as.find? (fun a => match steer m t g 0 a 1 with
    | .error c => c == 0xC0
    | .ok _ => false)
  match miss with
  | some a => some (0xC0, a)
  | none => as.findSome? (fun a => match steer m t g 0 a len with
    | .error c => some (c, a)
    | .ok _ => none)

/-- The checks of R140, in order. -/
def copyFail (m : Mach) (t : Team) (g : Group) (dst src : DWord) (len : Nat) : Option (Cause × DWord) :=
  if len = 0 ∨ 65536 < len ∨ len % 16 ≠ 0 then some (0x1C1, 0)
  else if dst.toNat % 16 ≠ 0 then some (0xC1, dst)
  else if src.toNat % 16 ≠ 0 then some (0xC1, src)
  else rangeFail m t g [dst, src] len

def cpyOp (bar : Option (BitVec 7)) (d a b : Opnd) : Op :=
  { chk := fun t _ _ => checkWants t.valloc [wEng d, wEng a, wEng b]
    body := groupBody (fun _ m t g _ =>
      let dst := engVal g m.draw 0 d
      let src := engVal g m.draw 1 a
      let len := (engVal g m.draw 2 b).toNat
      match copyFail m t g dst src len with
      | some (c, x) => (m, .fail (Fail.at c x))
      | none =>
        if barBad t bar then (m, .fail (Fail.whole 0x189))
        else enterWork m t g (.copy dst src len len (bar.map (fun x => x.toNat)))) }

/-- `cpyl` (R331): a misaligned lane traps the whole instruction; lanes that miss trap alone. -/
def cpylOp (size : Nat) (d a : Opnd) : Op :=
  { chk := fun t _ _ => checkWants t.valloc
      [{ o := d, ok := d.isV, span := 2, pair := true }, { o := a, ok := a.isV, span := 2, pair := true }]
    body := groupBody (fun _ m t g mb =>
      let lanes := (lanesOf mb.act).map (fun l => (l, srcVal g g m.draw 0 .n64 d l, srcVal g g m.draw 1 .n64 a l))
      match lanes.find? (fun x => x.2.1.toNat % size != 0 || x.2.2.toNat % size != 0) with
      | some x => (m, .fail (Fail.at 0xC1 (if x.2.1.toNat % size ≠ 0 then x.2.1 else x.2.2)))
      | none =>
        let bad := lanes.filterMap (fun x => (([x.2.1, x.2.2].findSome? (fun p => match steer m t g x.1 p size with
          | .error c => some (c, p)
          | .ok _ => none)).map (fun e => (x.1, e.1, e.2))))
        let good := lanes.filter (fun x => !bad.any (fun y => y.1 == x.1))
        let fin := endOf .lane [{ gno := g.gno, act := mb.act, tot := mb.tot, acc := [], bad := bad, hits := [], unk := false, owner := 0, reqs := [] }]
        if good.isEmpty then (m, fin) else
        match enterWork m t g (.copyl good size) with
        | (m, .done) => (m, fin)
        | r => r) }

/-- `seal` (R137, R332): with 32 incomplete sealed batches the group waits for a place. -/
def sealOp (d : Opnd) : Op :=
  { chk := fun t _ _ => checkWants t.valloc [wSd d]
    body := groupBody (fun _ m t g _ =>
      if 32 ≤ g.sealed.length then (m, .park (.seal d))
      else (sealBatch m t g d, .done)) }

/-- `waitb` (R138, R333). -/
def waitbOp (a : Opnd) : Op :=
  { chk := fun t _ _ => checkWants t.valloc [wEng a]
    body := groupBody (fun _ m t g _ =>
      let n : BitVec 16 := (engVal g m.draw 0 a).setWidth 16
      let d := g.lastSeal - n
      if 2 ^ 15 ≤ d.toNat then (m, .fail (Fail.whole 0x186))
      else
        let m := seeLater m (t.gref g) (fun k => match k with
          | .batch n => decide (d.toNat ≤ (g.lastSeal - n).toNat ∧ (g.lastSeal - n).toNat < 2 ^ 15)
          | .barrier _ => false)
        let nums := (g.sealed.filter (fun b => decide (d.toNat ≤ (g.lastSeal - b.num).toNat))).map (fun b => b.num)
        if nums.isEmpty then (m, .done) else (m, .park (.waitb nums))) }

/-! ### Bulk transfers (R143, R144, R334) -/

/-- The slices of a bulk instruction: members with a lane active, in ordinal order, with their shapes (R75). -/
def bulkSlices (m : Mach) (t : Team) (ms : List Member) (ha : BitVec 4) : List (Nat × BitVec 512) :=
  ((memberGroups t ms).filter (fun x => x.2.act != 0)).map (fun x => (x.1.gno, readH x.1 ha.toNat m.draw 0))

/-- Checks 1 to 5 of R334. -/
def bulkFail (t : Team) (bar : Option (BitVec 7)) (ss : List Shape) : Option (Cause × DWord) :=
  if ss.any (fun s => !s.ok (fun _ => true) || (s.oob == 2 && s.outside)) then some (0x1C2, 0)
  else match ss.find? (fun s => decide (s.span.1 < 0 ∨ (globalEnd : Int) ≤ s.span.2)) with
    | some s => some (0xC0, BitVec.ofInt 64 s.span.1)
    | none =>
      if ss.any (fun s => decide (t.spsz < s.sdst + s.dense)) then some (0xC2, 0)
      else if barBad t bar then some (0x189, 0)
      else none

/-- A slice touches 512-byte chunk c of the scratchpad. -/
def Shape.touches (s : Shape) (c : Nat) : Bool := decide (s.sdst < 512 * c + 512 ∧ 512 * c < s.sdst + s.dense)

def bulkOp (store : Bool) (ha : BitVec 4) (bar : Option (BitVec 7)) : Op :=
  { chk := noChk
    body := fun _ m tid ms =>
      match m.team? tid with
      | none => (m, .done)
      | some t =>
        let sl := bulkSlices m t ms ha
        let ss := sl.map (fun x => Shape.of x.2)
        match sl, ss with
        | lead :: _, s0 :: _ =>
          (match bulkFail t bar ss with
           | some (c, a) => (m, .fail (Fail.at c a))
           | none =>
             let dmin := ss.foldl (fun x s => Nat.min x s.sdst) s0.sdst
             let dmax := ss.foldl (fun x s => Nat.max x (s.sdst + s.dense - 1)) 0
             let base := dmin / 512
             let n := dmax / 512 - base + 1
             let map := s0.mapoff * 32
             let mlen := 32 * ((n + 255) / 256)
             if 2048 < n then (m, .fail (Fail.whole 0x1C4))
             else if t.spsz < map + mlen ∨ (map < 512 * (base + n) ∧ 512 * base < map + mlen) then
               (m, .fail (Fail.whole 0x1C5))
             else
               let opened := fun k => ss.any (fun s => s.touches (base + k))
               let fin := (List.range n).filter (fun k => !opened k)
               let pc := ((t.group? lead.1).map (fun g => g.pc)).getD 0
               let w : Work := { wid := m.nextWid, gno := lead.1, st := .run
                                 kind := .bulk store sl base n map (bar.map (fun x => x.toNat)) fin pc }
               let m := (m.setScratch tid map (mapInit n opened)).modTeam tid (fun t => { t with works := t.works ++ [w] })
               ({ m with nextWid := m.nextWid + 1 }, .done))
        | _, _ => (m, .done) }

/-! ### Chunk maps (R145, R335, R336) -/

def mapOffOf (m : Mach) (g : Group) (ha : BitVec 4) : Nat := (Shape.of (readH g ha.toNat m.draw 1)).mapoff * 32

/-- The condition of WAITM (R335). -/
def waitmMet (t : Team) (o : Nat) (mask : BitVec 32) : Bool := spWord t o &&& mask == mask

def waitmOp (ha : BitVec 4) (a : Opnd) : Op :=
  { chk := fun t _ _ => checkWants t.valloc [wEng a]
    body := groupBody (fun _ m t g _ =>
      let v := engVal g m.draw 0 a
      let o := mapOffOf m g ha + 4 * (v.extractLsb' 32 6).toNat
      let mask : BitVec 32 := v.setWidth 32
      if v.extractLsb' 38 26 ≠ 0 then (m, .fail (Fail.whole 0x1D3))
      else if t.spsz < o + 4 then (m, .fail (Fail.whole 0xC2))
      else if waitmMet t o mask then (m, .done)
      else (m, .park (.waitm o mask))) }

/-- `testm` (R336). -/
def testmOp (d : Opnd) (ha : BitVec 4) (a : Opnd) : Op :=
  { chk := fun t _ _ => checkWants t.valloc [wOne d d.isP, wOne a (a.isV || engOk a)]
    body := groupBody (fun _ m t g mb =>
      let idx := fun l => (srcVal g g m.draw 0 .n32 a l).toNat
      let map := mapOffOf m g ha
      if (lanesOf mb.act).any (fun l => decide (2048 ≤ idx l)) then (m, .fail (Fail.whole 0x1D3))
      else if (lanesOf mb.act).any (fun l => decide (t.spsz < map + 4 * (idx l / 32) + 4)) then (m, .fail (Fail.whole 0xC2))
      else
        (m.modGroup (t.gref g) (fun g => g.produce (d.ids false) (putVal g.present mb d false 0 (fun l =>
          bit 64 ((Memory.get t.scratch (map + idx l / 8)).getLsbD (idx l % 8))))), .done)) }

/-! ### Multicast (R148, R337) -/

/-- Checks 1 to 6 of R337, with the receivers where they pass. -/
def mcastPlan (m : Mach) (t : Team) (g : Group) (d : DWord) (src : DWord) (len : Nat) (bar : Option (BitVec 7)) :
    Except (Cause × DWord) (List Nat) :=
  let doff := (d.extractLsb' 0 21).toNat
  let map := (d.extractLsb' 32 16).toNat * 32
  let base := doff / 512
  let n := (doff + len - 1) / 512 - base + 1
  let mlen := 32 * ((n + 255) / 256)
  let ords := (List.range 12).filter (fun k => d.getLsbD (52 + k))
  if len = 0 ∨ 65536 < len ∨ len % 16 ≠ 0 then .error (0x1C1, 0)
  else if src.toNat % 16 ≠ 0 then .error (0xC1, src)
  else if doff % 16 ≠ 0 then .error (0xC1, BitVec.ofNat 64 doff)
  else if d.extractLsb' 48 3 ≠ 0 ∨ d.extractLsb' 21 11 ≠ 0 then .error (0x41, 0)
  else match steer m t g 0 src len with
    | .error c => .error (if 0xF000000000000 + 2 ^ 21 ≤ src.toNat then 0xC0 else c, src)
    | .ok _ =>
      if 0xF000000000000 + 2 ^ 21 ≤ src.toNat then .error (0xC0, src)
      else
        let rcv := ords.map (fun k => if k < m.clSize t then m.clTeam t k else none)
        if rcv.any (fun r => match r with
            | some u => decide (u.spsz < doff + len)
            | none => true) then .error (0xC3, BitVec.ofNat 64 doff)
        else
          let us := rcv.filterMap id
          if d.getLsbD 51 && us.any (fun u => decide (u.spsz < map + mlen ∨ (map < 512 * (base + n) ∧ 512 * base < map + mlen)))
          then .error (0x1C5, 0)
          else if barBad t bar then .error (0x189, 0)
          else .ok (us.map (fun u => u.tid))

def mcastOp (bar : Option (BitVec 7)) (d a b : Opnd) : Op :=
  { chk := fun t _ _ => checkWants t.valloc [wEng d, wEng a, wEng b]
    body := groupBody (fun _ m t g _ =>
      let dv := engVal g m.draw 0 d
      let src := engVal g m.draw 1 a
      let len := (engVal g m.draw 2 b).toNat
      let doff := (dv.extractLsb' 0 21).toNat
      let n := (doff + len - 1) / 512 - doff / 512 + 1
      let map := if dv.getLsbD 51 then some ((dv.extractLsb' 32 16).toNat * 32) else none
      match mcastPlan m t g dv src len bar with
      | .error (c, x) => (m, .fail (Fail.at c x))
      | .ok rcv =>
        if rcv.isEmpty then enterDone m t g else
        match enterWork m t g (.mcast src len doff rcv map (bar.map (fun x => x.toNat)) []) with
        | (m, .done) =>
          (match map with
           | some o => (rcv.foldl (fun m r => m.setScratch r o (mapInit n (fun _ => true))) m, .done)
           | none => (m, .done))
        | r => r) }

/-! ### Row operations (R152 to R154, R338, R339) -/

/-- The checks of R154, in order. -/
def rowFail (f : Nat) (os : List DWord) : Option (Cause × DWord) :=
  if f = 0 ∨ 4096 < f then some (0x1C6, 0)
  else match os.find? (fun a => decide (globalEnd < a.toNat + 2048 * f)) with
    | some a => some (0x1C7, a)
    | none => (os.find? (fun a => a.toNat % 2048 != 0)).map (fun a => (0x1C8, a))

/-- The class of D of a row operation, and its pair (R338). -/
def rowChk (d : Opnd) (os : List Opnd) : Team → Group → Nat → Option Cause :=
  fun t _ _ => match checkWants t.valloc (wSd d :: os.map wEng) with
    | some c => some c
    | none => match d with
      | .s n => if n.toNat % 2 = 1 then some 0x45 else none
      | _ => none

def rowOp (op : RowOp) (d a : Opnd) (b : Option Opnd) : Op :=
  { chk := rowChk d (a :: b.toList)
    body := groupBody (fun _ m t g _ =>
      let dst := engVal g m.draw 0 d
      let f := (match d with
        | .s n => readS g (n.toNat + 1) m.draw 6
        | _ => 0).toNat
      let va := engVal g m.draw 1 a
      let vb := match b with
        | some b => engVal g m.draw 2 b
        | none => 0
      match rowFail f (dst :: (if op = .fill then [] else [va]) ++ (if b.isSome then [vb] else [])) with
      | some (c, x) => (m, .fail (Fail.at c x))
      | none => enterWork m t g (.row op dst va vb f [])) }

/-- The present leaf of an address, resident or not. -/
def presentLeaf (m : Mach) (c : BitVec 12) (va : Nat) : Option Leaf :=
  match tlbHit m c va, m.ctx? c with
  | some e, _ => some { leaf := e.leaf, log := e.log, leafPa := e.leafPa, ptrs := e.ptrs }
  | none, some k => (match (walk m k.ptroot va).1 with
    | .ok l => some l
    | .error _ => none)
  | none, none => none

/-- The value of ROWMATE (R153). -/
def rowmateVal (m : Mach) (c : BitVec 12) (va : DWord) : DWord :=
  if 2 ^ 51 ≤ va.toNat then 0 else
  match presentLeaf m c va.toNat with
  | none => 0
  | some l =>
    if leafTier l.leaf ≠ 0 then 0 else
    let pa := leafPaOf l.leaf l.log va.toNat
    BitVec.ofNat 64 (2 ^ 63 + (pa / 2 ^ 36) % 8 * 2 ^ 37 + (pa / 2 ^ 31) % 32 * 2 ^ 32
      + (l.leaf.extractLsb' 42 12).toNat * 2 ^ 16 + (va.toNat / 2048) % 64)

def rowmateOp (d a : Opnd) : Op :=
  { chk := fun t _ _ => checkWants t.valloc [wSd d, wEng a]
    body := groupBody (fun _ m t g _ =>
      let v := engVal g m.draw 0 a
      let x := rowmateVal m t.ctx v
      ((findLeaf m t.ctx v.toNat).2.modGroup (t.gref g) (fun g =>
        g.produce (d.ids false) (fun r => putVal g.present { gno := g.gno, act := 0, tot := 0 } d false 6 (fun _ => x) r)), .done)) }

/-! ### The instructions -/

/-- STAGE, R329. -/
def opStage (h : Hd) (a : Opnd) (cnt : BitVec 8) : Op := stageOp a cnt
/-- STAGE, R329. -/
def execStage (h : Hd) (a : Opnd) (cnt : BitVec 8) (s : State) : Host.Outcome State Fault Refusal :=
  issue s h (.stage h a cnt) (opStage h a cnt)

/-- CPY, R330. -/
def opCpy (h : Hd) (d a b : Opnd) : Op := cpyOp none d a b
/-- CPY, R330. -/
def execCpy (h : Hd) (d a b : Opnd) (s : State) : Host.Outcome State Fault Refusal :=
  issue s h (.cpy h d a b) (opCpy h d a b)

/-- CPY_BAR, R330. -/
def opCpyBar (h : Hd) (d a b : Opnd) (bar : BitVec 7) : Op := cpyOp (some bar) d a b
/-- CPY_BAR, R330. -/
def execCpyBar (h : Hd) (d a b : Opnd) (bar : BitVec 7) (s : State) : Host.Outcome State Fault Refusal :=
  issue s h (.cpyBar h d a b bar) (opCpyBar h d a b bar)

/-- CPYL_4, R331. -/
def opCpyl4 (h : Hd) (d a : Opnd) : Op := cpylOp 4 d a
/-- CPYL_4, R331. -/
def execCpyl4 (h : Hd) (d a : Opnd) (s : State) : Host.Outcome State Fault Refusal :=
  issue s h (.cpyl4 h d a) (opCpyl4 h d a)

/-- CPYL_8, R331. -/
def opCpyl8 (h : Hd) (d a : Opnd) : Op := cpylOp 8 d a
/-- CPYL_8, R331. -/
def execCpyl8 (h : Hd) (d a : Opnd) (s : State) : Host.Outcome State Fault Refusal :=
  issue s h (.cpyl8 h d a) (opCpyl8 h d a)

/-- CPYL_16, R331. -/
def opCpyl16 (h : Hd) (d a : Opnd) : Op := cpylOp 16 d a
/-- CPYL_16, R331. -/
def execCpyl16 (h : Hd) (d a : Opnd) (s : State) : Host.Outcome State Fault Refusal :=
  issue s h (.cpyl16 h d a) (opCpyl16 h d a)

/-- SEAL, R332. -/
def opSeal (h : Hd) (d : Opnd) : Op := sealOp d
/-- SEAL, R332. -/
def execSeal (h : Hd) (d : Opnd) (s : State) : Host.Outcome State Fault Refusal :=
  issue s h (.seal h d) (opSeal h d)

/-- WAITB, R333. -/
def opWaitb (h : Hd) (a : Opnd) : Op := waitbOp a
/-- WAITB, R333. -/
def execWaitb (h : Hd) (a : Opnd) (s : State) : Host.Outcome State Fault Refusal :=
  issue s h (.waitb h a) (opWaitb h a)

/-- BULK_LD, R334. -/
def opBulkLd (h : Hd) (ha : BitVec 4) : Op := bulkOp false ha none
/-- BULK_LD, R334. -/
def execBulkLd (h : Hd) (ha : BitVec 4) (s : State) : Host.Outcome State Fault Refusal :=
  issue s h (.bulkLd h ha) (opBulkLd h ha)

/-- BULK_ST, R334. -/
def opBulkSt (h : Hd) (ha : BitVec 4) : Op := bulkOp true ha none
/-- BULK_ST, R334. -/
def execBulkSt (h : Hd) (ha : BitVec 4) (s : State) : Host.Outcome State Fault Refusal :=
  issue s h (.bulkSt h ha) (opBulkSt h ha)

/-- BULK_LD_BAR, R334. -/
def opBulkLdBar (h : Hd) (ha : BitVec 4) (bar : BitVec 7) : Op := bulkOp false ha (some bar)
/-- BULK_LD_BAR, R334. -/
def execBulkLdBar (h : Hd) (ha : BitVec 4) (bar : BitVec 7) (s : State) : Host.Outcome State Fault Refusal :=
  issue s h (.bulkLdBar h ha bar) (opBulkLdBar h ha bar)

/-- BULK_ST_BAR, R334. -/
def opBulkStBar (h : Hd) (ha : BitVec 4) (bar : BitVec 7) : Op := bulkOp true ha (some bar)
/-- BULK_ST_BAR, R334. -/
def execBulkStBar (h : Hd) (ha : BitVec 4) (bar : BitVec 7) (s : State) : Host.Outcome State Fault Refusal :=
  issue s h (.bulkStBar h ha bar) (opBulkStBar h ha bar)

/-- WAITM, R335. -/
def opWaitm (h : Hd) (ha : BitVec 4) (a : Opnd) : Op := waitmOp ha a
/-- WAITM, R335. -/
def execWaitm (h : Hd) (ha : BitVec 4) (a : Opnd) (s : State) : Host.Outcome State Fault Refusal :=
  issue s h (.waitm h ha a) (opWaitm h ha a)

/-- TESTM, R336. -/
def opTestm (h : Hd) (d : Opnd) (ha : BitVec 4) (a : Opnd) : Op := testmOp d ha a
/-- TESTM, R336. -/
def execTestm (h : Hd) (d : Opnd) (ha : BitVec 4) (a : Opnd) (s : State) : Host.Outcome State Fault Refusal :=
  issue s h (.testm h d ha a) (opTestm h d ha a)

/-- MCAST, R337. -/
def opMcast (h : Hd) (d a b : Opnd) : Op := mcastOp none d a b
/-- MCAST, R337. -/
def execMcast (h : Hd) (d a b : Opnd) (s : State) : Host.Outcome State Fault Refusal :=
  issue s h (.mcast h d a b) (opMcast h d a b)

/-- MCAST_BAR, R337. -/
def opMcastBar (h : Hd) (d a b : Opnd) (bar : BitVec 7) : Op := mcastOp (some bar) d a b
/-- MCAST_BAR, R337. -/
def execMcastBar (h : Hd) (d a b : Opnd) (bar : BitVec 7) (s : State) : Host.Outcome State Fault Refusal :=
  issue s h (.mcastBar h d a b bar) (opMcastBar h d a b bar)

/-- ROWCPY, R338. -/
def opRowcpy (h : Hd) (d a : Opnd) : Op := rowOp .cpy d a none
/-- ROWCPY, R338. -/
def execRowcpy (h : Hd) (d a : Opnd) (s : State) : Host.Outcome State Fault Refusal :=
  issue s h (.rowcpy h d a) (opRowcpy h d a)

/-- ROWFILL, R338. -/
def opRowfill (h : Hd) (d a : Opnd) : Op := rowOp .fill d a none
/-- ROWFILL, R338. -/
def execRowfill (h : Hd) (d a : Opnd) (s : State) : Host.Outcome State Fault Refusal :=
  issue s h (.rowfill h d a) (opRowfill h d a)

/-- ROWAND, R338. -/
def opRowand (h : Hd) (d a b : Opnd) : Op := rowOp .and d a (some b)
/-- ROWAND, R338. -/
def execRowand (h : Hd) (d a b : Opnd) (s : State) : Host.Outcome State Fault Refusal :=
  issue s h (.rowand h d a b) (opRowand h d a b)

/-- ROWOR, R338. -/
def opRowor (h : Hd) (d a b : Opnd) : Op := rowOp .or d a (some b)
/-- ROWOR, R338. -/
def execRowor (h : Hd) (d a b : Opnd) (s : State) : Host.Outcome State Fault Refusal :=
  issue s h (.rowor h d a b) (opRowor h d a b)

/-- ROWXOR, R338. -/
def opRowxor (h : Hd) (d a b : Opnd) : Op := rowOp .xor d a (some b)
/-- ROWXOR, R338. -/
def execRowxor (h : Hd) (d a b : Opnd) (s : State) : Host.Outcome State Fault Refusal :=
  issue s h (.rowxor h d a b) (opRowxor h d a b)

/-- ROWNOT, R338. -/
def opRownot (h : Hd) (d a : Opnd) : Op := rowOp .not d a none
/-- ROWNOT, R338. -/
def execRownot (h : Hd) (d a : Opnd) (s : State) : Host.Outcome State Fault Refusal :=
  issue s h (.rownot h d a) (opRownot h d a)

/-- ROWMATE, R339. -/
def opRowmate (h : Hd) (d a : Opnd) : Op := rowmateOp d a
/-- ROWMATE, R339. -/
def execRowmate (h : Hd) (d a : Opnd) (s : State) : Host.Outcome State Fault Refusal :=
  issue s h (.rowmate h d a) (opRowmate h d a)

end Sys2Proof.Machine
end

