-- ==== Sys2Proof/Machine/Matrix.lean ====
section
/-! DEFINITION. Machine/Matrix.lean: Damask (R205 to R225, R347 to R352, R381, R382): tiles and tokens, step records,
loops and their pairing, loading and draining, histograms. -/
namespace Sys2Proof.Machine

/-! ### Operand formats and step records (R205 to R208, R381) -/

/-- How the planes of an element are read. -/
inductive OKind where | sint | uint | q4 | flt (f : Fmt)
deriving DecidableEq, Repr

/-- An operand format: its planes and how they are read. -/
structure OFmt where
  w : Nat
  kind : OKind
deriving DecidableEq, Repr

/-- Block-fixed formats and their width w (R102). -/
def floatFmt (e : BitVec 4) : Option (Fmt × Nat) :=
  match e.toNat with
  | 7 => some (.f16, 12) | 8 => some (.bf16, 9) | 11 => some (.e4, 5) | 12 => some (.e5, 4)
  | _ => none

/-- The operand format of a shape with LAYOUT 1 (R205) or LAYOUT 2 (R206). -/
def Shape.opFmt (s : Shape) (serial : Bool) : Option OFmt :=
  match floatFmt s.efmt with
  | some (f, w) => if !serial || s.planes == w then some { w := w, kind := .flt f } else none
  | none =>
    let kind := s.stride.getD 0 0
    if s.nib then
      (if kind = 0 ∧ (!serial ∨ s.planes = 4) then some { w := 4, kind := .sint }
       else if serial then none
       else if kind = 1 then some { w := 4, kind := .q4 }
       else if kind = 2 then some { w := 1, kind := .uint }
       else none)
    else if serial then
      (if s.efmt = 9 ∨ s.efmt = 13 then some { w := s.planes, kind := .sint }
       else if s.efmt = 10 ∨ s.efmt = 14 then some { w := s.planes, kind := .uint }
       else none)
    else if s.efmt = 13 then some { w := 8, kind := .sint }
    else if s.efmt = 14 then some { w := 9, kind := .sint }
    else none

def OFmt.isFloat (f : OFmt) : Bool := match f.kind with
  | .flt _ => true
  | _ => false

/-- Units of a plane: 96 rows, or 64 × ceil(N / 64) columns. -/
def recUnits (serial : Bool) (n : Nat) : Nat := if serial then 64 * ((n + 63) / 64) else 96
/-- RA or RB. -/
def recBytes (f : OFmt) (serial : Bool) (n : Nat) : Nat :=
  f.w * 4 * recUnits serial n + (if f.isFloat then (if serial then recUnits serial n else 128) else 0)

/-- The planes of element k of unit i, as a number. -/
def recRaw (rd : Nat → Word) (f : OFmt) (base u i k : Nat) : Nat :=
  (List.range f.w).foldl (fun a b => a + (if (rd (base + 4 * (u * b + i))).getLsbD k then 2 ^ b else 0)) 0

/-- The element's own value: a QN4 element is its code (R210). -/
def OFmt.plain (f : OFmt) (raw : Nat) : Int :=
  match f.kind with
  | .sint | .flt _ => intOf true f.w raw
  | .uint | .q4 => raw

/-- The value that enters the multiplier (R205). -/
def OFmt.val (f : OFmt) (raw : Nat) : Int :=
  match f.kind with
  | .q4 => qLevel raw
  | _ => f.plain raw

/-- The binary exponent of unit i's scale (R105); none for a segment with an infinity or a NaN (R104). -/
def recExp (rd : Nat → Word) (f : OFmt) (base u i : Nat) : Option Int :=
  if !f.isFloat then some 0 else
  let a := base + 4 * u * f.w + i
  let e := getByte (rd (a - a % 4)) (a % 4)
  if e = 0x80 then none else some (e.toInt - ((f.w : Int) - 2))

/-! ### Loops (R212 to R214) -/

def Loop.ksteps (l : Loop) : Nat := (l.ctrl.extractLsb' 48 16).toNat
def Loop.gen (l : Loop) : Nat := (l.ctrl.extractLsb' 46 2).toNat
def Loop.pmode (l : Loop) : Nat := (l.ctrl.extractLsb' 44 2).toNat
def Loop.pos (l : Loop) : Nat := (l.ctrl.extractLsb' 42 2).toNat
def Loop.ainc (l : Loop) : Nat := (l.ctrl.extractLsb' 14 14).toNat * 64
def Loop.binc (l : Loop) : Nat := (l.ctrl.extractLsb' 0 14).toNat * 64
/-- PEERS, in increasing position order of the other positions. -/
def Loop.peers (l : Loop) : List Nat :=
  [(l.ctrl.extractLsb' 38 4).toNat, (l.ctrl.extractLsb' 34 4).toNat, (l.ctrl.extractLsb' 30 4).toNat]

/-- Row i of A in step j, with its scale (R207, R214). Row m of the identity, and IDX[m], are counted from the position's own first
row, also in a pairing whose positions hold other rows of the large tile: R214 and R223 do not say which (DESIGN CHOICE, log entry
83). -/
def loopA (rd : Nat → Word) (l : Loop) (j i : Nat) : List Int × Option Int :=
  let s := Shape.of l.ha
  if l.gen = 1 then ((List.range 32).map (fun k => if i = 32 * j + k then 1 else 0), some 0)
  else if l.gen = 2 then
    let a := s.sdst + 2 * i
    let x := ((rd (a - a % 4)).extractLsb' (8 * (a % 4)) 16).toNat
    ((List.range 32).map (fun k => if x = 32 * j + k then 1 else 0), some 0)
  else match s.opFmt false with
    | none => (List.replicate 32 0, some 0)
    | some f =>
      let base := s.sdst + j * l.ainc
      ((List.range 32).map (fun k => f.val (recRaw rd f base 96 i k)), recExp rd f base 96 i)

/-- Column i of B in step j, with its scale (R208, R214). -/
def loopB (rd : Nat → Word) (l : Loop) (j i : Nat) : List Int × Option Int :=
  let s := Shape.of l.hb
  if l.gen = 3 then (List.replicate 32 1, some 0)
  else match s.opFmt true with
    | none => (List.replicate 32 0, some 0)
    | some f =>
      let u := recUnits true (s.dimAt 1)
      let base := s.sdst + j * l.binc
      ((List.range 32).map (fun k => f.val (recRaw rd f base u i k)), recExp rd f base u i)

/-- One segment's sum added to an element (R104 to R106, R213). -/
def accumulate (ty : TTy) (s : Int) (ea eb : Option Int) (v : Word) : Word :=
  match ty with
  | .i32 => v + BitVec.ofInt 32 s
  | .i32s => BitVec.ofInt 32 (clampInt (-(2 ^ 31 : Int)) (2 ^ 31 - 1) (v.toInt + s))
  | .f32 =>
    match ea, eb with
    | some a, some b =>
      let x := if s = 0 then 0 else roundBits .f32 .rne (decide (s < 0)) s.natAbs (a + b) false
      BitVec.ofNat 32 (fop .f32 plainCtl .add v.toNat x 0)
    | _, _ => 0x7FC00000

/-- One K-step of a loop (R213). -/
def loopStep (m : Mach) (core : Nat) (l : Loop) : Mach :=
  let rows := (Shape.of l.ha).dimAt 1
  let cols := (Shape.of l.hb).dimAt 1
  let as := (List.range rows).map (loopA (engRead m l.aTid l.aSnap l.step) l l.step)
  let bs := (List.range cols).map (loopB (engRead m l.bTid l.bSnap l.step) l l.step)
  m.modTile core l.tile (fun k =>
    { k.upd rows cols (fun r c v =>
        let a := as.getD r ([], some 0)
        let b := bs.getD c ([], some 0)
        accumulate k.ty ((a.1.zipWith (fun x y => x * y) b.1).foldl (fun s x => s + x) 0) a.2 b.2 v) with dirty := true })

/-- The K-steps that remain, at most n of them. -/
def loopSteps (m : Mach) (core : Nat) (l : Loop) : Nat → Mach × Loop
  | 0 => (m, l)
  | n + 1 => if l.ksteps ≤ l.step then (m, l) else loopSteps (loopStep m core l) core { l with step := l.step + 1 } n

/-- Plane cycles of a loop (R215). -/
def Loop.planes (l : Loop) : Nat :=
  let b := Shape.of l.hb
  let p := if l.gen = 3 then 1 else ((b.opFmt true).map (fun f => f.w)).getD 1
  l.ksteps * ((b.dimAt 1 + 63) / 64) * p

/-! ### Tiles and tokens (R76, R77, R217, R218, R347) -/

/-- The group itself holds the tile's token. -/
def holds (m : Mach) (t : Team) (g : Group) (k : BitVec 2) : Bool :=
  t.acc && (m.tile t.core k).holder == .group t.tid g.gno
/-- The engine holds the token for a loop of the group. -/
def engineFor (m : Mach) (t : Team) (g : Group) (k : BitVec 2) : Bool :=
  t.acc && (m.tile t.core k).holder == .engine t.tid g.gno

/-- A loop is on the tile, queued or running. -/
def loopOn (m : Mach) (core : Nat) (t : BitVec 2) : Bool := (m.core core).loops.any (fun l => l.tile == t)

/-- The loop whose accumulations end next. -/
def endingLoop (k : Core) : Option Loop := k.loops.find? (fun l => l.running && l.planesDone)

/-- The engine is done with a loop: the MWAIT that waits for it takes the token (R77, R215, R218). Until then the token stays
with the engine; with the group gone it goes to nobody (R25). -/
def returnToken (m : Mach) (core : Nat) (l : Loop) : Mach :=
  let r : GRef := { tid := l.tid, gno := l.gno }
  match m.team? l.tid, m.group? r with
  | some t, some g =>
    if !g.live then releaseTokens m core r
    else if g.waits = some (.mwait l.tile) then unparkGroup (m.modTile core l.tile (fun k => { k with holder := .group l.tid l.gno })) r t.ctx
    else m
  | _, _ => releaseToken m core l.tile

/-- A loop completes: all its K-steps, then the token (R213, R215). -/
def finishLoop (m : Mach) (core : Nat) (l : Loop) : Mach :=
  let ctx := ((m.team? l.tid).map (fun t => t.ctx)).getD 0
  let m := (loopSteps m core l (l.ksteps - l.step)).1.count ctx 0x0B l.planes
  returnToken (m.modCore core (fun k => { k with loops := k.loops.filter (fun x => x.lid != l.lid) })) core l

/-- The loop that ends next completes. -/
def completeLoop (m : Mach) (core : Nat) : Mach :=
  match endingLoop (m.core core) with
  | none => m
  | some l => finishLoop m core l

/-- The SACCs that wait on a core are performed, in order, each behind the loops that run (R219, R220). -/
def flushSaccs (m : Mach) (core : Nat) : Mach :=
  let xs := (m.core core).saccs
  if xs.isEmpty then m else
  let m := ((m.core core).loops.filter (fun l => l.running)).foldl (fun m l => finishLoop m core l) m
  xs.foldl (fun m x => freeIfExited (doSacc m core x) core { tid := x.tid, gno := x.gno })
    (m.modCore core (fun k => { k with saccs := [] }))

/-- The scratchpad bytes that a drain, or a PLANE or UNPLANE whose source is read, has still to write. -/
def Work.putBytes (w : Work) : List (Nat × Byte) :=
  match w.kind with
  | .put bs => bs
  | .drain _ o bs => (bs.mapIdx (fun i b => (o + i, b))).filter (fun x => !w.part.contains (0, x.1 - x.1 % 4))
  | _ => []

/-- Completion of a drain to scratchpad: the bytes are written and the dirty flag cleared (R221). -/
def drainDone (m : Mach) (tid : Nat) (w : Work) : Mach :=
  match w.kind, m.team? tid with
  | .drain k _ _, some t =>
    freeIfExited (workDone ((m.setScratchAt tid w.putBytes).modTile t.core k (fun x => { x with dirty := false })) tid w.wid) t.core
      { tid := tid, gno := w.gno }
  | _, _ => m

/-- The earlier tile instructions of a group are performed first (R219): the SACCs that wait, with the loops before them, and
the group's drains to scratchpad. -/
def flushTile (m : Mach) (t : Team) (g : Group) : Mach :=
  let ws := t.works.filter (fun w => match w.kind with
    | .drain _ _ _ => w.gno == g.gno && w.st == .run
    | _ => false)
  ws.foldl (fun m w => drainDone m t.tid w) (flushSaccs m t.core)

/-- MACQ (R217, R347). A MACQ that finds the token free takes it, but where a group of a lower number may still issue one in
this cycle it waits for the cycle's end. -/
def macqOp (k : BitVec 2) : Op :=
  { chk := noChk
    body := groupBody (fun _ m t g _ =>
      if !t.acc then (m, .fail (Fail.whole 0x1C3))
      else if holds m t g k then (m, .done)
      else if engineFor m t g k then (m, .fail (Fail.whole 0x1CD))
      else if (m.tile t.core k).holder = .nobody ∧ (macqWaiters m t.core k).isEmpty ∧ !tokenRival m t.core g.gno then
        (m.modTile t.core k (fun x => { x with holder := .group t.tid g.gno, inuse := true }), .done)
      else (m, .park (.macq k))) }

def mrelOp (k : BitVec 2) : Op :=
  { chk := noChk
    body := groupBody (fun _ m t g _ =>
      if holds m t g k then (releaseToken (flushTile m t g) t.core k, .done) else (m, .fail (Fail.whole 0x1C3))) }

def mzeroOp (ty : TTy) (k : BitVec 2) : Op :=
  { chk := noChk
    body := groupBody (fun _ m t g _ =>
      if holds m t g k then
        ((flushTile m t g).modTile t.core k (fun x => { x with ty := ty, els := [], dirty := false }), .done)
      else (m, .fail (Fail.whole 0x1C3))) }

def mwaitOp (k : BitVec 2) : Op :=
  { chk := noChk
    body := groupBody (fun _ m t g _ =>
      if engineFor m t g k then
        (if loopOn m t.core k then (m, .park (.mwait k))
         else (m.modTile t.core k (fun x => { x with holder := .group t.tid g.gno }), .done))
      else if holds m t g k then (m, .done)
      else (m, .fail (Fail.whole 0x1C3))) }

/-! ### Issue of a loop (R211 to R216, R223, R224, R348) -/

/-- Check 4 of R348 on an operand: R74, its format (R205, R206) and the range of DIM1 (R209). -/
def operandOk (s : Shape) (serial : Bool) : Bool :=
  s.ok (fun _ => true) && s.layout == (if serial then 2 else 1) && (s.opFmt serial).isSome
    && decide (1 ≤ s.dimAt 1 ∧ s.dimAt 1 ≤ (if serial then 192 else 96))

/-- The pairings of R211. A GEN constant counts as an integer format. -/
def pairingOk (gen : Nat) (a b : Option OFmt) (ty : TTy) : Bool :=
  let aq := gen != 1 && gen != 2 && (a.map (fun f => f.kind)) == some .q4
  let af := gen != 1 && gen != 2 && (a.map OFmt.isFloat).getD false
  let bf := gen != 3 && (b.map OFmt.isFloat).getD false
  if af then ty == .f32
  else if aq then !bf && ty != .f32
  else if bf then ty == .f32
  else true

/-- Check 6 of R348: the records read, or the entries of IDX, lie within SPSZ. `sa` and `sb` are the sizes of the
scratchpads that hold them. -/
def recordsFit (l : Loop) (za zb : Nat) : Bool :=
  let a := Shape.of l.ha
  let b := Shape.of l.hb
  let la := (l.ksteps - 1) * l.ainc + ((a.opFmt false).map (fun f => recBytes f false (a.dimAt 1))).getD 0
  let lb := (l.ksteps - 1) * l.binc + ((b.opFmt true).map (fun f => recBytes f true (b.dimAt 1))).getD 0
  (if l.gen = 1 then true else if l.gen = 2 then decide (a.sdst + 2 * a.dimAt 1 ≤ za) else decide (a.sdst + la ≤ za))
    && (l.gen == 3 || decide (b.sdst + lb ≤ zb))

/-- Mesh column and row of a core (R403). -/
def meshAt (core : Nat) : Nat × Nat × Nat := (core / 24, core % 24 % 6, core % 24 / 6)
def adjacent (a b : Nat) : Bool :=
  let x := meshAt a
  let y := meshAt b
  x.1 == y.1 && (x.2.1 - y.2.1) + (y.2.1 - x.2.1) + ((x.2.2 - y.2.2) + (y.2.2 - x.2.2)) == 1
/-- Four cores form a 2×2 square. -/
def isSquare (cs : List Nat) : Bool :=
  let c0 := cs.foldl (fun a c => Nat.min a (meshAt c).2.1) 6
  let r0 := cs.foldl (fun a c => Nat.min a (meshAt c).2.2) 4
  cs.length == 4 && cs.all (fun c => (meshAt c).1 == (meshAt (cs.headD 0)).1)
    && [(0, 0), (1, 0), (0, 1), (1, 1)].all (fun d =>
      cs.any (fun c => (meshAt c).2.1 == c0 + d.1 && (meshAt c).2.2 == r0 + d.2))

/-- The teams at the positions of a pairing, this one at POS; none where check 7 of R348 fails (R223). A peer ordinal below CLSIZE
whose team has retired names no partner, and fails the check too: the spec names no such case (DESIGN CHOICE, log entry 83). -/
def pairTeams (m : Mach) (t : Team) (l : Loop) : Option (List Nat) :=
  let n := if l.pmode = 3 then 4 else 2
  let us := (l.peers.take (n - 1)).map (fun k => if k < m.clSize t then m.clTeam t k else none)
  if n ≤ l.pos ∨ us.any (fun u => u.isNone) then none else
  let us := us.filterMap id
  let all := us.take l.pos ++ [t] ++ us.drop l.pos
  if us.any (fun u => u.core == t.core) then none
  else if (if n = 2 then all.length == 2 && adjacent ((all.map (fun u => u.core)).headD 0) ((all.map (fun u => u.core)).getD 1 0)
      else isSquare (all.map (fun u => u.core))) then some (all.map (fun u => u.tid))
  else none

/-- The loops that hold a place of the engine (R216). -/
def placesHeld (m : Mach) (core : Nat) : Nat := ((m.core core).loops.filter (fun l => !l.planesDone)).length

/-- Queue a loop and pass the token to the engine (R77, R213). -/
def queueLoop (m : Mach) (l : Loop) : Mach :=
  match m.team? l.tid with
  | none => m
  | some t =>
    (m.modCore t.core (fun k => { k with loops := k.loops ++ [l] })).modTile t.core l.tile
        (fun x => { x with holder := .engine l.tid l.gno })

/-- A loop whose checks have passed takes a place, or its group parks until one frees (R216). -/
def placeLoop (m : Mach) (core : Nat) (l : Loop) : Mach × End :=
  if placesHeld m core < 4 then (queueLoop m l, .done) else (m, .park (.engine l))

/-- What a handshake compares (R224): KSTEPS, GEN, PMODE, formats and PLANES, M, N, the tile type, the shared increment. The
kind that STRIDE1 of A gives is part of a format with EFMT 0xF alone (R381). The positions are not compared: where two
partners claim one position, each takes its own operand for it (log entry 60). -/
def descriptor (m : Mach) (l : Loop) : List Nat × TTy :=
  let a := Shape.of l.ha
  let b := Shape.of l.hb
  let core := ((m.team? l.tid).map (fun t => t.core)).getD 0
  ([l.ksteps, l.gen, l.pmode, a.efmt.toNat, a.planes, if a.nib then (a.stride.getD 0 0).natAbs else 0, b.efmt.toNat, b.planes, a.dimAt 1, b.dimAt 1,
    if l.pmode = 1 then 0 else l.ainc, if l.pmode = 2 then 0 else l.binc], (m.tile core l.tile).ty)

/-- The positions that A and B are shared from (R223). -/
def sharedFrom (l : Loop) : Nat × Nat :=
  if l.pmode = 1 then (l.pos, 0) else if l.pmode = 2 then (0, l.pos) else (l.pos / 2 * 2, l.pos % 2)

/-- The loop with the shared operands of its partners. -/
def withShared (ls : List Loop) (l : Loop) : Loop :=
  let at_ := fun (p : Nat) => if l.pos = p then l else (ls.find? (fun x => x.pos == p)).getD l
  let a := at_ (sharedFrom l).1
  let b := at_ (sharedFrom l).2
  { l with ha := a.ha, aTid := a.tid, aSnap := a.aSnap, hb := b.hb, bTid := b.tid, bSnap := b.bSnap, pair := ls.map (fun x => x.lid) }

/-- A partner leaves the handshake: its loop is queued, or its group goes on waiting for a place. -/
def pairJoin (m : Mach) (l : Loop) : Mach :=
  let r : GRef := { tid := l.tid, gno := l.gno }
  match m.team? l.tid with
  | none => m
  | some t =>
    match placeLoop m t.core l with
    | (m, .park p) => m.modGroup r (fun g => if g.status = .suspended then { g with under := some p } else { g with status := .parked p })
    | (m, _) => unparkGroup m r t.ctx

/-- A partner leaves the handshake with a trap. -/
def pairFail (fw : Firmware) (c : Cause) (m : Mach) (l : Loop) : Mach :=
  let r : GRef := { tid := l.tid, gno := l.gno }
  match m.group? r with
  | none => m
  | some g => takeStop fw (m.modGroup r Group.leaveWait) l.tid { Stop.trap c g g.npc with own := true }

/-- The handshakes in which team `o` waits for team `tid`, oldest first. -/
def waitsFor (m : Mach) (o tid : Nat) : List Pairing :=
  m.pairings.filter (fun p => p.loop.tid == o && (match m.team? o with
    | some u => ((pairTeams m u p.loop).getD []).contains tid
        && (u.group? p.loop.gno).any (fun g => g.waits == some (.pairing p.loop.tile))
    | none => false))

/-- The wait of partner team `o` that goes with loop `l`: the first waits of two teams for each other go together, then the
second ones, and so on. R224 does not say which of several waiting MLOOPs of a team a partner meets (DESIGN CHOICE, log entry
70). -/
def partnerWait (m : Mach) (l : Loop) (o : Nat) : Option Pairing :=
  (waitsFor m o l.tid)[((waitsFor m l.tid o).takeWhile (fun p => p.loop.lid != l.lid)).length]?

/-- The partners of a loop that wait for it; none while one has not arrived. -/
def arrivedPartners (m : Mach) (l : Loop) (others : List Nat) : Option (List Loop) :=
  others.foldl (fun r o =>
    match r, partnerWait m l o with
    | some ls, some p => some (ls ++ [p.loop])
    | _, _ => none) (some [])

/-- The handshake as a partner arrives (R224): the first partners wait; the last brings the comparison. -/
def handshake (fw : Firmware) (m : Mach) (t : Team) (l : Loop) : Mach × End :=
  match arrivedPartners m l (((pairTeams m t l).getD []).filter (fun x => x != l.tid)) with
  | none => ({ m with pairings := m.pairings ++ [{ loop := l, elapsed := 0 }] }, .park (.pairing l.tile))
  | some ps =>
    let all := ps ++ [l]
    let m := { m with pairings := m.pairings.filter (fun p => !ps.contains p.loop) }
    if ps.all (fun x => descriptor m x == descriptor m l) then
      placeLoop ((ps.map (withShared all)).foldl pairJoin m) t.core (withShared all l)
    else (ps.foldl (pairFail fw 0x1D0) m, .fail (Fail.whole 0x1D0))

/-- The checks of R348. POS of a loop with PMODE single is ignored, as its PEERS are: R212 says that it is 0 and names no trap
(DESIGN CHOICE, log entry 70). -/
def mloopFail (m : Mach) (t : Team) (g : Group) (l : Loop) : Option Cause :=
  let a := Shape.of l.ha
  let b := Shape.of l.hb
  if !holds m t g l.tile then some 0x1C3
  else if l.ctrl.extractLsb' 28 2 ≠ 0 then some 0x41
  else if l.ksteps = 0 then some 0x1CC
  else if !operandOk a false || !operandOk b true then some 0x1C2
  else if !pairingOk l.gen (a.opFmt false) (b.opFmt true) (m.tile t.core l.tile).ty then some 0x1CB
  else if !recordsFit l t.spsz t.spsz then some 0xC2
  else if l.pmode ≠ 0 ∧ (pairTeams m t l).isNone then some 0x1CF
  else none

def mloopOp (k : BitVec 2) (ha hb : BitVec 4) (a : Opnd) : Op :=
  { chk := fun t _ _ => checkWants t.valloc [wEng a]
    body := groupBody (fun fw m t g _ =>
      let l : Loop := { lid := m.nextWid, tid := t.tid, gno := g.gno, tile := k, ha := readH g ha.toNat m.draw 1
                        hb := readH g hb.toNat m.draw 2, aTid := t.tid, bTid := t.tid, aSnap := [], bSnap := []
                        ctrl := engVal g m.draw 0 a, step := 0, running := false, planesDone := false }
      match mloopFail m t g l with
      | some c => (m, .fail (Fail.whole c))
      | none =>
        let m := flushTile { m with nextWid := m.nextWid + 1 } t g
        let snap := ((m.team? t.tid).map (fun t => t.scratch)).getD []
        let l : Loop := { l with aSnap := snap, bSnap := snap }
        if l.pmode = 0 then placeLoop m t.core l
        else handshake fw m t l) }

/-! ### The engine (R215, R216) -/

/-- The loop that may read its first plane: the first that does not run, once every earlier one has read its last. -/
def startable (k : Core) : Option Loop :=
  match k.loops.find? (fun l => !l.planesDone) with
  | some l => if l.running then none else some l
  | none => none
def setLoop (k : Core) (l : Loop) : Core := { k with loops := k.loops.map (fun x => if x.lid == l.lid then l else x) }

/-- The groups of a core that wait for a place, with their loops and the time they parked. -/
def placeWaiters (m : Mach) (core : Nat) : List (Loop × Nat) :=
  (m.teams.filter (fun t => t.core == core)).flatMap (fun t => t.groups.filterMap (fun g => match g.waits with
    | some (.engine l) => some (l, g.since)
    | _ => none))

/-- The queues of the engines of a pairing have all reached their loop of it (R224). -/
def pairReady (m : Mach) (l : Loop) : Bool :=
  l.pair.all (fun n => m.cores.all (fun k => k.loops.all (fun x => x.lid != n || x.running || startable k == some x)))
    && !(m.teams.map (fun t => t.core)).any (fun c => (placeWaiters m c).any (fun x => l.pair.contains x.1.lid))

/-- A loop starts, and with it the loops of its pairing, at one cycle (R224). -/
def startLoop (m : Mach) (core : Nat) : Mach :=
  match startable (m.core core) with
  | some l =>
    if pairReady m l then
      { m with cores := m.cores.map (fun k => { k with loops := k.loops.map (fun x =>
          if x.lid == l.lid || l.pair.contains x.lid then { x with running := true } else x) }) }
    else m
  | none => m

/-- The loop that is reading planes. -/
def readingLoop (k : Core) : Option Loop := k.loops.find? (fun l => l.running && !l.planesDone)

/-- A place frees, and the group that has waited longest takes it (R216). -/
def freePlace (m : Mach) (core : Nat) : Mach :=
  match readingLoop (m.core core) with
  | none => m
  | some l =>
    let m := m.modCore core (fun k => setLoop k { l with planesDone := true })
    match placeWaiters m core with
    | [] => m
    | w :: ws =>
      let x := ws.foldl (fun a b => if b.2 < a.2 ∨ (b.2 = a.2 ∧ b.1.gno < a.1.gno) then b else a) w
      unparkGroup (queueLoop m x.1) { tid := x.1.tid, gno := x.1.gno } (((m.team? x.1.tid).map (fun t => t.ctx)).getD 0)

/-! ### Loading and draining (R219, R221, R349) -/

/-- The formats that a tile takes and gives (R219, R221). -/
def tileFmtOk (ty : TTy) (fmt : BitVec 4) : Bool :=
  match ty with
  | .f32 => fmt == 3 || fmt == 7 || fmt == 8
  | .i32 | .i32s => fmt == 1

def fmtBytes (fmt : BitVec 4) : Nat := if fmt = 7 ∨ fmt = 8 then 2 else 4

/-- An element from a source format, exactly. -/
def toTile (fmt : BitVec 4) (v : Nat) : Word :=
  BitVec.ofNat 32 (if fmt = 7 then cvtFF .f16 .f32 plainCtl (v % 65536)
    else if fmt = 8 then cvtFF .bf16 .f32 plainCtl (v % 65536) else v)
/-- An element to a destination format with RNE. -/
def fromTile (fmt : BitVec 4) (v : Word) : Nat :=
  if fmt = 7 then cvtFF .f32 .f16 plainCtl v.toNat else if fmt = 8 then cvtFF .f32 .bf16 plainCtl v.toNat else v.toNat

/-- Rows and columns that a scratchpad form moves. -/
def Shape.tileBox (s : Shape) : Nat × Nat := (s.boxAt 1, s.boxAt 0)
/-- Element e of the scratchpad form, in address order, as (row, column). -/
def Shape.tileCell (s : Shape) (e : Nat) : Nat × Nat :=
  if s.layout = 3 then (e % s.boxAt 1, e / s.boxAt 1) else (e / s.boxAt 0, e % s.boxAt 0)

/-- The checks of a scratchpad form (R349). -/
def tileShapeFail (t : Team) (ty : TTy) (s : Shape) : Option Cause :=
  if !s.ok (tileFmtOk ty) || (s.layout != 0 && s.layout != 3) || decide (2 < s.rank ∨ 192 < s.boxAt 0 ∨ 96 < s.boxAt 1) then some 0x1C2
  else if t.spsz < s.sdst + s.boxAt 0 * s.boxAt 1 * fmtBytes s.efmt then some 0xC2
  else none

/-- The fields of the register form's word: format, count, column and row origin (R349). -/
structure RegForm where
  fmt : BitVec 4
  cnt : Nat
  col : Nat
  row : Nat

def RegForm.of (a : DWord) : RegForm :=
  { fmt := a.extractLsb' 24 4, cnt := (a.extractLsb' 16 5).toNat + 1, col := (a.extractLsb' 8 8).toNat, row := (a.extractLsb' 0 8).toNat }

/-- The register range of a register form, checked with the pair and range checks (R64, R241). -/
def regFormChk (d a : Opnd) : Team → Group → Nat → Option Cause :=
  fun t g draw => checkWants t.valloc [{ o := d, ok := d.isV, span := (RegForm.of (engVal g draw 0 a)).cnt, pair := false }, wEng a]

/-- The checks of a register form on its word. Where the columns pass the tile the cause is register-bound (R219). -/
def regFormFail (ty : TTy) (a : DWord) : Option Cause :=
  let f := RegForm.of a
  if a.extractLsb' 28 36 ≠ 0 ∨ a.extractLsb' 21 3 ≠ 0 then some 0x41
  else if !tileFmtOk ty f.fmt then some 0x1C2
  else if 191 < f.col ∨ !(f.row == 0 || f.row == 32 || f.row == 64) then some 0x47
  else if 192 < f.col + f.cnt then some 0x46
  else none

/-- The histogram bin of an element (R107). -/
def histBin (ty : TTy) (c : Int) (v : Word) : Nat :=
  let bin := fun (e : Int) => (min 30 (max 1 (e - c + 15))).toNat
  match ty with
  | .f32 =>
    let ex := (v.extractLsb' 23 8).toNat
    if ex = 255 then 31 else if ex = 0 then 0 else bin ((ex : Int) - 127)
  | .i32 | .i32s => if v = 0 then 0 else bin ((Nat.log2 v.toInt.natAbs : Nat))

/-- Count one element (R108). -/
def Hist.add (h : Hist) (b : Nat) : Hist :=
  if h.ctr.getD b 0 = 0xFFFFFFFF then { h with ovf := true } else { h with ctr := h.ctr.modify b (fun x => x + 1) }

/-- The histogram that EXT of a drain names (R349). -/
def histOf (h : Hd) : Option Nat := if h.ext.getLsbD 3 then some (h.ext.extractLsb' 0 3).toNat else none

/-- Count drained elements, before narrowing. -/
def histCount (m : Mach) (tid : Nat) (k : Option Nat) (ty : TTy) (vs : List Word) : Mach :=
  match k with
  | none => m
  | some k => m.modTeam tid (fun t => { t with hists := t.hists.modify k (fun h =>
      vs.foldl (fun h v => h.add (histBin ty h.centre.toInt v)) h) })

def histBad (t : Team) (k : Option Nat) : Bool := match k with
  | some k => decide (t.hists.length ≤ k)
  | none => false

def mldaSpOp (k : BitVec 2) (ha : BitVec 4) : Op :=
  { chk := noChk
    body := groupBody (fun _ m t g _ =>
      let s := Shape.of (readH g ha.toNat m.draw 1)
      if !holds m t g k then (m, .fail (Fail.whole 0x1C3)) else
      match tileShapeFail t (m.tile t.core k).ty s with
      | some c => (m, .fail (Fail.whole c))
      | none =>
        let m := flushTile m t g
        let z := fmtBytes s.efmt
        let sc := ((m.team? t.tid).map (fun t => t.scratch)).getD []
        (m.modTile t.core k (fun x =>
          { (List.range (s.boxAt 0 * s.boxAt 1)).foldl (fun x e =>
              x.put (s.tileCell e).1 (s.tileCell e).2 (toTile s.efmt (ofLe (Memory.bytes sc (s.sdst + z * e) z)))) x with dirty := true }),
         .done)) }

/-- MLDA from registers reads the 32 lanes of each register, whatever act(G) holds (R219); the elements of lanes that are
not present are loaded too, with what those lanes hold (log entry 61). -/
def mldaRegOp (k : BitVec 2) (d a : Opnd) : Op :=
  { chk := regFormChk d a
    body := groupBody (fun _ m t g _ =>
      let v := engVal g m.draw 0 a
      let f := RegForm.of v
      if !holds m t g k then (m, .fail (Fail.whole 0x1C3)) else
      match regFormFail (m.tile t.core k).ty v with
      | some c => (m, .fail (Fail.whole c))
      | none =>
        let draw := m.draw
        let m := flushTile m t g
        (m.modTile t.core k (fun x =>
          { (List.range f.cnt).foldl (fun x i => (List.range 32).foldl (fun x l =>
              x.put (f.row + l) (f.col + i) (toTile f.fmt (readVLane g ((d.vnum?).getD 0 + i) l draw i).toNat)) x) x with dirty := true }),
         .done)) }

def mdrainSpOp (h : Hd) (k : BitVec 2) (ha : BitVec 4) : Op :=
  { chk := noChk
    body := groupBody (fun _ m t g _ =>
      let s := Shape.of (readH g ha.toNat m.draw 1)
      if !holds m t g k then (m, .fail (Fail.whole 0x1C3)) else
      match tileShapeFail t (m.tile t.core k).ty s with
      | some c => (m, .fail (Fail.whole c))
      | none =>
        if histBad t (histOf h) then (m, .fail (Fail.whole 0x1D2)) else
        if 64 ≤ g.openCnt then (m, .fail (Fail.whole 0x1C0)) else
        let m := flushTile m t g
        let x := m.tile t.core k
        let vs := (List.range (s.boxAt 0 * s.boxAt 1)).map (fun e => x.get (s.tileCell e).1 (s.tileCell e).2)
        let m := histCount m t.tid (histOf h) x.ty vs
        enterWork m t g (.drain k s.sdst (vs.flatMap (fun v => leBytes (fmtBytes s.efmt) (fromTile s.efmt v))))) }

/-- MDRAIN to registers drains and counts the elements of all 32 rows of each column (R107, R221), and writes the lanes that
are present (R349; log entry 61). The tile's dirty flag is cleared as it issues, when the tile has been read, though its results
are still outstanding: R221 does not say when such a drain completes for the flag (DESIGN CHOICE, log entry 83). -/
def mdrainRegOp (h : Hd) (k : BitVec 2) (d a : Opnd) : Op :=
  { chk := regFormChk d a
    body := groupBody (fun _ m t g _ =>
      let v := engVal g m.draw 0 a
      let f := RegForm.of v
      if !holds m t g k then (m, .fail (Fail.whole 0x1C3)) else
      match regFormFail (m.tile t.core k).ty v with
      | some c => (m, .fail (Fail.whole c))
      | none =>
        if histBad t (histOf h) then (m, .fail (Fail.whole 0x1D2)) else
        let m := flushTile m t g
        let x := m.tile t.core k
        let n := (d.vnum?).getD 0
        let vs := (List.range f.cnt).flatMap (fun i => (List.range 32).map (fun l => x.get (f.row + l) (f.col + i)))
        let m := histCount m t.tid (histOf h) x.ty vs
        let m := m.modGroup (t.gref g) (fun g =>
          g.produceMem ((List.range f.cnt).map (fun i => .v (n + i))) (fun r =>
            (List.range f.cnt).foldl (fun r i => r.setV g.present g.present g.present (n + i) f.fmt (fun l =>
              BitVec.ofNat 32 (fromTile f.fmt (x.get (f.row + l) (f.col + i))))) r))
        (m.modTile t.core k (fun x => { x with dirty := false }), .done)) }

/-! ### SACC (R220, R350) -/

def saccOp (k : BitVec 2) (b a : Opnd) (d : Option Opnd) : Op :=
  { chk := fun t _ _ => checkWants t.valloc (wOne b (match b with
      | .a _ => true
      | _ => false) :: wEng a :: d.toList.map wEng)
    body := groupBody (fun _ m t g _ =>
      let src : BitVec 2 := match b with
        | .a n => n
        | _ => 0
      let rs := (engVal g m.draw 0 a).toNat
      let cs := d.map (fun d => (engVal g m.draw 1 d).toNat)
      if !holds m t g k || !holds m t g src then (m, .fail (Fail.whole 0x1C3))
      else if (m.tile t.core k).ty ≠ .f32 ∨ (m.tile t.core src).ty = .f32 ∨ src = k then (m, .fail (Fail.whole 0x1CB))
      else if rs % 4 ≠ 0 ∨ (cs.getD 0) % 4 ≠ 0 then (m, .fail (Fail.whole 0xC1))
      else if decide (t.spsz < rs + 384) || (match cs with
          | some c => decide (t.spsz < c + 768)
          | none => false) then (m, .fail (Fail.whole 0xC2))
      else
        let m := flushTile m t g
        let x : Sacc := { tid := t.tid, gno := g.gno, dst := k, src := src, rs := rs, cs := cs
                          snap := ((m.team? t.tid).map (fun t => t.scratch)).getD [] }
        ((m.modCore t.core (fun c => { c with saccs := c.saccs ++ [x] })).modTile t.core k (fun y => { y with dirty := true }), .done)) }

/-! ### PLANE and UNPLANE (R209, R210, R351) -/

/-- The dense side: the byte of row r, element k. -/
def Shape.denseAt (s : Shape) (r k : Nat) : Nat :=
  ((s.sdst : Int) + r * s.stride.getD 0 0).toNat + (if s.nib then k / 2 else k * s.size)

/-- The dense rows lie within SPSZ (R110). -/
def Shape.denseFits (s : Shape) (spsz : Nat) : Bool :=
  let far := ((s.dimAt 1 - 1 : Nat) : Int) * s.stride.getD 0 0
  let top := fun (x : Int) => (s.sdst : Int) + (if 0 < x then x else 0) + s.dimBytes
  decide (0 ≤ (s.sdst : Int) + (if far < 0 then far else 0) ∧ top far ≤ spsz)

/-- The source formats that PLANE accepts for a target (R209). -/
def planeSrcOk (serial : Bool) (f : OFmt) (src dst : BitVec 4) : Bool :=
  if f.isFloat then src == dst || src == 3
  else if serial && dst != 15 then src == 9 || src == 10 || src == 13 || src == 14
  else src == dst

/-- The destination formats that UNPLANE accepts for records (R210). -/
def unplaneDstOk (f : OFmt) (src dst : BitVec 4) : Bool :=
  if f.isFloat then dst == 3 || dst == 7 || dst == 8 || dst == 11 || dst == 12
  else if src = 15 then dst == 15
  else dst == 1 || dst == 2 || dst == 9 || dst == 10 || dst == 13 || dst == 14

/-- The checks of PLANE (un = false) and UNPLANE: `d` is the dense shape, `r` the records' shape. -/
def planeFail (un : Bool) (spsz : Nat) (d r : Shape) : Option Cause :=
  let serial := r.layout == 2
  if !d.ok (fun _ => true) || d.layout != 0 || !(r.layout == 1 || r.layout == 2) || !operandOk r serial || d.dimAt 1 != r.dimAt 1
    || (un && d.dimAt 0 != r.dimAt 0) then some 0x1C2
  else match r.opFmt serial with
    | none => some 0x1C2
    | some f =>
      if !(if un then unplaneDstOk f r.efmt d.efmt else planeSrcOk serial f d.efmt r.efmt) then some 0x1C2
      else if !d.denseFits spsz || decide (spsz < r.sdst + (d.dimAt 0 + 31) / 32 * recBytes f serial (r.dimAt 1)) then some 0xC2
      else none

/-- A segment of a float operand: its exponent byte and its q (R103, R104). -/
def blockFixed (f : Fmt) (w : Nat) (vs : List Nat) : Byte × List Int :=
  let ds := vs.map (FV.dec f)
  if ds.any (fun x => match x with
      | .nan _ _ | .inf _ => true
      | _ => false) then (0x80, vs.map (fun _ => 0)) else
  let ex := fun (x : FV) => match x with
    | .fin _ m e => max f.emin (e + (bitLen m : Int) - 1)
    | _ => f.emin
  let e := ds.foldl (fun a x => max a (ex x)) f.emin
  (BitVec.ofInt 8 e, ds.map (fun x => match x with
    | .fin n m k => roundInt .rne n m (k + ((w : Int) - 2) - e)
    | _ => 0))

/-- The value of a dense element as the records hold it. -/
def denseElem (sc : List Host.Cell) (d : Shape) (r k : Nat) : Nat :=
  let a := d.denseAt r k
  if d.nib then ((Memory.get sc a).toNat / (if k % 2 = 0 then 1 else 16)) % 16 else ofLe (Memory.bytes sc a d.size)

/-- One segment of one row: its exponent byte and the integers of its planes (R209, R381). -/
def planeSeg (f : OFmt) (serial : Bool) (d : Shape) (vs : List Nat) : Byte × List Int :=
  match f.kind with
  | .flt x => blockFixed x f.w (if d.efmt = 3 then vs.map (cvtFF .f32 x plainCtl) else vs)
  | .q4 => (0, vs.map Int.ofNat)
  | .sint | .uint =>
    let sg := d.efmt == 9 || d.efmt == 13 || d.efmt == 15
    let raw := vs.map (fun v => if d.nib then (if f.w = 1 then ((v % 2 : Nat) : Int) else intOf true 4 v) else intOf sg (8 * d.size) v)
    (0, if serial then raw.map (clampInt (if f.kind = .sint then -(2 ^ (f.w - 1) : Nat) else 0)
        (if f.kind = .sint then (2 ^ (f.w - 1) : Nat) - 1 else (2 ^ f.w : Nat) - 1)) else raw)

/-- The bytes of record j (R207, R208). -/
def planeRecord (sc : List Host.Cell) (d r : Shape) (f : OFmt) (j : Nat) : List Byte :=
  let serial := r.layout == 2
  let n := r.dimAt 1
  let u := recUnits serial n
  let segs := (List.range n).map (fun i => planeSeg f serial d ((List.range 32).map (fun k =>
    if 32 * j + k < d.dimAt 0 then denseElem sc d i (32 * j + k) else 0)))
  let planes := (List.range f.w).flatMap (fun b => (List.range u).flatMap (fun i =>
    leBytes 4 ((segs.getD i (0, [])).2.mapIdx (fun k q => if (wrapTo f.w q).testBit b then 2 ^ k else 0)).sum))
  let exps := if f.isFloat then (List.range (if serial then u else 128)).map (fun i => (segs.getD i (0, [])).1) else []
  planes ++ exps

/-- One element that UNPLANE writes (R210). -/
def unplaneElem (f : OFmt) (d : BitVec 4) (raw : Nat) (e : Option Int) : Nat :=
  let ty := tyOfTag d
  match ty.fmt? with
  | some x =>
    (match e with
     | none => defaultNan x
     | some e =>
       let q := f.plain raw
       if q = 0 then 0 else roundBits x .rne (decide (q < 0)) q.natAbs e false)
  | none =>
    if d = 15 then raw else
    let w := 8 * ty.bytes
    let sg := d == 1 || d == 9 || d == 13
    wrapTo w (clampInt (if sg then -(2 ^ (w - 1) : Nat) else 0) (if sg then (2 ^ (w - 1) : Nat) - 1 else (2 ^ w : Nat) - 1) (f.plain raw))

/-- Write one dense element. -/
def putElem (sc : List Host.Cell) (d : Shape) (r k v : Nat) : List Host.Cell :=
  let a := d.denseAt r k
  if d.nib then
    let o := (Memory.get sc a).toNat
    Memory.set sc a (BitVec.ofNat 8 (if k % 2 = 0 then o / 16 * 16 + v % 16 else v % 16 * 16 + o % 16))
  else Memory.setBytes sc a (leBytes d.size v)

/-- What PLANE and UNPLANE do to the scratchpad. A source that overlaps the destination is read whole before anything is
written: R141 speaks of copies, and no rule of PLANE (DESIGN CHOICE, log entry 69). -/
def planeApply (un : Bool) (d r : Shape) (sc : List Host.Cell) : List Host.Cell :=
  let serial := r.layout == 2
  match r.opFmt serial with
  | none => sc
  | some f =>
    let z := recBytes f serial (r.dimAt 1)
    let u := recUnits serial (r.dimAt 1)
    if un then
      (List.range (r.dimAt 1)).foldl (fun o i => (List.range (d.dimAt 0)).foldl (fun o k =>
        let base := r.sdst + k / 32 * z
        putElem o d i k (unplaneElem f d.efmt (recRaw (Memory.word sc) f base u i (k % 32)) (recExp (Memory.word sc) f base u i))) o) sc
    else (List.range ((d.dimAt 0 + 31) / 32)).foldl (fun o j => Memory.setBytes o (r.sdst + j * z) (planeRecord sc d r f j)) sc

def planeOp (un : Bool) (ha hb : BitVec 4) : Op :=
  { chk := noChk
    body := groupBody (fun _ m t g _ =>
      let a := readH g ha.toNat m.draw 1
      let b := readH g hb.toNat m.draw 2
      match planeFail un t.spsz (Shape.of (if un then b else a)) (Shape.of (if un then a else b)) with
      | some c => (m, .fail (Fail.whole c))
      | none => enterWork m t g (.plane un a b)) }

/-- The scratchpad bytes that PLANE and UNPLANE write. -/
def planeWrites (un : Bool) (d r : Shape) : List Nat :=
  match r.opFmt (r.layout == 2) with
  | none => []
  | some f =>
    if un then
      (List.range (d.dimAt 1)).flatMap (fun i => (List.range (d.dimAt 0)).flatMap (fun k =>
        (List.range (if d.nib then 1 else d.size)).map (fun b => d.denseAt i k + b)))
    else (List.range ((d.dimAt 0 + 31) / 32 * recBytes f (r.layout == 2) (r.dimAt 1))).map (fun i => r.sdst + i)

/-- The bytes that a PLANE or UNPLANE writes, of the scratchpad as it reads it. -/
def planeBytes (m : Mach) (tid : Nat) (un : Bool) (a b : BitVec 512) : List (Nat × Byte) :=
  let d := Shape.of (if un then b else a)
  let r := Shape.of (if un then a else b)
  let sc := planeApply un d r (((m.team? tid).map (fun t => t.scratch)).getD [])
  (planeWrites un d r).map (fun x => (x, Memory.get sc x))

/-- The source of a PLANE or UNPLANE is read: what it gives for the destination, and what its group sees of the stores to the
source once it has waited for the batch (R167). -/
def planeRead (m : Mach) (tid : Nat) (w : Work) (un : Bool) (a b : BitVec 512) : List (Nat × Byte) × Mach :=
  let rd := planeWrites (!un) (Shape.of (if un then b else a)) (Shape.of (if un then a else b))
  (planeBytes m tid un a b, engSaw m tid w (fun o => rd.any (fun x => x - x % 4 == o)))

/-- PLANE, UNPLANE and a drain complete (R137, R209, R210, R221). -/
def planeWorkDone (m : Mach) (tid : Nat) (w : Work) : Mach :=
  match w.kind with
  | .plane un a b => match planeRead m tid w un a b with
    | (bs, m) => workDone (m.setScratchAt tid bs) tid w.wid
  | .put bs => workDone (m.setScratchAt tid bs) tid w.wid
  | _ => drainDone m tid w

/-! ### Histograms (R222, R352) -/

def hclrOp (k : BitVec 3) (a : Opnd) : Op :=
  { chk := fun t _ _ => checkWants t.valloc [wEng a]
    body := groupBody (fun _ m t g _ =>
      let c := (engVal g m.draw 0 a).extractLsb' 0 8
      if t.hists.length ≤ k.toNat then (m, .fail (Fail.whole 0x1D2)) else
      (m.modTeam t.tid (fun t : Team => { t with hists := t.hists.set k.toNat { ctr := List.replicate 32 0, centre := c, ovf := false } }), .done)) }

def hrdOp (d : Opnd) (k : BitVec 3) (a : Opnd) : Op :=
  { chk := fun t _ _ => checkWants t.valloc [wSd d, wEng a]
    body := groupBody (fun _ m t g mb =>
      let i := (engVal g m.draw 0 a).toNat
      match t.hists[k.toNat]? with
      | none => (m, .fail (Fail.whole 0x1D2))
      | some h =>
        if 32 < i then (m, .fail (Fail.whole 0x1D2)) else
        let v : DWord := if i = 32 then (bit 64 h.ovf <<< 8) ||| h.centre.setWidth 64 else (h.ctr.getD i 0).setWidth 64
        (m.modGroup (t.gref g) (fun g => g.produce (d.ids false) (putVal g.present mb d false 6 (fun _ => v))), .done)) }

/-! ### The instructions -/

/-- MACQ, R347. -/
def opMacq (h : Hd) (t : BitVec 2) : Op := macqOp t
/-- MACQ, R347. -/
def execMacq (h : Hd) (t : BitVec 2) (s : State) : Host.Outcome State Fault Refusal :=
  issue s h (.macq h t) (opMacq h t)

/-- MREL, R347. -/
def opMrel (h : Hd) (t : BitVec 2) : Op := mrelOp t
/-- MREL, R347. -/
def execMrel (h : Hd) (t : BitVec 2) (s : State) : Host.Outcome State Fault Refusal :=
  issue s h (.mrel h t) (opMrel h t)

/-- MZERO_F32, R347. -/
def opMzeroF32 (h : Hd) (t : BitVec 2) : Op := mzeroOp .f32 t
/-- MZERO_F32, R347. -/
def execMzeroF32 (h : Hd) (t : BitVec 2) (s : State) : Host.Outcome State Fault Refusal :=
  issue s h (.mzeroF32 h t) (opMzeroF32 h t)

/-- MZERO_I32, R347. -/
def opMzeroI32 (h : Hd) (t : BitVec 2) : Op := mzeroOp .i32 t
/-- MZERO_I32, R347. -/
def execMzeroI32 (h : Hd) (t : BitVec 2) (s : State) : Host.Outcome State Fault Refusal :=
  issue s h (.mzeroI32 h t) (opMzeroI32 h t)

/-- MZERO_I32S, R347. -/
def opMzeroI32s (h : Hd) (t : BitVec 2) : Op := mzeroOp .i32s t
/-- MZERO_I32S, R347. -/
def execMzeroI32s (h : Hd) (t : BitVec 2) (s : State) : Host.Outcome State Fault Refusal :=
  issue s h (.mzeroI32s h t) (opMzeroI32s h t)

/-- MWAIT, R347. -/
def opMwait (h : Hd) (t : BitVec 2) : Op := mwaitOp t
/-- MWAIT, R347. -/
def execMwait (h : Hd) (t : BitVec 2) (s : State) : Host.Outcome State Fault Refusal :=
  issue s h (.mwait h t) (opMwait h t)

/-- MLOOP, R348. -/
def opMloop (h : Hd) (t : BitVec 2) (ha hb : BitVec 4) (a : Opnd) : Op := mloopOp t ha hb a
/-- MLOOP, R348. -/
def execMloop (h : Hd) (t : BitVec 2) (ha hb : BitVec 4) (a : Opnd) (s : State) : Host.Outcome State Fault Refusal :=
  issue s h (.mloop h t ha hb a) (opMloop h t ha hb a)

/-- MLDA_SP, R349. -/
def opMldaSp (h : Hd) (t : BitVec 2) (ha : BitVec 4) : Op := mldaSpOp t ha
/-- MLDA_SP, R349. -/
def execMldaSp (h : Hd) (t : BitVec 2) (ha : BitVec 4) (s : State) : Host.Outcome State Fault Refusal :=
  issue s h (.mldaSp h t ha) (opMldaSp h t ha)

/-- MLDA_REG, R349. -/
def opMldaReg (h : Hd) (t : BitVec 2) (d a : Opnd) : Op := mldaRegOp t d a
/-- MLDA_REG, R349. -/
def execMldaReg (h : Hd) (t : BitVec 2) (d a : Opnd) (s : State) : Host.Outcome State Fault Refusal :=
  issue s h (.mldaReg h t d a) (opMldaReg h t d a)

/-- MDRAIN_SP, R349. -/
def opMdrainSp (h : Hd) (t : BitVec 2) (ha : BitVec 4) : Op := mdrainSpOp h t ha
/-- MDRAIN_SP, R349. -/
def execMdrainSp (h : Hd) (t : BitVec 2) (ha : BitVec 4) (s : State) : Host.Outcome State Fault Refusal :=
  issue s h (.mdrainSp h t ha) (opMdrainSp h t ha)

/-- MDRAIN_REG, R349. -/
def opMdrainReg (h : Hd) (t : BitVec 2) (d a : Opnd) : Op := mdrainRegOp h t d a
/-- MDRAIN_REG, R349. -/
def execMdrainReg (h : Hd) (t : BitVec 2) (d a : Opnd) (s : State) : Host.Outcome State Fault Refusal :=
  issue s h (.mdrainReg h t d a) (opMdrainReg h t d a)

/-- SACC_R, R350. -/
def opSaccR (h : Hd) (t : BitVec 2) (a b : Opnd) : Op := saccOp t b a none
/-- SACC_R, R350. -/
def execSaccR (h : Hd) (t : BitVec 2) (a b : Opnd) (s : State) : Host.Outcome State Fault Refusal :=
  issue s h (.saccR h t a b) (opSaccR h t a b)

/-- SACC_RC, R350. -/
def opSaccRc (h : Hd) (t : BitVec 2) (d a b : Opnd) : Op := saccOp t b a (some d)
/-- SACC_RC, R350. -/
def execSaccRc (h : Hd) (t : BitVec 2) (d a b : Opnd) (s : State) : Host.Outcome State Fault Refusal :=
  issue s h (.saccRc h t d a b) (opSaccRc h t d a b)

/-- PLANE, R351. -/
def opPlane (h : Hd) (ha hb : BitVec 4) : Op := planeOp false ha hb
/-- PLANE, R351. -/
def execPlane (h : Hd) (ha hb : BitVec 4) (s : State) : Host.Outcome State Fault Refusal :=
  issue s h (.plane h ha hb) (opPlane h ha hb)

/-- UNPLANE, R351. -/
def opUnplane (h : Hd) (ha hb : BitVec 4) : Op := planeOp true ha hb
/-- UNPLANE, R351. -/
def execUnplane (h : Hd) (ha hb : BitVec 4) (s : State) : Host.Outcome State Fault Refusal :=
  issue s h (.unplane h ha hb) (opUnplane h ha hb)

/-- HCLR, R352. -/
def opHclr (h : Hd) (k : BitVec 3) (a : Opnd) : Op := hclrOp k a
/-- HCLR, R352. -/
def execHclr (h : Hd) (k : BitVec 3) (a : Opnd) (s : State) : Host.Outcome State Fault Refusal :=
  issue s h (.hclr h k a) (opHclr h k a)

/-- HRD, R352. -/
def opHrd (h : Hd) (d : Opnd) (k : BitVec 3) (a : Opnd) : Op := hrdOp d k a
/-- HRD, R352. -/
def execHrd (h : Hd) (d : Opnd) (k : BitVec 3) (a : Opnd) (s : State) : Host.Outcome State Fault Refusal :=
  issue s h (.hrd h d k a) (opHrd h d k a)

end Sys2Proof.Machine
end

