-- ==== Sys2Proof/Machine/Sync.lean ====
section
/-! DEFINITION. Machine/Sync.lean: barriers (R149, R150, R340 to R343), set declaration (R29, R344) and shape registers
(R71, R72, R345, R346). -/
namespace Sys2Proof.Machine

/-! ### Barriers -/

/-- What ARRIVE meets (R341): the barrier's number, a broken barrier, an overrun. A barrier that is broken and at its target gives
barrier-broken: the rule does not order the two (DESIGN CHOICE, log entry 84). -/
def arriveFail (t : Team) (b : BitVec 7) : Option Cause :=
  if barBad t (some b) then some 0x189
  else if (t.bar b.toNat).broken then some 0x1CA
  else if (t.bar b.toNat).cnt = (t.bar b.toNat).tgt then some 0x18A
  else none

/-- ARRIVE (R341); an ordered one completes its release before it counts (R342). -/
def doArrive (fw : Firmware) (m : Mach) (t : Team) (g : Group) (b : Nat) (ord : Option MScope) : Mach :=
  let m := match ord with
    | some sc => markLater (releaseBy (settle m (t.gref g)) (t.gref g) t.core sc) (t.gref g) (.barrier b)
    | none => dropLater m (t.gref g) (.barrier b)
  let m := m.modTeam t.tid (fun t => t.modBar b (fun k => { k with cnt := k.cnt + 1 }))
  let m := m.modGroup (t.gref g) (fun g => { g with wph := putAt false g.wph b (t.bar b).phase })
  barReady m fw.lmode t.tid b

/-- WAIT (R341): the phase the group waits for is complete, or it parks. -/
def doWait (fw : Firmware) (m : Mach) (tid gno : Nat) (b : Nat) (ord : Option MScope) : Mach × End :=
  match m.team? tid with
  | none => (m, .done)
  | some t =>
    match t.group? gno with
    | none => (m, .done)
    | some g =>
      if (t.bar b).phase = g.wph.getD b false then (m, .park (.barrier b ord))
      else (match ord with
        | some sc => acquireBar m (t.gref g) t.ctx t.core sc fw.lmode b
        | none => m, .done)

def barArriveOp (b : BitVec 7) (ord : Option MScope) : Op :=
  { chk := noChk
    body := groupBody (fun fw m t g _ => match arriveFail t b with
      | some c => (m, .fail (Fail.whole c))
      | none => (doArrive fw m t g b.toNat ord, .done)) }

def barWaitOp (b : BitVec 7) (ord : Option MScope) : Op :=
  { chk := noChk
    body := groupBody (fun fw m t g _ =>
      if barBad t (some b) then (m, .fail (Fail.whole 0x189))
      else if (t.bar b.toNat).broken then (m, .fail (Fail.whole 0x1CA))
      else doWait fw m t.tid g.gno b.toNat ord) }

def barSyncOp (b : BitVec 7) (ord : Option MScope) : Op :=
  { chk := noChk
    body := groupBody (fun fw m t g _ => match arriveFail t b with
      | some c => (m, .fail (Fail.whole c))
      | none => doWait fw (doArrive fw m t g b.toNat ord) t.tid g.gno b.toNat ord) }

def barExpectOp (b : BitVec 7) (a : Opnd) : Op :=
  { chk := fun t _ _ => checkWants t.valloc [wEng a]
    body := groupBody (fun fw m t g _ =>
      let n := (engVal g m.draw 0 a).toNat
      if barBad t (some b) then (m, .fail (Fail.whole 0x189))
      else if n = 0 ∨ 2 ^ 24 ≤ n then (m, .fail (Fail.whole 0x47))
      else if (2 ^ 24 : Int) ≤ (t.bar b.toNat).p + n then (m, .fail (Fail.whole 0x187))
      else (barReady (m.modTeam t.tid (fun t => t.modBar b.toNat (fun k => { k with p := k.p + n }))) fw.lmode t.tid b.toNat, .done)) }

def barInitOp (b : BitVec 7) (a : Opnd) : Op :=
  { chk := fun t _ _ => checkWants t.valloc [wEng a]
    body := groupBody (fun _ m t g _ =>
      let n := (engVal g m.draw 0 a).toNat
      if barBad t (some b) then (m, .fail (Fail.whole 0x189))
      else if n = 0 ∨ 32 < n then (m, .fail (Fail.whole 0x47))
      else if (t.bar b.toNat).cnt ≠ 0 ∨ !(barWaiters t b.toNat).isEmpty then (m, .fail (Fail.whole 0x18B))
      else (m.modTeam t.tid (fun t => t.modBar b.toNat (fun k => { k with tgt := n, p := 0, broken := false })), .done)) }

/-! ### Set declaration (R344) -/

/-- Read bytes one by one as ordinary loads of a group (R344). -/
def readBytes (m : Mach) (t : Team) (g : Group) (a : DWord) : Nat → List Nat → Except Fail (List Nat) × Mach
  | 0, acc => (.ok acc, m)
  | n + 1, acc =>
    match groupRead m t g (a + BitVec.ofNat 64 acc.length) 1 20 with
    | (.error f, m) => (.error f, m)
    | (.ok v, m) => readBytes m t g a n (acc ++ [v.toNat])

/-- No entry is out of range or named twice. -/
def listOk (n : Nat) : List Nat → Bool
  | [] => true
  | x :: r => decide (x < n) && !r.contains x && listOk n r

/-- SETDECL (R344); no rendezvous of a set is open when it issues (R29). -/
def setdeclOp (k : BitVec 3) (a : Opnd) : Op :=
  { chk := fun t _ _ => checkWants t.valloc [wEng a]
    body := fun _ m tid ms =>
      match m.team? tid, ms.head?.bind (fun mb => (m.team? tid).bind (fun t => t.group? mb.gno)) with
      | some t, some g =>
        let p := engVal g m.draw 0 a
        (match readBytes m t g p 1 [] with
         | (.error f, m) => (m, .fail f)
         | (.ok h, m) =>
           let n := h.headD 0
           if n = 0 ∨ 32 < n then (m, .fail (Fail.whole 0x18C)) else
           match readBytes m t g p (n + 1) [] with
           | (.error f, m) => (m, .fail f)
           | (.ok l, m) =>
             if listOk t.groups.length l.tail then
               (m.modTeam tid (fun t =>
                 { t with sets := putAt none t.sets k.toNat (some l.tail), rdvs := t.rdvs.filter (fun v => v.set.isNone) }), .done)
             else (m, .fail (Fail.whole 0x18C)))
      | _, _ => (m, .done) }

/-! ### Shape registers (R345, R346) -/

/-- Read 16 words as ordinary loads. -/
def readWords16 (m : Mach) (t : Team) (g : Group) (a : DWord) : Nat → List Word → Except Fail (List Word) × Mach
  | 0, acc => (.ok acc, m)
  | n + 1, acc =>
    match groupRead m t g (a + BitVec.ofNat 64 (4 * acc.length)) 4 20 with
    | (.error f, m) => (.error f, m)
    | (.ok v, m) => readWords16 m t g a n (acc ++ [v.setWidth 32])

/-- A 512-bit value from words, the first lowest. -/
def ofWords (ws : List Word) : BitVec 512 := BitVec.ofNat 512 (ws.foldr (fun w n => w.toNat + 2 ^ 32 * n) 0)

/-- SHLD and SHST are one access of 64 bytes of their group, which may meet a watchpoint (R457). -/
def shapeEnd (fw : Firmware) (m : Mach) (t : Team) (mb : Member) (a : Made) (p : DWord) : End :=
  if watchHit fw m t.ctx a p 64 then .fail { Fail.whole 0x281 with addr := p, dbg := true, ms := [(mb.gno, mb.act, 0, 0)] } else .done

def shldOp (h : Hd) (ha : BitVec 4) (a : Opnd) : Op :=
  { chk := fun t _ _ => checkWants t.valloc [wEng a]
    body := groupBody (fun fw m t g mb =>
      let p := engVal g m.draw 0 a
      if p.toNat % 64 ≠ 0 then (m, .fail (Fail.at 0xC1 p)) else
      let far := if p.toNat < globalEnd then
          [{ lane := 0, va := p.toNat, size := 64, far := (List.range 16).any (fun k => goesFar m (whoOf t g.gno) (p.toNat + 4 * k)) : ReqLane }]
        else []
      match readWords16 m t g p 16 [] with
      | (.error f, m) => (m, .fail f)
      | (.ok ws, m) =>
        let v := ofWords ws
        if v.extractLsb' 0 51 ≠ 0 then (m, .fail (Fail.whole 0x41))
        else (m.modGroup (t.gref g) (fun x => (x.request (.shld h ha a) [.h ha.toNat] far false mb.act []).produceMem [.h ha.toNat]
            (fun r => r.setH ha.toNat v)),
          shapeEnd fw m t mb { rd := true, wr := false } p)) }

/-- Write the words of a shape register in order; the first that fails ends it (R46). -/
def writeWords (m : Mach) (t : Team) (g : Group) (a : DWord) : List Word → Option (Cause × DWord) × Mach
  | [] => (none, m)
  | w :: r =>
    match steer m t g 0 a 4 with
    | .error c => (some (c, a), m)
    | .ok l =>
      match writeAt m (whoOf t g.gno) .store l (isStackAddr a) 4 (w.setWidth 64) with
      | (.error c, m) => (some (c, a), m)
      | (.ok (), m) => writeWords m t g (a + 4) r

def shstOp (ha : BitVec 4) (a : Opnd) : Op :=
  { chk := fun t _ _ => checkWants t.valloc [wEng a]
    body := groupBody (fun fw m t g mb =>
      let p := engVal g m.draw 0 a
      if p.toNat % 64 ≠ 0 then (m, .fail (Fail.at 0xC1 p)) else
      let v := (readH g ha.toNat m.draw 1) &&& ~~~(0x7FFFFFFFFFFFF#512)
      match writeWords (settle m (t.gref g)) t g p ((List.range 16).map (fun i => v.extractLsb' (32 * i) 32)) with
      | (some (c, x), m) => (m, .fail (Fail.at c x))
      | (none, m) => (m, shapeEnd fw m t mb { rd := false, wr := true } p)) }

def shsetOp (ha : BitVec 4) (f : BitVec 5) (a : Opnd) : Op :=
  { chk := fun t _ _ => checkWants t.valloc [wEng a]
    body := groupBody (fun _ m t g _ =>
      match shapeField f.toNat with
      | none => (m, .fail (Fail.whole 0x41))
      | some (lo, n, sg) =>
        let v := engVal g m.draw 0 a
        let fits := if sg then decide (-(2 ^ 47 : Int) ≤ v.toInt ∧ v.toInt < 2 ^ 47) else decide (v.toNat < 2 ^ n)
        if !fits then (m, .fail (Fail.whole 0x47)) else
        let x := setField (readH g ha.toNat m.draw 1) lo n (v.toNat % 2 ^ n)
        (m.modGroup (t.gref g) (fun g => g.produce [.h ha.toNat] (fun r => r.setH ha.toNat x)), .done)) }

def shgetOp (d : Opnd) (ha : BitVec 4) (f : BitVec 5) : Op :=
  { chk := fun t _ _ => checkWants t.valloc [wSd d]
    body := groupBody (fun _ m t g mb =>
      match shapeField f.toNat with
      | none => (m, .fail (Fail.whole 0x41))
      | some (lo, n, sg) =>
        let v := fieldNat (readH g ha.toNat m.draw 1) lo n
        let x : DWord := BitVec.ofInt 64 (if sg && 2 ^ (n - 1) ≤ v then (v : Int) - 2 ^ n else v)
        (m.modGroup (t.gref g) (fun g => g.produce (d.ids false)
          (putVal g.present mb d false (if sg then 5 else 6) (fun _ => x))), .done)) }

/-! ### The instructions -/

/-- BAR_ARRIVE, R341. -/
def opBarArrive (h : Hd) (bar : BitVec 7) (ord : Option MScope) : Op := barArriveOp bar ord
/-- BAR_ARRIVE, R341. -/
def execBarArrive (h : Hd) (bar : BitVec 7) (ord : Option MScope) (s : State) : Host.Outcome State Fault Refusal :=
  issue s h (.barArrive h bar ord) (opBarArrive h bar ord)

/-- BAR_WAIT, R341. -/
def opBarWait (h : Hd) (bar : BitVec 7) (ord : Option MScope) : Op := barWaitOp bar ord
/-- BAR_WAIT, R341. -/
def execBarWait (h : Hd) (bar : BitVec 7) (ord : Option MScope) (s : State) : Host.Outcome State Fault Refusal :=
  issue s h (.barWait h bar ord) (opBarWait h bar ord)

/-- BAR_SYNC, R341. -/
def opBarSync (h : Hd) (bar : BitVec 7) (ord : Option MScope) : Op := barSyncOp bar ord
/-- BAR_SYNC, R341. -/
def execBarSync (h : Hd) (bar : BitVec 7) (ord : Option MScope) (s : State) : Host.Outcome State Fault Refusal :=
  issue s h (.barSync h bar ord) (opBarSync h bar ord)

/-- BAR_EXPECT, R341. -/
def opBarExpect (h : Hd) (bar : BitVec 7) (a : Opnd) : Op := barExpectOp bar a
/-- BAR_EXPECT, R341. -/
def execBarExpect (h : Hd) (bar : BitVec 7) (a : Opnd) (s : State) : Host.Outcome State Fault Refusal :=
  issue s h (.barExpect h bar a) (opBarExpect h bar a)

/-- BAR_INIT, R341. -/
def opBarInit (h : Hd) (bar : BitVec 7) (a : Opnd) : Op := barInitOp bar a
/-- BAR_INIT, R341. -/
def execBarInit (h : Hd) (bar : BitVec 7) (a : Opnd) (s : State) : Host.Outcome State Fault Refusal :=
  issue s h (.barInit h bar a) (opBarInit h bar a)

/-- SETDECL, R344. -/
def opSetdecl (h : Hd) (k : BitVec 3) (a : Opnd) : Op := setdeclOp k a
/-- SETDECL, R344. -/
def execSetdecl (h : Hd) (k : BitVec 3) (a : Opnd) (s : State) : Host.Outcome State Fault Refusal :=
  issue s h (.setdecl h k a) (opSetdecl h k a)

/-- SHLD, R345. -/
def opShld (h : Hd) (ha : BitVec 4) (a : Opnd) : Op := shldOp h ha a
/-- SHLD, R345. -/
def execShld (h : Hd) (ha : BitVec 4) (a : Opnd) (s : State) : Host.Outcome State Fault Refusal :=
  issue s h (.shld h ha a) (opShld h ha a)

/-- SHST, R345. -/
def opShst (h : Hd) (ha : BitVec 4) (a : Opnd) : Op := shstOp ha a
/-- SHST, R345. -/
def execShst (h : Hd) (ha : BitVec 4) (a : Opnd) (s : State) : Host.Outcome State Fault Refusal :=
  issue s h (.shst h ha a) (opShst h ha a)

/-- SHSET, R346. -/
def opShset (h : Hd) (ha : BitVec 4) (f : BitVec 5) (a : Opnd) : Op := shsetOp ha f a
/-- SHSET, R346. -/
def execShset (h : Hd) (ha : BitVec 4) (f : BitVec 5) (a : Opnd) (s : State) : Host.Outcome State Fault Refusal :=
  issue s h (.shset h ha f a) (opShset h ha f a)

/-- SHGET, R346. -/
def opShget (h : Hd) (d : Opnd) (ha : BitVec 4) (f : BitVec 5) : Op := shgetOp d ha f
/-- SHGET, R346. -/
def execShget (h : Hd) (d : Opnd) (ha : BitVec 4) (f : BitVec 5) (s : State) : Host.Outcome State Fault Refusal :=
  issue s h (.shget h d ha f) (opShget h d ha f)

end Sys2Proof.Machine
end

