-- ==== Sys2Proof/Machine/XLane.lean ====
section
/-! DEFINITION. Machine/XLane.lean: cross-lane operations (R266 to R271) and indexed register moves (R272 to R275). -/
namespace Sys2Proof.Machine

/-! ### The lane space (R33, R266) -/

/-- The set that a set-wide instruction names (R31): none is the team set. -/
def Hd.setKey (h : Hd) : Option (BitVec 3) :=
  if h.scope = .team then none else some ((h.mod.map (fun x => x.setn)).getD 0)

/-- The members of the lane space in declared order; an exited member has no group here (R33). -/
def spaceOf (h : Hd) (t : Team) (ms : List Member) : List (Option (Group × Member)) :=
  match h.scope with
  | .lane | .group => (memberGroups t ms).map some
  | .set | .team => (membersOf t (Hd.setKey h)).map (fun n => (memberGroups t ms).find? (fun x => x.1.gno == n))

/-- What a cross-lane instruction reads: the machine before it, and its lane space. -/
structure Cross where
  m : Mach
  t : Team
  space : List (Option (Group × Member))

/-- The member that gives scalar sources (R34). -/
def Cross.lead (c : Cross) (g : Group) : Group := leadOf (c.space.filterMap id) g
/-- The number of lanes of the space. -/
def Cross.n (c : Cross) : Nat := 32 * c.space.length
/-- Lane j is active. -/
def Cross.active (c : Cross) (j : Nat) : Bool :=
  match c.space.getD (j / 32) none with
  | some (_, mb) => mb.act.has (j % 32)
  | none => false
/-- The active lanes in increasing order. -/
def Cross.lanes (c : Cross) : List Nat := (List.range c.n).filter c.active
/-- A source read at lane j: 0 in an absent lane and in an exited member (R266). -/
def Cross.src (c : Cross) (slot : Nat) (ty : Ty) (o : Opnd) (j : Nat) : DWord :=
  match c.space.getD (j / 32) none with
  | some (g, _) => if g.present.has (j % 32) then srcVal (c.lead g) g c.m.draw slot ty o (j % 32) else 0
  | none => 0

/-- A scalar source of member k (R34). -/
def Cross.scalar (c : Cross) (slot : Nat) (ty : Ty) (o : Opnd) (k : Nat) : DWord :=
  match c.space.getD k none with
  | some (g, _) => srcVal (c.lead g) g c.m.draw slot ty o 0
  | none => 0

/-- A cross-lane instruction: a vector result in the active lanes of each member's pass, a scalar result in every live
member (R34, R35, R266). `f` gives the result at a lane of the space. -/
def crossOp (h : Hd) (ws : List Want) (d : Opnd) (wide : Bool) (tag : BitVec 4) (f : Cross → Nat → DWord) : Op :=
  { chk := fun t _ _ => checkWants t.valloc ws
    body := fun _ m tid ms =>
      match m.team? tid with
      | none => (m, .done)
      | some t =>
        let c : Cross := { m := m, t := t, space := spaceOf h t ms }
        ((List.range c.space.length).foldl (fun m' k =>
          match c.space.getD k none with
          | none => m'
          | some (g, mb) =>
            if d.isS || passes h.scope mb then
              m'.modGroup { tid := tid, gno := g.gno } (fun x => x.produce (d.ids wide)
                (putVal g.present mb d wide tag (fun l => f c (32 * k + l))))
            else m') m, .done) }

/-! ### Shuffles, votes and broadcast (R267, R268, R271) -/

/-- The lane that a shuffle reads (R267). -/
inductive ShOp where | idx | up | dn | xor
deriving DecidableEq, Repr

def ShOp.lane (op : ShOp) (i b : Nat) : Int :=
  match op with
  | .idx => b
  | .up => (i : Int) - b
  | .dn => (i : Int) + b
  | .xor => (i ^^^ b : Nat)

def shflOp (op : ShOp) (h : Hd) (ty : Ty) (d a b : Opnd) : Op :=
  crossOp h [Want.at d d.isV ty, Want.at a a.isV ty, wSrc h .n32 b] d ty.wide ty.tag
    (fun c i =>
      let j := op.lane i (c.src 1 .n32 b i).toNat
      if 0 ≤ j ∧ j < c.n then c.src 0 ty a j.toNat else c.src 0 ty a i)

/-- The outcome of a vote over the active lanes. -/
def voteOp (all : Bool) (h : Hd) (d a : Opnd) : Op :=
  crossOp h [wOne d (d.isP || d.isS), wOne a a.isP] d false 6
    (fun c _ => bit 64 (if all then c.lanes.all (fun j => (c.src 0 .b32 a j).getLsbD 0)
      else c.lanes.any (fun j => (c.src 0 .b32 a j).getLsbD 0)))

/-- Word q of a ballot (R268). -/
def ballotWord (c : Cross) (a : Opnd) (q : Nat) : DWord :=
  (maskOf (fun l => c.active (32 * q + l) && (c.src 0 .b32 a (32 * q + l)).getLsbD 0)).setWidth 64

def ballotOp (h : Hd) (d a : Opnd) : Op :=
  crossOp h [wOne d (d.isV || (h.scope == .lane && d.isS)), wOne a a.isP] d false (if d.isS then 6 else 2)
    (fun c i =>
      if h.scope = .lane then ballotWord c a 0
      else if i % 32 < c.space.length then ballotWord c a (i % 32) else 0)

def bcastOp (h : Hd) (ty : Ty) (d a b : Opnd) : Op :=
  crossOp h [Want.at d (d.isS || dstOk h.grp true ty d) ty, wSrc h ty a, wOne b (b.isS || b.isIntC)] d ty.wide ty.tag
    (fun c i =>
      let j := (c.scalar 1 .n32 b (i / 32)).toNat
      if j < c.n then c.src 0 ty a j else 0)

/-! ### Reductions and scans (R97, R269, R270) -/

/-- Combine neighbours; a position that holds nothing passes its partner up (R97). -/
def pairUp (f : Nat → Nat → Nat) : List (Option Nat) → List (Option Nat)
  | some a :: some b :: r => some (f a b) :: pairUp f r
  | some a :: none :: r => some a :: pairUp f r
  | none :: b :: r => b :: pairUp f r
  | [a] => [a]
  | [] => []

/-- The fixed tree of R97; `n` bounds its levels. -/
def treeRed (f : Nat → Nat → Nat) : Nat → List (Option Nat) → Option Nat
  | _, [] => none
  | _, [a] => a
  | 0, _ => none
  | n + 1, xs => treeRed f n (pairUp f xs)

/-- The reductions (R269). -/
inductive XOp where | add | min | max | and | or | xor
deriving DecidableEq, Repr

/-- The result over no active lane (R269). -/
def xredEmpty (op : XOp) (ty : Ty) : Nat :=
  match ty.fmt? with
  | some f => (match op with
    | .min => infBits f false
    | .max => infBits f true
    | _ => 0)
  | none => (match op with
    | .min => wrapTo ty.ew (intMax ty.signed ty.ew)
    | .max => wrapTo ty.ew (intMin ty.signed ty.ew)
    | .and => 2 ^ ty.ew - 1
    | _ => 0)

/-- One combination of float values (R269). -/
def xcombF (f : Fmt) (op : XOp) (a b : Nat) : Nat :=
  match op with
  | .min => fminmax f false a b
  | .max => fminmax f true a b
  | _ => fop f plainCtl .add a b 0

/-- A value that leaves as a result: flushed, and a signalling NaN quietened (R97). -/
def leave (f : Fmt) (ftz : Bool) (v : Nat) : Nat :=
  match FV.dec f v with
  | .nan n fr => nanBits f n fr
  | _ => flush f ftz v

/-- The integer reduction of values: exact, then wrapped or saturated (R269). -/
def xredInt (op : XOp) (ty : Ty) (sat : Bool) (xs : List Nat) : Nat :=
  let w := ty.ew
  match op with
  | .add => fitInt ty.signed w sat (xs.foldl (fun s x => s + intOf ty.signed w x) 0)
  | .min => xs.foldl (fun s x => if intOf ty.signed w x < intOf ty.signed w s then x else s) (xredEmpty .min ty)
  | .max => xs.foldl (fun s x => if intOf ty.signed w s < intOf ty.signed w x then x else s) (xredEmpty .max ty)
  | .and => xs.foldl (fun s x => s &&& x) (2 ^ w - 1)
  | .or => xs.foldl (fun s x => s ||| x) 0
  | .xor => xs.foldl (fun s x => s ^^^ x) 0

/-- A contributing value, read with DAZ (R93, R97). -/
def Cross.part (c : Cross) (ty : Ty) (a : Opnd) (j : Nat) : Nat :=
  let v := (c.src 0 ty a j).toNat
  match ty.fmt? with
  | some f => srcMods f ((fpcOf c.m c.t.ctx).getLsbD 0) false false v
  | none => v

def xredVal (op : XOp) (ty : Ty) (sat : Bool) (c : Cross) (a : Opnd) : Nat :=
  match ty.fmt? with
  | some f =>
    (match treeRed (xcombF f op) 32 ((List.range c.n).map (fun j => if c.active j then some (c.part ty a j) else none)) with
     | some v => leave f ((fpcOf c.m c.t.ctx).getLsbD 1) v
     | none => xredEmpty op ty)
  | none => xredInt op ty sat (c.lanes.map (c.part ty a))

def xredOp (op : XOp) (h : Hd) (ty : Ty) (d a : Opnd) : Op :=
  crossOp h [Want.at d (d.isV || d.isS) ty, wSrc h ty a] d ty.wide ty.tag
    (fun c _ => BitVec.ofNat 64 (xredVal op ty h.sat c a))

/-- A float scan up to the last value of a list; each prefix is a result (R270). -/
def scanF (f : Fmt) (op : XOp) (ftz : Bool) (xs : List Nat) : Nat :=
  (xs.foldl (fun (acc : Option Nat) x => match acc with
    | none => some (leave f ftz x)
    | some s => some (flush f ftz (xcombF f op s x))) none).getD 0

def xscanVal (op : XOp) (ty : Ty) (sat : Bool) (c : Cross) (a : Opnd) (i : Nat) : Nat :=
  let xs := (c.lanes.filter (fun j => decide (j ≤ i))).map (c.part ty a)
  match ty.fmt? with
  | some f => scanF f op ((fpcOf c.m c.t.ctx).getLsbD 1) xs
  | none => xredInt op ty sat xs

def xscanOp (op : XOp) (h : Hd) (ty : Ty) (d a : Opnd) : Op :=
  crossOp h [Want.at d d.isV ty, wSrc h ty a] d ty.wide ty.tag
    (fun c i => BitVec.ofNat 64 (xscanVal op ty h.sat c a i))

/-! ### Indexed register moves (R272 to R275) -/

/-- Checks 1 to 3 of R273, after check 8 of R241. -/
def windowChk (ty : Ty) (base c : Opnd) (t : Team) (g : Group) (draw : Nat) : Option Cause :=
  let len := (srcVal g g draw 2 .n32 c 0).toNat
  let n := (base.vnum?).getD 0
  let k := if ty.wide then 2 else 1
  if len = 0 ∨ 256 < len then some 0x47
  else if k = 2 ∧ n % 2 = 1 then some 0x45
  else if t.valloc ≤ n + k * len - 1 then some 0x46
  else none

def moveChk (h : Hd) (ty : Ty) (base other b c : Opnd) (otherOk : Bool) (t : Team) (g : Group) (draw : Nat) : Option Cause :=
  -- the bound of the base is that of its window, check 3 of R273
  match checkWants t.valloc [{ wOne base base.isV with span := 0 }, Want.at other otherOk ty, wOne b b.isX, wOne c (c.isS || c.isIntC)] with
  | some e => some e
  | none => windowChk ty base c t g draw

/-- The index of a lane (R272). -/
def idxOf (g : Group) (m : Mach) (b : Opnd) (l : Nat) : Nat := (srcVal g g m.draw 1 .n32 b l).toNat

/-- Check 4 of R273, then the move over every member. -/
def windowBody (h : Hd) (b c : Opnd)
    (f : Mach → Team → Group → Group → Member → Nat → List RegId × (Regs → Regs)) :
    Firmware → Mach → Nat → List Member → Mach × End :=
  fun _ m tid ms =>
    match m.team? tid with
    | none => (m, .done)
    | some t =>
      let gs := memberGroups t ms
      let len := fun (g : Group) => (srcVal (leadOf gs g) g m.draw 2 .n32 c 0).toNat
      if gs.any (fun x => (lanesOf x.2.act).any (fun l => decide (len x.1 ≤ idxOf x.1 m b l))) then
        (m, .fail (Fail.whole 0x4A))
      else
        (gs.foldl (fun m' x =>
          if passes h.scope x.2 then
            m'.modGroup { tid := tid, gno := x.1.gno } (fun g =>
              g.produce (f m t (leadOf gs x.1) x.1 x.2 (len x.1)).1 (f m t (leadOf gs x.1) x.1 x.2 (len x.1)).2)
          else m') m, .done)

/-- A register of a window, or its pair. -/
def windowReg (ty : Ty) (base : Opnd) (i : Nat) : Opnd :=
  .v (BitVec.ofNat 8 ((base.vnum?).getD 0 + (if ty.wide then 2 else 1) * i))

def movxOp (h : Hd) (ty : Ty) (d a b c : Opnd) : Op :=
  { chk := moveChk h ty a d b c (dstOk h.grp true ty d)
    body := windowBody h b c (fun m _ lead g mb _ =>
      (d.ids ty.wide, putVal g.present mb d ty.wide ty.tag
        (fun l => srcVal lead g m.draw 0 ty (windowReg ty a (idxOf g m b l)) l))) }

/-- `movxw` writes, in each lane, the window register that the lane's index names (R272, R275). -/
def movxwOp (h : Hd) (ty : Ty) (d a b c : Opnd) : Op :=
  { chk := moveChk h ty d a b c (srcOk h.grp true ty a)
    body := windowBody h b c (fun m _ lead g mb len =>
      ((List.range len).flatMap (fun i => (windowReg ty d i).ids ty.wide),
       fun r => (List.range len).foldl (fun r i =>
         let ls := maskOf (fun l => mb.act.has l && idxOf g m b l == i)
         if ls = 0 then r else
         putVal g.present { mb with act := ls, tot := ls } (windowReg ty d i) ty.wide ty.tag
           (fun l => srcVal lead g m.draw 0 ty a l) r) r)) }

/-! ### The instructions -/

/-- SHFL, R267. -/
def opShfl (h : Hd) (ty : Ty) (d a b : Opnd) : Op := shflOp .idx h ty d a b
/-- SHFL, R267. -/
def execShfl (h : Hd) (ty : Ty) (d a b : Opnd) (s : State) : Host.Outcome State Fault Refusal :=
  issue s h (.shfl h ty d a b) (opShfl h ty d a b)

/-- SHFL_UP, R267. -/
def opShflUp (h : Hd) (ty : Ty) (d a b : Opnd) : Op := shflOp .up h ty d a b
/-- SHFL_UP, R267. -/
def execShflUp (h : Hd) (ty : Ty) (d a b : Opnd) (s : State) : Host.Outcome State Fault Refusal :=
  issue s h (.shflUp h ty d a b) (opShflUp h ty d a b)

/-- SHFL_DN, R267. -/
def opShflDn (h : Hd) (ty : Ty) (d a b : Opnd) : Op := shflOp .dn h ty d a b
/-- SHFL_DN, R267. -/
def execShflDn (h : Hd) (ty : Ty) (d a b : Opnd) (s : State) : Host.Outcome State Fault Refusal :=
  issue s h (.shflDn h ty d a b) (opShflDn h ty d a b)

/-- SHFL_XOR, R267. -/
def opShflXor (h : Hd) (ty : Ty) (d a b : Opnd) : Op := shflOp .xor h ty d a b
/-- SHFL_XOR, R267. -/
def execShflXor (h : Hd) (ty : Ty) (d a b : Opnd) (s : State) : Host.Outcome State Fault Refusal :=
  issue s h (.shflXor h ty d a b) (opShflXor h ty d a b)

/-- VOTE_ANY, R268. -/
def opVoteAny (h : Hd) (ty : Ty) (d a : Opnd) : Op := voteOp false h d a
/-- VOTE_ANY, R268. -/
def execVoteAny (h : Hd) (ty : Ty) (d a : Opnd) (s : State) : Host.Outcome State Fault Refusal :=
  issue s h (.voteAny h ty d a) (opVoteAny h ty d a)

/-- VOTE_ALL, R268. -/
def opVoteAll (h : Hd) (ty : Ty) (d a : Opnd) : Op := voteOp true h d a
/-- VOTE_ALL, R268. -/
def execVoteAll (h : Hd) (ty : Ty) (d a : Opnd) (s : State) : Host.Outcome State Fault Refusal :=
  issue s h (.voteAll h ty d a) (opVoteAll h ty d a)

/-- BALLOT, R268. -/
def opBallot (h : Hd) (ty : Ty) (d a : Opnd) : Op := ballotOp h d a
/-- BALLOT, R268. -/
def execBallot (h : Hd) (ty : Ty) (d a : Opnd) (s : State) : Host.Outcome State Fault Refusal :=
  issue s h (.ballot h ty d a) (opBallot h ty d a)

/-- XRED_ADD, R269. -/
def opXredAdd (h : Hd) (ty : Ty) (d a : Opnd) : Op := xredOp .add h ty d a
/-- XRED_ADD, R269. -/
def execXredAdd (h : Hd) (ty : Ty) (d a : Opnd) (s : State) : Host.Outcome State Fault Refusal :=
  issue s h (.xredAdd h ty d a) (opXredAdd h ty d a)

/-- XRED_MIN, R269. -/
def opXredMin (h : Hd) (ty : Ty) (d a : Opnd) : Op := xredOp .min h ty d a
/-- XRED_MIN, R269. -/
def execXredMin (h : Hd) (ty : Ty) (d a : Opnd) (s : State) : Host.Outcome State Fault Refusal :=
  issue s h (.xredMin h ty d a) (opXredMin h ty d a)

/-- XRED_MAX, R269. -/
def opXredMax (h : Hd) (ty : Ty) (d a : Opnd) : Op := xredOp .max h ty d a
/-- XRED_MAX, R269. -/
def execXredMax (h : Hd) (ty : Ty) (d a : Opnd) (s : State) : Host.Outcome State Fault Refusal :=
  issue s h (.xredMax h ty d a) (opXredMax h ty d a)

/-- XRED_AND, R269. -/
def opXredAnd (h : Hd) (ty : Ty) (d a : Opnd) : Op := xredOp .and h ty d a
/-- XRED_AND, R269. -/
def execXredAnd (h : Hd) (ty : Ty) (d a : Opnd) (s : State) : Host.Outcome State Fault Refusal :=
  issue s h (.xredAnd h ty d a) (opXredAnd h ty d a)

/-- XRED_OR, R269. -/
def opXredOr (h : Hd) (ty : Ty) (d a : Opnd) : Op := xredOp .or h ty d a
/-- XRED_OR, R269. -/
def execXredOr (h : Hd) (ty : Ty) (d a : Opnd) (s : State) : Host.Outcome State Fault Refusal :=
  issue s h (.xredOr h ty d a) (opXredOr h ty d a)

/-- XRED_XOR, R269. -/
def opXredXor (h : Hd) (ty : Ty) (d a : Opnd) : Op := xredOp .xor h ty d a
/-- XRED_XOR, R269. -/
def execXredXor (h : Hd) (ty : Ty) (d a : Opnd) (s : State) : Host.Outcome State Fault Refusal :=
  issue s h (.xredXor h ty d a) (opXredXor h ty d a)

/-- XSCAN_ADD, R270. -/
def opXscanAdd (h : Hd) (ty : Ty) (d a : Opnd) : Op := xscanOp .add h ty d a
/-- XSCAN_ADD, R270. -/
def execXscanAdd (h : Hd) (ty : Ty) (d a : Opnd) (s : State) : Host.Outcome State Fault Refusal :=
  issue s h (.xscanAdd h ty d a) (opXscanAdd h ty d a)

/-- XSCAN_MAX, R270. -/
def opXscanMax (h : Hd) (ty : Ty) (d a : Opnd) : Op := xscanOp .max h ty d a
/-- XSCAN_MAX, R270. -/
def execXscanMax (h : Hd) (ty : Ty) (d a : Opnd) (s : State) : Host.Outcome State Fault Refusal :=
  issue s h (.xscanMax h ty d a) (opXscanMax h ty d a)

/-- BCAST, R271. -/
def opBcast (h : Hd) (ty : Ty) (d a b : Opnd) : Op := bcastOp h ty d a b
/-- BCAST, R271. -/
def execBcast (h : Hd) (ty : Ty) (d a b : Opnd) (s : State) : Host.Outcome State Fault Refusal :=
  issue s h (.bcast h ty d a b) (opBcast h ty d a b)

/-- MOVX, R272. -/
def opMovx (h : Hd) (ty : Ty) (d a b c : Opnd) : Op := movxOp h ty d a b c
/-- MOVX, R272. -/
def execMovx (h : Hd) (ty : Ty) (d a b c : Opnd) (s : State) : Host.Outcome State Fault Refusal :=
  issue s h (.movx h ty d a b c) (opMovx h ty d a b c)

/-- MOVXW, R272. -/
def opMovxw (h : Hd) (ty : Ty) (d a b c : Opnd) : Op := movxwOp h ty d a b c
/-- MOVXW, R272. -/
def execMovxw (h : Hd) (ty : Ty) (d a b c : Opnd) (s : State) : Host.Outcome State Fault Refusal :=
  issue s h (.movxw h ty d a b c) (opMovxw h ty d a b c)

end Sys2Proof.Machine
end

