-- ==== Sys2Proof/Machine/Rendezvous.lean ====
section
/-! DEFINITION. Machine/Rendezvous.lean: the issue of a set-wide instruction over its live members (R33 to R46). -/
namespace Sys2Proof.Machine

/-- The fields and the effect of a program instruction; the system instructions have no set-wide form. -/
def opOf : Instr → Option (Hd × Op)
  | .br h off => some (h, opBr h off)
  | .call h off => some (h, opCall h off)
  | .brd h off join16 => some (h, opBrd h off join16)
  | .join h => some (h, opJoin h)
  | .exit h => some (h, opExit h)
  | .ret h => some (h, opRet h)
  | .callt h idx => some (h, opCallt h idx)
  | .callr h a => some (h, opCallr h a)
  | .trap h n => some (h, opTrap h n)
  | .nop h => some (h, opNop h)
  | .add h ty d a b => some (h, opAdd h ty d a b)
  | .sub h ty d a b => some (h, opSub h ty d a b)
  | .mul h ty d a b => some (h, opMul h ty d a b)
  | .mulhi h ty d a b => some (h, opMulhi h ty d a b)
  | .mad h ty d a b c => some (h, opMad h ty d a b c)
  | .min h ty d a b => some (h, opMin h ty d a b)
  | .max h ty d a b => some (h, opMax h ty d a b)
  | .abs h ty d a => some (h, opAbs h ty d a)
  | .neg h ty d a => some (h, opNeg h ty d a)
  | .div h ty d a b => some (h, opDiv h ty d a b)
  | .rem h ty d a b => some (h, opRem h ty d a b)
  | .addImm h ty d a imm => some (h, opAddImm h ty d a imm)
  | .subImm h ty d a imm => some (h, opSubImm h ty d a imm)
  | .mulImm h ty d a imm => some (h, opMulImm h ty d a imm)
  | .mulhiImm h ty d a imm => some (h, opMulhiImm h ty d a imm)
  | .minImm h ty d a imm => some (h, opMinImm h ty d a imm)
  | .maxImm h ty d a imm => some (h, opMaxImm h ty d a imm)
  | .and h ty d a b => some (h, opAnd h ty d a b)
  | .or h ty d a b => some (h, opOr h ty d a b)
  | .xor h ty d a b => some (h, opXor h ty d a b)
  | .not h ty d a => some (h, opNot h ty d a)
  | .andn h ty d a b => some (h, opAndn h ty d a b)
  | .shl h ty d a b => some (h, opShl h ty d a b)
  | .shr h ty d a b => some (h, opShr h ty d a b)
  | .sar h ty d a b => some (h, opSar h ty d a b)
  | .rotl h ty d a b => some (h, opRotl h ty d a b)
  | .popc h ty d a => some (h, opPopc h ty d a)
  | .clz h ty d a => some (h, opClz h ty d a)
  | .bfe h ty d a c => some (h, opBfe h ty d a c)
  | .bfi h ty d a b c => some (h, opBfi h ty d a b c)
  | .brev h ty d a => some (h, opBrev h ty d a)
  | .andImm h ty d a imm => some (h, opAndImm h ty d a imm)
  | .orImm h ty d a imm => some (h, opOrImm h ty d a imm)
  | .xorImm h ty d a imm => some (h, opXorImm h ty d a imm)
  | .andnImm h ty d a imm => some (h, opAndnImm h ty d a imm)
  | .shlImm h ty d a imm => some (h, opShlImm h ty d a imm)
  | .shrImm h ty d a imm => some (h, opShrImm h ty d a imm)
  | .sarImm h ty d a imm => some (h, opSarImm h ty d a imm)
  | .rotlImm h ty d a imm => some (h, opRotlImm h ty d a imm)
  | .setEq h ty d a b => some (h, opSetEq h ty d a b)
  | .setNe h ty d a b => some (h, opSetNe h ty d a b)
  | .setLt h ty d a b => some (h, opSetLt h ty d a b)
  | .setLe h ty d a b => some (h, opSetLe h ty d a b)
  | .setGt h ty d a b => some (h, opSetGt h ty d a b)
  | .setGe h ty d a b => some (h, opSetGe h ty d a b)
  | .setEqImm h ty d a imm => some (h, opSetEqImm h ty d a imm)
  | .setNeImm h ty d a imm => some (h, opSetNeImm h ty d a imm)
  | .setLtImm h ty d a imm => some (h, opSetLtImm h ty d a imm)
  | .setLeImm h ty d a imm => some (h, opSetLeImm h ty d a imm)
  | .setGtImm h ty d a imm => some (h, opSetGtImm h ty d a imm)
  | .setGeImm h ty d a imm => some (h, opSetGeImm h ty d a imm)
  | .mov h ty d a => some (h, opMov h ty d a)
  | .sel h ty d a b c => some (h, opSel h ty d a b c)
  | .movi h ty d imm => some (h, opMovi h ty d imm)
  | .movhi h ty d imm => some (h, opMovhi h ty d imm)
  | .addpc h ty d imm => some (h, opAddpc h ty d imm)
  | .addlo h ty d a imm => some (h, opAddlo h ty d a imm)
  | .add2 h ty d a b => some (h, opAdd2 h ty d a b)
  | .sub2 h ty d a b => some (h, opSub2 h ty d a b)
  | .min2 h ty d a b => some (h, opMin2 h ty d a b)
  | .max2 h ty d a b => some (h, opMax2 h ty d a b)
  | .maxd2 h ty d a b c => some (h, opMaxd2 h ty d a b c)
  | .shfl h ty d a b => some (h, opShfl h ty d a b)
  | .shflUp h ty d a b => some (h, opShflUp h ty d a b)
  | .shflDn h ty d a b => some (h, opShflDn h ty d a b)
  | .shflXor h ty d a b => some (h, opShflXor h ty d a b)
  | .voteAny h ty d a => some (h, opVoteAny h ty d a)
  | .voteAll h ty d a => some (h, opVoteAll h ty d a)
  | .ballot h ty d a => some (h, opBallot h ty d a)
  | .xredAdd h ty d a => some (h, opXredAdd h ty d a)
  | .xredMin h ty d a => some (h, opXredMin h ty d a)
  | .xredMax h ty d a => some (h, opXredMax h ty d a)
  | .xredAnd h ty d a => some (h, opXredAnd h ty d a)
  | .xredOr h ty d a => some (h, opXredOr h ty d a)
  | .xredXor h ty d a => some (h, opXredXor h ty d a)
  | .xscanAdd h ty d a => some (h, opXscanAdd h ty d a)
  | .xscanMax h ty d a => some (h, opXscanMax h ty d a)
  | .bcast h ty d a b => some (h, opBcast h ty d a b)
  | .movx h ty d a b c => some (h, opMovx h ty d a b c)
  | .movxw h ty d a b c => some (h, opMovxw h ty d a b c)
  | .fadd h ty d a b => some (h, opFadd h ty d a b)
  | .fsub h ty d a b => some (h, opFsub h ty d a b)
  | .fmul h ty d a b => some (h, opFmul h ty d a b)
  | .fma h ty d a b c => some (h, opFma h ty d a b c)
  | .fmin h ty d a b => some (h, opFmin h ty d a b)
  | .fmax h ty d a b => some (h, opFmax h ty d a b)
  | .fsetEq h ty d a b => some (h, opFsetEq h ty d a b)
  | .fsetNe h ty d a b => some (h, opFsetNe h ty d a b)
  | .fsetLt h ty d a b => some (h, opFsetLt h ty d a b)
  | .fsetLe h ty d a b => some (h, opFsetLe h ty d a b)
  | .fsetGt h ty d a b => some (h, opFsetGt h ty d a b)
  | .fsetGe h ty d a b => some (h, opFsetGe h ty d a b)
  | .fsetUnord h ty d a b => some (h, opFsetUnord h ty d a b)
  | .fsetOrd h ty d a b => some (h, opFsetOrd h ty d a b)
  | .frcp h ty d a => some (h, opFrcp h ty d a)
  | .fsqrt h ty d a => some (h, opFsqrt h ty d a)
  | .frsqrt h ty d a => some (h, opFrsqrt h ty d a)
  | .fexp2 h ty d a => some (h, opFexp2 h ty d a)
  | .flog2 h ty d a => some (h, opFlog2 h ty d a)
  | .fclass h ty d a => some (h, opFclass h ty d a)
  | .frint h ty d a => some (h, opFrint h ty d a)
  | .fdiv h ty d a b => some (h, opFdiv h ty d a b)
  | .fadd2 h ty d a b => some (h, opFadd2 h ty d a b)
  | .fsub2 h ty d a b => some (h, opFsub2 h ty d a b)
  | .fmul2 h ty d a b => some (h, opFmul2 h ty d a b)
  | .fma2 h ty d a b c => some (h, opFma2 h ty d a b c)
  | .fmin2 h ty d a b => some (h, opFmin2 h ty d a b)
  | .fmax2 h ty d a b => some (h, opFmax2 h ty d a b)
  | .cvt h ty src d a b c => some (h, opCvt h ty src d a b c)
  | .cvtef h ty d a b c => some (h, opCvtef h ty d a b c)
  | .cvtefX2 h ty d a b c => some (h, opCvtefX2 h ty d a b c)
  | .ld h ty d base off sp ord sc => some (h, opLd h ty d base off sp ord sc)
  | .st h ty d base off sp ord sc => some (h, opSt h ty d base off sp ord sc)
  | .ldnf h ty d a c => some (h, opLdnf h ty d a c)
  | .atmAdd h ty d a b ord sc => some (h, opAtmAdd h ty d a b ord sc)
  | .atmSub h ty d a b ord sc => some (h, opAtmSub h ty d a b ord sc)
  | .atmMin h ty d a b ord sc => some (h, opAtmMin h ty d a b ord sc)
  | .atmMax h ty d a b ord sc => some (h, opAtmMax h ty d a b ord sc)
  | .atmAnd h ty d a b ord sc => some (h, opAtmAnd h ty d a b ord sc)
  | .atmOr h ty d a b ord sc => some (h, opAtmOr h ty d a b ord sc)
  | .atmXor h ty d a b ord sc => some (h, opAtmXor h ty d a b ord sc)
  | .atmExch h ty d a b ord sc => some (h, opAtmExch h ty d a b ord sc)
  | .atmCas h ty d a b c ord sc => some (h, opAtmCas h ty d a b c ord sc)
  | .atmInc h ty d a b ord sc => some (h, opAtmInc h ty d a b ord sc)
  | .atmDec h ty d a b ord sc => some (h, opAtmDec h ty d a b ord sc)
  | .atmFadd h ty d a b ord sc => some (h, opAtmFadd h ty d a b ord sc)
  | .redAdd h ty a b ord sc => some (h, opRedAdd h ty a b ord sc)
  | .redSub h ty a b ord sc => some (h, opRedSub h ty a b ord sc)
  | .redMin h ty a b ord sc => some (h, opRedMin h ty a b ord sc)
  | .redMax h ty a b ord sc => some (h, opRedMax h ty a b ord sc)
  | .redAnd h ty a b ord sc => some (h, opRedAnd h ty a b ord sc)
  | .redOr h ty a b ord sc => some (h, opRedOr h ty a b ord sc)
  | .redXor h ty a b ord sc => some (h, opRedXor h ty a b ord sc)
  | .redInc h ty a b ord sc => some (h, opRedInc h ty a b ord sc)
  | .redDec h ty a b ord sc => some (h, opRedDec h ty a b ord sc)
  | .redFadd h ty a b ord sc => some (h, opRedFadd h ty a b ord sc)
  | .fence h sc => some (h, opFence h sc)
  | .acq h sc => some (h, opAcq h sc)
  | .rel h sc => some (h, opRel h sc)
  | .invr h len base sc => some (h, opInvr h len base sc)
  | .wbr h len base sc => some (h, opWbr h len base sc)
  | .pgreq h base off sp => some (h, opPgreq h base off sp)
  | .gld h d a site off => some (h, opGld h d a site off)
  | .gst h a b site off => some (h, opGst h a b site off)
  | .gatmAdd h d a b site ord sc => some (h, opGatmAdd h d a b site ord sc)
  | .gatmSub h d a b site ord sc => some (h, opGatmSub h d a b site ord sc)
  | .gatmMin h d a b site ord sc => some (h, opGatmMin h d a b site ord sc)
  | .gatmMax h d a b site ord sc => some (h, opGatmMax h d a b site ord sc)
  | .gatmAnd h d a b site ord sc => some (h, opGatmAnd h d a b site ord sc)
  | .gatmOr h d a b site ord sc => some (h, opGatmOr h d a b site ord sc)
  | .gatmXor h d a b site ord sc => some (h, opGatmXor h d a b site ord sc)
  | .gatmExch h d a b site ord sc => some (h, opGatmExch h d a b site ord sc)
  | .gadd h d a b site => some (h, opGadd h d a b site)
  | .gsub h d a b site => some (h, opGsub h d a b site)
  | .gmul h d a b site => some (h, opGmul h d a b site)
  | .gfma h d a b site => some (h, opGfma h d a b site)
  | .gmin h d a b site => some (h, opGmin h d a b site)
  | .gmax h d a b site => some (h, opGmax h d a b site)
  | .gset h d a b site cc => some (h, opGset h d a b site cc)
  | .gcvt h d a site ty => some (h, opGcvt h d a site ty)
  | .stage h a cnt => some (h, opStage h a cnt)
  | .cpy h d a b => some (h, opCpy h d a b)
  | .cpyBar h d a b bar => some (h, opCpyBar h d a b bar)
  | .cpyl4 h d a => some (h, opCpyl4 h d a)
  | .cpyl8 h d a => some (h, opCpyl8 h d a)
  | .cpyl16 h d a => some (h, opCpyl16 h d a)
  | .seal h d => some (h, opSeal h d)
  | .waitb h a => some (h, opWaitb h a)
  | .bulkLd h ha => some (h, opBulkLd h ha)
  | .bulkSt h ha => some (h, opBulkSt h ha)
  | .bulkLdBar h ha bar => some (h, opBulkLdBar h ha bar)
  | .bulkStBar h ha bar => some (h, opBulkStBar h ha bar)
  | .waitm h ha a => some (h, opWaitm h ha a)
  | .testm h d ha a => some (h, opTestm h d ha a)
  | .mcast h d a b => some (h, opMcast h d a b)
  | .mcastBar h d a b bar => some (h, opMcastBar h d a b bar)
  | .rowcpy h d a => some (h, opRowcpy h d a)
  | .rowfill h d a => some (h, opRowfill h d a)
  | .rowand h d a b => some (h, opRowand h d a b)
  | .rowor h d a b => some (h, opRowor h d a b)
  | .rowxor h d a b => some (h, opRowxor h d a b)
  | .rownot h d a => some (h, opRownot h d a)
  | .rowmate h d a => some (h, opRowmate h d a)
  | .barArrive h bar ord => some (h, opBarArrive h bar ord)
  | .barWait h bar ord => some (h, opBarWait h bar ord)
  | .barSync h bar ord => some (h, opBarSync h bar ord)
  | .barExpect h bar a => some (h, opBarExpect h bar a)
  | .barInit h bar a => some (h, opBarInit h bar a)
  | .setdecl h k a => some (h, opSetdecl h k a)
  | .shld h ha a => some (h, opShld h ha a)
  | .shst h ha a => some (h, opShst h ha a)
  | .shset h ha f a => some (h, opShset h ha f a)
  | .shget h d ha f => some (h, opShget h d ha f)
  | .macq h t => some (h, opMacq h t)
  | .mrel h t => some (h, opMrel h t)
  | .mzeroF32 h t => some (h, opMzeroF32 h t)
  | .mzeroI32 h t => some (h, opMzeroI32 h t)
  | .mzeroI32s h t => some (h, opMzeroI32s h t)
  | .mwait h t => some (h, opMwait h t)
  | .mloop h t ha hb a => some (h, opMloop h t ha hb a)
  | .mldaSp h t ha => some (h, opMldaSp h t ha)
  | .mldaReg h t d a => some (h, opMldaReg h t d a)
  | .mdrainSp h t ha => some (h, opMdrainSp h t ha)
  | .mdrainReg h t d a => some (h, opMdrainReg h t d a)
  | .saccR h t a b => some (h, opSaccR h t a b)
  | .saccRc h t d a b => some (h, opSaccRc h t d a b)
  | .plane h ha hb => some (h, opPlane h ha hb)
  | .unplane h ha hb => some (h, opUnplane h ha hb)
  | .hclr h k a => some (h, opHclr h k a)
  | .hrd h d k a => some (h, opHrd h d k a)
  | _ => none

/-- The members that execute: the live ones in increasing ordinal, with their lanes; a reissue takes the lanes left (R34,
R35, R46). -/
def wideMembers (t : Team) (v : Rdv) : List Member :=
  (liveMembers t v.set).filterMap (fun n => (t.group? n).map (fun g =>
    match g.redo with
    | some d => { gno := n, act := d.left, tot := d.left ||| d.fin }
    | none =>
      let a := ((v.arrived.find? (fun x => x.1 == n)).map (fun x => x.2)).getD 0
      { gno := n, act := a, tot := a }))

/-- The rendezvous may issue: every live member has arrived and none of them is SUSPENDED (R39). One whose members have all
exited is complete too, and ends with nothing to issue. -/
def rdvReady (t : Team) (v : Rdv) : Bool :=
  (liveMembers t v.set).all (fun n => (v.arrived.any (fun x => x.1 == n)) && (match t.group? n with
    | some g => g.status == .parked (.rendezvous v.set)
    | none => false))

/-- The count is complete, whether or not a member is SUSPENDED. -/
def rdvComplete (t : Team) (v : Rdv) : Bool := (liveMembers t v.set).all (fun n => v.arrived.any (fun x => x.1 == n))

/-- Conclude a set-wide instruction (R39, R44, R45): every live member retires, or the set faults. Where its lanes fault or meet
a watchpoint, what a W marker separates is separated in every live member, those with no lane active among them (R52, R442). -/
def concludeWide (fw : Firmware) (t : Team) (v : Rdv) (mb : Mach × End) : Mach :=
  match mb.2 with
  | .fail f =>
    let m := if f.perLane || f.dbg then mb.1.modTeam t.tid (fun t => { t with groups := t.groups.map (fun g =>
        if g.wm && (liveMembers t v.set).contains g.gno then g.returned else g) }) else mb.1
    setFault fw m t.tid v.set
      { cause := f.cause, hits := [], set := none, addr := f.addr, detail := f.detail, aux := v.pc, unk := f.unk, eng := false
        nonstop := false, wid := none, refused := false, redo := if f.perLane then some v.i else none, watch := f.watch, npc := v.pc, pcAt := none } f.ms
  | .done | .goto _ | .park _ | .gone =>
    let m := mb.1.modTeam t.tid (fun t => { t with rdvs := t.rdvs.filter (fun w => !(w.set == v.set)) })
    (liveMembers t v.set).foldl (fun m n => unparkGroup m { tid := t.tid, gno := n } t.ctx) m

/-- Issue a set-wide instruction: its checks, made for the set (R36), then its passes. A reissue makes no checks. -/
def issueWide (fw : Firmware) (m : Mach) (t : Team) (v : Rdv) (again : Bool) : Mach :=
  match opOf v.i with
  | none => m
  | some (h, op) =>
    match wideMembers t v with
    | [] => concludeWide fw t v (m, .done)
    | mb :: ms =>
      match (if again then none else (t.group? mb.gno).bind (fun g => check h op t g m.draw)) with
      | some c => concludeWide fw t v (m, .fail (Fail.whole c))
      | none => concludeWide fw t v (op.body fw m t.tid (mb :: ms))

/-- The open rendezvous of a set. -/
def Team.rdv? (t : Team) (k : Option (BitVec 3)) : Option Rdv := t.rdvs.find? (fun v => v.set == k)

/-- Reissue a set-wide instruction over the lanes left, once every member is free (R46, R427). -/
def reissueWide (fw : Firmware) (m : Mach) (tid : Nat) (k : Option (BitVec 3)) (i : Instr) : Mach :=
  match m.team? tid with
  | none => m
  | some t =>
    let ns := liveMembers t k
    let pc := match ns with
      | n :: _ => ((t.group? n).map (fun g => g.pc)).getD 0
      | [] => 0
    let v : Rdv := { set := k, pc := pc, i := i, arrived := ns.map (fun n => (n, 0)), elapsed := 0 }
    let m := ns.foldl (fun m n => m.modGroup { tid := tid, gno := n } (fun g => { g with status := .parked (.rendezvous k), under := none })) m
    match m.team? tid with
    | none => m
    | some t => issueWide fw m t v true

/-- RENDEZVOUS_ISSUE, R39. -/
def execRendezvousIssue (tid : Nat) (k : Option (BitVec 3)) (s : State) : Host.Outcome State Fault Refusal :=
  let v := (s.m.team? tid).bind (fun t => (t.rdv? k).map (fun v => (t, v)))
  event s (v.any (fun x => rdvReady x.1 x.2 && ctxRuns s.m x.1.ctx)) (fun fw m => match v with
    | some x => issueWide fw m x.1 x.2 false
    | none => m)

/-- LIMIT of RVLIM in core cycles, for a team's context; none when it disables every limit (R41). -/
def limitOf (m : Mach) (c : BitVec 12) : Option Nat :=
  match m.ctx? c with
  | none => none
  | some k => if k.rvlim = 0 then none else some (k.rvlim.toNat * 1024)

/-- An open rendezvous has reached the time limit with its count not complete, and no member can arrive in this cycle any more
(R41, R43). -/
def rdvLate (m : Mach) (t : Team) (v : Rdv) : Bool :=
  !rdvComplete t v && !(liveMembers t v.set).any (fun n => (t.group? n).any (isCandidate m t)) && ctxRuns m t.ctx && (match limitOf m t.ctx with
    | some n => decide (n ≤ v.elapsed)
    | none => false)

/-- RENDEZVOUS_TIMEOUT, R41. -/
def execRendezvousTimeout (tid : Nat) (k : Option (BitVec 3)) (s : State) : Host.Outcome State Fault Refusal :=
  let v := (s.m.team? tid).bind (fun t => (t.rdv? k).map (fun v => (t, v)))
  event s (v.any (fun x => rdvLate s.m x.1 x.2)) (fun fw m => match v with
    | some x => concludeWide fw x.1 x.2 (m, .fail (Fail.whole 0x181))
    | none => m)

end Sys2Proof.Machine
end

