-- ==== Sys2Proof/Machine/Service.lean ====
section
/-! DEFINITION. Machine/Service.lean: RETURN FROM AN EXCEPTION: what SVDONE does to pending records (R392, R393, R402, R426,
R427), the ending of groups, and the completion-word add of a grid (R402, R425). -/
namespace Sys2Proof.Machine

/-! ### Pending records -/

def Pending.setw (p : Pending) : Bool := p.flags.getLsbD 0
def Pending.replay (p : Pending) : Bool := p.flags.getLsbD 1
def Pending.eng (p : Pending) : Bool := p.flags.getLsbD 5
/-- The record stops its group (R393, R425). -/
def Pending.stops (p : Pending) : Bool := p.add.isNone && p.cause != 3 && !(p.eng && p.replay)
/-- The set that SETN names. -/
def Pending.setk (p : Pending) : Option (BitVec 3) := if p.setn = 0xFF then none else some (p.setn.setWidth 3)

def Mach.modCtx (m : Mach) (c : BitVec 12) (f : Context → Context) : Mach :=
  { m with ctxs := m.ctxs.map (fun x => if x.cid == c then f x else x) }
def dropPend (m : Mach) (c : BitVec 12) (f : Pending → Bool) : Mach :=
  m.modCtx c (fun k => { k with pend := k.pend.filter (fun p => !f p) })

/-- A group has a stopping record at all. -/
def heldBack (k : Context) (tid gno : Nat) : Bool := k.pend.any (fun p => p.stops && p.tid == tid && p.gno == gno)

/-! ### Groups that go on, and groups that end -/

/-- A stopped group leaves its state: it waits on for what it was parked for, or is READY (R24, R39), and then first executes
again the lanes that a loss ended (R429). -/
def Group.resume (g : Group) : Group :=
  if isStopped g then
    ({ g with status := (g.under.map Status.parked).getD .ready, under := none } : Group).popLost
  else g

/-- The group resumes when its last pending stopping record is completed (R393). -/
def resumeIfFree (m : Mach) (c : BitVec 12) (tid gno : Nat) : Mach :=
  match m.ctx? c with
  | none => m
  | some k => if heldBack k tid gno then m else m.modGroup { tid := tid, gno := gno } Group.resume

/-- Every lane of a group exits from outside (R51, R392, R438): its records and its handshake go with it. -/
def endGroup (m : Mach) (c : BitVec 12) (tid gno : Nat) : Mach :=
  let m := dropPend m c (fun p => p.stops && p.tid == tid && p.gno == gno)
  let m := { m with pairings := m.pairings.filter (fun p => !(p.loop.tid == tid && p.loop.gno == gno)) }
  match m.group? { tid := tid, gno := gno } with
  | some g => if g.live then killGroup m { tid := tid, gno := gno } else m
  | none => m

/-- Every live member of a set, or of the team, exits. -/
def endSet (m : Mach) (c : BitVec 12) (tid : Nat) (k : Option (BitVec 3)) : Mach :=
  match m.team? tid with
  | none => m
  | some t => (liveMembers t k).foldl (fun m n => endGroup m c tid n) m

/-! ### Set-wide records (R427) -/

/-- The record is of a bulk transfer, which concerns the whole team. -/
def ofBulk (m : Mach) (p : Pending) : Bool :=
  match p.wid.bind (fun w => m.work? p.tid w) with
  | some w => (match w.kind with
    | .bulk _ _ _ _ _ _ _ _ => true
    | _ => false)
  | none => false

/-- The set-wide faults of which every member has been acted on. -/
def actedSets (k : Context) : List (BitVec 32) :=
  (((k.pend.filter (fun p => p.acted)).map (fun p => p.seq)).eraseDups).filter (fun q => (k.pend.filter (fun p => p.seq == q)).all (fun p => p.acted))

/-- Those among them that are free to leave (R393, R427): no member is held by a record of another SEQ that stays. Faults that
hold each other's members leave together. -/
def freeSets (k : Context) (qs : List (BitVec 32)) : Nat → List (BitVec 32)
  | 0 => qs
  | n + 1 => freeSets k (qs.filter (fun q => (k.pend.filter (fun p => p.seq == q)).all (fun p =>
      (k.pend.filter (fun x => x.stops && x.tid == p.tid && x.gno == p.gno)).all (fun x => qs.contains x.seq)))) n

/-- The members of an acted set-wide fault leave SUSPENDED; faulting lanes are reissued once, for the whole set. -/
def releaseSet (fw : Firmware) (c : BitVec 12) (m : Mach) (ps : List Pending) : Mach :=
  match ps with
  | [] => m
  | p :: ps =>
    match p.again with
    | some i => reissueWide fw m p.tid p.setk i
    | none => (p :: ps).foldl (fun m x => resumeIfFree m c x.tid x.gno) m

/-- The set-wide faults of a context that are free to leave. -/
def settleSets (fw : Firmware) (m : Mach) (c : BitVec 12) : Mach :=
  match m.ctx? c with
  | none => m
  | some k =>
    let qs := freeSets k (actedSets k) (actedSets k).length
    (qs.map (fun q => k.pend.filter (fun p => p.seq == q))).foldl (releaseSet fw c) (dropPend m c (fun x => qs.contains x.seq))

/-! ### The completion-word add (R402, R425) -/

/-- A `.sys` atomic add of 1 by the device at a word of a context. -/
def deviceAdd (m : Mach) (c : BitVec 12) (level : BitVec 2) (va : Nat) : Except Cause Unit × Mach :=
  let w : Who := { ctx := c, core := 96, level := level, grp := none }
  if globalEnd ≤ va then (.error 0xC0, m) else
  match atomHomeRead m w true va with
  | (.error e, m) => (.error e, m)
  | (.ok (v, a), m) => (.ok (), atomWrite m w .sys [(va, v + 1)] a)

/-- Make a grid's completion add, or hold it for service with its record. The grid ends with it. -/
def gridAdd (fw : Firmware) (m : Mach) (gid : Nat) : Mach :=
  match m.grid? gid with
  | none => m
  | some g =>
    let finish := fun (m : Mach) => { m with grids := m.grids.filter (fun x => x.gid != gid) }
    if !g.cplen then finish m else
    match deviceAdd m g.ctx g.level g.cpladdr with
    | (.ok (), m) => finish m
    | (.error e, m) =>
      match takeSeq (m.setGrid { g with addHeld := true }) g.ctx with
      | (seq, m) =>
        let r : Rec :=
          { cause := e, setw := false, replay := isReplay e, info := false, unk := false, held := false, eng := true, ns := false
            setn := 0xFE, group := 0xFF, ctx := g.ctx, team := 0xFFFFFFFF, grid := g.serial, retired := 0, pc := 0, lmask := 0
            detail := 0, addr := BitVec.ofNat 64 g.cpladdr, aux := 0 }
        let p : Pending :=
          { seq := seq, cause := e, flags := r.flags, setn := 0xFE, tid := 0, gno := 255, pc := 0, lmask := 0
            addr := BitVec.ofNat 64 g.cpladdr, detail := 0, aux := 0, npc := none, again := none, wid := none, add := some gid, acted := false }
        fqPost fw (m.modCtx g.ctx (fun k => { k with pend := k.pend ++ [p] })) g.ctx (r.bytes seq)

/-! ### SVDONE (R392, R426) -/

/-- ACT is allowed for the record. -/
def actOk (p : Pending) (act : BitVec 2) : Bool :=
  if p.add.isSome then act != 1
  else if p.cause = 3 then act == 0 || act == 3
  else if p.cause = 0x342 then act == 2
  else if p.eng && !p.replay then act == 0 || act == 2
  else if p.replay then act != 1
  else act != 3 && !(p.cause == 0x281 && act == 0)

/-- The hit of a record: its lanes, with the lanes of its instruction that are left. -/
def hitOf (m : Mach) (x : Pending) : Hit :=
  match (m.group? { tid := x.tid, gno := x.gno }).bind (fun g => g.redo) with
  | some d => { gno := x.gno, lmask := x.lmask, left := d.left, fin := d.fin }
  | none => { gno := x.gno, lmask := x.lmask, left := 0, fin := 0 }

/-- The watchpoints that the lanes done under a record met (R457). -/
def watchOf (m : Mach) (x : Pending) : List (Nat × Nat × DWord) :=
  (((m.group? { tid := x.tid, gno := x.gno }).map Group.metWatch).getD []).map (fun w => (x.gno, w))

/-- A refused page (R392, R426): the lanes fault with cause 0x100, and a SUSPENDED record with a new SEQ follows, which
names what the first named and resumes where the first would have; of a bulk transfer it is set-wide, with the PC of its
rendezvous in AUX (R389). The work of an ENG record stays stopped for good. -/
def refuse (fw : Firmware) (m : Mach) (c : BitVec 12) (ps : List Pending) : Mach :=
  match ps with
  | [] => m
  | p :: _ =>
    let m := dropPend m c (fun x => x.seq == p.seq)
    let seq := ((m.ctx? c).map (fun k => k.seq)).getD 0
    let bulk := ofBulk m p
    let aux := match (p.wid.bind (fun w => m.work? p.tid w)).map (fun w => w.kind) with
      | some (.bulk _ _ _ _ _ _ _ pc) => pc
      | _ => p.aux
    let redo := ps.findSome? (fun x => (m.group? { tid := x.tid, gno := x.gno }).bind (fun g => g.redo.map (fun d => d.i)))
    let hits := if bulk then ((m.team? p.tid).map (fun t => (liveMembers t none).map (fun n => { gno := n, lmask := 0, left := 0, fin := 0 : Hit }))).getD []
      else ps.map (hitOf m)
    let x : Stop :=
      { cause := 0x100, hits := hits, set := if bulk then some none else if p.setw then some p.setk else none, addr := p.addr, detail := p.detail
        aux := aux, unk := false, eng := p.eng, nonstop := false, wid := p.wid, refused := true
        redo := if p.eng then none else redo, watch := ps.flatMap (watchOf m), npc := 0, pcAt := none }
    let m := match p.wid with
      | some w => m.modWork p.tid w (fun x => { x with st := .refused })
      | none => if p.eng then m else ps.foldl (fun m x => m.modGroup { tid := x.tid, gno := x.gno } (fun g =>
          if g.status = .parked .replay && !(m.ctx? c).any (fun k => heldBack k x.tid x.gno) then g.resume else g)) m
    (takeStop fw m p.tid x).modCtx c (fun k => { k with pend := k.pend.map (fun y =>
      if y.seq == seq then { y with npc := (ps.find? (fun o => o.gno == y.gno)).bind (fun o => o.npc), again := p.again } else y) })

/-- ACT 0b10 on records (R392, R426): cancelled work, and the exits. -/
def terminate (m : Mach) (c : BitVec 12) (ps : List Pending) : Mach :=
  match ps with
  | [] => m
  | p :: _ =>
    let bulk := ofBulk m p
    let m := dropPend m c (fun x => x.seq == p.seq)
    let m := match p.wid with
      | some w => m.modWork p.tid w (fun x => { x with st := .cancelled })
      | none => m
    if bulk then endSet m c p.tid none
    else if p.setw then endSet m c p.tid p.setk
    else ps.foldl (fun m x => endGroup m c x.tid x.gno) m

/-- ACT 0b00 (R392, R426, R427). -/
def reexecute (fw : Firmware) (m : Mach) (c : BitVec 12) (ps : List Pending) : Mach :=
  match ps with
  | [] => m
  | p :: _ =>
    let drop := fun (m : Mach) => dropPend m c (fun x => x.seq == p.seq)
    match p.add, p.wid with
    | some g, _ => gridAdd fw (drop m) g
    | none, some w =>
      if p.cause = 3 then workDone (drop m) p.tid w
      else
        let m := m.modWork p.tid w (fun x => if x.st = .stopped then { x with st := .run, inOrder := true } else x)
        if p.setw && p.stops then m.modCtx c (fun k =>
          { k with pend := k.pend.map (fun x => if x.seq == p.seq then { x with acted := true } else x) })
        else resumeIfFree (drop m) c p.tid p.gno
    | none, none =>
      if p.setw then m.modCtx c (fun k =>
        { k with pend := k.pend.map (fun x => if x.seq == p.seq then { x with acted := true } else x) })
      else resumeIfFree (drop m) c p.tid p.gno

/-- ACT 0b01: every group goes on at its N, the instruction's kept effects standing; one that the record met between its
instructions goes on where it stands, and lanes that a loss ended are not executed again (R429). -/
def resumeAt (m : Mach) (c : BitVec 12) (ps : List Pending) : Mach :=
  ps.foldl (fun m p =>
    let m := dropPend m c (fun x => x.seq == p.seq && x.gno == p.gno && x.tid == p.tid)
    let m := m.modGroup { tid := p.tid, gno := p.gno } (fun g => { g with lost := g.lost.filter (fun x => x.seq != p.seq) })
    let m := match p.npc with
      | some n => m.modGroup { tid := p.tid, gno := p.gno } (fun g => { g with redo := none, genRes := [], siteAt := none, stale := false, lostRd := none, pc := n })
      | none => m
    resumeIfFree m c p.tid p.gno) m

/-- Act on the records of one SEQ. -/
def doAct (fw : Firmware) (m : Mach) (c : BitVec 12) (act : BitVec 2) (ps : List Pending) : Mach :=
  let m := match ps with
    | [] => m
    | p :: _ =>
      match act.toNat with
      | 0 => reexecute fw m c ps
      | 1 => resumeAt m c ps
      | 2 =>
        (match p.add with
         | some g => { dropPend m c (fun x => x.seq == p.seq) with grids := m.grids.filter (fun x => x.gid != g) }
         | none => terminate m c ps)
      | _ =>
        match p.add, p.wid with
        | some g, _ => { dropPend m c (fun x => x.seq == p.seq) with grids := m.grids.filter (fun x => x.gid != g) }
        | none, some w =>
          if p.cause = 3 then workDone (dropPend m c (fun x => x.seq == p.seq)) p.tid w else refuse fw m c ps
        | none, none => refuse fw m c ps
  settleSets fw m c

/-- The records of a SEQ that nobody acted on. -/
def pendOf (k : Context) (seq : BitVec 32) : List Pending := k.pend.filter (fun p => p.seq == seq && !p.acted)

/-- A write of SVDONE (R392): STAT, and the action. Groups already stopped for a save are acted on at restore. -/
def svdone (fw : Firmware) (m : Mach) (c : BitVec 12) (seq : BitVec 32) (act : BitVec 2) : BitVec 2 × Mach :=
  match m.ctx? c with
  | none => (1, m)
  | some k =>
    match pendOf k seq with
    | [] => (1, m)
    | p :: ps =>
      if k.acts.any (fun a => a.1 == seq) then (1, m)
      else if !actOk p act then (2, m)
      else if k.st = .running then (0, doAct fw m c act (p :: ps))
      else (0, m.modCtx c (fun k => { k with acts := k.acts ++ [(seq, act)] }))

/-- The actions kept in the save image are performed (R437). -/
def performActs (fw : Firmware) (m : Mach) (c : BitVec 12) : Mach :=
  match m.ctx? c with
  | none => m
  | some k =>
    k.acts.foldl (fun m a =>
      match m.ctx? c with
      | some k => doAct fw m c a.2 (pendOf k a.1)
      | none => m) (m.modCtx c (fun k => { k with acts := [] }))

/-- An SVDONE event is pending: a record with this SEQ allows the action. -/
def svPending (m : Mach) (c : BitVec 12) (seq : BitVec 32) (act : BitVec 2) : Bool :=
  match m.ctx? c with
  | none => false
  | some k => (pendOf k seq).head?.any (fun p => actOk p act) && !k.acts.any (fun a => a.1 == seq)

/-- SVDONE_REEXECUTE, R392. -/
def execSvdoneReexecute (ctx : BitVec 12) (seq : BitVec 32) (s : State) : Host.Outcome State Fault Refusal :=
  event s (svPending s.m ctx seq 0) (fun fw m => (svdone fw m ctx seq 0).2)
/-- SVDONE_RESUME, R392. -/
def execSvdoneResume (ctx : BitVec 12) (seq : BitVec 32) (s : State) : Host.Outcome State Fault Refusal :=
  event s (svPending s.m ctx seq 1) (fun fw m => (svdone fw m ctx seq 1).2)
/-- SVDONE_TERMINATE, R392. -/
def execSvdoneTerminate (ctx : BitVec 12) (seq : BitVec 32) (s : State) : Host.Outcome State Fault Refusal :=
  event s (svPending s.m ctx seq 2) (fun fw m => (svdone fw m ctx seq 2).2)
/-- SVDONE_REFUSE, R392. -/
def execSvdoneRefuse (ctx : BitVec 12) (seq : BitVec 32) (s : State) : Host.Outcome State Fault Refusal :=
  event s (svPending s.m ctx seq 3) (fun fw m => (svdone fw m ctx seq 3).2)

/-- A write of FQHEAD: slots free, and held records are written (R388, R390). -/
def writeFqhead (fw : Firmware) (m : Mach) (c : BitVec 12) (v : BitVec 16) : Mach :=
  fqDrain fw (m.modCtx c (fun k => { k with fqhead := v })) c 4097

/-- The context is saved, so that a supervisor's write of one of its registers takes effect at restore (R441). -/
def isSaved (m : Mach) (c : BitVec 12) : Bool := (m.ctx? c).any (fun k => k.st == .saved)
/-- A write that waits for the restore (R441). -/
def writeLate (m : Mach) (c : BitVec 12) (i : BitVec 8) (v : DWord) : Mach := m.modCtx c (fun k => { k with late := k.late ++ [(i, v)] })

/-- FQHEAD_WRITE, R388, R441. A write with a nonzero reserved bit changes nothing (R15). -/
def execFqheadWrite (ctx : BitVec 12) (v : BitVec 64) (s : State) : Host.Outcome State Fault Refusal :=
  event s ((s.m.ctx? ctx).isSome) (fun fw m =>
    if v.extractLsb' 16 48 ≠ 0 then m else if isSaved m ctx then writeLate m ctx 0x43 v else writeFqhead fw m ctx (v.setWidth 16))

end Sys2Proof.Machine
end

