-- ==== Sys2Proof/Machine/Launch.lean ====
section
/-! DEFINITION. Machine/Launch.lean: launch records and kernel descriptors (R368, R369, R396, R397) and launch queues
(R398 to R401). -/
namespace Sys2Proof.Machine

/-! ### Launch records (R396) -/

/-- A launch record as its layout gives it. -/
structure LRec where
  textb : Nat
  kdesc : Nat
  gx : Nat
  gy : Nat
  gz : Nat
  tlanes : Nat
  clx : Nat
  cly : Nat
  flags : BitVec 8
  param : DWord
  depaddr : Nat
  depval : BitVec 32
  cpladdr : Nat
  /-- every reserved byte and bit is 0 -/
  clean : Bool
deriving DecidableEq, Repr

/-- The little-endian field of n bytes at offset o. -/
def leField (b : List Byte) (o n : Nat) : Nat := ofLe ((b.drop o).take n)

def LRec.of (b : List Byte) : LRec :=
  { textb := leField b 0 8, kdesc := leField b 8 8, gx := leField b 16 4, gy := leField b 20 2, gz := leField b 22 2
    tlanes := leField b 24 2, clx := leField b 26 1, cly := leField b 27 1, flags := b.getD 28 0
    param := BitVec.ofNat 64 (leField b 32 8), depaddr := leField b 40 8, depval := BitVec.ofNat 32 (leField b 48 4)
    cpladdr := leField b 56 8
    clean := leField b 29 3 == 0 && leField b 52 4 == 0 && (b.getD 28 0).extractLsb' 5 3 == 0 }

def LRec.prio (r : LRec) : BitVec 2 := r.flags.extractLsb' 0 2
def LRec.depen (r : LRec) : Bool := r.flags.getLsbD 2
def LRec.cplen (r : LRec) : Bool := r.flags.getLsbD 3
def LRec.acc (r : LRec) : Bool := r.flags.getLsbD 4
/-- Groups per team (R21). -/
def LRec.ngroups (r : LRec) : Nat := (r.tlanes + 31) / 32
def LRec.clsize (r : LRec) : Nat := r.clx * r.cly
def LRec.teams (r : LRec) : Nat := r.gx * r.gy * r.gz

/-! ### Kernel descriptors (R368) -/

def KDesc.of (b : List Byte) : KDesc :=
  { entry := leField b 0 8, valloc := leField b 16 2, carve := leField b 18 2, spsz := leField b 20 4, stksz := leField b 24 4
    spfmt := b.getD 28 0, nbar := leField b 29 1, histn := leField b 30 1, qlim := leField b 31 1, setmask := b.getD 32 0
    setoff := (List.range 8).map (fun k => leField b (40 + 2 * k) 2) }

/-- The limits of R369. -/
def KDesc.ok (d : KDesc) : Bool :=
  decide (d.valloc % 8 = 0 ∧ 8 ≤ d.valloc ∧ d.valloc ≤ 256)
    && [0, 256, 512, 1024, 1536, 1920].contains d.carve
    && decide (d.spsz % 4096 = 0 ∧ d.spsz ≤ d.carve * 1024)
    && decide (d.stksz % 16 = 0 ∧ d.stksz ≤ 65536)
    && decide (d.spfmt.toNat ≤ 14 ∧ d.nbar ≤ 96 ∧ d.histn ≤ 8 ∧ d.qlim ≤ 3)

/-- Bytes that hardware reads at the home for a context; none where a read fails. -/
def homeBytes (m : Mach) (c : BitVec 12) (va n : Nat) : Option (List Byte) :=
  (List.range ((n + va % 4 + 3) / 4)).foldl (fun r i =>
    match r with
    | none => none
    | some bs =>
      let a := va - va % 4 + 4 * i
      if globalEnd ≤ a then none else
      match (homeWord m c a).1 with
      | .ok w => some (bs ++ [getByte w 0, getByte w 1, getByte w 2, getByte w 3])
      | .error _ => none) (some []) |>.map (fun bs => (bs.drop (va % 4)).take n)

/-- What such a read leaves in TLBs and memory-side caches. -/
def homeTouch (m : Mach) (c : BitVec 12) (va n : Nat) : Mach :=
  (List.range ((n + va % 4 + 3) / 4)).foldl (fun m i => if globalEnd ≤ va - va % 4 + 4 * i then m else (homeWord m c (va - va % 4 + 4 * i)).2) m

/-- The descriptor of a record. -/
def descOf (m : Mach) (c : BitVec 12) (r : LRec) : Option KDesc := (homeBytes m c r.kdesc 64).map KDesc.of

/-- The dies of a partition (R403). -/
def partDies (fw : Firmware) (p : BitVec 3) : List Nat := ((fw.parts.getD p.toNat []).map (fun h => h / 2)).eraseDups

/-- Some die of the partition has a stack pool that can hold a team (R397). -/
def poolFits (fw : Firmware) (k : Context) (d : KDesc) (groups : Nat) : Bool :=
  d.stksz == 0 || (partDies fw k.part).any (fun x => match k.pools[x]? with
    | some p => decide (32 * d.stksz ≤ p.blksz ∧ groups ≤ p.nblk)
    | none => false)

/-- A record is well formed (R397). -/
def recordOk (fw : Firmware) (m : Mach) (k : Context) (r : LRec) : Bool :=
  r.clean && decide (r.textb % 8 = 0 ∧ r.kdesc % 64 = 0 ∧ 1 ≤ r.gx ∧ 1 ≤ r.gy ∧ 1 ≤ r.gz)
    && decide (1 ≤ r.tlanes ∧ r.tlanes ≤ 1024 ∧ 1 ≤ r.clx ∧ r.clx ≤ 6 ∧ 1 ≤ r.cly ∧ r.cly ≤ 4)
    && decide (r.clsize ≤ 12 ∧ r.teams % r.clsize = 0 ∧ r.teams < 2 ^ 32)
    && decide (r.depaddr % 4 = 0 ∧ r.cpladdr % 4 = 0)
    && (r.depen || r.depaddr == 0) && (r.cplen || r.cpladdr == 0)
    && (match descOf m k.cid r with
        | some d => d.ok && decide (d.valloc * 128 * r.ngroups ≤ 2 ^ 22) && poolFits fw k d r.ngroups
        | none => false)

/-! ### Launch queues (R398, R399) -/

/-- An entry of the launch-queue table. -/
structure LQueue where
  base : Nat
  log2n : Nat
  mode : Nat
  tail : BitVec 32
  head : BitVec 32
  clean : Bool
deriving DecidableEq, Repr

def lqAddr (k : Context) (q : BitVec 4) : Nat := k.lqtab + 64 * q.toNat
/-- Entry q as the device reads it. -/
def lqueue (m : Mach) (k : Context) (q : BitVec 4) : LQueue :=
  let b := physBytes m (lqAddr k q) 64
  { base := leField b 0 8, log2n := leField b 8 1, mode := leField b 9 1, tail := BitVec.ofNat 32 (leField b 16 4)
    head := BitVec.ofNat 32 (leField b 20 4), clean := leField b 10 6 == 0 && leField b 24 40 == 0 }
/-- What reading entry q leaves in the stack's memory-side cache (R118). -/
def lqTouch (m : Mach) (k : Context) (q : BitVec 4) : Mach := mscReads m (lqAddr k q) 64
/-- The queue is not disabled. -/
def LQueue.on (x : LQueue) : Bool :=
  x.base != 0 && x.base % 64 == 0 && decide (4 ≤ x.log2n ∧ x.log2n ≤ 12 ∧ x.mode ≤ 1) && x.clean
def LQueue.full (x : LQueue) : Bool := (x.tail - x.head).toNat == 2 ^ x.log2n
def LQueue.slot (x : LQueue) (i : BitVec 32) : Nat := x.base + 64 * (i.toNat % 2 ^ x.log2n)

/-- Write a record into the slot at TAIL and increment TAIL (R399). -/
def appendRecord (m : Mach) (k : Context) (q : BitVec 4) (b : List Byte) : Mach :=
  let x := lqueue m k q
  setPhysBytes (setHomeBytes (lqTouch m k q) k.cid (x.slot x.tail) b) (lqAddr k q + 16) (leBytes 4 (x.tail + 1).toNat)

/-- The groups of a context that wait for a place in queue q, with the time they parked. -/
def launchWaiters (m : Mach) (c : BitVec 12) (q : BitVec 4) : List (GRef × Nat × List Byte) :=
  (m.teams.filter (fun t => t.ctx == c)).flatMap (fun t => t.groups.filterMap (fun g => match g.waits with
    | some (.launch q' b) => if q' = q then some ({ tid := t.tid, gno := g.gno }, g.since, b) else none
    | _ => none))

/-- A place has freed: the group that waited longest appends its record (R353). -/
def wakeLaunch (m : Mach) (c : BitVec 12) (q : BitVec 4) : Mach :=
  match m.ctx? c with
  | none => m
  | some k =>
    if (lqueue m k q).full then m else
    match launchWaiters m c q with
    | [] => m
    | w :: ws =>
      let x := ws.foldl (fun a b => if b.2.1 < a.2.1 then b else a) w
      unparkGroup (appendRecord m k q x.2.2) x.1 c

end Sys2Proof.Machine
end

