-- ==== Sys2Proof/Machine/System.lean ====
section
/-! DEFINITION. Machine/System.lean: launch, special registers, debug and site reset (R81, R203, R353 to R357, R385 to R392). -/
namespace Sys2Proof.Machine

/-! ### LAUNCH (R353) -/

def launchOp (a : Opnd) (q : BitVec 17) : Op :=
  { chk := fun t _ _ => checkWants t.valloc [wEng a]
    body := groupBody (fun fw m t g _ =>
      let p := engVal g m.draw 0 a
      if 16 ≤ q.toNat then (m, .fail (Fail.whole 0x47))
      else if p.toNat % 64 ≠ 0 then (m, .fail (Fail.at 0xC1 p)) else
      match readWords16 (releaseBy (settle m (t.gref g)) (t.gref g) t.core .dev) t g p 16 [] with
      | (.error f, m) => (m, .fail f)
      | (.ok ws, m) =>
        let b := ws.flatMap (fun w => leBytes 4 w.toNat)
        match m.ctx? t.ctx with
        | none => (m, .fail (Fail.whole 0x300))
        | some k =>
          let qn : BitVec 4 := q.setWidth 4
          let x := lqueue m k qn
          let m := homeTouch (lqTouch m k qn) t.ctx (LRec.of b).kdesc 64
          if !recordOk fw m k (LRec.of b) || !x.on || x.mode != 0 then (m, .fail (Fail.at 0x300 p))
          else if x.full then (m, .park (.launch qn b))
          else (appendRecord m k qn b, .done)) }

/-! ### Special registers (R81, R354, R386) -/

/-- The width of a register: 64 bits or 32 (R354, R386). -/
def sregWide (i : Nat) : Bool :=
  i == 0x10 || i == 0x11 || i == 0x13 || i == 0x15 || i == 0x16 || decide (0x18 ≤ i ∧ i ≤ 0x1B) || decide (0x20 ≤ i ∧ i ≤ 0x2F)
    || decide (0x40 ≤ i ∧ i ≤ 0x45)

/-- The index is in the table of R81 or R386. -/
def sregKnown (i : Nat) : Bool := decide (i ≤ 0x1B ∨ (0x20 ≤ i ∧ i ≤ 0x2F) ∨ (0x40 ≤ i ∧ i ≤ 0x45))

/-- Every lane has its own value. -/
def sregLane (i : Nat) : Bool := i == 0 || i == 1

/-- ACCST (R79). -/
def accst (m : Mach) (core : Nat) : DWord :=
  ((List.range 4).map (fun k =>
    let x := m.tile core (BitVec.ofNat 2 k)
    let hold := match x.holder with
      | .nobody => 0
      | .engine _ _ => 1
      | .group _ _ => 2
    let grp := match x.holder with
      | .group _ g => g
      | _ => 0
    let ty := match x.ty with
      | .f32 => 0
      | .i32 => 1
      | .i32s => 2
    (hold * 2 ^ 14 + x.inuse.toNat * 2 ^ 13 + x.dirty.toNat * 2 ^ 12 + ty * 2 ^ 10 + grp % 32) * 2 ^ (16 * k)) : List Nat).foldl
      (fun a v => a + BitVec.ofNat 64 v) 0

/-- CAP0 to CAP3 (R472). -/
def capOf (fw : Firmware) (m : Mach) (i : Nat) : DWord :=
  match i with
  | 0 => BitVec.ofNat 64 (2 + fw.form.toNat * 2 ^ 4 + m.modt.toNat * 2 ^ 6 + fw.lmode.toNat * 2 ^ 8 + fw.ncore.toNat * 2 ^ 16)
  | 1 => BitVec.ofNat 64 (512 + (if m.modt then 1024 else 0) * 2 ^ 16)
  | 2 => fw.links.setWidth 64
  | _ => 0

/-- The value of a special register as a group reads it, in one lane where it is per lane. -/
def sregVal (fw : Firmware) (m : Mach) (t : Team) (g : Group) (i lane : Nat) : DWord :=
  let k := m.ctx? t.ctx
  let gr := m.grid? t.gid
  let dx := (gr.map (fun x => x.dimX)).getD 1
  let dy := (gr.map (fun x => x.dimY)).getD 1
  let dz := (gr.map (fun x => x.dimZ)).getD 1
  let n := fun (x : Nat) => BitVec.ofNat 64 x
  let ctx := fun {w : Nat} (f : Context → BitVec w) => ((k.map (fun k => (f k).setWidth 64)).getD 0 : DWord)
  match i with
  | 0x00 => n lane
  | 0x01 => n (32 * g.gno + lane)
  | 0x02 => n g.gno
  | 0x03 => n t.groups.length
  | 0x04 => n (t.index % dx)
  | 0x05 => n (t.index / dx % dy)
  | 0x06 => n (t.index / dx / dy)
  | 0x07 => n dx
  | 0x08 => n dy
  | 0x09 => n dz
  | 0x0A => n t.clteam
  | 0x0B => n (m.clSize t)
  | 0x0C => n (t.core % 24)
  | 0x0D => n t.die
  | 0x0E => n g.slice
  | 0x0F => n t.valloc
  | 0x10 => n m.cycle
  | 0x11 => n (m.ftime / 65536)
  | 0x12 => n (m.ftime % 65536)
  | 0x13 => ctx (fun k => k.ctxb)
  | 0x14 => ctx (fun k => k.qlim)
  | 0x15 => ctx (fun k => k.rvlim)
  | 0x16 => accst m t.core
  | 0x17 => ctx (fun k => k.fpc)
  | 0x40 => ctx (fun k => (k.part.setWidth 15 <<< 12) ||| k.cid.setWidth 15)
  | 0x41 => ctx (fun k => k.fqbase)
  | 0x42 => ctx (fun k => k.log2n)
  | 0x43 => ctx (fun k => k.fqhead)
  | 0x44 => ctx (fun k => k.drop ++ k.fqtail)
  | 0x45 => g.stat.setWidth 64
  | i =>
    if 0x18 ≤ i ∧ i ≤ 0x1B then capOf fw m (i - 0x18)
    else if 0x20 ≤ i ∧ i ≤ 0x2F then
      ((m.parts.getD ((k.map (fun k => k.part.toNat)).getD 0) Part.initial).pcnt.getD (i - 0x20) 0)
    else 0

/-- SREAD (R81, R354). An index that is in no table takes 0x43 with the other illegal operands, before the operand classes: R241
gives this cause no row (DEDUCED, log entry 71). -/
def sreadOp (h : Hd) (d : Opnd) (idx : BitVec 8) : Op :=
  let i := idx.toNat
  let wide := sregWide i
  { chk := fun t _ _ =>
      if !sregKnown i || d.isBad then some 0x43
      else if (if h.grp then !d.isS || sregLane i else !d.isV) then some 0x44
      else checkWants t.valloc [{ o := d, ok := true, span := if wide then 2 else 1, pair := wide }]
    body := groupBody (fun fw m t g mb =>
      if 0x40 ≤ i ∧ t.level = 0 ∧ mb.act ≠ 0 then (m, .fail (Fail.whole 0x380)) else
      let v := fun l => sregVal fw m t g i l
      let m := m.modGroup (t.gref g) (fun g => g.produce (d.ids wide)
        (putVal g.present mb d wide (if wide || h.grp then 6 else 2) v))
      (if i = 0x44 ∧ mb.act ≠ 0 then acquireBy m (t.gref g) t.ctx t.core .dev fw.lmode else m, .done)) }

/-- A write of a context's register (R81, R354, R386 to R388): the trap it raises, or its effect. -/
def ctxWrite (fw : Firmware) (m : Mach) (c : BitVec 12) (i : Nat) (v : DWord) : Except Cause Mach :=
  let put := fun (f : Context → Context) => (Except.ok (m.modCtx c f) : Except Cause Mach)
  match i with
  | 0x13 => if v.extractLsb' 0 3 ≠ 0 then .error 0x41 else put (fun k => { k with ctxb := v })
  | 0x14 => if v.extractLsb' 2 62 ≠ 0 then .error 0x41 else put (fun k => { k with qlim := v.setWidth 2 })
  | 0x15 => if v.extractLsb' 16 48 ≠ 0 then .error 0x41 else put (fun k => { k with rvlim := v.setWidth 16 })
  | 0x17 => if v.extractLsb' 2 30 ≠ 0 then .error 0x41 else put (fun k => { k with fpc := v.setWidth 2 })
  | 0x41 => if v.extractLsb' 0 6 ≠ 0 then .error 0x41 else put (fun k => { k with fqbase := v })
  | 0x42 =>
    if v.extractLsb' 5 59 ≠ 0 then .error 0x41
    else if v.toNat < 4 ∨ 12 < v.toNat then .error 0x47
    else .ok (fqDrain fw (m.modCtx c (fun k => { k with log2n := v.setWidth 5 })) c 4097)
  | 0x43 => if v.extractLsb' 16 48 ≠ 0 then .error 0x41 else .ok (writeFqhead fw m c (v.setWidth 16))
  | _ => .ok m

/-- A supervisor's write of a register: a context register, or SVDONE, whose status the group keeps (R392). -/
def sregWrite (fw : Firmware) (m : Mach) (t : Team) (g : Group) (i : Nat) (v : DWord) : Except Cause Mach :=
  if i ≠ 0x45 then ctxWrite fw m t.ctx i v
  else if v.extractLsb' 32 30 ≠ 0 then .error 0x41
  else
    let r := svdone fw m t.ctx (v.setWidth 32) (v.extractLsb' 62 2)
    .ok (r.2.modGroup (t.gref g) (fun g => { g with stat := r.1 }))

/-- SWRITE (R81, R354); an index that is in no table as for SREAD (DEDUCED, log entry 71). -/
def swriteOp (idx : BitVec 8) (a : Opnd) : Op :=
  let i := idx.toNat
  { chk := fun t _ _ =>
      if !sregKnown i || a.isBad then some 0x43
      else checkWants t.valloc [wEng a]
    body := groupBody (fun fw m t g mb =>
      if mb.act = 0 then (m, .done) else
      if t.level = 0 then (m, .fail (Fail.whole 0x380)) else
      match sregWrite fw m t g i (engVal g m.draw 0 a) with
      | .error c => (m, .fail (Fail.whole c))
      | .ok m => (m, .done)) }

/-! ### Debug (R355, R356) -/

def bkptOp (code : BitVec 17) : Op :=
  { chk := noChk
    body := groupBody (fun _ m _ _ _ => (m, .fail { Fail.whole 0x280 with detail := code.setWidth 32, dbg := true })) }

def markOp (a : Opnd) (tag : BitVec 17) : Op :=
  { chk := fun t _ _ => checkWants t.valloc [wEng a]
    body := groupBody (fun fw m t g _ =>
      (traceGroup fw m (t.gref g) .mk ([0x05] ++ leBytes 2 (gidOf g) ++ leBytes 1 (locOf t)
        ++ leBytes 8 (engVal g m.draw 0 a).toNat ++ leBytes 4 tag.toNat), .done)) }

/-! ### SITERST (R203) -/

/-- The major opcode is that of a generic instruction (R199). -/
def genericMajor (w : DWord) : Bool := decide (0x30 ≤ (fMajor w).toNat ∧ (fMajor w).toNat ≤ 0x3A)

/-- The rewrites of a word that were computed from an earlier fetch are dropped: those under way, and those of the groups that
wait to execute their instruction again (R200, R203). -/
def dropRewrites (m : Mach) (c : BitVec 12) (va : Nat) : Mach :=
  let late := m.rewrites.filter (fun x => x.ctx == c && x.pc == va)
  let m := late.foldl (fun m x => m.modCore x.core (fun k => icacheDrop k c va)) m
  { m with
    rewrites := m.rewrites.filter (fun x => !(x.ctx == c && x.pc == va))
    teams := m.teams.map (fun t : Team => if t.ctx != c then t else
      { t with groups := t.groups.map (fun g : Group => if g.redo.isSome && g.pc.toNat == va then { g with stale := true } else g) }) }.countFix c 4 late.length

/-- Reset the site of one code word, if it is one on a Q page. A rewrite computed from an earlier fetch of it is dropped, the
word being reset already or not (R203). -/
def resetSite (m : Mach) (t : Team) (va : Nat) : Except Cause Unit × Mach :=
  match translate m t.ctx t.level .site va with
  | (.error c, m) => (.error c, m)
  | (.ok (_, a), m) =>
    if !a.q then (.ok (), m) else
    match homeWord m t.ctx va with
    | (.error c, m) => (.error c, m)
    | (.ok lo, m) =>
      match homeWord m t.ctx (va + 4) with
      | (.error c, m) => (.error c, m)
      | (.ok hi, m) =>
        if !genericMajor (hi ++ lo) then (.ok (), m) else
        let m := dropRewrites m t.ctx va
        (.ok (), if lo.extractLsb' 9 13 = 0x7E0 then m
          else setHomeWord m t.ctx va ((lo &&& ~~~(0x1FFF#32 <<< 9)) ||| (0x7E0#32 <<< 9)))

/-- Reset the words of a range in order; the first page that fails ends it. -/
def resetSites (m : Mach) (t : Team) (va : Nat) : Nat → Option (Cause × Nat) × Mach
  | 0 => (none, m)
  | n + 1 =>
    match resetSite m t va with
    | (.error c, m) => (some (c, va), m)
    | (.ok (), m) => resetSites m t (va + 8) n

/-- Drop the lines of a range in the instruction cache of every core. -/
def dropCode (m : Mach) (c : BitVec 12) (lo n : Nat) : Mach :=
  { m with cores := m.cores.map (fun k => { k with icache := k.icache.filter (fun l =>
      !(l.ctx == c && decide (0 < n ∧ l.va < lo + n ∧ lo < l.va + 128))) }) }

/-- SITERST (R203); it notes the address where a page is waited for, and goes on from there after its service. -/
def siterstOp (d a : Opnd) : Op :=
  { chk := fun t _ _ => checkWants t.valloc [wEng d, wEng a]
    body := groupBody (fun _ m t g _ =>
      if t.level = 0 then (m, .fail (Fail.whole 0x380)) else
      let lo := (engVal g m.draw 0 a).toNat
      let n := (engVal g m.draw 1 d).toNat
      if lo % 8 ≠ 0 ∨ n % 8 ≠ 0 then (m, .fail (Fail.at 0xC1 (BitVec.ofNat 64 lo)))
      else if n ≠ 0 ∧ globalEnd < lo + n then (m, .fail (Fail.at 0xC0 (BitVec.ofNat 64 lo)))
      else
        let from_ := g.siteAt.getD lo
        match resetSites m t from_ ((lo + n - from_) / 8) with
        | (some (c, va), m) => (m.modGroup (t.gref g) (fun g => { g with siteAt := if isReplay c then some va else none }), .fail (Fail.at c (BitVec.ofNat 64 va)))
        | (none, m) => (dropCode m t.ctx lo n, .done)) }

/-! ### The instructions -/

/-- LAUNCH, R353. -/
def opLaunch (h : Hd) (a : Opnd) (q : BitVec 17) : Op := launchOp a q
/-- LAUNCH, R353. -/
def execLaunch (h : Hd) (a : Opnd) (q : BitVec 17) (s : State) : Host.Outcome State Fault Refusal :=
  issue s h (.launch h a q) (opLaunch h a q)

/-- SREAD, R354. -/
def opSread (h : Hd) (d : Opnd) (idx : BitVec 8) : Op := sreadOp h d idx
/-- SREAD, R354. -/
def execSread (h : Hd) (d : Opnd) (idx : BitVec 8) (s : State) : Host.Outcome State Fault Refusal :=
  issue s h (.sread h d idx) (opSread h d idx)

/-- SWRITE, R354. -/
def opSwrite (h : Hd) (idx : BitVec 8) (a : Opnd) : Op := swriteOp idx a
/-- SWRITE, R354. -/
def execSwrite (h : Hd) (idx : BitVec 8) (a : Opnd) (s : State) : Host.Outcome State Fault Refusal :=
  issue s h (.swrite h idx a) (opSwrite h idx a)

/-- BKPT, R355. -/
def opBkpt (h : Hd) (code : BitVec 17) : Op := bkptOp code
/-- BKPT, R355. -/
def execBkpt (h : Hd) (code : BitVec 17) (s : State) : Host.Outcome State Fault Refusal :=
  issue s h (.bkpt h code) (opBkpt h code)

/-- MARK, R356. -/
def opMark (h : Hd) (a : Opnd) (tag : BitVec 17) : Op := markOp a tag
/-- MARK, R356. -/
def execMark (h : Hd) (a : Opnd) (tag : BitVec 17) (s : State) : Host.Outcome State Fault Refusal :=
  issue s h (.mark h a tag) (opMark h a tag)

/-- SITERST, R357. -/
def opSiterst (h : Hd) (d a : Opnd) : Op := siterstOp d a
/-- SITERST, R357. -/
def execSiterst (h : Hd) (d a : Opnd) (s : State) : Host.Outcome State Fault Refusal :=
  issue s h (.siterst h d a) (opSiterst h d a)

end Sys2Proof.Machine
end

