-- ==== Sys2Proof/Machine/EngineWork.lean ====
section
/-! DEFINITION. Machine/EngineWork.lean: what the engines do with the work that was issued (R139 to R158, R209, R215, R220,
R425, R428), and the time limits of a single group's waits (R42, R151, R217, R224, R335). -/
namespace Sys2Proof.Machine

/-! ### Shared -/

/-- A piece of work that its engine may go on with. -/
def runningWork (m : Mach) (tid wid : Nat) : Option (Team × Work) :=
  match m.team? tid with
  | none => none
  | some t => (t.works.find? (fun w => w.wid == wid && w.st == .run)).map (fun w => (t, w))

/-- The groups whose WAITM is met go on (R145, R335). -/
def wakeMaps (m : Mach) (tid : Nat) : Mach :=
  match m.team? tid with
  | none => m
  | some t => t.groups.foldl (fun m g => match g.waits with
    | some (.waitm o mask) => if waitmMet t o mask then unparkGroup m (t.gref g) t.ctx else m
    | _ => m) m

/-! ### Copies (R139 to R142) -/

/-- Read words at generic addresses, as a lane of the issuing group sees them; the first failure ends it. -/
def readList (m : Mach) (t : Team) (w : Work) (lane : Nat) : List DWord → List Word → List Word × Option (Cause × DWord) × Mach
  | [], acc => (acc, none, m)
  | x :: r, acc =>
    match engReadWord m t w lane x with
    | (.error c, m) => (acc, some (c, x), m)
    | (.ok v, m) => readList m t w lane r (acc ++ [v])

/-- The addresses of n consecutive words. -/
def wordRun (a : DWord) (n : Nat) : List DWord := (List.range n).map (fun i => a + BitVec.ofNat 64 (4 * i))

/-- Write consecutive words at a generic address: how many were written, and the first failure. -/
def writeRun (m : Mach) (t : Team) (gno lane : Nat) (a : DWord) : List Word → Nat → Nat × Option (Cause × DWord) × Mach
  | [], n => (n, none, m)
  | v :: r, n =>
    match engWriteWord m t gno lane a v with
    | (.error c, m) => (n, some (c, a), m)
    | (.ok (), m) => writeRun m t gno lane (a + 4) r (n + 1)

/-- The unit of work is done (`Work.part`). -/
def Work.did (w : Work) (k : Nat × Nat) : Bool := w.part.contains k
/-- Units of work are done. -/
def Mach.addPart (m : Mach) (tid wid : Nat) (ks : List (Nat × Nat)) : Mach := m.modWork tid wid (fun w => { w with part := w.part ++ ks })

/-- The bytes that a copy writes: where its source overlaps its own destination, each byte is the source byte from before
the copy or the value that this copy writes there (R141). `d` is the source address less the destination address. -/
def overlapBytes (draw : Nat) (d : Int) (src : List Byte) : List Byte :=
  let n := src.length
  if d = 0 ∨ (n : Int) ≤ d.natAbs then src else
  let order := if 0 < d then (List.range n).reverse else List.range n
  let out := order.foldl (fun (acc : List (Nat × Byte)) (i : Nat) =>
    let j : Int := (i : Int) + d
    let old := src.getD i 0
    let v := if 0 ≤ j ∧ j < n then
        (match acc.find? (fun x => x.1 == j.toNat) with
         | some x => if x.2 = old ∨ Config.pick draw 41 i % 2 = 0 then old else x.2
         | none => old)
      else old
    (i, v) :: acc) []
  (List.range n).map (fun i => ((out.find? (fun x => x.1 == i)).map (fun x => x.2)).getD 0)

/-- The words that bytes make. -/
def wordsOf (bs : List Byte) : List Word :=
  (List.range (bs.length / 4)).map (fun i =>
    bs.getD (4 * i + 3) 0 ++ bs.getD (4 * i + 2) 0 ++ bs.getD (4 * i + 1) 0 ++ bs.getD (4 * i) 0)

/-- The source addresses of a row operation. -/
def rowSrcs (op : RowOp) (a b : DWord) : List DWord :=
  match op with
  | .fill => []
  | .cpy | .not => [a]
  | .and | .or | .xor => [a, b]

/-- The address lies in a frame that a row operation of the group which is not complete reads or writes (R154). -/
def rowFrames (t : Team) (gno va : Nat) : Bool :=
  t.works.any (fun w => w.gno == gno && (match w.kind with
    | .row op dst a b f _ => (dst :: rowSrcs op a b).any (fun x => decide (x.toNat ≤ va ∧ va < x.toNat + 2048 * f))
    | _ => false))

/-- The words that a copy has read or written so far, or that it has left, on its source or its destination side: lane and
generic address. -/
def Work.copyWords (w : Work) (src done : Bool) : List (Nat × DWord) :=
  match w.kind with
  | .copy dst s len total _ =>
    let a := if src then s else dst
    if done then (wordRun (a - BitVec.ofNat 64 (total - len)) ((total - len) / 4)).map (fun x => (0, x))
    else (wordRun a (len / 4)).map (fun x => (0, x))
  | .copyl ls size => ls.flatMap (fun l => ((List.range (size / 4)).filter (fun k => w.did (l.1, 4 * k) == done)).map (fun k =>
      (l.1, (if src then l.2.2 else l.2.1) + BitVec.ofNat 64 (4 * k))))
  | _ => []

/-- The global addresses of such words; a word of the stack aperture lies where R110 puts it. -/
def Work.copyVas (m : Mach) (t : Team) (w : Work) (src done : Bool) : List Nat :=
  (w.copyWords src done).filterMap (fun x => match engLoc m t w.gno x.1 x.2 with
    | .ok (.glob va) => some va
    | _ => none)

/-- The frames, numbered by address / 2048, that a copy has begun to write or to read and has not done with. -/
def Work.midFrames (m : Mach) (t : Team) (w : Work) : List Nat :=
  [false, true].flatMap (fun src => ((w.copyVas m t src true).map (fun a => a / 2048)).filter (fun f =>
    (w.copyVas m t src false).any (fun a => a / 2048 == f)))

/-- A copy of the group has begun a frame that satisfies `f`, and is not done with it: a row operation on that frame waits, so
that no frame holds a mixture (R384). -/
def frameBusy (m : Mach) (t : Team) (w : Work) (f : Nat → Bool) : Bool :=
  t.works.any (fun x => x.wid != w.wid && x.gno == w.gno && (x.st == .run || x.st == .stopped) && (x.midFrames m t).any f)

/-- A word goes home from wherever the core's die holds it. -/
def wordHome (m : Mach) (core : Nat) (c : BitVec 12) (va : Nat) : Mach := rdcEvict (l1Evict m core c va) (dieOf core) c va

/-- What a copy wrote into a frame of such an operation goes to its home, so that the row operation finds the frame as the copy
left it, and no word of the copy covers the row operation's result later (R384). -/
def frameHome (m : Mach) (t : Team) (gno lane : Nat) (dst : DWord) (n : Nat) : Mach :=
  (wordRun dst n).foldl (fun m a => match engLoc m t gno lane a with
    | .ok (.glob va) => if rowFrames t gno va then wordHome m t.core t.ctx va else m
    | _ => m) m

/-- CPY: all that is left of it, or up to its first fault (R141, R142). -/
def runCopy (fw : Firmware) (m : Mach) (t : Team) (w : Work) (dst src : DWord) (len total : Nat) (bar : Option Nat) : Mach :=
  match readList m t w 0 (wordRun src (len / 4)) [] with
  | (ws, rf, m) =>
    let bs := overlapBytes m.draw ((src.toNat : Int) - dst.toNat) (ws.flatMap (fun v => [getByte v 0, getByte v 1, getByte v 2, getByte v 3]))
    match writeRun m t w.gno 0 dst (wordsOf bs) 0 with
    | (n, wf, m) =>
      let m := frameHome m t w.gno 0 dst n
      match (match wf with
        | some f => some f
        | none => rf) with
      | some (c, a) =>
        stopWork fw (m.modWork t.tid w.wid (fun w =>
          { w with kind := .copy (dst + BitVec.ofNat 64 (4 * n)) (src + BitVec.ofNat 64 (4 * n)) (len - 4 * n) total bar }))
          t.tid w c a
      | none => workDone (barLower? fw (frameHome m t w.gno 0 (dst - BitVec.ofNat 64 (total - len)) (total / 4)) t.tid bar total) t.tid w.wid

/-- The words that a CPYL has left: lane, byte, destination and source. -/
def lanesLeft (w : Work) (ls : List (Nat × DWord × DWord)) (size : Nat) : List (Nat × Nat × DWord × DWord) :=
  ls.flatMap (fun l => ((List.range (size / 4)).filter (fun k => !w.did (l.1, 4 * k))).map (fun k =>
    (l.1, 4 * k, l.2.1 + BitVec.ofNat 64 (4 * k), l.2.2 + BitVec.ofNat 64 (4 * k))))

/-- CPYL: the words left, in order, up to its first fault. A source word that an earlier lane wrote reads as either value
(R141); `old` holds the sources from before. -/
def runCopyl (fw : Firmware) (m : Mach) (t : Team) (w : Work) (old : List (Nat × Nat × Option Word)) : List (Nat × Nat × DWord × DWord) → Mach
  | [] => workDone m t.tid w.wid
  | (l, k, dst, src) :: r =>
    match engReadWord m t w l src with
    | (.error c, m) => stopWork fw m t.tid w c src
    | (.ok v, m) =>
      let o := ((old.find? (fun x => x.1 == l && x.2.1 == k)).bind (fun x => x.2.2)).getD v
      match engWriteWord m t w.gno l dst (if o = v ∨ Config.pick m.draw (42 + k / 4) l % 2 = 0 then v else o) with
      | (.error c, m) => stopWork fw m t.tid w c dst
      | (.ok (), m) => runCopyl fw ((frameHome m t w.gno l dst 1).addPart t.tid w.wid [(l, k)]) t w old r

/-- All that is left of a CPYL. -/
def finishCopyl (fw : Firmware) (m : Mach) (t : Team) (w : Work) (ls : List (Nat × DWord × DWord)) (size : Nat) : Mach :=
  let ks := lanesLeft w ls size
  let m := ls.foldl (fun m l => frameHome m t w.gno l.1 l.2.1 (size / 4)) m
  runCopyl fw m t w (ks.map (fun k => (k.1, k.2.1, match (engReadWord m t w k.1 k.2.2.2).1 with
    | .ok v => some v
    | .error _ => none))) ks

/-- COPY_COMPLETE, R141. -/
def execCopyComplete (tid wid : Nat) (s : State) : Host.Outcome State Fault Refusal :=
  let x := runningWork s.m tid wid
  let ok := x.any (fun y => (match y.2.kind with
    | .copy _ _ _ _ _ | .copyl _ _ => true
    | _ => false))
  event s ok (fun fw m => match x with
    | none => m
    | some (t, w) =>
      match w.kind with
      | .copy dst src len total bar => runCopy fw m t w dst src len total bar
      | .copyl ls size => finishCopyl fw m t w ls size
      | _ => m)

/-! ### Work that meets a fault (R142, R157) -/

/-- Bytes that a piece of work has still to read or to write, for a lane, from a generic address on. -/
structure Span where
  wr : Bool
  lane : Nat
  lo : Nat
  n : Nat

/-- The chunks of a multicast, and the bytes of one: offsets in the scratchpad. -/
def mcastChunks (doff len : Nat) : Nat := (doff + len - 1) / 512 - doff / 512 + 1
def mcastLo (doff chunk : Nat) : Nat := Nat.max doff (512 * (doff / 512 + chunk))
def mcastHi (doff len chunk : Nat) : Nat := Nat.min (doff + len) (512 * (doff / 512 + chunk) + 512)

/-- The scratchpad words of a chunk that a multicast has still to write for a receiver. -/
def mcastLeft (w : Work) (doff len r chunk : Nat) : List Nat :=
  ((List.range ((mcastHi doff len chunk - mcastLo doff chunk) / 4)).map (fun i => mcastLo doff chunk + 4 * i)).filter (fun p => !w.did (r, p))

/-- The (receiver, chunk) pairs that a multicast has still to deliver. -/
def mcastOpen (doff len : Nat) (rcv : List Nat) (fin : List (Nat × Nat)) : List (Nat × Nat) :=
  (rcv.flatMap (fun r => (List.range (mcastChunks doff len)).map (fun k => (r, k)))).filter (fun x => !fin.contains x)

/-- What a piece of work has left to do. -/
def Work.spans (w : Work) : List Span :=
  match w.kind with
  | .copy dst src len _ _ => [{ wr := false, lane := 0, lo := src.toNat, n := len }, { wr := true, lane := 0, lo := dst.toNat, n := len }]
  | .copyl ls size => (lanesLeft w ls size).flatMap (fun l =>
      [{ wr := false, lane := l.1, lo := l.2.2.2.toNat, n := 4 }, { wr := true, lane := l.1, lo := l.2.2.1.toNat, n := 4 }])
  | .mcast src len doff rcv _ _ fin => (mcastOpen doff len rcv fin).flatMap (fun x => (mcastLeft w doff len x.1 x.2).map (fun p =>
      { wr := false, lane := 0, lo := src.toNat + (p - doff), n := 4 }))
  | .row op dst a b f fin => ((List.range f).filter (fun i => !fin.contains i)).flatMap (fun i =>
      { wr := true, lane := 0, lo := dst.toNat + 2048 * i, n := 2048 } ::
        (rowSrcs op a b).map (fun x => { wr := false, lane := 0, lo := x.toNat + 2048 * i, n := 2048 : Span }))
  | .pgreq _ | .bulk _ _ _ _ _ _ _ _ | .plane _ _ _ | .put _ | .drain _ _ _ => []

/-- An access of a span at a generic address would meet this cause now. -/
def Span.fails (m : Mach) (t : Team) (gno : Nat) (c : Cause) (a : DWord) (x : Span) : Bool :=
  decide (x.lo ≤ a.toNat ∧ a.toNat < x.lo + x.n) && (match engLoc m t gno x.lane (a - a % 4) with
    | .error e => e == c
    | .ok (.sp _ _ _) => false
    | .ok (.glob va) =>
      (match (translate m t.ctx t.level (if x.wr then .engine else .load) va).1 with
       | .error e => e == c
       | .ok _ => false)
      || (!x.wr && c == 0x141 && isPoisoned m t.ctx va))

/-- The work has an access left that would meet this cause at this address now. -/
def wouldFail (m : Mach) (t : Team) (w : Work) (c : Cause) (a : DWord) : Bool := w.spans.any (Span.fails m t w.gno c a)

/-- The words of a row frame. -/
def frameWords (va : Nat) : List Nat := (List.range 512).map (fun i => va - va % 2048 + 4 * i)

/-- An HBM-backed address. -/
def inHbm (m : Mach) (c : BitVec 12) (va : Nat) : Bool :=
  match (findLeaf m c va).1 with
  | .ok l => leafTier l.leaf == 0
  | .error _ => false

/-- The operation checks its source codes in a frame (R157): AND and OR on every path; the others that have a source where
some frame of the operation is not HBM-backed. -/
def checksCodes (m : Mach) (c : BitVec 12) (op : RowOp) (frames : List Nat) : Bool :=
  match op with
  | .fill => false
  | .and | .or => true
  | .cpy | .not | .xor => frames.any (fun va => !inHbm m c va)

/-- Frame i of a row operation, destination first. -/
def rowFrame (op : RowOp) (dst a b : DWord) (i : Nat) : List Nat := (dst :: rowSrcs op a b).map (fun x => x.toNat + 2048 * i)

/-- A row-data fault (R157): the destination frame is poisoned and the operation stops. -/
def rowData (fw : Firmware) (m : Mach) (t : Team) (w : Work) (va : Nat) (a : DWord) : Mach :=
  stopWork fw ((frameWords va).foldl (fun m x => addPoison m t.ctx x) m) t.tid w 0x1C9 a

/-- The frame of a row operation, not yet complete, that a row-data fault at this destination address would concern: whether its
codes are checked is decided as in `writeFrame` (log entry 79). -/
def rowDataAt (m : Mach) (c : BitVec 12) (k : WorkKind) (a : DWord) : Bool :=
  match k with
  | .row op dst x y f fin =>
    let i := (a.toNat - dst.toNat) / 2048
    decide (dst.toNat ≤ a.toNat ∧ i < f) && !fin.contains i && checksCodes m c op (rowFrame op dst x y i)
  | _ => false

/-- ENGINE_WORK_STOP, R142: a copy, multicast or row operation meets a fault; a row-data fault poisons the destination
frame (R157). -/
def execEngineWorkStop (tid wid : Nat) (cause : BitVec 10) (addr : BitVec 64) (s : State) : Host.Outcome State Fault Refusal :=
  let x := runningWork s.m tid wid
  let ok := x.any (fun y => wouldFail s.m y.1 y.2 cause addr || (cause == 0x1C9 && rowDataAt s.m y.1.ctx y.2.kind addr))
  event s ok (fun fw m => match x with
    | none => m
    | some (t, w) => if cause = 0x1C9 then rowData fw m t w addr.toNat addr else stopWork fw m tid w cause addr)

/-! ### Bulk transfers (R143 to R146, R334, R428) -/

/-- What one chunk of a bulk load writes: each scratchpad byte with the slice that it comes from (R35, R143). -/
def bulkLoadBytes (sl : List (Nat × BitVec 512)) (lo : Nat) : List (Nat × Nat × BSrc) :=
  (List.range 512).filterMap (fun i =>
    let p := lo + i
    (sl.reverse.findSome? (fun x => let s := Shape.of x.2
      (s.denseOf p).map (fun o => (x.1, s.byteAt o)))).map (fun y => (p, y.1, y.2)))

/-- What one chunk of a bulk store writes: memory byte, slice, scratchpad byte. A byte that a slice of higher ordinal
writes too is left to that slice (R35). -/
def bulkStoreBytes (sl : List (Nat × BitVec 512)) (lo : Nat) : List (Nat × Nat × Nat) :=
  (List.range sl.length).flatMap (fun k =>
    match sl[k]? with
    | none => []
    | some x =>
      let s := Shape.of x.2
      (List.range 512).filterMap (fun i =>
        let p := lo + i
        match s.denseOf p with
        | none => none
        | some o =>
          if !s.inside o then none else
          match s.byteAt o with
          | .mem a => if (sl.drop (k + 1)).any (fun y => (Shape.of y.2).covers a) then none else some (a.toNat, x.1, p)
          | _ => none))

/-- The memory address of a source, if it has one. -/
def BSrc.addr? : BSrc → Option Nat
  | .mem a | .hi a => some a.toNat
  | .out => none

/-- The byte that a source gives. -/
def BSrc.value (ws : List (Nat × Word)) : BSrc → Byte
  | .mem a => byteIn ws a.toNat
  | .hi a =>
    let b := byteIn ws a.toNat
    (b.extractLsb' 4 4) ++ (b.extractLsb' 4 4)
  | .out => 0

/-- A chunk meets a fault (R146, R425): the transfer keeps one pending record and starts no new chunk. On resume it moves every
chunk whose bit is 0 again, in full. -/
def bulkFault (fw : Firmware) (m : Mach) (t : Team) (w : Work) (gno chunk : Nat) (pc : DWord) (c : Cause) (a : Nat) : Mach :=
  let m := m.modWork t.tid w.wid (fun w => { w with st := .stopped, part := [] })
  let hit := fun (n : Nat) => { gno := n, lmask := 0, left := 0, fin := 0 : Hit }
  let x : Stop := { cause := c, hits := [hit gno], set := none, addr := BitVec.ofNat 64 a
                    detail := BitVec.ofNat 32 chunk, aux := 0, unk := false, eng := true, nonstop := false, wid := some w.wid
                    refused := false, redo := none, watch := [], npc := pc, pcAt := none }
  takeStop fw m t.tid (if isReplay c then x else { x with set := some none, aux := pc, hits := (liveMembers t none).map hit })

/-- A chunk is fully moved: its bit is set, the barrier lowered, and a transfer with no chunk left is complete (R144). -/
def chunkDone (fw : Firmware) (m : Mach) (t : Team) (w : Work) (k : WorkKind) (all : Bool) (map chunk n : Nat) (bar : Option Nat) : Mach :=
  let m := (setMapBit m t.tid map chunk).count t.ctx 0x0C n
  let m := m.modWork t.tid w.wid (fun w => { w with kind := k, part := w.part.filter (fun x => x.1 != chunk) })
  let m := barLower? fw m t.tid bar n
  wakeMaps (if all then workDone m t.tid w.wid else m) t.tid

/-- What a chunk of a bulk load, and of a bulk store, has still to move. -/
def loadLeft (w : Work) (sl : List (Nat × BitVec 512)) (base chunk : Nat) : List (Nat × Nat × BSrc) :=
  (bulkLoadBytes sl (512 * (base + chunk))).filter (fun x => !w.did (chunk, x.1 - x.1 % 4))
def storeLeft (w : Work) (sl : List (Nat × BitVec 512)) (base chunk : Nat) : List (Nat × Nat × Nat) :=
  (bulkStoreBytes sl (512 * (base + chunk))).filter (fun x => !w.did (chunk, x.1 - x.1 % 4))

/-- Move bytes of a bulk load, or of a bulk store: the first failure with the byte's address and the slice that names it. -/
def moveLoad (m : Mach) (t : Team) (w : Work) (bs : List (Nat × Nat × BSrc)) : Option (Nat × Cause × Nat) × Mach :=
  match engWords m (whoOf t w.gno) (bs.filterMap (fun x => x.2.2.addr?)) [] with
  | (.error (c, a), m) => (some (((bs.find? (fun x => x.2.2.addr? == some a)).map (fun x => x.2.1)).getD w.gno, c, a), m)
  | (.ok ws, m) => (none, m.setScratchAt t.tid (bs.map (fun x => (x.1, x.2.2.value ws))))
def moveStore (m : Mach) (t : Team) (w : Work) (bs : List (Nat × Nat × Nat)) : Option (Nat × Cause × Nat) × Mach :=
  match engWrite m (whoOf t w.gno) (bs.map (fun x => (x.1, Memory.get t.scratch x.2.2))) with
  | (.error (c, a), m) => (some (((bs.find? (fun x => x.1 - x.1 % 4 == a - a % 4)).map (fun x => x.2.1)).getD w.gno, c, a), m)
  | (.ok (), m) => (none, engSaw m t.tid w (fun o => bs.any (fun x => x.2.2 - x.2.2 % 4 == o)))

/-- Move what is left of one chunk (R143, R144): the fault that it meets, or the chunk is done. -/
def moveChunk (fw : Firmware) (m : Mach) (t : Team) (w : Work) (chunk : Nat) : Option (Nat × Cause × Nat) × Mach :=
  match w.kind with
  | .bulk store sl base n map bar fin pc =>
    let lo := 512 * (base + chunk)
    let fin' := fin ++ [chunk]
    let all := (List.range n).all (fun i => fin'.contains i)
    let moved := if store then (bulkStoreBytes sl lo).length else (bulkLoadBytes sl lo).length
    match (if store then moveStore m t w (storeLeft w sl base chunk) else moveLoad m t w (loadLeft w sl base chunk)) with
    | (some f, m) => (some f, m)
    | (none, m) => (none, chunkDone fw m t w (.bulk store sl base n map bar fin' pc) all map chunk moved bar)
  | _ => (none, m)

/-- The chunks of a bulk transfer that are not complete. -/
def Work.openChunks (w : Work) : List Nat :=
  match w.kind with
  | .bulk _ _ _ n _ _ fin _ => (List.range n).filter (fun k => !fin.contains k)
  | _ => []

/-- The chunks in flight beside one that meets a fault (R428): every one that shows in part, and a free choice of others; after a
restart they are the next ones in order. -/
def Work.flying (m : Mach) (w : Work) (chunk : Nat) : List Nat :=
  let shown := fun (k : Nat) => w.part.any (fun x => x.1 == k)
  let others := w.openChunks.filter (fun k => k != chunk)
  if w.inOrder then
    let n := Config.pick m.draw 77 0 % (others.length + 1)
    (others.zipIdx).filterMap (fun x => if x.2 < n || (others.drop x.2).any shown then some x.1 else none)
  else others.filter (fun k => shown k || Config.pick m.draw 77 (1 + k) % 2 == 1)

/-- A chunk is moved. If it meets a fault no new chunk starts, those in flight complete, and one record names the lowest that
faulted (R428). -/
def runChunk (fw : Firmware) (m : Mach) (t : Team) (w : Work) (chunk : Nat) : Mach :=
  match moveChunk fw m t w chunk with
  | (none, m) => m
  | (some f, m) =>
    match (w.flying m chunk).foldl (fun r k =>
        match runningWork r.2 t.tid w.wid with
        | none => r
        | some (t, w) =>
          match moveChunk fw r.2 t w k with
          | (none, m) => (r.1, m)
          | (some g, m) => (if k < r.1.1 then (k, g) else r.1, m)) ((chunk, f), m) with
    | ((k, gno, c, a), m) =>
      match w.kind with
      | .bulk _ _ _ _ _ _ _ pc => bulkFault fw m t w gno k pc c a
      | _ => m

/-- The chunk can move: its context runs or, while it is being saved, the chunk is in flight (R433). After a restart it is the
first that is not complete: R428 has the chunks restart in increasing order, and the model has them complete in it (DEDUCED, log
entry 85). -/
def chunkRuns (m : Mach) (t : Team) (w : Work) (chunk : Nat) : Bool :=
  w.openChunks.contains chunk && (ctxRuns m t.ctx || w.part.any (fun k => k.1 == chunk))
    && (!w.inOrder || w.openChunks.head? == some chunk)

/-- BULK_CHUNK_COMPLETE, R144. -/
def execBulkChunkComplete (tid wid : Nat) (chunk : Nat) (s : State) : Host.Outcome State Fault Refusal :=
  let x := runningWork s.m tid wid
  event s (x.any (fun y => chunkRuns s.m y.1 y.2 chunk)) (fun fw m => match x with
    | some (t, w) => runChunk fw m t w chunk
    | none => m)

/-! ### Multicast (R148, R337) -/

/-- One chunk arrives at a receiver. One that has retired has no scratchpad to write: its chunks count as delivered (log entry
67). -/
def runMcast (fw : Firmware) (m : Mach) (t : Team) (w : Work) (r chunk : Nat) : Mach :=
  match w.kind with
  | .mcast src len doff rcv map bar fin =>
    let ps := mcastLeft w doff len r chunk
    (match readList m t w 0 (ps.map (fun p => src + BitVec.ofNat 64 (p - doff))) [] with
     | (_, some (c, a), m) => stopWork fw m t.tid w c a
     | (ws, none, m) =>
       let m := m.setScratchAt r ((List.zip ps ws).flatMap (fun x => (List.range 4).map (fun k => (x.1 + k, getByte x.2 k))))
       let m := match map with
         | some o => setMapBit m r o chunk
         | none => m
       let m := barLower? fw m r bar (mcastHi doff len chunk - mcastLo doff chunk)
       let fin' := fin ++ [(r, chunk)]
       let m := m.modWork t.tid w.wid (fun w => { w with kind := .mcast src len doff rcv map bar fin' })
       wakeMaps (if (mcastOpen doff len rcv fin').isEmpty then workDone m t.tid w.wid else m) r)
  | _ => m

/-- MCAST_CHUNK_ARRIVE, R337. -/
def execMcastChunkArrive (tid wid : Nat) (rcv chunk : Nat) (s : State) : Host.Outcome State Fault Refusal :=
  let x := runningWork s.m tid wid
  let ok := x.any (fun y => match y.2.kind with
    | .mcast _ len doff rs _ _ fin => (mcastOpen doff len rs fin).contains (rcv, chunk)
    | _ => false)
  event s ok (fun fw m => match x with
    | some (t, w) => runMcast fw m t w rcv chunk
    | none => m)

/-! ### Row operations (R152 to R158) -/

/-- The path of a destination frame (R155). -/
inductive RowPath where | inArray | bank | fallback
deriving DecidableEq, Repr

/-- Where an HBM frame lies: its page, class, stack and channel, slot. -/
structure FramePlace where
  page : Nat
  cls : Nat
  chan : Nat
  slot : Nat
deriving DecidableEq, Repr

def framePlace (m : Mach) (c : BitVec 12) (va : Nat) : Option FramePlace :=
  match (findLeaf m c va).1 with
  | .error _ => none
  | .ok l =>
    if leafTier l.leaf ≠ 0 then none
    else some { page := leafPaOf l.leaf l.log va / 2 ^ 21, cls := (l.leaf.extractLsb' 42 12).toNat
                chan := leafPaOf l.leaf l.log va / 2 ^ 31, slot := va / 2048 % 64 }

/-- Row-mates (R152). -/
def rowMates (a b : FramePlace) : Bool :=
  a.slot == b.slot && (a.page == b.page || (a.cls != 0 && a.cls == b.cls && a.chan == b.chan))

/-- The path of a destination frame (R155); one with no source takes the in-array path in every tier (R383). -/
def rowPath (m : Mach) (c : BitVec 12) (dst : Nat) (srcs : List Nat) : RowPath :=
  if srcs.isEmpty then .inArray else
  match framePlace m c dst with
  | none => .fallback
  | some d =>
    let ps := srcs.map (framePlace m c)
    if ps.any (fun p => p.isNone) then .fallback
    else
      let ps := ps.filterMap id
      if ps.all (rowMates d) then .inArray
      else if ps.all (fun p => p.chan == d.chan) then .bank
      else .fallback

/-- Count a frame by its path (R155, R460). -/
def countPath (m : Mach) (c : BitVec 12) (p : RowPath) : Mach :=
  match p with
  | .inArray => m.count c 0x0D 1
  | .bank => m.count c 0x0E 1
  | .fallback => m.countFix c 2 1

/-- Before a frame is operated on: registered words are recalled, L2 lines written back, destination lines dropped, and the
memory-side lines of an HBM-backed frame dropped (R156); write-backs that waited for the page go first (R419). -/
def prepFrame (m : Mach) (c : BitVec 12) (drop : Bool) (va : Nat) : Mach :=
  let m := (frameWords va).foldl (fun m a =>
    let m := match m.heldWb.reverse.find? (fun h => h.ctx == c && h.va == a) with
      | some h => writeBack m c a h.val
      | none => m
    let m := recallWord m c a
    match l2Find m c a with
    | none => m
    | some w =>
      let m := if w.d then l2Put (writeBack m c a w.val) { w with d := false } else m
      if drop then l2Drop m c a else m) m
  match paOf m c va with
  | some pa => if inHbm m c va then mscDrop m pa 2048 else m
  | none => m

/-- The first fault that a frame's accesses meet. -/
def frameFail (m : Mach) (t : Team) (dst : Nat) (srcs : List Nat) : Option (Cause × Nat) :=
  let bad := fun (k : Kind) (va : Nat) => match (translate m t.ctx t.level k va).1 with
    | .error e => some (e, va)
    | .ok _ => none
  match (srcs.findSome? (bad .load)) with
  | some x => some x
  | none =>
    match bad .engine dst with
    | some x => some x
    | none => (srcs.flatMap frameWords).findSome? (fun a => if isPoisoned m t.ctx a then some (0x141, a) else none)

/-- One word of the destination (R154, R338). -/
def rowWord (op : RowOp) (pat : DWord) (i : Nat) (a b : Word) : Word :=
  match op with
  | .cpy => a
  | .fill => if i % 2 = 0 then pat.extractLsb' 0 32 else pat.extractLsb' 32 32
  | .and => a &&& b
  | .or => a ||| b
  | .xor => a ^^^ b
  | .not => ~~~a

/-- The 512 memory words of a frame, which lies within one page, and a write of some of them by number. -/
def frameVals (m : Mach) (c : BitVec 12) (va : Nat) : List Word :=
  match paOf m c va with
  | some pa => (List.range 512).map (fun j => Memory.word m.mem (pa + 4 * j))
  | none => List.replicate 512 0
def setFrame (m : Mach) (c : BitVec 12) (va : Nat) (vs : List (Nat × Word)) : Mach :=
  match paOf m c va with
  | some pa => { m with mem := vs.foldl (fun mem x => Memory.setWord mem (pa + 4 * x.1) x.2) m.mem
                        memErr := m.memErr.filter (fun a => !vs.any (fun x => a == pa + 4 * x.1)) }
  | none => m

/-- The words of a frame, by number, whose code does not check (R157, R395). -/
def frameErrs (m : Mach) (c : BitVec 12) (va : Nat) : List Nat :=
  match paOf m c va with
  | some pa => (List.range 512).filter (fun j => m.memErr.contains (pa + 4 * j))
  | none => []
/-- An operation that checks no code carries a wrong one to its destination (R157). -/
def setErrs (m : Mach) (c : BitVec 12) (va : Nat) (js : List Nat) : Mach :=
  match paOf m c va with
  | some pa => { m with memErr := m.memErr ++ js.map (fun j => pa + 4 * j) }
  | none => m

/-- Words of such a frame that copies of the group in flight wrote go to their homes (R384). -/
def homeCopied (m : Mach) (t : Team) (w : Work) (frames : List Nat) : Mach :=
  ((t.works.filter (fun x => x.gno == w.gno)).flatMap (fun x => x.copyVas m t false true)).foldl (fun m a =>
    if frames.any (fun f => decide (f ≤ a ∧ a < f + 2048)) then wordHome m t.core t.ctx a else m) m

/-- The destination frame is computed from the sources and written whole (R154 to R156, R158), unless a code does not check
(R157). The Boolean says that it was. On a path that checks codes only because a frame is not HBM-backed, frame i of each run
decides: R155 says 'every frame' and 'any frame of the operation' without saying whether that is all the runs' (DESIGN CHOICE,
log entry 79). -/
def writeFrame (m : Mach) (t : Team) (w : Work) (op : RowOp) (dst a b : DWord) (i : Nat) : Bool × Mach :=
  let d := dst.toNat + 2048 * i
  let srcs := (rowSrcs op a b).map (fun x => x.toNat + 2048 * i)
  let m := homeCopied m t w (d :: srcs)
  let m := prepFrame (srcs.foldl (fun m s => prepFrame m t.ctx false s) m) t.ctx true d
  let errs := (srcs.flatMap (frameErrs m t.ctx)).eraseDups
  if checksCodes m t.ctx op (d :: srcs) && !errs.isEmpty then (false, m) else
  let va := frameVals m t.ctx (a.toNat + 2048 * i)
  let vb := frameVals m t.ctx (b.toNat + 2048 * i)
  (true, setErrs (setFrame m t.ctx d ((List.range 512).map (fun j => (j, rowWord op a j (va.getD j 0) (vb.getD j 0))))) t.ctx d errs)

/-- A frame waits while a copy of the group is in the middle of one of its frames (R384). -/
def rowHeld (m : Mach) (t : Team) (w : Work) (i : Nat) : Bool :=
  match w.kind with
  | .row op dst a b _ _ => frameBusy m t w (fun f => (dst :: rowSrcs op a b).any (fun x => x.toNat / 2048 + i == f))
  | _ => false

/-- One frame of a row operation (R154 to R157). The record of a row-data fault names the destination frame, which R157 poisons:
R142 asks for the first failing address and does not say whether that is the source's (DESIGN CHOICE, log entry 69). -/
def runFrame (fw : Firmware) (m : Mach) (t : Team) (w : Work) (i : Nat) : Mach :=
  match w.kind with
  | .row op dst a b f fin =>
    let d := dst.toNat + 2048 * i
    let srcs := (rowSrcs op a b).map (fun x => x.toNat + 2048 * i)
    (match frameFail m t d srcs with
     | some (c, va) => stopWork fw m t.tid w c (BitVec.ofNat 64 va)
     | none =>
       let m := countPath m t.ctx (rowPath m t.ctx d srcs)
       match writeFrame m t w op dst a b i with
       | (false, m) => rowData fw m t w d (BitVec.ofNat 64 d)
       | (true, m) =>
         let fin' := fin ++ [i]
         let m := m.modWork t.tid w.wid (fun w => { w with kind := .row op dst a b f fin' })
         if (List.range f).all (fun j => fin'.contains j) then workDone m t.tid w.wid else m)
  | _ => m

/-- ROW_FRAME_COMPLETE, R155. -/
def execRowFrameComplete (tid wid : Nat) (frame : Nat) (s : State) : Host.Outcome State Fault Refusal :=
  let x := runningWork s.m tid wid
  let ok := x.any (fun y => match y.2.kind with
    | .row _ _ _ _ f fin => decide (frame < f) && !fin.contains frame && !rowHeld s.m y.1 y.2 frame
    | _ => false)
  event s ok (fun fw m => match x with
    | some (t, w) => runFrame fw m t w frame
    | none => m)

/-! ### Damask -/

/-- PLANE_COMPLETE, R209: a PLANE, an UNPLANE or a drain to scratchpad completes. -/
def execPlaneComplete (tid wid : Nat) (s : State) : Host.Outcome State Fault Refusal :=
  let x := runningWork s.m tid wid
  let ok := x.any (fun y => match y.2.kind with
    | .plane _ _ _ | .put _ | .drain _ _ _ => true
    | _ => false)
  event s ok (fun _ m => match x with
    | some (_, w) => wakeMaps (planeWorkDone m tid w) tid
    | none => m)

/-- The context of a loop runs: while it is being saved its loops start no plane (R433). -/
def loopRuns (m : Mach) (l : Loop) : Bool := (m.team? l.tid).any (fun t => ctxRuns m t.ctx)

/-- DAMASK_LOOP_START, R215, R224. -/
def execDamaskLoopStart (core : Nat) (s : State) : Host.Outcome State Fault Refusal :=
  event s ((startable (s.m.core core)).any (fun l => loopRuns s.m l && pairReady s.m l)) (fun _ m => startLoop m core)

/-- ENGINE_PLACE_FREE, R216. -/
def execEnginePlaceFree (core : Nat) (s : State) : Host.Outcome State Fault Refusal :=
  event s ((readingLoop (s.m.core core)).any (loopRuns s.m)) (fun _ m => freePlace m core)

/-- DAMASK_LOOP_COMPLETE, R215. -/
def execDamaskLoopComplete (core : Nat) (s : State) : Host.Outcome State Fault Refusal :=
  event s (endingLoop (s.m.core core)).isSome (fun _ m => completeLoop m core)

/-- The SACC that may run: the first, with no loop running (R220). -/
def nextSacc (k : Core) : Option Sacc := if k.loops.any (fun l => l.running) then none else k.saccs.head?

/-- SACC_COMPLETE, R220. -/
def execSaccComplete (core : Nat) (s : State) : Host.Outcome State Fault Refusal :=
  event s (nextSacc (s.m.core core)).isSome (fun _ m => match nextSacc (m.core core) with
    | some x => freeIfExited (doSacc (m.modCore core (fun k => { k with saccs := k.saccs.tail })) core x) core { tid := x.tid, gno := x.gno }
    | none => m)

/-! ### What shows of work before it completes (R17) -/

/-- Which of some units of work show: a free choice. -/
def showsOf (m : Mach) (ks : List (Nat × Nat)) : List (Nat × Nat) :=
  ks.eraseDups.filter (fun k => Config.pick m.draw 71 (2 ^ 40 * k.1 + k.2) % 2 == 1)

/-- A copy moves 16 bytes, if they meet no fault. -/
def copyUnit (m : Mach) (t : Team) (w : Work) (dst src : DWord) (len total : Nat) (bar : Option Nat) : Mach :=
  if len ≤ 16 then m else
  match readList m t w 0 (wordRun src 4) [] with
  | (_, some _, _) => m
  | (ws, none, m1) =>
    match writeRun m1 t w.gno 0 dst ws 0 with
    | (_, some _, _) => m
    | (_, none, m2) =>
      (frameHome m2 t w.gno 0 dst 4).modWork t.tid w.wid (fun w => { w with kind := .copy (dst + 16) (src + 16) (len - 16) total bar })

/-- Some words of a CPYL, but not the last one, and none that a lower lane has still to write: of two lanes that write one word
the higher is the last (R133). -/
def copylPart (m : Mach) (t : Team) (w : Work) (ls : List (Nat × DWord × DWord)) (size : Nat) : Mach :=
  let all := lanesLeft w ls size
  let left := all.dropLast.filter (fun x => !all.any (fun y => decide (y.1 < x.1)
    && (engLoc m t w.gno y.1 y.2.2.1).toOption == (engLoc m t w.gno x.1 x.2.2.1).toOption))
  let ks := showsOf m (left.map (fun x => (x.1, x.2.1)))
  (left.filter (fun x => ks.contains (x.1, x.2.1))).foldl (fun m x =>
    match engReadWord m t w x.1 x.2.2.2 with
    | (.error _, _) => m
    | (.ok v, m1) => match engWriteWord m1 t w.gno x.1 x.2.2.1 v with
      | (.error _, _) => m
      | (.ok (), m2) => (frameHome m2 t w.gno x.1 x.2.2.1 1).addPart t.tid w.wid [(x.1, x.2.1)]) m

/-- Some words of the chunks of a bulk transfer that are not complete; their bits stay 0 (R144). While the context is being
saved no new chunk starts (R433). -/
def bulkPart (m : Mach) (t : Team) (w : Work) (store : Bool) (sl : List (Nat × BitVec 512)) (base : Nat) : Mach :=
  (w.openChunks.filter (fun k => ctxRuns m t.ctx || w.part.any (fun x => x.1 == k))).foldl (fun m k =>
    let words := if store then (storeLeft w sl base k).map (fun x => (k, x.1 - x.1 % 4)) else (loadLeft w sl base k).map (fun x => (k, x.1 - x.1 % 4))
    let ks := showsOf m words
    match (if store then moveStore m t w ((storeLeft w sl base k).filter (fun x => ks.contains (k, x.1 - x.1 % 4)))
      else moveLoad m t w ((loadLeft w sl base k).filter (fun x => ks.contains (k, x.1 - x.1 % 4)))) with
    | (some _, _) => m
    | (none, m) => m.addPart t.tid w.wid ks) m

/-- Some words of the chunks of a multicast that are not delivered. -/
def mcastPart (m : Mach) (t : Team) (w : Work) (src : DWord) (len doff : Nat) (rcv : List Nat) (fin : List (Nat × Nat)) : Mach :=
  let ks := showsOf m ((mcastOpen doff len rcv fin).flatMap (fun x => (mcastLeft w doff len x.1 x.2).map (fun p => (x.1, p))))
  ks.foldl (fun m k =>
    match engReadWord m t w 0 (src + BitVec.ofNat 64 (k.2 - doff)) with
    | (.error _, _) => m
    | (.ok v, m) => (m.setScratchAt k.1 ((List.range 4).map (fun i => (k.2 + i, getByte v i)))).addPart t.tid w.wid [k]) m

/-- Some bytes of a drain, or of a PLANE or UNPLANE whose source is read. -/
def putPart (m : Mach) (t : Team) (w : Work) : Mach :=
  let ks := showsOf m (w.putBytes.map (fun x => (0, x.1 - x.1 % 4)))
  let now := fun (x : Nat × Byte) => ks.contains (0, x.1 - x.1 % 4)
  (m.setScratchAt t.tid (w.putBytes.filter now)).modWork t.tid w.wid (fun x => match x.kind with
    | .put bs => { x with kind := .put (bs.filter (fun y => !now y)) }
    | _ => { x with part := x.part ++ ks })

/-- Some of what a piece of work writes shows before it completes (R17); each word is written once. A PLANE or UNPLANE first
reads its whole source. A row operation shows by whole frames only (R158, R384), each one at its ROW_FRAME_COMPLETE. -/
def workPart (m : Mach) (tid wid : Nat) : Mach :=
  match runningWork m tid wid with
  | none => m
  | some (t, w) =>
    match w.kind with
    | .copy dst src len total bar => copyUnit m t w dst src len total bar
    | .copyl ls size => copylPart m t w ls size
    | .bulk store sl base _ _ _ _ _ => bulkPart m t w store sl base
    | .mcast src len doff rcv _ _ fin => mcastPart m t w src len doff rcv fin
    | .plane un a b => match planeRead m tid w un a b with
      | (bs, m) => m.modWork tid wid (fun w => { w with kind := .put bs })
    | .put _ | .drain _ _ _ => putPart m t w
    | .row _ _ _ _ _ _ | .pgreq _ => m

/-! ### Time limits of single waits (R42) -/

/-- A parked group has waited LIMIT × 1,024 cycles. -/
def waitedOut (m : Mach) (r : GRef) (p : Park → Bool) : Bool :=
  match m.team? r.tid, m.group? r with
  | some t, some g =>
    (match g.status, limitOf m t.ctx with
     | .parked k, some n => p k && decide (n ≤ g.waited)
     | _, _ => false)
  | _, _ => false

/-- The group leaves its wait with a fault of its own. -/
def timeOut (fw : Firmware) (m : Mach) (r : GRef) (c : Cause) : Mach :=
  match m.group? r with
  | none => m
  | some g => takeStop fw (m.modGroup r Group.leaveWait) r.tid { Stop.trap c g g.npc with own := true }

/-- BARRIER_TIMEOUT, R151. -/
def execBarrierTimeout (r : GRef) (s : State) : Host.Outcome State Fault Refusal :=
  event s (waitedOut s.m r (fun p => match p with
    | .barrier _ _ => true
    | _ => false)) (fun fw m => timeOut fw m r 0x188)

/-- CHUNK_WAIT_TIMEOUT, R335. -/
def execChunkWaitTimeout (r : GRef) (s : State) : Host.Outcome State Fault Refusal :=
  event s (waitedOut s.m r (fun p => match p with
    | .waitm _ _ => true
    | _ => false)) (fun fw m => timeOut fw m r 0x18D)

/-- TOKEN_TIMEOUT, R217. -/
def execTokenTimeout (r : GRef) (s : State) : Host.Outcome State Fault Refusal :=
  event s (waitedOut s.m r (fun p => match p with
    | .macq _ => true
    | _ => false)) (fun fw m => timeOut fw m r 0x1CE)

/-- The handshake of a group that waits for its partners. -/
def pairingOf (m : Mach) (r : GRef) : Option Pairing := m.pairings.find? (fun p => p.loop.tid == r.tid && p.loop.gno == r.gno)

/-- The partners of a handshake that have arrived, itself among them (R224). -/
def pairingArrived (m : Mach) (p : Pairing) : List Loop :=
  match m.team? p.loop.tid with
  | none => []
  | some t =>
    p.loop :: (((pairTeams m t p.loop).getD []).filter (fun o => o != p.loop.tid)).filterMap (fun o =>
      (partnerWait m p.loop o).map (fun q => q.loop))

/-- PAIRING_TIMEOUT, R224: every arrived partner faults. -/
def execPairingTimeout (r : GRef) (s : State) : Host.Outcome State Fault Refusal :=
  let x := pairingOf s.m r
  let ok := x.any (fun p => match (s.m.team? r.tid).bind (fun t => limitOf s.m t.ctx) with
    | some n => decide (n ≤ p.elapsed)
    | none => false)
  event s ok (fun fw m => match x with
    | none => m
    | some p =>
      let ls := pairingArrived m p
      ls.foldl (pairFail fw 0x1D1) { m with pairings := m.pairings.filter (fun q => !ls.contains q.loop) })

end Sys2Proof.Machine
end

