-- ==== Sys2Proof/Machine/Caches.lean ====
section
/-! DEFINITION. Machine/Caches.lean: what caches, homes, registries and CTUs do of themselves: eviction (R123), owner loss
(R130, R431), roll-calls (R131), site rewrites (R198 to R200), page walks (R417) and held write-backs (R419). -/
namespace Sys2Proof.Machine

/-! ### Eviction -/

/-- What a unit of a die may evict: its cores' L1 lines (units 0 to 23), its cores' instruction lines (24 to 47), a registry
entry (0x3C, R125), an L2 word of the die (0x3D), an RDC word (0x3E), a mirrored word (0x3F, R129). Units 24 to 0x3D are the
model's own numbers. -/
def evictable (m : Mach) (who : BitVec 8) (c : BitVec 12) (va : Nat) : Bool :=
  let die := who.toNat / 64
  let u := who.toNat % 64
  if u < 24 then (l1Find (m.core (24 * die + u)) c va).isSome
  else if u < 48 then (m.core (24 * die + u - 24)).icache.any (fun l => l.ctx == c && l.va == va)
  else if u = 0x3C then homeOf va == die && (regFind m c va).isSome
  else if u = 0x3D then homeOf va == die && (l2Find m c va).isSome
  else if u = 0x3E then (rdcFind m die c va).isSome
  else if u = 0x3F then (mirrorFind m die c va).isSome
  else false

def evict (m : Mach) (who : BitVec 8) (c : BitVec 12) (va : Nat) : Mach :=
  let die := who.toNat / 64
  let u := who.toNat % 64
  if u < 24 then l1Evict m (24 * die + u) c va
  else if u < 48 then m.modCore (24 * die + u - 24) (fun k =>
    { k with icache := k.icache.filter (fun l => !(l.ctx == c && l.va == va)) })
  else if u = 0x3C then (match regFind m c va with
    | some e => recallEntry m e
    | none => m)
  else if u = 0x3D then l2Evict m c va
  else if u = 0x3E then rdcEvict m die c va
  else recallWord m c va

/-- CACHE_EVICTION, R123. -/
def execCacheEviction (who : BitVec 8) (ctx : BitVec 12) (va : BitVec 64) (s : State) : Host.Outcome State Fault Refusal :=
  event s (evictable s.m who ctx va.toNat) (fun _ m => evict m who ctx va.toNat)

/-! ### Owner loss (R130, R431) -/

/-- The group whose forwarded read was not answered is about to make it. -/
def readerWaits (m : Mach) (c : BitVec 12) (rd : Option GRef) : Bool :=
  match rd with
  | none => true
  | some r => (match m.team? r.tid, m.group? r with
    | some t, some g => t.ctx == c && g.status == .ready
    | _, _ => false)

/-- The home acts on an owner that did not answer: the mirror takes over, or the word is poisoned, and the group's read of it
will fault in those lanes (R130, R431). -/
def ownerSilent (fw : Firmware) (m : Mach) (c : BitVec 12) (va : Nat) (o : BitVec 8) (rd : Option GRef) (lanes : Mask) : Mach :=
  match ownerLost m o c va with
  | (true, m) => postInfo fw m c 0 (BitVec.ofNat 64 va) (o.setWidth 32) id
  | (false, m) =>
    match rd with
    | none => m
    | some r => m.modGroup r (fun g => { g with lostRd := some (va, o, lanes) })

/-- OWNER_TIMEOUT, R130. -/
def execOwnerTimeout (ctx : BitVec 12) (va : BitVec 64) (rd : Option GRef) (lanes : BitVec 32) (s : State) :
    Host.Outcome State Fault Refusal :=
  let o := ownerOf s.m ctx va.toNat
  event s (o.isSome && (s.m.ctx? ctx).isSome && readerWaits s.m ctx rd) (fun fw m => match o with
    | some o => ownerSilent fw m ctx va.toNat o rd lanes
    | none => m)

/-! ### Registry recovery (R131, R431) -/

/-- The base of a 4 KiB region. -/
def regionBase (va : Nat) : Nat := va - va % 4096
def inRoll (m : Mach) (c : BitVec 12) (va : Nat) : Bool := m.rollCalls.any (fun r => r.ctx == c && r.va == regionBase va)
def endRoll (m : Mach) (c : BitVec 12) (va : Nat) : Mach :=
  { m with rollCalls := m.rollCalls.filter (fun r => !(r.ctx == c && r.va == regionBase va)) }

/-- REGISTRY_ERROR, R131: a roll-call of the region starts. -/
def execRegistryError (ctx : BitVec 12) (va : BitVec 64) (s : State) : Host.Outcome State Fault Refusal :=
  event s ((s.m.ctx? ctx).isSome && decide (va.toNat < globalEnd) && !inRoll s.m ctx va.toNat) (fun _ m =>
    { m with rollCalls := m.rollCalls ++ [{ ctx := ctx, va := regionBase va.toNat }] })

/-- The registered words of a 4 KiB region. -/
def regionWords (m : Mach) (c : BitVec 12) (va : Nat) : List Nat :=
  (m.registered.filter (fun e => e.1 == c && e.2.1 / 4096 == va / 4096)).map (fun e => e.2.1)

/-- Who may own words: each enabled core, each RDC and each mirror store (R131). -/
def possibleOwners (m : Mach) : List (BitVec 8) :=
  ((List.range 96).filter (fun c => !(m.core c).removed)).map ownerCore ++ (List.range 4).map ownerRdc ++ (List.range 4).map ownerMirror

/-- The answers to a roll-call of a region: the words that each owner holds as registered (R131). -/
def rollAnswers (m : Mach) (c : BitVec 12) (va : Nat) : List (Nat × BitVec 8) :=
  let here := fun (x : BitVec 12) (a : Nat) => x == c && a / 4096 == va / 4096
  (List.range 96).flatMap (fun k => ((m.core k).l1.filter (fun w => w.g && here w.ctx w.va)).map (fun w => (w.va, ownerCore k)))
    ++ (List.range 4).flatMap (fun d => ((m.rdc.getD d []).filter (fun w => w.d && w.reg && here w.ctx w.va)).map (fun w => (w.va, ownerRdc d)))
    ++ (m.mirror.filter (fun w => w.own && here w.ctx w.va)).map (fun w => (w.va, ownerMirror w.die))

/-- The registry's words of a region as the answers of those who answer give them. -/
def rebuild (m : Mach) (c : BitVec 12) (va : Nat) (answers : BitVec 8 → Bool) : Mach :=
  let ws := (rollAnswers m c va).filter (fun x => answers x.2)
  ws.foldl (fun m x => regEnter m c x.1 x.2) { m with registry := m.registry.filter (fun e => !(e.ctx == c && e.region == va / 4096)) }

/-- REGISTRY_REBUILT, R131: every possible owner answered; unclaimed words are unregistered. -/
def execRegistryRebuilt (ctx : BitVec 12) (va : BitVec 64) (s : State) : Host.Outcome State Fault Refusal :=
  event s (inRoll s.m ctx va.toNat) (fun fw m =>
    postInfo fw (endRoll (rebuild m ctx va.toNat (fun _ => true)) ctx va.toNat) ctx 1 (BitVec.ofNat 64 (regionBase va.toNat)) 0 id)

/-- The owners that do not answer a roll-call: one of them at least, the others a free choice. -/
def silentOwner (m : Mach) (o : BitVec 8) : Bool :=
  let os := possibleOwners m
  o == os.getD (Config.pick m.draw 61 0 % os.length) 0 || Config.pick m.draw 60 o.toNat % 2 == 0

/-- Every word of a region that nobody claims is poisoned. -/
def poisonRegion (m : Mach) (c : BitVec 12) (va : Nat) : Mach :=
  let claimed := regionWords m c va
  (List.range 1024).foldl (fun m i =>
    let a := regionBase va + 4 * i
    if claimed.contains a then m else addPoison m c a) m

/-- ROLL_CALL_TIMEOUT, R131: some possible owners, which the model leaves free, did not answer. -/
def execRollCallTimeout (ctx : BitVec 12) (va : BitVec 64) (s : State) : Host.Outcome State Fault Refusal :=
  event s (inRoll s.m ctx va.toNat) (fun fw m =>
    let m := rebuild m ctx va.toNat (fun o => !silentOwner m o)
    let n := 1024 - (regionWords m ctx va.toNat).length
    postInfo fw (endRoll (poisonRegion m ctx va.toNat) ctx va.toNat) ctx 0x341 (BitVec.ofNat 64 (regionBase va.toNat)) (BitVec.ofNat 32 n) id)

/-! ### Site rewrites (R198 to R200) -/

/-- The home accepts the new word (R199). -/
def rewriteOk (x : Rewrite) : Bool :=
  ((x.old ^^^ x.new) &&& ~~~(0x1FFF#64 <<< 9) == 0) && genericMajor x.new
    && siteOk ((fMajor x.new).toNat ≤ 0x32) (x.new.extractLsb' 9 13)

/-- Replace one word in a core's instruction cache. -/
def icachePut (k : Core) (c : BitVec 12) (pc : Nat) (w : DWord) : Core :=
  { k with icache := k.icache.map (fun l =>
      if l.ctx == c && l.va == pc - pc % 128 then { l with words := l.words.set (pc % 128 / 8) w } else l) }

/-- The code word at the home. -/
def codeWord (m : Mach) (c : BitVec 12) (pc : Nat) : Option DWord × Mach :=
  match homeWord m c pc with
  | (.error _, m) => (none, m)
  | (.ok lo, m) =>
    match homeWord m c (pc + 4) with
    | (.error _, m) => (none, m)
    | (.ok hi, m) => (some (hi ++ lo), m)

/-- The compare-and-swap of one rewrite: refused, dropped or successful. -/
def runRewrite (fw : Firmware) (m : Mach) (x : Rewrite) : Mach :=
  if !rewriteOk x then
    postInfo fw (m.countFix x.ctx 5 1) x.ctx 0x242 (BitVec.ofNat 64 x.pc) 0 (fun r =>
      { r with group := BitVec.ofNat 8 x.gno, pc := BitVec.ofNat 64 x.pc
               team := ((m.team? x.tid).map (fun t => BitVec.ofNat 32 t.index)).getD 0
               grid := ((m.team? x.tid).map (serialOf m)).getD 0
               retired := ((m.group? { tid := x.tid, gno := x.gno }).map (fun g => g.retired)).getD 0 })
  else
    match codeWord m x.ctx x.pc with
    | (some w, m) =>
      if w = x.old then
        let m := setHomeWord m x.ctx x.pc (x.new.extractLsb' 0 32)
        let m := (m.modCore x.core (fun k => icachePut k x.ctx x.pc x.new)).countFix x.ctx 3 1
        let bytes := [0x02] ++ leBytes 2 x.gid ++ leBytes 1 (dieOf x.core * 32 + x.core % 24) ++ leBytes 8 x.pc
          ++ leBytes 2 (x.old.extractLsb' 9 13).toNat ++ leBytes 2 (x.new.extractLsb' 9 13).toNat
        if (m.team? x.tid).isSome then traceGroup fw m { tid := x.tid, gno := x.gno } .rw bytes else traceBare fw m x.ctx .rw bytes
      else (m.modCore x.core (fun k => icacheDrop k x.ctx x.pc)).countFix x.ctx 4 1
    | (none, m) => (m.modCore x.core (fun k => icacheDrop k x.ctx x.pc)).countFix x.ctx 4 1

/-- SITE_REWRITE_CAS, R198. -/
def execSiteRewriteCas (i : Nat) (s : State) : Host.Outcome State Fault Refusal :=
  event s (decide (i < s.m.rewrites.length)) (fun fw m => match m.rewrites[i]? with
    | some x => runRewrite fw { m with rewrites := m.rewrites.eraseIdx i } x
    | none => m)

/-! ### Translation (R417, R419) -/

/-- PAGE_WALK_COMPLETE, R417: a walk that finds its leaf leaves a TLB entry; a walk that faults leaves none. -/
def execPageWalkComplete (ctx : BitVec 12) (va : BitVec 64) (s : State) : Host.Outcome State Fault Refusal :=
  event s ((s.m.ctx? ctx).isSome && decide (va.toNat < globalEnd) && (tlbHit s.m ctx va.toNat).isNone)
    (fun _ m => (findLeaf m ctx va.toNat).2)

/-- The page of a held write-back is present and resident. -/
def heldReady (m : Mach) (h : HeldWb) : Bool :=
  match (findLeaf m h.ctx h.va).1 with
  | .ok _ => true
  | .error _ => false

/-- HELD_WRITEBACK_RELEASE, R419: the oldest held word of the same address goes first. The write-through of an atomic on a
page-table page ends the translations that depend on it (R418). -/
def execHeldWritebackRelease (i : Nat) (s : State) : Host.Outcome State Fault Refusal :=
  event s (match s.m.heldWb[i]? with
    | some h => heldReady s.m h && !(s.m.heldWb.take i).any (fun x => x.ctx == h.ctx && x.va == h.va)
    | none => false) (fun _ m => match m.heldWb[i]? with
    | some h =>
      let rest := m.heldWb.eraseIdx i
      let pa := paOf m h.ctx h.va
      let m := writeBack { m with heldWb := [] } h.ctx h.va h.val
      let m := match pa with
        | some pa => if h.pt then tlbInvalidate m h.ctx pa else m
        | none => m
      { m with heldWb := rest }
    | none => m)

end Sys2Proof.Machine
end

