-- ==== Sys2Proof/Machine/Distributor.lean ====
section
/-! DEFINITION. Machine/Distributor.lean: acceptance of launch records (R398 to R402), placement (R403 to R407, R22, R70,
R111, R340, R477) and the ends of results, groups, teams and grids (R25, R26, R52, R402). -/
namespace Sys2Proof.Machine

/-! ### What a group and a team leave behind (R25, R26, R52, R119) -/

/-- With its last outstanding result a group's wait for W ends (R52). -/
def Group.lastReturn (g : Group) : Group :=
  if g.outst = [] ∧ g.waits = some .w then
    ({ g with old := [], reqs := g.reds, status := if g.status = .suspended then .suspended else .ready, under := none } : Group).popLost
  else g

/-- One outstanding result of a group returns (R52). -/
def Group.resultReturn (g : Group) (i : Nat) : Group :=
  let left := g.outst.eraseIdx i
  ({ g with outst := left
            outMem := match g.outst[i]? with
              | some x => if left.count x < g.outMem.count x then g.outMem.erase x else g.outMem
              | none => g.outMem } : Group).lastReturn

/-- The oldest outstanding load or atomic that gives a result. -/
def Group.reqFor (g : Group) (x : RegId) : Option Req := g.reqs.find? (fun q => q.ids.contains x)

/-- A result of that load or atomic returns: its value stands, and with its last result it is done. -/
def reqReturn (x : RegId) : List Req → List Req
  | [] => []
  | q :: r =>
    if q.ids.contains x then (if q.ids.erase x = [] then r else { q with ids := q.ids.erase x, late := false } :: r)
    else q :: reqReturn x r

/-- Result i of a group returns. The value of a load that nothing has used or passed may be the one that memory holds now, as a
free choice (R54, R184). -/
def returnResult (m : Mach) (r : GRef) (i : Nat) : Mach :=
  match m.team? r.tid, (m.group? r).bind (fun g => g.outst[i]?.map (fun x => (g, x))) with
  | some t, some (g, x) =>
    let m := match g.reqFor x with
      | some q => if q.late && Config.pick m.draw 78 i % 2 == 1 then rereadLoad m t r.gno q else m
      | none => m
    m.modGroup r (fun g => (({ g with reqs := reqReturn x g.reqs } : Group).resultReturn i).halt (ctxRuns m t.ctx))
  | _, _ => m

/-- REGISTER_RESULT_RETURN, R52. -/
def execRegisterResultReturn (r : GRef) (i : Nat) (s : State) : Host.Outcome State Fault Refusal :=
  event s ((s.m.group? r).any (fun g => decide (i < g.outst.length))) (fun _ m => returnResult m r i)

/-- The group's release can go on: it is not one at `.sys` whose write-backs wait for their pages (R119, R419). -/
def releaseRuns (m : Mach) (r : GRef) : Bool :=
  match m.team? r.tid, m.group? r with
  | some t, some g => g.relPend.any (fun x => !(x.1 == .sys && relHeld m t.ctx))
  | _, _ => false

/-- RELEASE_COMPLETE, R119: the release's work is done; where write-backs of it wait for their pages it stays pending. -/
def execReleaseComplete (r : GRef) (s : State) : Host.Outcome State Fault Refusal :=
  event s (releaseRuns s.m r) (fun _ m => settle m r)

/-- Work of a group whose batch can still complete (R137, R426). -/
def groupWorks (t : Team) (gno : Nat) : Bool := t.works.any (fun w => w.gno == gno && w.st != .cancelled)

/-- An engine holds a tile's token on the group's behalf. -/
def engineHolds (m : Mach) (t : Team) (gno : Nat) : Bool :=
  (m.core t.core).loops.any (fun l => l.tid == t.tid && l.gno == gno)
    || (m.core t.core).tiles.any (fun k => k.holder == .engine t.tid gno)

/-- The conditions of R25. -/
def groupSpent (m : Mach) (t : Team) (g : Group) : Bool :=
  !g.live && !g.freed && g.outst.isEmpty && !groupWorks t g.gno && !engineHolds m t g.gno

/-- GROUP_RESOURCES_FREED, R25. -/
def execGroupResourcesFreed (r : GRef) (s : State) : Host.Outcome State Fault Refusal :=
  event s (match s.m.team? r.tid, s.m.group? r with
    | some t, some g => groupSpent s.m t g
    | _, _ => false) (fun _ m => m.modGroup r (fun g => { g with freed := true }))

/-- A team retires when all groups are EXITED and its work is complete (R26). -/
def teamSpent (m : Mach) (t : Team) : Bool :=
  t.groups.all (fun g => !g.live && !engineHolds m t g.gno) && !t.works.any (fun w => w.st != .cancelled)
    && !(m.core t.core).saccs.any (fun x => x.tid == t.tid)

/-- The stack blocks of a team return to their pools (R477). -/
def returnBlocks (m : Mach) (t : Team) : Mach :=
  t.groups.foldl (fun m g => match g.stkBlk with
    | none => m
    | some (d, i) => m.modCtx t.ctx (fun k => { k with pools := k.pools.modify d (fun p => { p with used := p.used.filter (fun x => x != i) }) })) m

/-- The team's core lets go of the team: tiles, scratchpad, barriers and histograms return with it. -/
def dropTeam (m : Mach) (t : Team) : Mach :=
  let m := m.modCore t.core (fun k =>
    { k with loops := k.loops.filter (fun l => l.tid != t.tid), saccs := k.saccs.filter (fun x => x.tid != t.tid)
             tiles := k.tiles.map (fun x => match x.holder with
               | .nobody => x
               | .engine i _ | .group i _ => if i = t.tid then { x with holder := .nobody, inuse := false } else x) })
  { m with teams := m.teams.filter (fun x => x.tid != t.tid)
           pairings := m.pairings.filter (fun p => p.loop.tid != t.tid) }

def retireTeam (m : Mach) (t : Team) : Mach :=
  let m := t.groups.foldl (fun m g => pubAliases m (t.gref g) .sys) m
  let m := dropTeam (returnBlocks (release m t.core .sys (fun _ => true)) t) t
  match m.grid? t.gid with
  | some g => m.setGrid { g with retired := g.retired + 1 }
  | none => m

/-- TEAM_RETIRE, R26. -/
def execTeamRetire (tid : Nat) (s : State) : Host.Outcome State Fault Refusal :=
  event s ((s.m.team? tid).any (teamSpent s.m)) (fun _ m => match m.team? tid with
    | some t => retireTeam m t
    | none => m)

/-- Teams in a grid. -/
def Grid.total (g : Grid) : Nat := g.dimX * g.dimY * g.dimZ
/-- The last team has retired, the releases are complete, none of their write-backs being held for its page (R119, R419), and the
add is still to be made (R402). -/
def gridSpent (m : Mach) (g : Grid) : Bool := g.next == g.total && g.retired == g.total && !g.addHeld && !relHeld m g.ctx

/-- GRID_COMPLETION, R402. -/
def execGridCompletion (gid : Nat) (s : State) : Host.Outcome State Fault Refusal :=
  event s ((s.m.grid? gid).any (gridSpent s.m)) (fun fw m => gridAdd fw m gid)

/-! ### Acceptance (R397, R400, R401) -/

/-- Set k of a descriptor as its list gives it; undeclared if the list names a group the team has not (R27, R370). -/
def setList (m : Mach) (c : BitVec 12) (kdesc : Nat) (d : KDesc) (groups k : Nat) : Option (List Nat) :=
  let o := d.setoff.getD k 0
  if !d.setmask.getLsbD k || o == 0 then none else
  match homeBytes m c (kdesc + o) 1 with
  | some [n] =>
    (match homeBytes m c (kdesc + o + 1) n.toNat with
     | some l =>
       let l := l.map (fun b => b.toNat)
       if 1 ≤ n.toNat ∧ n.toNat ≤ 32 ∧ listOk groups l then some l else none
     | none => none)
  | _ => none

/-- A grid of an accepted record; it takes the next serial number of the context (R401). -/
def addGrid (m : Mach) (c : BitVec 12) (r : LRec) (d : KDesc) (level : BitVec 2) : Mach :=
  match m.ctx? c with
  | none => m
  | some k =>
    let g : Grid :=
      { gid := m.nextGid, ctx := c, serial := k.serial, entry := BitVec.ofNat 64 (r.textb + d.entry), desc := d
        sets := (List.range 8).map (setList m c r.kdesc d r.ngroups)
        dimX := r.gx, dimY := r.gy, dimZ := r.gz, tlanes := r.tlanes, clx := r.clx, cly := r.cly, prio := r.prio
        cplen := r.cplen, acc := r.acc, param := r.param, cpladdr := r.cpladdr, level := level, next := 0, retired := 0
        waited := 0, passed := false, aged := false, addHeld := false }
    { m.setCtx { k with serial := k.serial + 1 } with grids := m.grids ++ [g], nextGid := m.nextGid + 1 }

/-- The record at HEAD of a queue that its front end may look at: the queue and the record's bytes. Of a host-fed queue it sees
those up to the TAIL that the last doorbell made it read (R400). -/
def headRecord (fw : Firmware) (m : Mach) (c : BitVec 12) (q : BitVec 4) : Option (Context × LQueue × Option (List Byte)) :=
  match m.ctx? c with
  | none => none
  | some k =>
    let x := lqueue m k q
    let n := ((if x.mode = 1 then k.rung.getD q.toNat 0 else x.tail) - x.head).toNat
    if k.st == .running && !fw.holdLaunch && x.on && n != 0 && (x.mode != 1 || decide (n ≤ 2 ^ x.log2n)) then some (k, x, homeBytes m c (x.slot x.head) 64) else none

/-- A load of the device for a context, at the home (R401, R415). -/
def deviceLoad (m : Mach) (c : BitVec 12) (va : Nat) : Except Cause (Word × Attr) × Mach := readHome m c 1 .load va

/-- The dependence word holds a value that accepts the record (R401). -/
def depMet (m : Mach) (c : BitVec 12) (r : LRec) : Bool :=
  !r.depen || (match (deviceLoad m c r.depaddr).1 with
    | .ok v => (v.1 - r.depval).msb == false
    | .error _ => false)

/-- HEAD advances: a place frees (R353). -/
def advanceHead (m : Mach) (k : Context) (q : BitVec 4) (x : LQueue) : Mach :=
  wakeLaunch (setPhysBytes m (lqAddr k q + 20) (leBytes 4 (x.head + 1).toNat)) k.cid q

/-- The LAUNCH trace record (R452, R453). -/
def traceLaunch (fw : Firmware) (m : Mach) (c : BitVec 12) (serial : BitVec 32) (q : BitVec 4) (r : LRec) : Mach :=
  traceBare fw m c .la ([0x03, 0xFF, 0xFF, 0xFF] ++ leBytes 4 serial.toNat ++ leBytes 1 q.toNat ++ leBytes 1 r.prio.toNat ++ [0, 0]
    ++ leBytes 4 r.teams)

/-- The device's own `.sys` acquire (R400, R401): no core makes it, so what is left of R119's work is that of the homes, the
clean host-memory lines of the L2s with LMODE 2 (R464). -/
def deviceAcquire (fw : Firmware) (m : Mach) (c : BitVec 12) : Mach := if fw.lmode = 2 then hostLines m c (fun _ => true) else m

/-- The front end reads the dependence word of a record, as a `.sys` acquire (R401). -/
def readDep (fw : Firmware) (m : Mach) (c : BitVec 12) (r : LRec) : Mach :=
  if r.depen then (deviceLoad (deviceAcquire fw m c) c r.depaddr).2 else m

/-- What reading the descriptor and the sets of a record leaves in TLBs and memory-side caches (R118). -/
def descTouch (m : Mach) (c : BitVec 12) (r : LRec) : Mach :=
  let m := homeTouch m c r.kdesc 64
  match descOf m c r with
  | none => m
  | some d => (List.range 8).foldl (fun m i =>
      if !d.setmask.getLsbD i || d.setoff.getD i 0 == 0 then m
      else homeTouch m c (r.kdesc + d.setoff.getD i 0) (1 + ((setList m c r.kdesc d r.ngroups i).map List.length).getD 0)) m

/-- The same for a record at HEAD, which is read too. -/
def recordTouch (m : Mach) (k : Context) (q : BitVec 4) (x : LQueue) (r : LRec) : Mach :=
  descTouch (homeTouch (lqTouch m k q) k.cid (x.slot x.head) 64) k.cid r

/-- What the front end finds at HEAD once it has read the dependence word: the device after that read, and the descriptor of a
well-formed record (R397, R401). -/
def headFound (fw : Firmware) (m : Mach) (c : BitVec 12) (k : Context) (b : Option (List Byte)) : Mach × Option KDesc :=
  let r := LRec.of (b.getD [])
  let m := readDep fw m c r
  (m, if b.isSome && recordOk fw m k r then descOf m c r else none)

/-- The front end accepts the record at HEAD, or removes one that is not well formed with its INFO record (R397, R401). -/
def acceptHead (fw : Firmware) (m : Mach) (c : BitVec 12) (q : BitVec 4) (k : Context) (x : LQueue) (b : Option (List Byte)) : Mach :=
  let r := LRec.of (b.getD [])
  match headFound fw m c k b with
  | (m, none) => advanceHead (postInfo fw (recordTouch m k q x r) c 0x300 (BitVec.ofNat 64 (x.slot x.head)) 0 id) k q x
  | (m, some d) => advanceHead (traceLaunch fw (addGrid (recordTouch m k q x r) c r d 0) c k.serial q r) k q x

/-- LAUNCH_ACCEPT, R401: of a record that is not well formed, or whose dependence word accepts it. -/
def execLaunchAccept (ctx : BitVec 12) (q : BitVec 4) (s : State) : Host.Outcome State Fault Refusal :=
  let h := headRecord s.fw s.m ctx q
  event s (match h with
    | some (k, _, b) => (headFound s.fw s.m ctx k b).2.isNone || depMet (headFound s.fw s.m ctx k b).1 ctx (LRec.of (b.getD []))
    | none => false) (fun fw m => match h with
    | some (k, x, b) => acceptHead fw m ctx q k x b
    | none => m)

/-- DEPENDENCE_READ, R401: the front end reads the dependence word of a held record again. -/
def execDependenceRead (ctx : BitVec 12) (q : BitVec 4) (s : State) : Host.Outcome State Fault Refusal :=
  let h := headRecord s.fw s.m ctx q
  event s (match h with
    | some (k, _, some b) => (LRec.of b).depen && (headFound s.fw s.m ctx k (some b)).2.isSome
        && !depMet (headFound s.fw s.m ctx k (some b)).1 ctx (LRec.of b)
    | _ => false) (fun fw m => match h with
    | some (_, _, some b) => readDep fw m ctx (LRec.of b)
    | _ => m)

/-- In a cycle the front ends read the dependence words of held records again, of which queues being a free choice (R401). -/
def readDeps (fw : Firmware) (m : Mach) : Mach :=
  (m.ctxs.flatMap (fun k => (List.range 16).map (fun q => (k.cid, BitVec.ofNat 4 q)))).foldl (fun m x =>
    match headRecord fw m x.1 x.2 with
    | some (_, _, some b) => if (LRec.of b).depen && Config.pick m.draw 79 (16 * x.1.toNat + x.2.toNat) % 2 == 1 then readDep fw m x.1 (LRec.of b) else m
    | _ => m) m

/-- DOORBELL, R400: the device reads TAIL of a host-fed queue; any other write is ignored. -/
def execDoorbell (v : BitVec 64) (s : State) : Host.Outcome State Fault Refusal :=
  event s true (fun fw m =>
    let c : BitVec 12 := v.extractLsb' 4 12
    let q : BitVec 4 := v.extractLsb' 0 4
    if v.extractLsb' 16 48 ≠ 0 then m else
    match m.ctx? c with
    | none => m
    | some k =>
      let m' := lqTouch (deviceAcquire fw m c) k q
      let x := lqueue m' k q
      if x.on && x.mode == 1 then m'.modCtx c (fun k => { k with rung := k.rung.set q.toNat x.tail }) else m)

/-! ### Placement (R403 to R407) -/

/-- Groups of a grid's teams. -/
def Grid.ngroups (g : Grid) : Nat := (g.tlanes + 31) / 32
def Grid.clsize (g : Grid) : Nat := g.clx * g.cly
def Grid.effPrio (g : Grid) : Nat := if g.aged then 3 else g.prio.toNat

/-- The core belongs to a partition and takes teams (R403, R475). -/
def coreIn (fw : Firmware) (m : Mach) (p : BitVec 3) (core : Nat) : Bool :=
  decide (core < 96) && (fw.parts.getD p.toNat []).contains (2 * (core / 24) + core % 24 / 12)
    && !(m.core core).removed && !(m.core core).failed

/-- Resident groups of a slice, with the registers each holds (R25, R404). -/
def sliceLoad (m : Mach) (core sl : Nat) : List (Nat × Nat) :=
  (m.teams.filter (fun t => t.core == core)).flatMap (fun t =>
    (t.groups.filter (fun g => g.slice == sl && !g.freed)).map (fun g => (g.slot, t.valloc)))

/-- How many groups of VALLOC registers a slice can still take. -/
def sliceRoom (m : Mach) (core sl valloc : Nat) : Nat :=
  let l := sliceLoad m core sl
  Nat.min (128 - l.length) ((4096 - (l.map (fun x => x.2)).sum) / valloc)

def coreTeams (m : Mach) (core : Nat) : List Team := m.teams.filter (fun t => t.core == core)

/-- Every row of R404 but stacks, for one core; `carve` says whether the scratchpad row counts where the core's CARVE differs
from the team's (R407). -/
def coreFits (fw : Firmware) (m : Mach) (k : Context) (g : Grid) (core : Nat) (carve : Bool) : Bool :=
  let ts := coreTeams m core
  let d := g.desc
  coreIn fw m k.part core && (m.core core).draining.isNone
    && decide (g.ngroups ≤ ((List.range 8).map (fun sl => sliceRoom m core sl d.valloc)).sum)
    && (if ts.isEmpty || (m.core core).carve == d.carve then decide ((ts.map (fun t => t.spsz)).sum + d.spsz ≤ d.carve * 1024) else !carve)
    && decide ((ts.map (fun t => t.bars.length)).sum + d.nbar ≤ 96)
    && decide ((ts.map (fun t => t.hists.length)).sum + d.histn ≤ 8)
    && !(g.acc && ts.any (fun t => t.acc))

/-- The pool of a die can give a block to each group of the team or cluster (R404, R477). -/
def stackFits (k : Context) (g : Grid) (die : Nat) : Bool :=
  g.desc.stksz == 0 || (match k.pools[die]? with
    | some p => decide (32 * g.desc.stksz ≤ p.blksz ∧ g.ngroups * g.clsize + (p.used.filter (fun i => decide (i < p.nblk))).length ≤ p.nblk)
    | none => false)

/-- The cores of a cluster by ordinal, for a corner core of a die (R405). -/
def clusterCores (g : Grid) (die corner : Nat) : Option (List Nat) :=
  if corner < 24 ∧ corner % 6 + g.clx ≤ 6 ∧ corner / 6 + g.cly ≤ 4 then
    some ((List.range g.clsize).map (fun i => 24 * die + corner + i % g.clx + 6 * (i / g.clx)))
  else none

/-- The next team or cluster of a grid finds room at a corner of a die that has taken none in this cycle (R406); `carve` as for
`coreFits`. -/
def roomAt (fw : Firmware) (m : Mach) (g : Grid) (carve : Bool) (die corner : Nat) : Bool :=
  match m.ctx? g.ctx, clusterCores g die corner with
  | some k, some cs => decide (die < 4) && !m.placedNow.contains die && k.st == .running && stackFits k g die && cs.all (fun c => coreFits fw m k g c carve)
  | _, _ => false
/-- The next team or cluster of a grid can be placed at a corner. -/
def fitsAt (fw : Firmware) (m : Mach) (g : Grid) (die corner : Nat) : Bool := roomAt fw m g true die corner

/-- The places of all dies. -/
def allCorners : List (Nat × Nat) := (List.range 4).flatMap (fun d => (List.range 24).map (fun c => (d, c)))
/-- Where a grid's next team or cluster can be placed first. -/
def findPlace (fw : Firmware) (m : Mach) (g : Grid) : Option (Nat × Nat) := allCorners.find? (fun x => fitsAt fw m g x.1 x.2)

/-- A grid comes before another: priority, then acceptance (R406). -/
def before (a b : Grid) : Bool := decide (b.effPrio < a.effPrio ∨ (b.effPrio = a.effPrio ∧ a.gid < b.gid))

/-- A grid has teams that are not placed. -/
def Grid.waits (g : Grid) : Bool := decide (g.next < g.total)

/-- Slices for groups, the first with room for each (the distributor's choice, R23). -/
def firstSlices (m : Mach) (core valloc n : Nat) : List Nat :=
  ((List.range 8).flatMap (fun sl => List.replicate (sliceRoom m core sl valloc) sl)).take n

/-- The slices named for one core have room. -/
def slicesOk (m : Mach) (core valloc : Nat) (sl : List Nat) : Bool :=
  sl.all (fun x => decide (x < 8) && decide (sl.count x ≤ sliceRoom m core x valloc))

/-- Write back and invalidate an L1 and take a CARVE (R111). -/
def setCarve (m : Mach) (core carve : Nat) : Mach :=
  ((m.core core).l1.foldl (fun m w => l1Evict m core w.ctx w.va) m).modCore core (fun k => { k with carve := carve })

/-- The lowest free slot of a slice. -/
def freeSlot (used : List Nat) : Nat := ((List.range 128).find? (fun i => !used.contains i)).getD 0

/-- A slot for each group of a team, given its slices. -/
def slotsFor (m : Mach) (core : Nat) (sl : List Nat) : List (Nat × Nat) :=
  sl.foldl (fun acc x =>
    acc ++ [(x, freeSlot ((sliceLoad m core x).map (fun y => y.1) ++ (acc.filter (fun y => y.1 == x)).map (fun y => y.2)))]) []

/-- The lowest free blocks of a pool. -/
def freeBlocks (p : Pool) (n : Nat) : List Nat := ((List.range (n + p.used.length)).filter (fun i => !p.used.contains i)).take n

/-- A group as it is created (R22, R70, R340, R455). -/
def newGroup (g : Grid) (gno slice slot stkBase : Nat) (blk : Option (Nat × Nat)) : Group :=
  let pres := maskOf (fun l => decide (32 * gno + l < g.tlanes))
  { gno := gno, status := .ready, pc := g.entry, amask := pres, present := pres, stack := [], regs := Regs.initial g.desc.valloc g.param
    old := [], outst := [], outMem := [], reqs := [], lost := [], stale := false, under := none, npc := 0, wm := false, retired := 0, rw := 0, age := 0, lastSeal := 0, openCnt := 0
    openW := [], openClean := [], sealed := [], wph := List.replicate g.desc.nbar false, slice := slice, slot := slot, stkBase := stkBase, stkBlk := blk
    waited := 0, since := 0, redo := none, genRes := [], siteAt := none, stat := 0, relPend := none, lostRd := none, staged := [], freed := false
    trace := { on := false, cnt := 0, sync := none, dropped := false } }

/-- A team as it is created. -/
def newTeam (g : Grid) (tid index core clteam : Nat) (groups : List Group) : Team :=
  { tid := tid, ctx := g.ctx, gid := g.gid, index := index, die := core / 24, core := core, clteam := clteam, valloc := g.desc.valloc
    spsz := g.desc.spsz, stksz := g.desc.stksz, carve := g.desc.carve, spfmt := g.desc.spfmt.extractLsb' 0 4, acc := g.acc
    level := g.level, groups := groups, sets := g.sets, rdvs := []
    bars := List.replicate g.desc.nbar { tgt := g.ngroups, cnt := 0, p := 0, phase := false, broken := false }
    hists := List.replicate g.desc.histn { ctr := List.replicate 32 0, centre := 0, ovf := false }
    scratch := [], aliases := [], works := [] }

/-- The groups of a team emit their SYNC of creation where their context is traced (R455). -/
def syncCreated (fw : Firmware) (m : Mach) (tid : Nat) : Mach :=
  match m.team? tid with
  | none => m
  | some t => if traceOn fw m t.ctx then t.groups.foldl (fun m g => emitSync fw m t g 3) m else m

/-- Place one team on a core, with its groups on slices (R404, R111, R477, R353). -/
def placeTeam (fw : Firmware) (m : Mach) (g : Grid) (index core clteam : Nat) (sl : List Nat) : Mach :=
  match m.ctx? g.ctx with
  | none => m
  | some k =>
    let m := if (m.core core).carve = g.desc.carve then m else setCarve m core g.desc.carve
    let p := k.pools.getD (core / 24) { base := 0, blksz := 0, nblk := 0, used := [] }
    let bs := if g.desc.stksz = 0 then [] else freeBlocks p g.ngroups
    let gs := ((slotsFor m core sl).zipIdx).map (fun x =>
      let b := bs[x.2]?
      newGroup g x.2 x.1.1 x.1.2 ((b.map (fun i => p.base + i * p.blksz)).getD 0) (b.map (fun i => (core / 24, i))))
    let m := m.modCtx g.ctx (fun k => { k with pools := k.pools.modify (core / 24) (fun p => { p with used := p.used ++ bs }) })
    let tid := m.nextTid
    let m := acquire m g.ctx core .dev 0
    let m := { m with teams := m.teams ++ [newTeam g tid index core clteam gs], nextTid := tid + 1 }
    syncCreated fw (gs.foldl (fun m x => orderAliases m { tid := tid, gno := x.gno } .dev) m) tid

/-- Place the next team or cluster of a grid; other grids that wait have been passed (R405, R406). -/
def placeNext (fw : Firmware) (m : Mach) (g : Grid) (die : Nat) (cores : List Nat) (sl : List Nat) : Mach :=
  let m := (cores.zipIdx).foldl (fun m x => placeTeam fw m g (g.next + x.2) x.1 x.2 ((sl.drop (x.2 * g.ngroups)).take g.ngroups)) m
  let m := m.setGrid { g with next := g.next + g.clsize }
  { m with placedNow := m.placedNow ++ [die], grids := m.grids.map (fun x : Grid => if x.gid != g.gid && x.waits then { x with passed := true } else x) }

/-- No grid that comes before this one can be placed, in whichever partition (R406). -/
def turnOf (fw : Firmware) (m : Mach) (g : Grid) : Bool := !m.grids.any (fun x => x.waits && before x g && (findPlace fw m x).isSome)

/-- TEAM_PLACE, R404. -/
def execTeamPlace (gid die core : Nat) (slices : List Nat) (s : State) : Host.Outcome State Fault Refusal :=
  let g := s.m.grid? gid
  event s (g.any (fun g => g.waits && fitsAt s.fw s.m g die core && turnOf s.fw s.m g
      && slices.length == g.ngroups * g.clsize && (match clusterCores g die core with
        | some cs => (cs.zipIdx).all (fun x => slicesOk s.m x.1 g.desc.valloc ((slices.drop (x.2 * g.ngroups)).take g.ngroups))
        | none => false))) (fun fw m =>
    match g.bind (fun g => (clusterCores g die core).map (fun cs => (g, cs))) with
    | some (g, cs) => placeNext fw m g die cs slices
    | none => m)

/-- PRIORITY_AGING, R406. -/
def execPriorityAging (gid : Nat) (s : State) : Host.Outcome State Fault Refusal :=
  event s ((s.m.grid? gid).any (fun g => g.waits && !g.aged && decide (2097152 ≤ g.waited))) (fun _ m =>
    match m.grid? gid with
    | some g => m.setGrid { g with aged := true }
    | none => m)

/-! ### Draining (R407, R111, R475) -/

/-- The grid waits only for a CARVE: its team or cluster finds no place, and would if the CARVE of the cores did not count. -/
def carveBlocked (fw : Firmware) (m : Mach) (g : Grid) : Bool :=
  g.waits && (findPlace fw m g).isNone && allCorners.any (fun x => roomAt fw m g false x.1 x.2)

/-- The core with the fewest groups, the lowest number breaking ties. -/
def fewestGroups (m : Mach) (cs : List Nat) : Option Nat :=
  let n := fun (c : Nat) => ((coreTeams m c).map (fun t => (t.groups.filter (fun g => !g.freed)).length)).sum
  cs.foldl (fun r c => match r with
    | none => some c
    | some b => if n c < n b then some c else r) none

/-- Mark the core that one blocked grid drains; one core at a time for a partition. -/
def markFor (fw : Firmware) (m : Mach) (g : Grid) : Mach :=
  match m.ctx? g.ctx with
  | none => m
  | some k =>
    let cs := (List.range 96).filter (coreIn fw m k.part)
    if cs.any (fun c => (m.core c).draining.isSome) || !carveBlocked fw m g then m else
    match fewestGroups m cs with
    | some c => m.modCore c (fun x => { x with draining := some g.desc.carve })
    | none => m

/-- The distributor marks the cores that grids wait for. -/
def markDraining (fw : Firmware) (m : Mach) : Mach := m.grids.foldl (markFor fw) m

/-- A failed core that is empty takes the spare that it was given as it failed; with none it is removed and NCORE drops (R475). -/
def leaveCore (fw : Firmware) (core : Nat) (k : Core) : Firmware × Core :=
  let k := { k with draining := none }
  if !k.failed then (fw, k) else
  match k.spare with
  | some p => ({ fw with coremap := fw.coremap.set core (BitVec.ofNat 64 p) }, { k with failed := false, spare := none, icache := [] })
  | none => ({ fw with ncore := fw.ncore - 1 }, { k with failed := false, removed := true, icache := [] })

/-- A draining core is empty: it takes the CARVE that it drains for, and a failed one its spare (R111, R475). -/
def carveChange (fw : Firmware) (m : Mach) (core : Nat) : Firmware × Mach :=
  let m := setCarve m core ((m.core core).draining.getD (m.core core).carve)
  ((leaveCore fw core (m.core core)).1, m.modCore core (fun k => (leaveCore fw core k).2))

/-- CARVE_CHANGE, R111, R475: a draining core is empty; a failed one takes its spare, or is removed. -/
def execCarveChange (core : Nat) (s : State) : Host.Outcome State Fault Refusal :=
  eventFw s ((s.m.core core).draining.isSome && (coreTeams s.m core).isEmpty) (fun fw m => carveChange fw m core)

end Sys2Proof.Machine
end

