-- ==== Sys2Proof/Machine/Sha3.lean ====
section
/-! DEFINITION. Machine/Sha3.lean: the SHA3-256 digest that save images, dumps and boot stages carry (R435, R438, R470). -/
namespace Sys2Proof.Machine

/-- The bits that choose the round constants: a shift register of 8 bits with feedback x⁸ + x⁶ + x⁵ + x⁴ + 1, its `n` next
states from r on. -/
def digestTaps : Nat → Nat → List Nat
  | 0, _ => []
  | n + 1, r => r :: digestTaps n (if 128 ≤ r then (2 * r) ^^^ 0x171 else 2 * r)

/-- The constant of one round from its seven bits: bit j goes to place 2^j − 1. -/
def roundConst (taps : List Nat) : DWord :=
  BitVec.ofNat 64 ((taps.zipIdx).foldl (fun v t => if t.1 % 2 = 1 then v + 2 ^ (2 ^ t.2 - 1) else v) 0)

/-- Column parities are added to the columns beside them. -/
def mixColumns (s : List DWord) : List DWord :=
  let par := fun (x : Nat) => ([0, 5, 10, 15, 20] : List Nat).foldl (fun v r => v ^^^ s.getD (x % 5 + r) 0) 0
  s.mapIdx (fun i v => v ^^^ (par (i + 4) ^^^ (par (i + 1)).rotateLeft 1))

/-- Walk over 24 lanes from (1, 0): step t turns the lane in hand by t (t + 1) / 2 and puts it down at (y, 2x + 3y), whose old
lane it takes up. -/
def walkLanes (s : List DWord) : List DWord :=
  ((List.range 24).foldl (fun (a : List DWord × DWord × Nat × Nat) t =>
    let dst : Nat := a.2.2.2 + 5 * ((2 * a.2.2.1 + 3 * a.2.2.2) % 5)
    (a.1.set dst (a.2.1.rotateLeft ((t + 1) * (t + 2) / 2 % 64)), a.1.getD dst 0, a.2.2.2, (2 * a.2.2.1 + 3 * a.2.2.2) % 5))
    (s, s.getD 1 0, 1, 0)).1

/-- Each lane takes its two right neighbours of its row, the nearer inverted. -/
def mixRows (s : List DWord) : List DWord :=
  s.mapIdx (fun i v => v ^^^ (s.getD (i / 5 * 5 + (i + 2) % 5) 0 &&& ~~~(s.getD (i / 5 * 5 + (i + 1) % 5) 0)))

/-- The 24 rounds. -/
def digestRounds (s : List DWord) : List DWord :=
  let taps := digestTaps 168 1
  (List.range 24).foldl (fun s k =>
    (mixRows (walkLanes (mixColumns s))).modify 0 (fun v => v ^^^ roundConst ((taps.drop (7 * k)).take 7))) s

/-- Message blocks of 136 bytes enter the first 17 lanes. -/
def digestBlocks : Nat → List Byte → List DWord → List DWord
  | 0, _, s => s
  | n + 1, bs, s => digestBlocks n (bs.drop 136) (digestRounds (s.mapIdx (fun i v =>
      if i < 17 then v ^^^ BitVec.ofNat 64 (ofLe ((bs.drop (8 * i)).take 8)) else v)))

/-- SHA3-256: the message, bits 01, then 1, zeros and 1 to a whole number of blocks. -/
def sha3 (msg : List Byte) : List Byte :=
  let n := msg.length / 136 + 1
  let padded := (List.range (136 * n)).map (fun i =>
    (msg[i]?).getD ((if i = msg.length then 0x06#8 else 0) ||| (if i + 1 = 136 * n then 0x80#8 else 0)))
  ((digestBlocks n padded (List.replicate 25 0)).take 4).flatMap (fun v => leBytes 8 v.toNat)

end Sys2Proof.Machine
end

