-- ==== Sys2Proof/Machine/Contexts.lean ====
section
/-! DEFINITION. Machine/Contexts.lean: context commands (R468), saving and restoring a context (R432 to R437, R225, R440,
R441) and dumps (R438, R439). -/
namespace Sys2Proof.Machine

/-! ### Context commands (R468) -/

/-- OP and CTX of the command in CTXCMD. -/
def cmdOp (fw : Firmware) : Nat := ((fw.ctxcmd.getD 0 0).extractLsb' 0 8).toNat
def cmdCtx (fw : Firmware) : BitVec 12 := (fw.ctxcmd.getD 0 0).extractLsb' 8 12
/-- The command waits to start; the device has left firmware bring-up (R470). -/
def cmdPending (fw : Firmware) (op : Nat) (c : BitVec 12) : Bool :=
  fw.bootst.getLsbD 8 && !fw.cmdRun && cmdOp fw == op && cmdCtx fw == c
/-- The command completes with a status: 0x00 done, 0xFF refused. -/
def cmdDone (fw : Firmware) (status : BitVec 8) : Firmware :=
  { fw with cmdRun := false
            ctxcmd := fw.ctxcmd.modify 0 (fun v => (v &&& ~~~(0xFF#64)) ||| status.setWidth 64) }
/-- A started command of this kind for this context completes. -/
def cmdEnds (fw : Firmware) (op : Nat) (c : BitVec 12) : Firmware :=
  if fw.cmdRun && cmdOp fw == op && cmdCtx fw == c then cmdDone fw 0 else fw

/-! ### Ending the teams of a context -/

/-- The teams of a context. -/
def ctxTeams (m : Mach) (c : BitVec 12) : List Team := m.teams.filter (fun t => t.ctx == c)

/-- Engine work of a context is cancelled, not drained (R438, R468). -/
def cancelWork (m : Mach) (c : BitVec 12) : Mach :=
  let mine := fun (tid : Nat) => (ctxTeams m c).any (fun t => t.tid == tid)
  { m with
    teams := m.teams.map (fun t : Team => if t.ctx == c then { t with works := t.works.map (fun w => { w with st := .cancelled }) } else t)
    cores := m.cores.map (fun k : Core => { k with loops := k.loops.filter (fun l => !mine l.tid), saccs := k.saccs.filter (fun x => !mine x.tid) })
    pairings := m.pairings.filter (fun p => !mine p.loop.tid) }

/-- Every group of a context exits (R438). -/
def exitAll (m : Mach) (c : BitVec 12) : Mach :=
  (ctxTeams m c).foldl (fun m t => t.groups.foldl (fun m g => endGroup m c t.tid g.gno) m) m

/-! ### Cache step (R436, R440) -/

/-- Every Dirty and Registered word of a context goes home and its registration is cleared; words changed at the home go to
memory; then no cache holds a line of the context. -/
def flushContext (m : Mach) (c : BitVec 12) : Mach :=
  let m := (List.range 96).foldl (fun m i =>
    ((m.core i).l1.filter (fun w => w.ctx == c)).foldl (fun m w => l1Evict m i c w.va) m) m
  let m := (List.range 4).foldl (fun m d =>
    ((m.rdc.getD d []).filter (fun w => w.ctx == c)).foldl (fun m w => rdcEvict m d c w.va) m) m
  let m := (m.registered.filter (fun e => e.1 == c)).foldl (fun m e => recallWord m c e.2.1) m
  let m := (m.l2.filter (fun w => w.ctx == c && w.d)).foldl (fun m w => writeBack m c w.va w.val) m
  { m with
    l2 := m.l2.filter (fun w => w.ctx != c)
    rdc := m.rdc.map (fun l => l.filter (fun w => w.ctx != c))
    cores := m.cores.map (fun k : Core => { k with l1 := k.l1.filter (fun w => w.ctx != c), icache := k.icache.filter (fun l => l.ctx != c) }) }

/-! ### Creation (R468) -/

/-- The stack pools that a table describes (R477). A BASE or a BLKSZ that is no multiple of 128 is taken as it stands: the spec gives
no outcome for one (DESIGN CHOICE, log entry 84). -/
def poolsOf (m : Mach) (stktab : Nat) : List Pool :=
  if stktab = 0 then [] else
  (List.range 4).map (fun d =>
    let b := physBytes m (stktab + 16 * d) 16
    { base := leField b 0 8, blksz := leField b 8 4, nblk := leField b 12 4, used := [] })

/-- A context as it is created (R81, R387, R388). -/
def newContext (m : Mach) (fw : Firmware) (c : BitVec 12) : Context :=
  let f := fun i => (fw.ctxcmd.getD i 0).toNat
  let k : Context :=
    { cid := c, part := (fw.ctxcmd.getD 0 0).extractLsb' 20 3, st := .running, ctxb := 0, qlim := 2, rvlim := 0x4000, fpc := 0
      fqbase := 0, log2n := 6, fqhead := 0, fqtail := 0, drop := 0, dropNew := 0, seq := 0, serial := 0, held := [], pend := []
      acts := [], ptroot := f 1, lqtab := f 2, savea := f 3, dumpa := f 4, dumpsz := f 5, svlr := f 6, stktab := f 7
      pools := poolsOf m (f 7), image := [], imgSize := 0, late := [], phase1 := 0, phase1n := 0, rung := [] }
  { k with rung := (List.range 16).map (fun q => (lqueue m k (BitVec.ofNat 4 q)).head) }

/-- The fields of a create that can refuse it. -/
def createFieldsOk (fw : Firmware) : Bool :=
  let f := fun i => (fw.ctxcmd.getD i 0).toNat
  (fw.ctxcmd.getD 0 0).extractLsb' 23 41 == 0
    && decide (f 1 % 65536 = 0 ∧ f 2 % 1024 = 0 ∧ f 3 % 4096 = 0 ∧ f 4 % 4096 = 0 ∧ f 6 % 64 = 0 ∧ f 7 % 64 = 0)
    && !(fw.parts.getD ((fw.ctxcmd.getD 0 0).extractLsb' 20 3).toNat []).isEmpty

/-- The word at a physical address is poisoned, or the memory that would give it has an error. -/
def physLost (m : Mach) (pa : Nat) : Bool :=
  m.poison.any (fun x => mapsTo m x.1 x.2 pa) || m.l2Err.any (fun x => mapsTo m x.1 x.2 pa)
    || (m.memErr.contains pa && !m.registered.any (fun e => mapsTo m e.1 e.2.1 pa) && !m.l2.any (fun w => mapsTo m w.ctx w.va pa))

/-- The launch record at a physical address can be read: its 64 bytes lie in HBM, and none of its words is lost. -/
def recordReads (m : Mach) (pa : Nat) : Bool :=
  decide (pa + 64 ≤ 2 ^ 39) && (List.range 16).all (fun i => !physLost m (pa + 4 * i))

/-- Create a context and its supervisor's grid, at level 1 (R385); nothing changes where the command is refused. The reads of the
stack-pool table, the launch-queue table, the launch record and its descriptor pass through the memory-side cache (R118). -/
def createContext (fw : Firmware) (m : Mach) (c : BitVec 12) : Firmware × Mach :=
  if (m.ctx? c).isSome || !createFieldsOk fw || !recordReads m (fw.ctxcmd.getD 6 0).toNat then (cmdDone fw 0xFF, m) else
  let k := newContext m fw c
  let m := mscReads (if k.stktab = 0 then m else mscReads m k.stktab 64) k.svlr 64
  let m := (List.range 16).foldl (fun m q => lqTouch m k (BitVec.ofNat 4 q)) m
  let m' := { m with ctxs := m.ctxs ++ [k] }
  let r := LRec.of (physBytes m k.svlr 64)
  match (if recordOk fw m' k r then descOf m' c r else none) with
  | none => (cmdDone fw 0xFF, m)
  | some d => (cmdDone fw 0, addGrid (descTouch m' c r) c r d 1)

/-- CTX_CREATE, R468. -/
def execCtxCreate (ctx : BitVec 12) (s : State) : Host.Outcome State Fault Refusal :=
  eventFw s (cmdPending s.fw 1 ctx) (fun fw m => createContext fw m ctx)

/-! ### Destruction (R468) -/

/-- Every group of a context exits, its work is cancelled, its teams leave their cores, and its words go to memory. -/
def emptyContext (m : Mach) (c : BitVec 12) : Mach :=
  let m := exitAll (cancelWork m c) c
  flushContext (((ctxTeams m c).foldl dropTeam m).modCtx c (fun k => { k with st := .dead })) c

/-- A write-back of the context is held for its page, so that a command that needs it does not complete (R419). -/
def holdsWrites (m : Mach) (c : BitVec 12) : Bool := m.heldWb.any (fun h => h.ctx == c)

/-- Nothing of a context is left. -/
def forgetContext (m : Mach) (c : BitVec 12) : Mach :=
  { tlbFilter m (fun e => e.ctx != c) with
    ctxs := m.ctxs.filter (fun k => k.cid != c), grids := m.grids.filter (fun g => g.ctx != c)
    l2Err := m.l2Err.filter (fun x => x.1 != c), poison := m.poison.filter (fun x => x.1 != c), rollCalls := m.rollCalls.filter (fun x => x.ctx != c)
    rewrites := m.rewrites.filter (fun x => x.ctx != c), dumps := m.dumps.filter (fun d => d.ctx != c) }

/-- The destroy command of a context has started and waits for held write-backs (R419). -/
def destroyWaits (fw : Firmware) (c : BitVec 12) : Bool := fw.cmdRun && cmdOp fw == 2 && cmdCtx fw == c

/-- CTX_DESTROY, R468: it starts, and completes once no write-back of the context is held (R419). -/
def execCtxDestroy (ctx : BitVec 12) (s : State) : Host.Outcome State Fault Refusal :=
  eventFw s (cmdPending s.fw 2 ctx || (destroyWaits s.fw ctx && !holdsWrites s.m ctx)) (fun fw m =>
    if (m.ctx? ctx).isNone then (cmdDone fw 0xFF, m) else
    let m := if fw.cmdRun then m else emptyContext m ctx
    if holdsWrites m ctx then ({ fw with cmdRun := true }, m) else (cmdDone fw 0, forgetContext m ctx))

/-! ### Saving (R432 to R436) -/

/-- A partner of the loop has read its last plane, and so has the loop: partners take their K-steps together (R224). -/
def partnerEnds (m : Mach) (l : Loop) : Bool :=
  l.pair.any (fun n => !m.cores.any (fun k => k.loops.any (fun x => x.lid == n && !x.planesDone)))

/-- A running loop completes its current K-step and stops; one that has read its last plane completes (R225). Which step is the
current one is a free choice, the same for the partners of a pairing. -/
def stopLoop (core : Nat) (m : Mach) (l : Loop) : Mach :=
  if !l.running then m else
  let left := l.ksteps - l.step
  let x := loopSteps m core l (if l.planesDone || partnerEnds m l then left else 1 + Config.pick m.draw 72 (l.pair.headD l.lid) % left)
  if l.ksteps ≤ x.2.step then finishLoop x.1 core x.2
  else x.1.modCore core (fun k => setLoop k { x.2 with running := false })

/-- Groups of a context stop issuing: a handshake not yet agreed is cancelled with its partners at their MLOOP, and each READY
group is SUSPENDED (R24, R433). A group parked for another reason stays parked. -/
def haltGroups (m : Mach) (c : BitVec 12) : Mach :=
  let mine := fun (p : Pairing) => (m.team? p.loop.tid).any (fun t => t.ctx == c)
  let m := (m.pairings.filter mine).foldl (fun m p => m.modGroup { tid := p.loop.tid, gno := p.loop.gno } Group.leaveWait) m
  { m with
    pairings := m.pairings.filter (fun p => !mine p)
    teams := m.teams.map (fun t : Team => if t.ctx == c then { t with groups := t.groups.map (Group.halt false) } else t) }

/-- Phase 1 begins in every cluster: groups stop issuing, and loops stop (R433). -/
def startSave (m : Mach) (c : BitVec 12) : Mach :=
  let m := haltGroups (m.modCtx c (fun k => { k with st := .saving, phase1 := m.cycle, phase1n := 0 })) c
  (ctxTeams m c).foldl (fun m t => ((m.core t.core).loops.filter (fun l => l.tid == t.tid)).foldl (stopLoop t.core) m) m

/-- CTX_SAVE, R432. -/
def execCtxSave (ctx : BitVec 12) (s : State) : Host.Outcome State Fault Refusal :=
  eventFw s (cmdPending s.fw 3 ctx) (fun fw m =>
    match m.ctx? ctx with
    | some k => if k.st = .running then ({ fw with cmdRun := true }, startSave m ctx) else (cmdDone fw 0xFF, m)
    | none => (cmdDone fw 0xFF, m))

/-- Work that phase 1 waits for (R433): all but bulk transfers and page requests. -/
def drains (k : WorkKind) : Bool := match k with
  | .bulk _ _ _ _ _ _ _ _ | .pgreq _ => false
  | .copy _ _ _ _ _ | .copyl _ _ | .mcast _ _ _ _ _ _ _ | .row _ _ _ _ _ _ | .plane _ _ _ | .put _ | .drain _ _ _ => true

/-- A multicast into the team is in flight (R434). -/
def mcastInto (t : Team) (w : Work) : Bool := w.st == .run && (match w.kind with
  | .mcast _ _ _ rcv _ _ _ => rcv.contains t.tid
  | _ => false)

/-- Phase 1 has ended for a team (R433, R434, R201): no work runs that drains, and no chunk of a bulk transfer is in flight. -/
def teamQuiet (m : Mach) (t : Team) : Bool :=
  t.groups.all (fun g => g.outst.isEmpty) && !t.works.any (fun w => w.st == .run && (drains w.kind || !w.part.isEmpty))
    && !m.teams.any (fun u => u.works.any (mcastInto t)) && !(m.core t.core).saccs.any (fun x => x.tid == t.tid)
    && !m.rewrites.any (fun x => x.tid == t.tid)

/-- A multicast of the team that is stopped on a REPLAY record that no action was kept for: it is cancelled, and what it has not
delivered is done anew at restore (R434). -/
def mcastRedone (k : Context) (t : Team) (w : Work) : Bool :=
  w.st == .stopped && (match w.kind with
    | .mcast _ _ _ _ _ _ _ => k.pend.any (fun p => p.tid == t.tid && p.wid == some w.wid && p.replay && !k.acts.any (fun a => a.1 == p.seq))
    | _ => false)

/-- Work as a save keeps it: what is recorded of a bulk transfer or of a cancelled multicast are chunks, each of them moved in
full when it is done anew (R433, R434, R437). -/
def savedWork (k : Context) (t : Team) (w : Work) : Work :=
  match w.kind with
  | .bulk _ _ _ _ _ _ _ _ => { w with part := [] }
  | _ => if mcastRedone k t w then { w with st := .run, part := [] } else w

/-- A group as a save keeps it: one that only the save has suspended is READY where it goes on (R24, R435, R437). -/
def savedGroup (k : Context) (t : Team) (g : Group) : Group :=
  let g := if heldBack k t.tid g.gno then g else g.resume
  { g with relPend := none, staged := [], lostRd := none }

/-- What a save keeps of a team (R83, R435): of the tiles' contents those in use or dirty (R78). -/
def savedOf (m : Mach) (k : Context) (t : Team) : SavedTeam :=
  let c := m.core t.core
  { team := { t with
      groups := t.groups.map (savedGroup k t)
      works := t.works.map (savedWork k t)
      aliases := [] }
    tiles := if t.acc then c.tiles.map (fun x => if x.inuse || x.dirty then x else { x with els := [] }) else []
    loops := c.loops.filter (fun l => l.tid == t.tid) }

/-- Write one team into the save image and take it off its core (R435); saving a group releases at `.sys` (R436). -/
def saveTeam (m : Mach) (t : Team) : Mach :=
  let m := release m t.core .sys (fun _ => true)
  match m.team? t.tid, m.ctx? t.ctx with
  | some u, some k =>
    (dropTeam m u).modCtx t.ctx (fun c =>
      { c with image := c.image ++ [savedOf m k u], phase1n := Nat.max c.phase1n (m.cycle - c.phase1)
               pend := c.pend.filter (fun p => !u.works.any (fun w => mcastRedone k u w && p.wid == some w.wid && p.tid == u.tid)) })
  | _, _ => m

/-- The resident teams of a team's cluster. -/
def clusterMates (m : Mach) (t : Team) : List Team :=
  let n := ((m.grid? t.gid).map Grid.clsize).getD 1
  m.teams.filter (fun u => u.gid == t.gid && u.index / n == t.index / n)

/-- SAVE_PHASE2, R432, R435: the cluster of a team, once phase 1 has ended for each of its teams. -/
def execSavePhase2 (ctx : BitVec 12) (tid : Nat) (s : State) : Host.Outcome State Fault Refusal :=
  let us := ((s.m.team? tid).map (clusterMates s.m)).getD []
  event s ((s.m.ctx? ctx).any (fun k => k.st == .saving) && (s.m.team? tid).any (fun t => t.ctx == ctx) && us.all (teamQuiet s.m))
    (fun _ m => us.foldl saveTeam m)

/-- The cluster that a saved team belongs to: its grid, and the run of CLSIZE indices. -/
def clusterOf (m : Mach) (x : SavedTeam) : Nat × Nat := (x.team.gid, x.team.index / (((m.grid? x.team.gid).map Grid.clsize).getD 1))
/-- The clusters of an image, in order. -/
def imageClusters (m : Mach) (xs : List SavedTeam) : List (Nat × Nat) := (xs.map (clusterOf m)).eraseDups

/-- The sections of an image: their layout is not given, so their length and their bytes are free values (log entry 6). -/
def imageBody (draw : Nat) : List Byte :=
  (List.range ((Config.freeWord draw 0).toNat % 2 ^ 39)).map (fun i => (Config.freeWord draw (1 + i)).setWidth 8)

/-- A save image (R435): its header of 64 bytes, with the digest of the image, then the sections. -/
def saveImage (m : Mach) (c : BitVec 12) (xs : List SavedTeam) (cycles : Nat) : List Byte :=
  let body := imageBody m.draw
  let head := [0x53, 0x56, 0x49, 0x00] ++ leBytes 2 c.toNat ++ leBytes 2 (imageClusters m xs).length ++ leBytes 8 (64 + body.length)
    ++ leBytes 8 cycles ++ leBytes 8 0
  head ++ sha3 (head ++ List.replicate 32 0 ++ body) ++ body

/-- Complete a save, unless a write-back of the context is held for its page (R419, R436). -/
def finishSave (m : Mach) (c : BitVec 12) : Bool × Mach :=
  let m := flushContext m c
  match m.ctx? c with
  | none => (false, m)
  | some k =>
    if holdsWrites m c then (false, m) else
    let b := saveImage m c k.image k.phase1n
    (true, (setPhysBytes m k.savea b).modCtx c (fun k => { k with st := .saved, imgSize := b.length }))

/-- SAVE_CACHE_FLUSH, R436. -/
def execSaveCacheFlush (ctx : BitVec 12) (s : State) : Host.Outcome State Fault Refusal :=
  eventFw s ((s.m.ctx? ctx).any (fun k => k.st == .saving) && (ctxTeams s.m ctx).isEmpty) (fun fw m =>
    match finishSave m ctx with
    | (true, m) => (cmdEnds fw 3 ctx, m)
    | (false, m) => (fw, m))

/-! ### Restoring (R437) -/

/-- Put one saved team on a core (R437). The partners of a paired loop come with it, stopped at the same K-step with the token at
their engines, so that their new handshake finds equal descriptors at once; they start together again (R224, R225). -/
def restoreTeam (m : Mach) (fw : Firmware) (x : SavedTeam) (core : Nat) : Mach :=
  let t := x.team
  let m := if (m.core core).carve = t.carve then m else setCarve m core t.carve
  let slots := slotsFor m core (firstSlices m core t.valloc t.groups.length)
  let gs := (t.groups.zipIdx).map (fun y =>
    let sl := slots.getD y.2 (0, 0)
    { y.1 with slice := sl.1, slot := sl.2, trace := { y.1.trace with sync := some 2 } })
  let m := acquire m t.ctx core .sys fw.lmode
  let m := m.modCore core (fun k =>
    { k with tiles := if t.acc then x.tiles else k.tiles, loops := k.loops ++ x.loops.map (fun l => { l with running := false }) })
  { m with teams := m.teams ++ [{ t with core := core, die := core / 24, groups := gs }] }

/-- Restore the clusters of an image at their places; none if a place does not take its cluster (R405). -/
def restoreAll (fw : Firmware) (c : BitVec 12) (xs : List SavedTeam) : List (Nat × Nat) → List (Nat × Nat) → Mach → Option Mach
  | [], _, m => some m
  | _ :: _, [], _ => none
  | cl :: cls, pl :: pls, m =>
    match m.ctx? c, m.grid? cl.1 with
    | some k, some g =>
      (match clusterCores g pl.1 pl.2 with
       | some cs =>
         let mine := xs.filter (fun x => clusterOf m x == cl)
         let coreOf := fun (x : SavedTeam) => cs.getD x.team.clteam 0
         if decide (pl.1 < 4) && mine.all (fun x => coreFits fw m k g (coreOf x) true) then
           restoreAll fw c xs cls pls (mine.foldl (fun m x => restoreTeam m fw x (coreOf x)) m)
         else none
       | none => none)
    | _, _ => none

/-- The image in the save area matches its digest (R437). -/
def imageIntact (m : Mach) (k : Context) : Bool :=
  let b := physBytes m k.savea k.imgSize
  (b.drop 32).take 32 == sha3 (b.take 32 ++ List.replicate 32 0 ++ b.drop 64)

/-- The stack pools at a restore: the table is read anew, the blocks that saved groups have stay given (R477, R479). -/
def poolsAgain (m : Mach) (k : Context) : List Pool :=
  (poolsOf m k.stktab).mapIdx (fun d p => { p with used := ((k.pools[d]?).map (fun o => o.used)).getD [] })

/-- The writes of context registers that were made while the context was saved take effect (R441). -/
def applyLate (fw : Firmware) (m : Mach) (c : BitVec 12) (ws : List (BitVec 8 × DWord)) : Mach :=
  ws.foldl (fun m w => match ctxWrite fw m c w.1.toNat w.2 with
    | .ok m => m
    | .error _ => m) m

/-- Page requests that nobody acted on are made anew (R433, R437): complete where the page is there, else with a new record. -/
def requestAgain (fw : Firmware) (c : BitVec 12) (m : Mach) (x : Nat × Work) : Mach :=
  match x.2.kind, m.team? x.1, m.group? { tid := x.1, gno := x.2.gno } with
  | .pgreq va, some t, some g =>
    let m := dropPend m c (fun p => p.cause == 3 && p.tid == x.1 && p.wid == some x.2.wid)
    (match findLeaf m c va with
     | (.ok _, m) => workDone m x.1 x.2.wid
     | (.error _, m) => postRequest fw m t g x.2.wid va)
  | _, _, _ => m

/-- Restore a saved context (R437, R392, R441): its clusters take their places, late writes take effect, kept SVDONE actions are
performed, requests are made anew, and the groups go on. Lines of the context that were made while it was saved leave the caches
first, and a write-back of them that is held for its page holds the restore (R419). -/
def restoreContext (fw : Firmware) (m : Mach) (k : Context) (place : List (Nat × Nat)) : Option Mach :=
  let m := flushContext m k.cid
  if holdsWrites m k.cid then none else
  let m := if k.stktab = 0 then m else mscReads m k.stktab 64
  (restoreAll fw k.cid k.image (imageClusters m k.image) place m).map (fun m =>
    let m := m.modCtx k.cid (fun k => { k with st := .running, image := [], imgSize := 0, late := [], pools := poolsAgain m k })
    let m := performActs fw (applyLate fw m k.cid k.late) k.cid
    ((ctxTeams m k.cid).flatMap (fun t => t.works.map (fun w => (t.tid, w)))).foldl (requestAgain fw k.cid) m)

/-- The image in the save area is read, through the memory-side cache (R118). -/
def imageRead (m : Mach) (k : Context) : Mach := mscReads m k.savea k.imgSize

/-- CTX_RESTORE, R437. `place` is the distributor's choice of die and corner core for each cluster. -/
def execCtxRestore (ctx : BitVec 12) (place : List (Nat × Nat)) (s : State) : Host.Outcome State Fault Refusal :=
  let ok := match s.m.ctx? ctx with
    | some k => if k.st = .saved ∧ imageIntact s.m k then (restoreContext s.fw (imageRead s.m k) k place).isSome else true
    | none => true
  eventFw s (cmdPending s.fw 4 ctx && ok) (fun fw m =>
    match m.ctx? ctx with
    | none => (cmdDone fw 0xFF, m)
    | some k =>
      if k.st ≠ .saved then (cmdDone fw 0xFF, m)
      else if !imageIntact m k then (cmdDone fw 0xFF, postInfo fw (imageRead m k) ctx 0x302 0 0 id)
      else match restoreContext fw (imageRead m k) k place with
        | some m => (cmdDone fw 0, m)
        | none => (fw, m))

/-! ### Dumps (R438, R439) -/

/-- The record bytes of a pending record. -/
def pendBytes (m : Mach) (c : BitVec 12) (p : Pending) : List Byte :=
  let t := m.team? p.tid
  let g := m.group? { tid := p.tid, gno := p.gno }
  leBytes 2 p.cause.toNat ++ leBytes 2 p.flags.toNat ++ leBytes 1 p.setn.toNat ++ leBytes 1 p.gno ++ leBytes 2 c.toNat
    ++ leBytes 4 ((t.map (fun t => t.index)).getD 0) ++ leBytes 4 ((t.map (fun t => (serialOf m t).toNat)).getD 0)
    ++ leBytes 8 ((g.map (fun g => g.retired)).getD 0) ++ leBytes 8 p.pc.toNat
    ++ leBytes 4 p.lmask.toNat ++ leBytes 4 p.detail.toNat ++ leBytes 8 p.addr.toNat ++ leBytes 8 p.aux.toNat
    ++ leBytes 4 p.seq.toNat ++ leBytes 4 0

/-- One secondary fault, 16 bytes. -/
def secondBytes (m : Mach) (p : Pending) : List Byte :=
  leBytes 2 p.cause.toNat ++ leBytes 1 p.gno ++ leBytes 1 p.setn.toNat
    ++ leBytes 4 (((m.team? p.tid).map (fun t => t.index)).getD 0)
    ++ leBytes 8 p.pc.toNat

/-- The context stops as in phase 1, its engine work is cancelled, and its dump is queued (R438, R439). -/
def stopForDump (m : Mach) (c : BitVec 12) (primary : List Byte) : Mach :=
  let m := cancelWork (haltGroups (m.modCtx c (fun k => { k with st := .dumping })) c) c
  { m with dumps := m.dumps ++ [{ ctx := c, primary := primary, second := [], nsecall := 0 }] }

/-- A fatal fault of a context: its dump is queued, or it is entered in the dump that it has (R439). -/
def fatal (m : Mach) (c : BitVec 12) (p : Pending) : Mach :=
  if m.dumps.any (fun d => d.ctx == c) then
    { m with dumps := m.dumps.map (fun d => if d.ctx == c then
        { d with second := if d.second.length < 8 then d.second ++ [secondBytes m p] else d.second, nsecall := d.nsecall + 1 } else d) }
  else stopForDump m c (pendBytes m c p)

/-- The pending record that a fatal fault of a group has: the newest of its stopping records with the cause. -/
def fatalRec (m : Mach) (c : BitVec 12) (cause : Cause) (r : GRef) : Option Pending :=
  (m.ctx? c).bind (fun k => (k.pend.filter (fun p => p.stops && p.cause == cause && p.tid == r.tid && p.gno == r.gno)).getLast?)

/-- FATAL_FAULT, R438: a stopping record of a level-1 group, or cause 0x342, an error in a register read that the outside
gives. -/
def execFatalFault (ctx : BitVec 12) (cause : BitVec 10) (r : GRef) (s : State) : Host.Outcome State Fault Refusal :=
  let t := s.m.team? r.tid
  let g := s.m.group? r
  let mine := t.any (fun t => t.ctx == ctx) && (s.m.ctx? ctx).any (fun k => k.st != .dead)
  event s (mine && (if cause = 0x342 then g.any Group.live
      else t.any (fun t => t.level == 1) && (fatalRec s.m ctx cause r).isSome)) (fun fw m =>
    let m := if cause = 0x342 && (fatalRec m ctx cause r).isNone then (match g with
        | some g => { takeStop fw m r.tid (Stop.trap 0x342 g g.pc) with agenda := m.agenda }
        | none => m) else m
    match fatalRec m ctx cause r with
    | some p => fatal m ctx p
    | none => m)

/-- The clusters that a dump or a save would hold. -/
def liveClusters (m : Mach) (k : Context) : List SavedTeam :=
  (ctxTeams m k.cid).map (fun t => { team := t, tiles := [], loops := [] }) ++ k.image

/-- The 256-byte header of a dump (R438). -/
def dumpHeader (c : BitVec 12) (d : Dump) (status : Nat) (abort : Nat) (digest : List Byte) : List Byte :=
  [0x44, 0x4D, 0x50, 0x00] ++ leBytes 2 c.toNat ++ leBytes 1 status ++ leBytes 1 d.second.length ++ leBytes 4 d.nsecall ++ leBytes 4 0
    ++ d.primary ++ (d.second.flatMap id ++ List.replicate 128 0).take 128 ++ leBytes 8 abort ++ leBytes 8 0 ++ digest

/-- The first dump address that fails: past the area, or past HBM; none where the whole dump fits. -/
def dumpFails (k : Context) (n : Nat) : Option Nat :=
  let lim := Nat.min (k.dumpa + k.dumpsz) (2 ^ 39)
  if lim < k.dumpa + n then some (Nat.max k.dumpa lim) else none

/-- The command of a context that its dump ends: the dump itself, or a save that the fatal fault cut off, which was not done
(DESIGN CHOICE, log entry 37). -/
def dumpEnds (fw : Firmware) (c : BitVec 12) : Firmware :=
  if fw.cmdRun && cmdOp fw == 3 && cmdCtx fw == c then cmdDone fw 0xFF else cmdEnds fw 5 c

/-- Write the oldest dump; then every group of its context exits (R438, R439). -/
def runDump (fw : Firmware) (m : Mach) (d : Dump) : Firmware × Mach :=
  match m.ctx? d.ctx with
  | none => (dumpEnds fw d.ctx, { m with dumps := m.dumps.tail })
  | some k =>
    let img := saveImage m d.ctx (liveClusters m k) 0
    let bad := dumpFails k (256 + img.length)
    let b := dumpHeader d.ctx d (if bad.isSome then 2 else 1) (bad.getD 0) (sha3 img) ++ img
    let room := match bad with
      | some a => a - k.dumpa
      | none => b.length
    let m := setPhysBytes m k.dumpa (b.take room)
    let m := match bad with
      | some a => { postInfo fw m d.ctx 0x301 (BitVec.ofNat 64 a) 0 id with fwLog := m.fwLog ++ [(d.ctx, BitVec.ofNat 64 a)] }
      | none => m
    let m := exitAll m d.ctx
    let m := k.image.foldl (fun m x => returnBlocks m x.team) m
    (dumpEnds fw d.ctx, { m.modCtx d.ctx (fun k => { k with st := .dead, image := [], pend := [], acts := [] }) with dumps := m.dumps.tail })

/-- DUMP_START, R439: the dump engine writes the oldest queued dump, as one step. -/
def execDumpStart (s : State) : Host.Outcome State Fault Refusal :=
  eventFw s (!s.m.dumps.isEmpty) (fun fw m => match m.dumps with
    | d :: _ => runDump fw m d
    | [] => (fw, m))

/-- A record that no fault gives: a dump that firmware requests has no fatal fault, so PRIMARY is a free value. -/
def freeRecord (draw : Nat) : List Byte := (List.range 8).flatMap (fun i => leBytes 8 (Config.freeWord draw (16 + i)).toNat)

/-- CTX_DUMP, R438. -/
def execCtxDump (ctx : BitVec 12) (s : State) : Host.Outcome State Fault Refusal :=
  eventFw s (cmdPending s.fw 5 ctx) (fun fw m =>
    match m.ctx? ctx with
    | none => (cmdDone fw 0xFF, m)
    | some k =>
      if m.dumps.any (fun d => d.ctx == ctx) || k.st == .dead then (cmdDone fw 0, m)
      else ({ fw with cmdRun := true }, stopForDump m ctx (freeRecord m.draw)))

end Sys2Proof.Machine
end

