-- ==== Sys2Proof/Machine/Management.lean ====
section
/-! DEFINITION. Machine/Management.lean: what the host, firmware, links, sensors and clocks do to the device: management
registers (R14, R15, R400, R444, R445, R466, R467, R473), host memory accesses (R463, R464), boot and attestation (R470, R471), loss
of a target (R429, R430, R469), spares (R475), power (R476), fabric time (R461), sampling and counters (R448 to R450, R444). -/
namespace Sys2Proof.Machine

/-! ### Registers (R14, R15, R444, R445, R466, R467) -/

def ctlOk (v : DWord) (resv : DWord) : Bool := v &&& resv == 0

/-- A write to one register of a Chambray block: the block and the event selectors after it. -/
def chambrayWrite (b : Chambray) (csel : List (BitVec 8)) (o : Nat) (v : DWord) : Chambray × List (BitVec 8) :=
  if o = 0x00 then
    (if ctlOk v 0xFFFFFFFFFFFFC0C0 && decide (8 ≤ (v.extractLsb' 8 6).toNat ∧ (v.extractLsb' 8 6).toNat ≤ 24
        ∧ 10 ≤ (v.extractLsb' 0 5).toNat ∧ (v.extractLsb' 0 5).toNat ≤ 20) then { b with sctl := v } else b, csel)
  else if o = 0x08 then (if v.extractLsb' 0 12 = 0 then { b with sbase := v } else b, csel)
  else if o = 0x10 then
    (if ctlOk v 0xFFFFFFFF8000007E && decide (8 ≤ (v.extractLsb' 7 6).toNat ∧ (v.extractLsb' 7 6).toNat ≤ 26) then
      { b with tctl := v } else b, csel)
  else if o = 0x18 then (if v.extractLsb' 0 12 = 0 then { b with tbase := v } else b, csel)
  else if o = 0x20 then ({ b with dctb := v }, csel)
  else if 0x40 ≤ o ∧ o < 0x80 then
    (if o % 16 = 0 then { b with waddr := b.waddr.set ((o - 0x40) / 16) v }
     else if ctlOk v 0xFFFFFFFF0003FFE0 && decide (2 ≤ (v.extractLsb' 0 5).toNat) then { b with wctl := b.wctl.set ((o - 0x40) / 16) v }
     else b, csel)
  else if 0x80 ≤ o ∧ o < 0xC0 then
    (b, if v.toNat ≤ 0x11 then csel.set ((o - 0x80) / 8) (v.setWidth 8) else csel)
  else (b, csel)

/-- Zero the counters of a partition (R444). -/
def clearCounters (m : Mach) (p : Nat) : Mach :=
  { m with parts := m.parts.modify p (fun x => { x with pcnt := List.replicate 16 0 }) }

/-- FTSRC takes this value (R466). -/
def ftsrcOk (fw : Firmware) (v : DWord) : Bool :=
  let link := (v.extractLsb' 2 4).toNat
  v.extractLsb' 6 58 == 0 && v.extractLsb' 0 2 != 3
    && !(v.extractLsb' 0 2 == 2 && (decide (12 ≤ link) || !fw.links.getLsbD link))

/-- A buffer that is on has LOG2N in its control page (R446). -/
def copyLog2n (b : Chambray) (m : Mach) : Mach :=
  let m := if b.sctl.getLsbD 5 then setPhysBytes m (b.sbase.toNat + 24) [(b.sctl.extractLsb' 8 6).setWidth 8] else m
  if b.tctl.getLsbD 0 then setPhysBytes m (b.tbase.toNat + 24) [(b.tctl.extractLsb' 7 6).setWidth 8] else m

/-- Where trace of a context is off, its groups are no longer traced: the next record after it comes on has a SYNC before it
(R455). -/
def traceEnds (fw : Firmware) (m : Mach) : Mach :=
  { m with teams := m.teams.map (fun t : Team => if traceOn fw m t.ctx then t else
      { t with groups := t.groups.map (fun g : Group => { g with trace := { g.trace with on := false } }) }) }

/-- A write to the Chambray block of partition p. -/
def blockWrite (fw : Firmware) (m : Mach) (p o : Nat) (v : DWord) : Firmware × Mach :=
  let x := chambrayWrite (chamOf fw p) ((m.parts.getD p Part.initial).csel) o v
  let fw := { fw with chambray := fw.chambray.set p x.1 }
  let m := { m with parts := m.parts.modify p (fun y => { y with csel := x.2 }) }
  (fw, if o < 0x20 then traceEnds fw (copyLog2n x.1 m) else m)

/-- A write of 8 bytes in the management space at an 8-byte aligned offset; a register with an event of its own, one that
hardware keeps, and an offset with no register are left as they are. A write of CMD with a reserved bit set is ignored, and the
register keeps its contents (R15); of a create the device reports the status 0xFF in the OP byte all the same (R468; DEDUCED, log
entry 63). -/
def mgmtWrite (fw : Firmware) (m : Mach) (o : Nat) (v : DWord) : Firmware × Mach :=
  if o = 0x100 then
    (if v.extractLsb' 16 48 = 0 ∧ 5 ≤ v.toNat ∧ v.toNat ≤ 1000 then { fw with cxlctl := v } else fw, m)
  else if o = 0x110 then (if ftsrcOk fw v then { fw with ftsrc := v } else fw, m)
  else if o = 0x1000 then
    if fw.cmdRun || decide (1 ≤ cmdOp fw ∧ cmdOp fw ≤ 5) then (fw, m)
    else if v.extractLsb' 23 41 != 0 then (if v.extractLsb' 0 8 = 1 then cmdDone fw 0xFF else fw, m)
    else
      let fw := { fw with ctxcmd := fw.ctxcmd.set 0 v }
      (if 5 < cmdOp fw then cmdDone fw 0xFF else fw, m)
  else if 0x1000 < o ∧ o < 0x1040 then ({ fw with ctxcmd := fw.ctxcmd.set ((o - 0x1000) / 8) v }, m)
  else if 0x10000 ≤ o ∧ o < 0x10800 then
    blockWrite fw m ((o - 0x10000) / 0x100) (o % 0x100) v
  else (fw, m)

/-! ### Configuration space (R473) -/

/-- A record of the chain of extended capabilities: its ID, its revision and the offset of the next record, 0 in the last. -/
structure CapRecord where
  id : BitVec 16
  rev : BitVec 4
  next : BitVec 16
  body : List DWord
deriving DecidableEq, Repr

/-- Records 1 to 5 of the chain. Record 1 copies CAP0 to CAP3; the layouts and the mailbox have no contents that the spec gives,
and no rule gives their revisions or offsets (log entry 64). -/
def capChain (fw : Firmware) (m : Mach) : List CapRecord :=
  (List.range 5).map (fun k =>
    { id := BitVec.ofNat 16 (k + 1), rev := Config.capRev (k + 1), next := if k = 4 then 0 else Config.capOffset (k + 2)
      body := if k = 0 then (List.range 4).map (capOf fw m) else [] })

/-- The register layout that matches the mode of the host link: CXL 3.1, CXL 2.0, or neither (R462, R473). -/
def cxlMatches (fw : Firmware) (old : Bool) : Bool := fw.lmode == (if old then 1 else 0)

/-- A read of a register of a CXL layout: what was written last, or its reset value; always the latter in the layout that does
not match the mode. -/
def cxlRead (fw : Firmware) (old : Bool) (o : Nat) : DWord :=
  let w := (if old then fw.cxl20 else fw.cxl31).find? (fun x => x.1 == o)
  if cxlMatches fw old then (w.map (fun x => x.2)).getD (Config.cxlReset old o) else Config.cxlReset old o

/-- A write to a CXL layout: the one that does not match the mode ignores it. -/
def cxlWrite (fw : Firmware) (old : Bool) (o : Nat) (v : DWord) : Firmware :=
  let put := fun (l : List (Nat × DWord)) => l.filter (fun x => x.1 != o) ++ [(o, v)]
  if !cxlMatches fw old then fw else if old then { fw with cxl20 := put fw.cxl20 } else { fw with cxl31 := put fw.cxl31 }

/-- A supervisor's write of a register of its context that no instruction makes: while the context is saved it waits for the
restore (R441). One that would trap as an instruction changes nothing (R15). -/
def contextWrite (fw : Firmware) (m : Mach) (c : BitVec 12) (i : BitVec 8) (v : DWord) : Mach :=
  match ctxWrite fw m c i.toNat v with
  | .error _ => m
  | .ok m' => if isSaved m c then writeLate m c i v else m'

/-- REGISTER_WRITE, R14. -/
def execRegisterWrite (reg : RegSpace) (v : BitVec 64) (s : State) : Host.Outcome State Fault Refusal :=
  match reg with
  | .mgmt off => eventFw s (off.extractLsb' 0 3 == 0) (fun fw m => mgmtWrite fw m off.toNat v)
  | .cxl31 off => eventFw s true (fun fw m => (cxlWrite fw false off.toNat v, m))
  | .cxl20 off => eventFw s true (fun fw m => (cxlWrite fw true off.toNat v, m))
  | .context c i => event s (s.m.ctx? c).isSome (fun fw m => contextWrite fw m c i v)

/-- CCLR, R444. -/
def execCclr (part : BitVec 3) (s : State) : Host.Outcome State Fault Refusal :=
  event s true (fun _ m => clearCounters m part.toNat)

/-! ### Host accesses (R463, R464) -/

/-- The physical address of a word of an HBM line: PA[47:39] is 0 (R411). -/
def hostWord (line : BitVec 32) (word : BitVec 5) : Nat := 128 * line.toNat + 4 * word.toNat

/-- The physical address of a line of a host-memory page: PA[47:44] is 2 (R411). -/
def hostLine (page : BitVec 32) (line : BitVec 5) : Nat := 2 * 2 ^ 44 + 4096 * page.toNat + 128 * line.toNat

/-- A copy in the device, registered or dirty at its home, stands for the word at a physical address. -/
def inCaches (m : Mach) (pa : Nat) : Bool :=
  m.registered.any (fun e => mapsTo m e.1 e.2.1 pa) || m.l2.any (fun w => w.d && mapsTo m w.ctx w.va pa)

/-- HOST_MEM_READ, R463: performed at the home; a registered word is read from its owner. A poisoned word gives none. -/
def execHostMemRead (line : BitVec 32) (word : BitVec 5) (s : State) : Host.Outcome State Fault Refusal :=
  event s true (fun _ m =>
    let p := hostWord line word
    let m := if inCaches m p then m else mscReads m p 4
    { m with hostRead := if physLost m p then none else some (physWord m p) })

/-- The entries with V = 1 of a page table of n entries in memory, by index. -/
def tableEntries (m : Mach) (base n : Nat) : List (Nat × DWord) :=
  ((m.mem.filter (fun x => decide (base ≤ x.1 ∧ x.1 < base + 8 * n))).map (fun x => (x.1 - base) / 8)).eraseDups.filterMap (fun i =>
    match walkEntry m (base + 8 * i) with
    | .ok e => some (i, e)
    | .error _ => none)

/-- The table that a pointer entry names, with its entries. -/
def tableAt (m : Mach) (e : DWord) : List (Nat × DWord) := if pointerOk e 1 then tableEntries m ((e.extractLsb' 0 36).toNat * 4096) 512 else []

/-- Some context maps the word of HBM at a physical address on a page with Q (R190, R413). -/
def codeMapped (m : Mach) (pa : Nat) : Bool :=
  m.ctxs.any (fun k => (tableEntries m k.ptroot 8192).any (fun x => (tableAt m x.2).any (fun y => (tableAt m y.2).any (fun z =>
    leafOk m.modt z.2 21 (x.1 * 2 ^ 39 + y.1 * 2 ^ 30 + z.1 * 2 ^ 21) && (leafAttr z.2).q && leafPaOf z.2 21 (pa % 2 ^ 21) == pa))))

/-- HOST_MEM_WRITE, R463: any registration is recalled (R125), then the word takes its place at the home. A word of a page that is
mapped with Q stays as it is: only the Quickening Unit and SITERST change it (R190). -/
def execHostMemWrite (line : BitVec 32) (word : BitVec 5) (data : BitVec 32) (s : State) :
    Host.Outcome State Fault Refusal :=
  event s true (fun _ m =>
    let p := hostWord line word
    if codeMapped m p then m else
    let m := (m.registered.filter (fun e => mapsTo m e.1 e.2.1 p)).foldl (fun m e => recallWord m e.1 e.2.1) m
    setPhysWord { m with poison := m.poison.filter (fun x => !mapsTo m x.1 x.2 p) } p data)

/-- The cached word lies in this physical line of 128 bytes. -/
def inLine (m : Mach) (pa : Nat) (c : BitVec 12) (va : Nat) : Bool := (paOf m c va).any (fun p => p / 128 == pa / 128)

/-- Write back and drop every copy of a physical line in the device (R464). The L1s come first: dirty data there is newer than the
RDC's, which makes way for it. -/
def snoopLine (m : Mach) (pa : Nat) : Mach :=
  let m := (List.range 96).foldl (fun m i =>
    ((m.core i).l1.filter (fun w => inLine m pa w.ctx w.va)).foldl (fun m w => l1Evict m i w.ctx w.va) m) m
  let m := (List.range 4).foldl (fun m d =>
    ((m.rdc.getD d []).filter (fun w => inLine m pa w.ctx w.va)).foldl (fun m w => rdcEvict m d w.ctx w.va) m) m
  let m := (m.registered.filter (fun e => inLine m pa e.1 e.2.1)).foldl (fun m e => recallWord m e.1 e.2.1) m
  (m.l2.filter (fun w => inLine m pa w.ctx w.va)).foldl (fun m w => l2Evict m w.ctx w.va) m

/-- HOST_SNOOP, R464: in LMODE 0 and 1, on a line of host memory. -/
def execHostSnoop (page : BitVec 32) (line : BitVec 5) (s : State) : Host.Outcome State Fault Refusal :=
  event s (s.fw.lmode != 2) (fun _ m => snoopLine m (hostLine page line))

/-! ### Boot and attestation (R470, R471) -/

/-- The bytes of a 32-byte value. -/
def bytes32 (v : BitVec 256) : List Byte := leBytes 32 v.toNat

/-- Extend a measurement register. -/
def extend (mr d : BitVec 256) : BitVec 256 := BitVec.ofNat 256 (ofLe (sha3 (bytes32 mr ++ bytes32 d)))

/-- What the outside gives a boot: the digests of the stages that passed, and the stage and the reason of a failure. The table
of R470 numbers no stage: BOOTST counts them from 0 in its order, so that the topology check is 1 (log entry 38). -/
def bootOk (digests : List (BitVec 256)) (fail : Option (BitVec 4 × BitVec 4)) : Bool :=
  match fail with
  | none => digests.length == 4
  | some (st, why) => decide (digests.length < 4) && st.toNat == digests.length
      && (if why = 3 then st == 1 else why == 1 || why == 2)

/-- BOOT, R470: from reset, the stages that pass are measured; a failed check keeps the device in firmware bring-up. -/
def execBoot (digests : List (BitVec 256)) (fail : Option (BitVec 4 × BitVec 4)) (s : State) : Host.Outcome State Fault Refusal :=
  eventFw s (s.fw.bootst == 0 && bootOk digests fail) (fun fw m =>
    ({ fw with mr := fw.mr.mapIdx (fun i v => match digests[i]? with
                 | some d => extend v d
                 | none => v)
               bootst := match fail with
                 | none => 0x100
                 | some (st, why) => (why ++ st).setWidth 64 }, m))

/-- The bytes that an attestation response signs (R471). -/
def attestBody (fw : Firmware) (m : Mach) (nonce : BitVec 256) : List Byte :=
  bytes32 nonce ++ fw.mr.flatMap bytes32 ++ leBytes 8 (capOf fw m 0).toNat ++ leBytes 8 fw.secver.toNat

/-- ATTESTATION_REQUEST, R471: the device answers at any time. -/
def execAttestationRequest (nonce : BitVec 256) (s : State) : Host.Outcome State Fault Refusal :=
  event s true (fun fw m =>
    let b := attestBody fw m nonce
    { m with response := b ++ leBytes 2420 (Config.identitySign (sha3 b)).toNat })

/-! ### Links and lost targets (R429, R430, R462, R469) -/

/-- The word's page lies on a loss target. -/
def onTarget (m : Mach) (tgt : Nat) (c : BitVec 12) (va : Nat) : Bool := (paOf m c va).any (fun p => targetOf p == some tgt)

/-- The dirty and registered words of a target that the device holds, each once: context and address. -/
def lostWords (m : Mach) (tgt : Nat) : List (BitVec 12 × Nat) :=
  (((m.cores.flatMap (fun k => (k.l1.filter (fun w => w.d)).map (fun w => (w.ctx, w.va)))
    ++ m.rdc.flatMap (fun l => (l.filter (fun w => w.d)).map (fun w => (w.ctx, w.va)))
    ++ (m.l2.filter (fun w => w.d)).map (fun w => (w.ctx, w.va))
    ++ m.registered.map (fun e => (e.1, e.2.1))).filter (fun x => onTarget m tgt x.1 x.2)).eraseDups)

/-- Groups whose `.sys` release has words of the target to write through: from their core, or from where their home slice holds
them dirty (R119). -/
def lostReleases (m : Mach) (tgt : Nat) : List (Team × Group × DWord) :=
  m.teams.flatMap (fun t =>
    let has := (m.core t.core).l1.any (fun w => w.d && onTarget m tgt w.ctx w.va)
      || (m.rdc.getD (t.core / 24) []).any (fun w => w.d && w.writer == t.core % 24 && onTarget m tgt w.ctx w.va)
      || m.l2.any (fun w => w.d && (ownerOf m w.ctx w.va).isNone && onTarget m tgt w.ctx w.va)
    if has then t.groups.filterMap (fun g => match g.relPend with
      | some (.sys, pc) => some (t, g, pc)
      | _ => none) else [])

/-- Every line of the target leaves every cache, with its registrations. -/
def dropTarget (m : Mach) (tgt : Nat) : Mach :=
  let f := onTarget m tgt
  let m := (m.registered.filter (fun e => f e.1 e.2.1)).foldl (fun m e => unregister m e.1 e.2.1) m
  { m with
    cores := m.cores.map (fun k : Core => { k with l1 := k.l1.filter (fun w => !f w.ctx w.va) })
    rdc := m.rdc.map (fun l => l.filter (fun w => !f w.ctx w.va))
    l2 := m.l2.filter (fun w => !f w.ctx w.va)
    mirror := m.mirror.filter (fun w => !f w.ctx w.va) }

/-- The INFO record of the words that a context lost. -/
def postLost (fw : Firmware) (lost : List (BitVec 12 × Nat)) (m : Mach) (c : BitVec 12) : Mach :=
  match (lost.filter (fun x => x.1 == c)).map (fun x => x.2) with
  | [] => m
  | a :: as => postInfo fw m c 0x202 (BitVec.ofNat 64 (as.foldl Nat.min a)) (BitVec.ofNat 32 (as.length + 1)) id

/-- The first byte of a span, then its first byte in each further page. -/
def Span.pages (x : Span) : List Nat :=
  (List.range (x.n / 4096 + 1)).map (fun i => if i = 0 then x.lo else x.lo - x.lo % 4096 + 4096 * i)

/-- The first address of the target that a piece of work has still to read or write. -/
def workOn (m : Mach) (tgt : Nat) (t : Team) (w : Work) : Option Nat :=
  match w.kind with
  | .bulk store sl base n _ _ fin _ =>
    (((List.range n).filter (fun k => !fin.contains k)).flatMap (fun k =>
      if store then (bulkStoreBytes sl (512 * (base + k))).map (fun x => x.1)
      else (bulkLoadBytes sl (512 * (base + k))).filterMap (fun x => x.2.2.addr?))).find? (fun a => onTarget m tgt t.ctx (a - a % 4))
  | .copy _ _ _ _ _ | .copyl _ _ | .pgreq _ | .mcast _ _ _ _ _ _ _ | .row _ _ _ _ _ _ | .plane _ _ _ | .put _ | .drain _ _ _ =>
    w.spans.findSome? (fun x => x.pages.find? (fun a => decide (a < x.lo + x.n) && (match engLoc m t w.gno x.lane (BitVec.ofNat 64 (a - a % 4)) with
      | .ok (.glob va) => onTarget m tgt t.ctx va
      | _ => false)))

/-- The chunk of a bulk transfer, not yet moved, that touches a memory address. -/
def workChunk (w : Work) (a : Nat) : Nat :=
  match w.kind with
  | .bulk store sl base n _ _ fin _ =>
    (((List.range n).filter (fun k => !fin.contains k)).find? (fun k =>
      if store then (bulkStoreBytes sl (512 * (base + k))).any (fun x => x.1 == a)
      else (bulkLoadBytes sl (512 * (base + k))).any (fun x => x.2.2.addr? == some a))).getD 0
  | .copy _ _ _ _ _ | .copyl _ _ | .pgreq _ | .mcast _ _ _ _ _ _ _ | .row _ _ _ _ _ _ | .plane _ _ _ | .put _ | .drain _ _ _ => 0

/-- Running engine work that has the target to read or write stops with the cause of the event (R142, R146, R429). -/
def stopWorks (fw : Firmware) (tgt : Nat) (cause : Cause) (m : Mach) : Mach :=
  (m.teams.flatMap (fun t => (t.works.filter (fun w => w.st == .run)).map (fun w => (t, w)))).foldl (fun m x =>
    match workOn m tgt x.1 x.2, x.2.kind with
    | none, _ => m
    | some a, .bulk _ sl _ _ _ _ _ pc => bulkFault fw m x.1 x.2 ((sl.head?.map (fun y => y.1)).getD 0) (workChunk x.2 a) pc cause a
    | some a, _ => stopWork fw m x.1.tid x.2 cause (BitVec.ofNat 64 a)) m

/-- The lanes of a register that later instructions have written: as the image at place `n` of `old` has them, or by now (R55). -/
def Req.over (q : Req) (n : Option Nat) (x : RegId) : Mask :=
  (q.wrote.filter (fun e => e.2.1 == x && n.all (fun k => decide (e.1 < k)))).foldl (fun a e => a ||| e.2.2) 0

/-- An image of the registers once a loss has ended the lanes `a` of the access `q` (R429): those lanes hold what they held before
it, but where a later instruction wrote them (R55). With no lane left, and nothing written later, the register's tag is the one of
before; with some left the access has not written every present lane, so that U is 0 (R66, R67). -/
def Regs.unload (q : Req) (a : Mask) (before : Regs) (n : Option Nat) (now : Regs) (x : RegId) : Regs :=
  let y := Regs.takeLanes x (a &&& ~~~(q.over n x)) before now
  match x with
  | .v k =>
    if q.over n x != 0 then y
    else { y with v := y.v.modify k (fun r => if q.act &&& ~~~a == 0 then before.vreg k else { r with u := false }) }
  | .s _ | .p _ | .x _ | .h _ => y

/-- Lanes that a loss has ended are executed again in the order of their instructions. -/
def insertLost (x : Lost) (l : List Lost) : List Lost := l.filter (fun y => decide (y.img ≤ x.img)) ++ x :: l.filter (fun y => decide (x.img < y.img))

/-- The results of an outstanding access that a loss ends return; the lanes `a` have none, and are executed again after service
of the record `seq` (R392, R429). What they would have written no longer covers what an earlier access gives. -/
def Group.loseReq (q : Req) (a fin : Mask) (seq : BitVec 32) (g : Group) : Group :=
  let before := g.old.getD q.img g.regs
  let f := fun (n : Option Nat) (r : Regs) => q.ids.foldl (Regs.unload q a before n) r
  let free := fun (x : RegId) => if q.ids.contains x then a &&& ~~~(q.over none x) else 0
  ({ g with
    regs := f none g.regs, old := g.old.mapIdx (fun k r => if q.img < k then f (some k) r else r)
    reqs := (g.reqs.erase q).map (fun p => { p with wrote := p.wrote.map (fun e =>
      if e.1 == q.img && q.ids.contains e.2.1 then (e.1, e.2.1, e.2.2 &&& ~~~a) else e) })
    outst := q.ids.foldl List.erase g.outst, outMem := q.ids.foldl List.erase g.outMem
    lost := insertLost { seq := seq, pc := q.pc, i := q.i, lanes := a, fin := fin, img := q.img
                         keep := (q.ids.map (fun x => (x, q.over none x))).filter (fun k => k.2 != 0), gen := q.gen }
      (g.lost.map (fun x => { x with keep := x.keep.map (fun k => (k.1, k.2 &&& ~~~(free k.1))) })) } : Group).lastReturn

/-- The lanes of an outstanding access that were served by the target. -/
def Req.lanesOn (m : Mach) (tgt : Nat) (c : BitVec 12) (q : Req) : List ReqLane :=
  q.lanes.filter (fun l => l.far && onTarget m tgt c (l.va - l.va % 4))

/-- One outstanding load or atomic to the target ends with the cause of the event (R429, step 1): its group is stopped with a
record of the lanes that it served, which carries UNK for an atomic. An access made for the whole group, which gives an s or an h
register, names its active mask. -/
def loseReq (fw : Firmware) (cause : Cause) (m : Mach) (x : Team × Nat × Req × List ReqLane) : Mach :=
  match m.ctx? x.1.ctx, m.group? { tid := x.1.tid, gno := x.2.1 } with
  | some k, some g =>
    let lanes := fun (ls : List ReqLane) => maskOf (fun l => ls.any (fun y => y.lane == l))
    let one := x.2.2.1.ids.any (fun y => match y with
      | .s _ | .h _ => true
      | .v _ | .p _ | .x _ => false)
    let a := if one then g.amask else lanes x.2.2.2
    let fin := if one then 0 else x.2.2.1.act &&& ~~~a
    let st : Stop :=
      { Stop.trap cause g g.pc with
        hits := [{ gno := g.gno, lmask := a, left := 0, fin := 0 }], unk := writesMem x.2.2.1.i
        addr := BitVec.ofNat 64 ((x.2.2.2.head?.map (fun l => l.va)).getD 0), pcAt := some x.2.2.1.pc }
    (takeStop fw m x.1.tid st).modGroup { tid := x.1.tid, gno := x.2.1 } (Group.loseReq x.2.2.1 a fin k.seq)
  | _, _ => m

/-- Every outstanding load and atomic to the target ends. Whether a reduction, which returns nothing, has been performed by then is a
free choice. -/
def loseReqs (fw : Firmware) (tgt : Nat) (cause : Cause) (m : Mach) : Mach :=
  (m.teams.flatMap (fun t => (t.groups.filter Group.live).flatMap (fun g => g.reqs.filterMap (fun q =>
    match q.lanesOn m tgt t.ctx with
    | [] => none
    | ls => if q.ids.isEmpty && Config.pick m.draw 81 q.pc.toNat % 2 == 0 then none else some (t, g.gno, q, ls))))).foldl (loseReq fw cause) m

/-- A `.sys` release of a group loses its write-throughs: it completes with a record of the event, and is executed again after its
service (R392, R429, step 5). -/
def loseRel (fw : Firmware) (cause : Cause) (m : Mach) (x : Team × Group × DWord) : Mach :=
  let r : GRef := { tid := x.1.tid, gno := x.2.1.gno }
  match m.ctx? x.1.ctx with
  | none => m
  | some k =>
    (takeStop fw m x.1.tid { Stop.trap cause x.2.1 x.2.1.pc with pcAt := some x.2.2 }).modGroup r (fun g =>
      { g with relPend := none
               lost := insertLost { seq := k.seq, pc := x.2.2, i := .rel plainHd .sys, lanes := g.amask, fin := 0, img := g.old.length } g.lost })

/-- A loss event (R429): outstanding accesses to the target end, engine work on the target stops, the device loses the target's
words, and from now on every access to the target faults (R430). -/
def loseTarget (fw : Firmware) (m : Mach) (tgt : Nat) (cause : Cause) : Mach :=
  let m := stopWorks fw tgt cause (loseReqs fw tgt cause m)
  let lost := lostWords m tgt
  let rels := lostReleases m tgt
  let m := dropTarget { m with loss := m.loss ++ [(tgt, cause)] } tgt
  let m := (m.ctxs.map (fun k => k.cid)).foldl (postLost fw lost) m
  rels.foldl (loseRel fw cause) m

def isDown (m : Mach) (tgt : Nat) : Bool := m.loss.any (fun x => x.1 == tgt)

/-- CXL_LINK_DOWN, R429. -/
def execCxlLinkDown (tgt : BitVec 5) (s : State) : Host.Outcome State Fault Refusal :=
  event s (decide (tgt.toNat ≤ 8) && !isDown s.m tgt.toNat) (fun fw m => loseTarget fw m tgt.toNat 0x200)

/-- CXL_COMPLETION_TIMEOUT, R429. -/
def execCxlCompletionTimeout (tgt : BitVec 5) (s : State) : Host.Outcome State Fault Refusal :=
  event s (decide (tgt.toNat ≤ 8) && !isDown s.m tgt.toNat) (fun fw m => loseTarget fw m tgt.toNat 0x201)

/-- NIRBIOR_LINK_FAULT, R469: the link no longer works. -/
def execNirbiorLinkFault (link : BitVec 4) (s : State) : Host.Outcome State Fault Refusal :=
  eventFw s (decide (link.toNat < 12) && !isDown s.m (9 + link.toNat)) (fun fw m =>
    ({ fw with links := fw.links &&& ~~~(1#12 <<< link.toNat) }, loseTarget fw m (9 + link.toNat) 0x203))

/-- TARGET_RESTORED, R467: firmware clears the target's TGTST bit. -/
def execTargetRestored (tgt : BitVec 5) (s : State) : Host.Outcome State Fault Refusal :=
  eventFw s (isDown s.m tgt.toNat) (fun fw m =>
    (if 9 ≤ tgt.toNat then { fw with links := fw.links ||| (1#12 <<< (tgt.toNat - 9)) } else fw,
     { m with loss := m.loss.filter (fun x => x.1 != tgt.toNat) }))

/-- LINK_LANE_REMAP, R469: the link goes on over its spare lane; nothing else changes. -/
def execLinkLaneRemap (link : BitVec 4) (s : State) : Host.Outcome State Fault Refusal :=
  eventFw s (decide (link.toNat < 12) && s.fw.links.getLsbD link.toNat) (fun fw m =>
    ({ fw with lanesRemapped := fw.lanesRemapped ||| (1#12 <<< link.toNat) }, m))

/-- HOST_LINK_TRAINING, R462: the mode is the highest that both ends support, which the outside gives. -/
def execHostLinkTraining (mode : BitVec 2) (s : State) : Host.Outcome State Fault Refusal :=
  eventFw s (mode != 3) (fun fw m => ({ fw with lmode := mode }, m))

/-! ### Spares, power, fabric time (R461, R475, R476) -/

/-- A core fails (R475): it takes no team any more, and the first spare left on its die is given to it. It is remapped to the
spare, now or once it is drained; with no spare left its teams' contexts are saved, and then it is removed. -/
def failCore (fw : Firmware) (m : Mach) (core : Nat) : Firmware × Mach :=
  let sp := fw.spares.getD (core / 24) []
  let fw := { fw with spares := fw.spares.modify (core / 24) List.tail }
  let m := m.modCore core (fun k => { k with failed := true, spare := sp.head?, draining := some (k.draining.getD k.carve) })
  if (coreTeams m core).isEmpty then carveChange fw m core
  else if sp.isEmpty then (fw, (((coreTeams m core).map (fun t => t.ctx)).eraseDups.filter (ctxRuns m)).foldl startSave m)
  else (fw, m)

/-- CORE_FAILURE, R475. -/
def execCoreFailure (core : Nat) (s : State) : Host.Outcome State Fault Refusal :=
  eventFw s (decide (core < 96) && !(s.m.core core).removed && !(s.m.core core).failed) (fun fw m => failCore fw m core)

/-- THERMAL_THROTTLE, R476: the clock falls by steps of 75 MHz; it does not reach 0. -/
def execThermalThrottle (steps : Nat) (s : State) : Host.Outcome State Fault Refusal :=
  eventFw s (decide (1 ≤ steps ∧ s.fw.throttle + steps < 30)) (fun fw m => ({ fw with throttle := fw.throttle + steps }, m))

/-- CRITICAL_TEMPERATURE, R476: every context is pre-empted and every launch queue is held. -/
def execCriticalTemperature (s : State) : Host.Outcome State Fault Refusal :=
  eventFw s true (fun fw m =>
    ({ fw with holdLaunch := true }, ((m.ctxs.filter (fun k => k.st == .running)).map (fun k => k.cid)).foldl startSave m))

/-- TEMPERATURE_FALLS, R476. -/
def execTemperatureFalls (s : State) : Host.Outcome State Fault Refusal :=
  eventFw s s.fw.holdLaunch (fun fw m => ({ fw with holdLaunch := false }, m))

/-- One millisecond of fabric time, in units of 2^−16 ns. -/
def oneMs : Int := 65536000000

/-- FABRIC_TIME_CORRECTION, R461: in units of 2^−16 ns; a forward correction of more than 1 ms is a step, any other is slewed. -/
def execFabricTimeCorrection (corr : Int) (s : State) : Host.Outcome State Fault Refusal :=
  event s (s.fw.ftsrc.extractLsb' 0 2 != 0) (fun _ m =>
    if oneMs < corr then { m with ftime := m.ftime + corr.toNat } else { m with slew := m.slew + corr })

/-! ### Sampling (R448 to R450) -/

/-- The partition of a core. -/
def partOf (fw : Firmware) (core : Nat) : Option Nat :=
  (List.range 8).find? (fun p => (fw.parts.getD p []).contains (2 * (core / 24) + core % 24 / 12))

/-- The word at an address as the core's instruction cache holds it, or as memory holds it (R449). -/
def wordAt (m : Mach) (core : Nat) (c : BitVec 12) (pc : Nat) : DWord :=
  match (m.core core).icache.find? (fun l => l.ctx == c && l.va == pc - pc % 128) with
  | some l => l.words.getD (pc % 128 / 8) 0
  | none => ((codeWord m c pc).1).getD 0

/-- The PC of the instruction that a group has issued in this cycle. -/
def issuedPc (m : Mach) (t : Team) (g : Group) : Option DWord :=
  (m.issued.find? (fun x => x.2.2.1 == ({ tid := t.tid, gno := g.gno } : GRef))).map (fun x => x.2.2.2)

/-- A word of an instruction that writes memory: a store, an atomic, a reduction, a generic one of these, or SHST. -/
def writesMemory (w : DWord) : Bool :=
  [0x21, 0x23, 0x24, 0x31, 0x32].contains (fMajor w).toNat || (fMajor w == 0x4A && w.extractLsb' 0 5 == 1)

/-- The group's next instruction is held by a `.sys` release whose write-backs wait for their pages (R312, R419). -/
def heldHere (m : Mach) (t : Team) (g : Group) : Bool :=
  let next := match g.redo with
    | some d => some d.i
    | none => (decode (wordAt m t.core t.ctx g.pc.toNat) (wordAt m t.core t.ctx (g.pc.toNat + 8))).toOption
  m.stalled.contains { tid := t.tid, gno := g.gno } || next.any (fun i => (heldRelease m t g i).isSome)

/-- STALL (R450): where several codes apply the lowest. -/
def stallOf (m : Mach) (t : Team) (g : Group) : Nat :=
  if (issuedPc m t g).isSome then 0 else
  match g.status with
  | .ready =>
    if unitBusy m t g then 2
    else if !(m.core t.core).icache.any (fun l => l.ctx == t.ctx && l.va == g.pc.toNat - g.pc.toNat % 128) then 3
    else if heldHere m t g || (g.relPend.isSome && writesMemory (wordAt m t.core t.ctx g.pc.toNat)) then 4 else 1
  | .parked p =>
    (match p with
     | .w => if g.outMem.isEmpty then 6 else 5
     | .rendezvous _ => 7
     | .barrier _ _ => 8
     | .waitb _ => 9
     | .waitm _ _ => 10
     | .seal _ => 11
     | .macq _ => 12
     | .mwait _ => 13
     | .pairing _ => 14
     | .engine _ => 15
     | .launch _ _ => 16
     | .replay => 17
     | .nonstop => 18)
  | .suspended | .exited => 19

/-- A sample record of 48 bytes (R449). -/
def sampleBytes (m : Mach) (t : Team) (g : Group) : List Byte :=
  let pc := (issuedPc m t g).getD g.pc
  let w := wordAt m t.core t.ctx pc.toNat
  let st := stallOf m t g
  let site := if genericMajor w then 2 ^ 15 + (w.extractLsb' 9 13).toNat else 0
  leBytes 8 (m.ftime / 65536) ++ leBytes 8 g.retired ++ leBytes 8 pc.toNat ++ leBytes 4 (serialOf m t).toNat ++ leBytes 4 t.index
    ++ leBytes 2 t.ctx.toNat ++ leBytes 1 g.gno ++ leBytes 1 (st + (if st = 0 then 32 else 0)) ++ leBytes 2 site
    ++ leBytes 2 (t.die * 256 + t.core % 24 * 8 + g.slice) ++ leBytes 2 (m.ftime % 65536) ++ leBytes 6 0

/-- Write one record of the sample ring, or count it lost (R446, R447). TAIL - HEAD is negative where the consumer wrote HEAD
past TAIL: then the record fits. -/
def writeSample (fw : Firmware) (m : Mach) (p : Nat) (b : List Byte) : Mach :=
  let ch := chamOf fw p
  let x := m.parts.getD p Part.initial
  let n : Nat := 2 ^ (ch.sctl.extractLsb' 8 6).toNat
  let base := ch.sbase.toNat
  let m := mscReads m (base + 8) 8
  if (n : Int) ≤ (x.sTail - physDword m (base + 8)).toInt then
    let x := { x with sLost := x.sLost + 1, pcnt := x.pcnt.modify 6 (fun v => v + 1) }
    setPhysBytes { m with parts := m.parts.set p x } (base + 16) (leBytes 8 x.sLost.toNat)
  else
    let m := setPhysBytes m (base + 4096 + 48 * (x.sTail.toNat % n)) b
    let x := { x with sTail := x.sTail + 1 }
    setPhysBytes { m with parts := m.parts.set p x } base (leBytes 8 x.sTail.toNat)

/-- The live groups of a slice with their slots. -/
def sliceSlots (m : Mach) (core sl : Nat) : List (Nat × Team × Group) :=
  (coreTeams m core).flatMap (fun t => (t.groups.filter (fun g => g.slice == sl && g.live)).map (fun g => (g.slot, t, g)))

/-- The next occupied slot after the one sampled last, wrapping at 128. -/
def nextSlot (last : Nat) (l : List (Nat × Team × Group)) : Option (Nat × Team × Group) :=
  ((List.range 128).map (fun i => (last + 1 + i) % 128)).findSome? (fun k => l.find? (fun x => x.1 == k))

/-- The sampling of a core's partition is on, and its period, of the K that it began with, ends in this cycle (R445). -/
def sampleDue (fw : Firmware) (m : Mach) (core : Nat) : Bool :=
  match partOf fw core with
  | none => false
  | some p =>
    (chamOf fw p).sctl.getLsbD 5 && m.cycle % 2 ^ (m.parts.getD p Part.initial).sK == 0

/-- A slice whose sample is due has not taken it. -/
def sampleOpen (fw : Firmware) (m : Mach) (core sl : Nat) : Bool := sampleDue fw m core && !m.sampledNow.contains (core, sl)

/-- One slice samples one of its groups (R448). -/
def sampleSlice (fw : Firmware) (m : Mach) (core sl : Nat) : Mach :=
  let m := { m with sampledNow := m.sampledNow ++ [(core, sl)] }
  match partOf fw core, nextSlot ((m.core core).sampled.getD sl 127) (sliceSlots m core sl) with
  | some p, some x =>
    writeSample fw (m.modCore core (fun k => { k with sampled := k.sampled.set sl x.1 })) p (sampleBytes m x.2.1 x.2.2)
  | _, _ => m

/-- No group of the slice will issue in this cycle any more. -/
def sliceSpent (m : Mach) (core sl : Nat) : Bool :=
  !(sliceSlots m core sl).any (fun x => mayIssue m x.2.1 x.2.2)

/-- PC_SAMPLE, R448: a slice takes its sample of this cycle, once it has issued or has nothing to issue. -/
def execPcSample (core slice : Nat) (s : State) : Host.Outcome State Fault Refusal :=
  event s (decide (core < 96 ∧ slice < 8) && sampleOpen s.fw s.m core slice && sliceSpent s.m core slice)
    (fun fw m => sampleSlice fw m core slice)

end Sys2Proof.Machine
end

