-- ==== Sys2Proof/Machine/Schedule.lean ====
section
/-! DEFINITION. Machine/Schedule.lean: one cycle of the device's clocks and counters (R42, R82, R408, R460, R461), fetching an
instruction (R200, R228, R240, R241, R379), the choice of the group that issues in a slice (R408, R409), and which of the
device's own events happens when the agenda names none (log entry 13). -/
namespace Sys2Proof.Machine

/-! ### A cycle -/

/-- No group of a team is SUSPENDED or stopped in non-stop mode, and its context runs (R42). -/
def timeRuns (m : Mach) (t : Team) : Bool :=
  ctxRuns m t.ctx && !t.groups.any (fun g => g.status == .suspended || g.status == .parked .nonstop)

/-- The open time of a rendezvous advances (R42). -/
def rdvRuns (m : Mach) (t : Team) (v : Rdv) : Bool :=
  ctxRuns m t.ctx && !t.groups.any (fun g => g.status == .parked .nonstop)
    && !(liveMembers t v.set).any (fun n => (t.group? n).any (fun g => g.status == .suspended))

/-- A wait with a time limit (R42). -/
def timedWait (g : Group) : Bool := match g.status with
  | .parked (.barrier _ _) | .parked (.macq _) | .parked (.waitm _ _) => true
  | _ => false

/-- The 4 bytes of a map word lie in a map of n bits. -/
def inMap (map n o : Nat) : Bool := decide (o < map + 4 * ((n + 31) / 32) ∧ map < o + 4)

/-- A piece of work is suspended for page service: it stopped with a REPLAY record that is pending (R146, R425). -/
def pageWait (m : Mach) (t : Team) (w : Work) : Bool :=
  w.st == .stopped && (m.ctx? t.ctx).any (fun k => k.pend.any (fun p => p.replay && p.tid == t.tid && p.wid == some w.wid))

/-- A transfer that writes into the map word at scratchpad byte o of a team waits for page service (R146, R335). -/
def mapHeld (m : Mach) (t : Team) (o : Nat) : Bool :=
  t.works.any (fun w => pageWait m t w && (match w.kind with
    | .bulk _ _ _ n map _ _ _ => inMap map n o
    | _ => false))
  || m.teams.any (fun u => u.works.any (fun w => pageWait m u w && (match w.kind with
    | .mcast _ len doff rcv (some map) _ _ => rcv.contains t.tid && inMap map (mcastChunks doff len) o
    | _ => false)))

/-- The wait of a group is not held by a transfer's page service (R335). -/
def waitRuns (m : Mach) (t : Team) (g : Group) : Bool := match g.status with
  | .parked (.waitm o _) => !mapHeld m t o
  | _ => true

/-- The times of a team's groups: the age starts again with a cycle in which the group issued (R408). -/
def tickTeam (m : Mach) (t : Team) : Team :=
  let run := timeRuns m t
  { t with
    rdvs := t.rdvs.map (fun v => if rdvRuns m t v then { v with elapsed := v.elapsed + 1 } else v)
    groups := t.groups.map (fun g =>
      { g with
        age := if m.issued.any (fun x => x.2.2.1 == { tid := t.tid, gno := g.gno }) then 1 else Nat.min (g.age + 1) 1023
        waited := if run && timedWait g && waitRuns m t g then g.waited + 1 else g.waited }) }

/-- The wait of a handshake advances: the exclusions of the teams of every partner that has arrived (R42, R224). -/
def pairingRuns (m : Mach) (p : Pairing) : Bool :=
  (pairingArrived m p ++ [p.loop]).all (fun l => (m.team? l.tid).any (timeRuns m))

/-- One cycle of fabric time at 2,250 − 75 × throttle MHz (R461, R476): what is added, and what is left of a unit. -/
def timeStep (throttle rem : Nat) : Nat × Nat :=
  let f := 2250 - 75 * throttle
  ((65536000 + rem) / f, (65536000 + rem) % f)

/-- What a cycle slews: at most 500 ppm (R461). -/
def slewStep (dt : Nat) (slew : Int) : Int :=
  let n : Int := (dt * 5 / 10000 : Nat)
  if 0 ≤ slew then min slew n else max slew (-n)

/-- The slices of a partition. -/
def partSlices (fw : Firmware) (m : Mach) (p : Nat) : Nat :=
  8 * ((List.range 96).filter (fun c => partOf fw c == some p && !(m.core c).removed)).length

/-- The slices of a partition that have issued in this cycle. -/
def partIssues (fw : Firmware) (m : Mach) (p : Nat) : Nat := (m.issued.filter (fun x => partOf fw x.1 == some p)).length

/-- The counters of a cycle: PCNT0, and code 0x01 for the slices that issued nothing (R460); and the period of sampling: a K
that was written takes effect where a period ends (R445). -/
def tickPart (fw : Firmware) (m : Mach) (p : Nat) (x : Part) : Part :=
  if (fw.parts.getD p []).isEmpty then x else
  { x with
    sK := if m.cycle % 2 ^ x.sK = 0 then ((chamOf fw p).sctl.extractLsb' 0 5).toNat else x.sK
    pcnt := x.pcnt.mapIdx (fun j v =>
      if j = 0 then v + 1
      else if 8 ≤ j ∧ (x.csel.getD (j - 8) 0) = 1 then v + BitVec.ofNat 64 (partSlices fw m p - partIssues fw m p) else v) }

/-- The samples of this cycle that slices have not taken yet (R448). -/
def tickSamples (fw : Firmware) (m : Mach) : Mach :=
  if fw.chambray.any (fun c => c.sctl.getLsbD 5) then
    ((List.range 96).flatMap (fun c => (List.range 8).map (fun sl => (c, sl)))).foldl (fun m x =>
      if sampleOpen fw m x.1 x.2 then sampleSlice fw m x.1 x.2 else m) m
  else m

/-- The MACQs of the last cycle that waited for its end take the tokens that are free, in their order (R217). -/
def tickTokens (m : Mach) : Mach :=
  (m.teams.flatMap (fun t => t.groups.filterMap (fun g => match g.waits with
    | some (.macq k) => some (t.core, k)
    | _ => none))).foldl (fun m x => grantToken m x.1 x.2) m

/-- The cycle ends. -/
def tick (fw : Firmware) (m : Mach) : Mach :=
  let m := tickSamples fw m
  let dt := timeStep fw.throttle m.ftrem
  let sl := slewStep dt.1 m.slew
  let m := { m with
    cycle := m.cycle + 1, issued := [], stalled := [], sampledNow := [], placedNow := []
    ftime := m.ftime + ((dt.1 : Int) + sl).toNat, ftrem := dt.2, slew := m.slew - sl
    teams := m.teams.map (tickTeam m)
    pairings := m.pairings.map (fun p => if pairingRuns m p then { p with elapsed := p.elapsed + 1 } else p)
    grids := m.grids.map (fun g => if g.waits && g.passed then { g with waited := g.waited + 1 } else g)
    parts := m.parts.mapIdx (tickPart fw m) }
  markDraining fw (tickTokens (readDeps fw m))

/-! ### Fetch (R228, R240, R241, R379) -/

/-- The 16 words of a code line as the home gives them. -/
def lineWords (m : Mach) (c : BitVec 12) (va : Nat) : Nat → List DWord → Option (List DWord) × Mach
  | 0, acc => (some acc, m)
  | n + 1, acc =>
    match codeWord m c (va + 8 * acc.length) with
    | (none, m) => (none, m)
    | (some w, m) => lineWords m c va n (acc ++ [w])

/-- A line enters the core's instruction cache of 1,024 lines; which line a full cache gives up is a free choice (R4, R379). -/
def icacheFill (m : Mach) (core : Nat) (x : ILine) : Mach :=
  let v := victim m.draw 74 1024 ((m.core core).icache.map (fun l => (l.ctx, l.va))) x.ctx x.va
  m.modCore core (fun k => { k with icache := k.icache.filter (fun l => some (l.ctx, lineOf l.va) != v) ++ [x] })

/-- Why a fetch failed: the cause, the address that the record names, and its DETAIL. -/
structure FetchFail where
  cause : Cause
  addr : DWord
  detail : BitVec 32
deriving DecidableEq, Repr

/-- A fetch fails at the word at `a`: a word whose owner is lost or that is poisoned is named, with its former owner (R431);
any other failure names the PC. -/
def fetchFail (m : Mach) (c : BitVec 12) (pc : DWord) (a : Nat) (e : Cause) : FetchFail :=
  if e = 0x140 ∨ e = 0x141 then
    { cause := e, addr := BitVec.ofNat 64 a, detail := if e = 0x140 then ((ownerOf m c a).getD 0).setWidth 32 else 0 }
  else { cause := e, addr := pc, detail := 0 }

/-- Fetch one word: from the core's instruction cache, or from the home, with PX and the translation's checks; the line
then enters the cache. A level-0 fetch from a page-table page fails, also where a group of another level had the line filled
(R418). No rule checks that a PC is a multiple of 8: the word that holds the byte at the PC is fetched (log entry 65). -/
def fetchWord (m : Mach) (t : Team) (pc : DWord) : Except FetchFail DWord × Mach :=
  let a := pc.toNat - pc.toNat % 8
  if globalEnd ≤ a then (.error (fetchFail m t.ctx pc a 0x48), m) else
  match (m.core t.core).icache.find? (fun l => l.ctx == t.ctx && l.va == a - a % 128) with
  | some l =>
    if l.pt && t.level == 0 then (.error (fetchFail m t.ctx pc a 0x102), m) else (.ok (l.words.getD (a % 128 / 8) 0), m)
  | none =>
    match translate m t.ctx t.level .fetch a with
    | (.error c, m) => (.error (fetchFail m t.ctx pc a c), m)
    | (.ok (_, at'), m) =>
      match homeWord m t.ctx a with
      | (.error c, m') => (.error (fetchFail m t.ctx pc a c), m')
      | (.ok lo, m) =>
        match homeWord m t.ctx (a + 4) with
        | (.error c, m') => (.error (fetchFail m t.ctx pc (a + 4) c), m')
        | (.ok hi, m) =>
          match lineWords m t.ctx (a - a % 128) 16 [] with
          | (none, m) => (.ok (hi ++ lo), m)
          | (some ws, m) =>
            (.ok (hi ++ lo), icacheFill m t.core { ctx := t.ctx, va := a - a % 128, words := ws, q := at'.q, pt := at'.pt })

/-- The cause of a decoding refusal (R241). -/
def decCause : DecErr → Cause
  | .illegalOpcode => 0x40
  | .illegalScope => 0x42
  | .badMark => 0x41

/-- What stops a group before its instruction runs: its cause, what its record names of a fetch that faults, and N (R228, R241). -/
structure FetchStop where
  fail : FetchFail
  npc : DWord
deriving DecidableEq, Repr

/-- What a group runs next: the instruction being reissued, or the one fetched at its PC with any modifier word (R46,
R228). -/
def instrOf (m : Mach) (t : Team) (g : Group) : Except FetchStop Instr × Mach :=
  match g.redo with
  | some d => (.ok d.i, m)
  | none =>
    match fetchWord m t g.pc with
    | (.error e, m) => (.error { fail := e, npc := g.pc + 8 }, m)
    | (.ok w, m) =>
      let n := if w.getLsbD 49 then g.pc + 16 else g.pc + 8
      let rest : Except FetchStop DWord × Mach :=
        if w.getLsbD 49 then (match fetchWord m t (g.pc + 8) with
          | (.error e, m) => (.error { fail := e, npc := n }, m)
          | (.ok x, m) => (.ok x, m)) else (.ok 0, m)
      match rest with
      | (.error e, m) => (.error e, m)
      | (.ok x, m) =>
        match decode w x with
        | .ok i => (.ok i, m)
        | .error e => (.error { fail := { cause := decCause e, addr := 0, detail := 0 }, npc := n }, m)

/-- A fetch or a word that traps: the group takes the exception (R241). -/
def fetchTrap (fw : Firmware) (m : Mach) (r : GRef) (e : FetchStop) : Mach :=
  match m.group? r with
  | none => m
  | some g => takeStop fw m r.tid { Stop.trap e.fail.cause g e.npc with addr := e.fail.addr, detail := e.fail.detail }

/-! ### Issue (R408, R409) -/

/-- Groups that may issue: the unit that each needs is not busy (R408). -/
def candidates (m : Mach) : List (Team × Group) :=
  m.teams.flatMap (fun t => (t.groups.filter (isCandidate m t)).map (fun g => (t, g)))

/-- The slice of a group: its core and its slice there. -/
def sliceOfGroup (x : Team × Group) : Nat × Nat := (x.1.core, x.2.slice)

/-- A group is urgent: it has retired the least of its team's groups that have not exited and wait on no barrier (R409). -/
def urgent (x : Team × Group) : Bool :=
  x.1.groups.all (fun g => !g.live || (match g.status with
    | .parked (.barrier _ _) => true
    | _ => decide (x.2.rw ≤ g.rw)))

/-- The candidate with the largest age; of those the one with the lowest group number. -/
def oldest : List (Team × Group) → Option (Team × Group)
  | [] => none
  | x :: r => match oldest r with
    | none => some x
    | some y => if x.2.age < y.2.age ∨ (x.2.age = y.2.age ∧ y.2.gno < x.2.gno) then some y else some x

/-- The candidate that a slice chooses (R408). -/
def chooseGroup (cs : List (Team × Group)) : Option (Team × Group) :=
  match oldest (cs.filter (fun x => decide (256 ≤ x.2.age))) with
  | some x => some x
  | none => match oldest (cs.filter urgent) with
    | some x => some x
    | none => oldest cs

/-- The slice that issues next of those with a candidate that have not issued in this cycle: a free choice. -/
def nextSlice (m : Mach) : Option (Nat × Nat) :=
  match ((candidates m).map sliceOfGroup).eraseDups with
  | [] => none
  | [x] => some x
  | xs => xs[Config.pick m.draw 73 m.cycle % xs.length]?

/-- The group that issues next. -/
def nextGroup (m : Mach) : Option GRef :=
  (nextSlice m).bind (fun sl => (chooseGroup ((candidates m).filter (fun x => sliceOfGroup x == sl))).map (fun x =>
    { tid := x.1.tid, gno := x.2.gno }))

/-- The group issues: its slice is done for this cycle (R408). -/
def startIssue (m : Mach) (r : GRef) (t : Team) (g : Group) : Mach :=
  { m with cur := some r, issued := m.issued ++ [(t.core, g.slice, r, g.pc)] }

/-- The group issues an instruction: the loads that this does not let return late have returned their values (R54, R184). -/
def startInstr (m : Mach) (r : GRef) (t : Team) (g : Group) (i : Instr) : Mach :=
  (startIssue m r t g).modGroup r (fun g => g.fixLoads i)

/-! ### The device's own events -/

abbrev Out := Host.Outcome State Fault Refusal

/-- The first of some events that is pending. -/
def firstOf : List (Unit → Out) → Option Out
  | [] => none
  | f :: r => match f () with
    | .refused _ => firstOf r
    | o => some o

/-- Places for the clusters of an image, each at the first corner that takes it. -/
def placesFor (fw : Firmware) (m : Mach) (k : Context) : List (Nat × Nat) :=
  ((imageClusters m k.image).foldl (fun (acc : Mach × List (Nat × Nat)) cl =>
    match allCorners.find? (fun p => (restoreAll fw k.cid k.image [cl] [p] acc.1).isSome) with
    | some p => ((restoreAll fw k.cid k.image [cl] [p] acc.1).getD acc.1, acc.2 ++ [p])
    | none => acc) (m, [])).2

def commandEvents (s : State) : List (Unit → Out) :=
  let c := cmdCtx s.fw
  [fun (_ : Unit) => execCtxCreate c s, fun (_ : Unit) => execCtxDestroy c s, fun (_ : Unit) => execCtxSave c s,
   fun (_ : Unit) => execCtxRestore c (match s.m.ctx? c with
     | some k => placesFor s.fw s.m k
     | none => []) s,
   fun (_ : Unit) => execCtxDump c s, fun (_ : Unit) => execDumpStart s]

def saveEvents (s : State) : List (Unit → Out) :=
  (s.m.ctxs.filter (fun k => k.st == .saving)).flatMap (fun k =>
    (ctxTeams s.m k.cid).map (fun t => fun (_ : Unit) => execSavePhase2 k.cid t.tid s)
      ++ (if s.m.heldWb.any (fun h => h.ctx == k.cid) then [] else [fun (_ : Unit) => execSaveCacheFlush k.cid s]))

def groupRefs (m : Mach) : List GRef := m.teams.flatMap (fun t => t.groups.map (fun g => { tid := t.tid, gno := g.gno }))

def timeoutEvents (s : State) : List (Unit → Out) :=
  s.m.teams.flatMap (fun t => t.rdvs.map (fun v => fun (_ : Unit) => execRendezvousTimeout t.tid v.set s))
    ++ (groupRefs s.m).flatMap (fun r => [fun (_ : Unit) => execBarrierTimeout r s, fun (_ : Unit) => execChunkWaitTimeout r s,
      fun (_ : Unit) => execTokenTimeout r s])
    ++ s.m.pairings.map (fun p => fun (_ : Unit) => execPairingTimeout { tid := p.loop.tid, gno := p.loop.gno } s)

/-- What one piece of work does next. -/
def workEvents (s : State) (t : Team) (w : Work) : List (Unit → Out) :=
  match w.kind with
  | .copy _ _ _ _ _ | .copyl _ _ => [fun (_ : Unit) => execCopyComplete t.tid w.wid s]
  | .pgreq _ => []
  | .bulk _ _ _ n _ _ fin _ => ((List.range n).filter (fun i => !fin.contains i)).map (fun i =>
      fun (_ : Unit) => execBulkChunkComplete t.tid w.wid i s)
  | .mcast _ len doff rcv _ _ fin => (mcastOpen doff len rcv fin).map (fun x => fun (_ : Unit) => execMcastChunkArrive t.tid w.wid x.1 x.2 s)
  | .row _ _ _ _ f fin => ((List.range f).filter (fun i => !fin.contains i)).map (fun i =>
      fun (_ : Unit) => execRowFrameComplete t.tid w.wid i s)
  | .plane _ _ _ | .put _ | .drain _ _ _ => [fun (_ : Unit) => execPlaneComplete t.tid w.wid s]

def engineEvents (s : State) : List (Unit → Out) :=
  s.m.teams.flatMap (fun t => t.works.flatMap (workEvents s t))
    ++ (s.m.teams.map (fun t => t.core)).eraseDups.flatMap (fun c =>
      [fun (_ : Unit) => execDamaskLoopComplete c s, fun (_ : Unit) => execEnginePlaceFree c s, fun (_ : Unit) => execDamaskLoopStart c s,
       fun (_ : Unit) => execSaccComplete c s])

def resultEvents (s : State) : List (Unit → Out) :=
  (groupRefs s.m).flatMap (fun r => [fun (_ : Unit) => execRegisterResultReturn r 0 s, fun (_ : Unit) => execReleaseComplete r s])

def memoryEvents (s : State) : List (Unit → Out) :=
  (List.range s.m.heldWb.length).map (fun i => fun (_ : Unit) => execHeldWritebackRelease i s)
    ++ [fun (_ : Unit) => execSiteRewriteCas 0 s]

def queueEvents (s : State) : List (Unit → Out) :=
  (s.m.ctxs.filter (fun k => k.st == .running)).flatMap (fun k =>
    ((List.range 16).filter (fun q => physDword s.m (lqAddr k (BitVec.ofNat 4 q)) != 0)).map (fun q =>
      fun (_ : Unit) => execLaunchAccept k.cid (BitVec.ofNat 4 q) s))

def placeEvents (s : State) : List (Unit → Out) :=
  ((List.range 96).filter (fun c => (s.m.core c).draining.isSome)).map (fun c => fun (_ : Unit) => execCarveChange c s)
    ++ (s.m.grids.filter Grid.waits).flatMap (fun g => [fun (_ : Unit) => execPriorityAging g.gid s, fun (_ : Unit) =>
      match findPlace s.fw s.m g with
      | none => .refused .notPending
      | some p => execTeamPlace g.gid p.1 p.2 (((clusterCores g p.1 p.2).getD []).flatMap (fun c =>
          firstSlices s.m c g.desc.valloc g.ngroups)) s])

def endEvents (s : State) : List (Unit → Out) :=
  (groupRefs s.m).map (fun r => fun (_ : Unit) => execGroupResourcesFreed r s)
    ++ s.m.teams.map (fun t => fun (_ : Unit) => execTeamRetire t.tid s)
    ++ s.m.grids.map (fun g => fun (_ : Unit) => execGridCompletion g.gid s)

/-- Rendezvous whose count may be complete (R39). -/
def rendezvousEvents (s : State) : List (Unit → Out) :=
  s.m.teams.flatMap (fun t => t.rdvs.map (fun v => fun (_ : Unit) => execRendezvousIssue t.tid v.set s))

/-- Events that happen before any group issues. -/
def promptEvents (s : State) : List (Unit → Out) := commandEvents s ++ saveEvents s ++ rendezvousEvents s

/-- Events that take a time of their own: what memory, engines and the distributor do. -/
def slowEvents (s : State) : List (Unit → Out) :=
  memoryEvents s ++ resultEvents s ++ engineEvents s ++ endEvents s ++ queueEvents s ++ placeEvents s

/-- A slow event that is pending may wait, as a free choice, but not past a multiple of 64 cycles (R56, log entry 13). -/
def mayWait (m : Mach) : Bool := m.cycle % 64 != 0 && Config.pick m.draw 70 m.cycle % 2 == 1

/-- The slow event that happens: which one is a free choice, except at a multiple of 64 cycles. -/
def slowEvent (s : State) : Option Out :=
  let l := slowEvents s
  let k := Config.pick s.m.draw 75 s.m.cycle % l.length
  if s.m.cycle % 64 = 0 then firstOf l else firstOf (l.drop k ++ l.take k)

/-- While events wait, a piece of engine work may show some of what it writes (R17): which one is a free choice. -/
def showPart (m : Mach) : Mach :=
  let ws := m.teams.flatMap (fun t => (t.works.filter (fun w => w.st == .run && ctxRuns m t.ctx)).map (fun w => (t.tid, w.wid)))
  match ws[Config.pick m.draw 76 m.cycle % ws.length]? with
  | some x => workPart m x.1 x.2
  | none => m

/-- A step begins: the counter of the free values moves on, and each WAITM whose bits are set ends (R145). -/
def beginStep (m : Mach) : Mach :=
  ((m.teams.filter (fun t => ctxRuns m t.ctx)).map (fun t => t.tid)).foldl wakeMaps { m with cur := none, draw := m.draw + 1 }

/-! ### A first instruction for the host -/

/-- A context with reset values that names no table (R81, R388). -/
def bareContext : Context :=
  { cid := 0, part := 0, st := .running, ctxb := 0, qlim := 2, rvlim := 0x4000, fpc := 0, fqbase := 0, log2n := 6, fqhead := 0
    fqtail := 0, drop := 0, dropNew := 0, seq := 0, serial := 0, held := [], pend := [], acts := [], ptroot := 0, lqtab := 0
    savea := 0, dumpa := 0, dumpsz := 0, svlr := 0, stktab := 0, pools := [], image := [], imgSize := 0, late := [], phase1 := 0, phase1n := 0
    rung := List.replicate 16 0 }

/-- A grid of one team of one group of 32 lanes, at level 0, that is placed. -/
def bareGrid (gid : Nat) : Grid :=
  { gid := gid, ctx := 0, serial := 0, entry := 0
    desc := { entry := 0, valloc := 64, carve := 256, spsz := 4096, stksz := 0, spfmt := 3, nbar := 1, histn := 1, qlim := 2
              setmask := 0, setoff := List.replicate 8 0 }
    sets := List.replicate 8 none, dimX := 1, dimY := 1, dimZ := 1, tlanes := 32, clx := 1, cly := 1, prio := 0, cplen := false
    acc := true, param := 0, cpladdr := 0, level := 0, next := 1, retired := 0, waited := 0, passed := false, aged := false
    addHeld := false }

/-- A machine with a READY group to issue, if it has none: as after a launch (log entry 14). -/
def withGroup (m : Mach) : Mach :=
  match nextGroup (beginStep m) with
  | some _ => m
  | none =>
    let g := bareGrid m.nextGid
    { m with
      ctxs := if (m.ctx? 0).isSome then m.ctxs else m.ctxs ++ [bareContext]
      grids := m.grids ++ [g], nextGid := m.nextGid + 1
      teams := m.teams ++ [newTeam g m.nextTid 0 0 0 [newGroup g 0 0 0 0 none]], nextTid := m.nextTid + 1
      cores := m.cores.modify 0 (fun k => { k with carve := 256 }) }

/-- Put one word where a core fetches it. -/
def putCode (m : Mach) (core : Nat) (c : BitVec 12) (pc : Nat) (w : DWord) : Mach :=
  m.modCore core (fun k =>
    let k := if k.icache.any (fun l => l.ctx == c && l.va == pc - pc % 128) then k
      else { k with icache := k.icache ++ [{ ctx := c, va := pc - pc % 128, words := List.replicate 16 0, q := false, pt := false }] }
    icachePut k c pc w)

/-- Put an instruction and its modifier word where the next group to issue fetches. -/
def putInstr (m : Mach) (w x : DWord) : Mach :=
  match (nextGroup (beginStep m)).bind (fun r => (m.team? r.tid).bind (fun t => (t.group? r.gno).map (fun g => (t, g)))) with
  | none => m
  | some (t, g) => putCode (putCode m t.core t.ctx g.pc.toNat w) t.core t.ctx (g.pc.toNat + 8) x

end Sys2Proof.Machine
end

