-- ==== Sys2Proof/Machine/Dispatch.lean ====
section
/-! DEFINITION. Machine/Dispatch.lean: the meaning of each instruction and event, one arm per constructor of Instr. -/
namespace Sys2Proof.Machine

def exec (i : Instr) (s : State) : Host.Outcome State Fault Refusal :=
  match i with
  | .br h off => Sys2Proof.Machine.execBr h off s
  | .call h off => Sys2Proof.Machine.execCall h off s
  | .brd h off join16 => Sys2Proof.Machine.execBrd h off join16 s
  | .join h => Sys2Proof.Machine.execJoin h s
  | .exit h => Sys2Proof.Machine.execExit h s
  | .ret h => Sys2Proof.Machine.execRet h s
  | .callt h idx => Sys2Proof.Machine.execCallt h idx s
  | .callr h a => Sys2Proof.Machine.execCallr h a s
  | .trap h n => Sys2Proof.Machine.execTrap h n s
  | .nop h => Sys2Proof.Machine.execNop h s
  | .add h ty d a b => Sys2Proof.Machine.execAdd h ty d a b s
  | .sub h ty d a b => Sys2Proof.Machine.execSub h ty d a b s
  | .mul h ty d a b => Sys2Proof.Machine.execMul h ty d a b s
  | .mulhi h ty d a b => Sys2Proof.Machine.execMulhi h ty d a b s
  | .mad h ty d a b c => Sys2Proof.Machine.execMad h ty d a b c s
  | .min h ty d a b => Sys2Proof.Machine.execMin h ty d a b s
  | .max h ty d a b => Sys2Proof.Machine.execMax h ty d a b s
  | .abs h ty d a => Sys2Proof.Machine.execAbs h ty d a s
  | .neg h ty d a => Sys2Proof.Machine.execNeg h ty d a s
  | .div h ty d a b => Sys2Proof.Machine.execDiv h ty d a b s
  | .rem h ty d a b => Sys2Proof.Machine.execRem h ty d a b s
  | .addImm h ty d a imm => Sys2Proof.Machine.execAddImm h ty d a imm s
  | .subImm h ty d a imm => Sys2Proof.Machine.execSubImm h ty d a imm s
  | .mulImm h ty d a imm => Sys2Proof.Machine.execMulImm h ty d a imm s
  | .mulhiImm h ty d a imm => Sys2Proof.Machine.execMulhiImm h ty d a imm s
  | .minImm h ty d a imm => Sys2Proof.Machine.execMinImm h ty d a imm s
  | .maxImm h ty d a imm => Sys2Proof.Machine.execMaxImm h ty d a imm s
  | .and h ty d a b => Sys2Proof.Machine.execAnd h ty d a b s
  | .or h ty d a b => Sys2Proof.Machine.execOr h ty d a b s
  | .xor h ty d a b => Sys2Proof.Machine.execXor h ty d a b s
  | .not h ty d a => Sys2Proof.Machine.execNot h ty d a s
  | .andn h ty d a b => Sys2Proof.Machine.execAndn h ty d a b s
  | .shl h ty d a b => Sys2Proof.Machine.execShl h ty d a b s
  | .shr h ty d a b => Sys2Proof.Machine.execShr h ty d a b s
  | .sar h ty d a b => Sys2Proof.Machine.execSar h ty d a b s
  | .rotl h ty d a b => Sys2Proof.Machine.execRotl h ty d a b s
  | .popc h ty d a => Sys2Proof.Machine.execPopc h ty d a s
  | .clz h ty d a => Sys2Proof.Machine.execClz h ty d a s
  | .bfe h ty d a c => Sys2Proof.Machine.execBfe h ty d a c s
  | .bfi h ty d a b c => Sys2Proof.Machine.execBfi h ty d a b c s
  | .brev h ty d a => Sys2Proof.Machine.execBrev h ty d a s
  | .andImm h ty d a imm => Sys2Proof.Machine.execAndImm h ty d a imm s
  | .orImm h ty d a imm => Sys2Proof.Machine.execOrImm h ty d a imm s
  | .xorImm h ty d a imm => Sys2Proof.Machine.execXorImm h ty d a imm s
  | .andnImm h ty d a imm => Sys2Proof.Machine.execAndnImm h ty d a imm s
  | .shlImm h ty d a imm => Sys2Proof.Machine.execShlImm h ty d a imm s
  | .shrImm h ty d a imm => Sys2Proof.Machine.execShrImm h ty d a imm s
  | .sarImm h ty d a imm => Sys2Proof.Machine.execSarImm h ty d a imm s
  | .rotlImm h ty d a imm => Sys2Proof.Machine.execRotlImm h ty d a imm s
  | .setEq h ty d a b => Sys2Proof.Machine.execSetEq h ty d a b s
  | .setNe h ty d a b => Sys2Proof.Machine.execSetNe h ty d a b s
  | .setLt h ty d a b => Sys2Proof.Machine.execSetLt h ty d a b s
  | .setLe h ty d a b => Sys2Proof.Machine.execSetLe h ty d a b s
  | .setGt h ty d a b => Sys2Proof.Machine.execSetGt h ty d a b s
  | .setGe h ty d a b => Sys2Proof.Machine.execSetGe h ty d a b s
  | .setEqImm h ty d a imm => Sys2Proof.Machine.execSetEqImm h ty d a imm s
  | .setNeImm h ty d a imm => Sys2Proof.Machine.execSetNeImm h ty d a imm s
  | .setLtImm h ty d a imm => Sys2Proof.Machine.execSetLtImm h ty d a imm s
  | .setLeImm h ty d a imm => Sys2Proof.Machine.execSetLeImm h ty d a imm s
  | .setGtImm h ty d a imm => Sys2Proof.Machine.execSetGtImm h ty d a imm s
  | .setGeImm h ty d a imm => Sys2Proof.Machine.execSetGeImm h ty d a imm s
  | .mov h ty d a => Sys2Proof.Machine.execMov h ty d a s
  | .sel h ty d a b c => Sys2Proof.Machine.execSel h ty d a b c s
  | .movi h ty d imm => Sys2Proof.Machine.execMovi h ty d imm s
  | .movhi h ty d imm => Sys2Proof.Machine.execMovhi h ty d imm s
  | .addpc h ty d imm => Sys2Proof.Machine.execAddpc h ty d imm s
  | .addlo h ty d a imm => Sys2Proof.Machine.execAddlo h ty d a imm s
  | .add2 h ty d a b => Sys2Proof.Machine.execAdd2 h ty d a b s
  | .sub2 h ty d a b => Sys2Proof.Machine.execSub2 h ty d a b s
  | .min2 h ty d a b => Sys2Proof.Machine.execMin2 h ty d a b s
  | .max2 h ty d a b => Sys2Proof.Machine.execMax2 h ty d a b s
  | .maxd2 h ty d a b c => Sys2Proof.Machine.execMaxd2 h ty d a b c s
  | .shfl h ty d a b => Sys2Proof.Machine.execShfl h ty d a b s
  | .shflUp h ty d a b => Sys2Proof.Machine.execShflUp h ty d a b s
  | .shflDn h ty d a b => Sys2Proof.Machine.execShflDn h ty d a b s
  | .shflXor h ty d a b => Sys2Proof.Machine.execShflXor h ty d a b s
  | .voteAny h ty d a => Sys2Proof.Machine.execVoteAny h ty d a s
  | .voteAll h ty d a => Sys2Proof.Machine.execVoteAll h ty d a s
  | .ballot h ty d a => Sys2Proof.Machine.execBallot h ty d a s
  | .xredAdd h ty d a => Sys2Proof.Machine.execXredAdd h ty d a s
  | .xredMin h ty d a => Sys2Proof.Machine.execXredMin h ty d a s
  | .xredMax h ty d a => Sys2Proof.Machine.execXredMax h ty d a s
  | .xredAnd h ty d a => Sys2Proof.Machine.execXredAnd h ty d a s
  | .xredOr h ty d a => Sys2Proof.Machine.execXredOr h ty d a s
  | .xredXor h ty d a => Sys2Proof.Machine.execXredXor h ty d a s
  | .xscanAdd h ty d a => Sys2Proof.Machine.execXscanAdd h ty d a s
  | .xscanMax h ty d a => Sys2Proof.Machine.execXscanMax h ty d a s
  | .bcast h ty d a b => Sys2Proof.Machine.execBcast h ty d a b s
  | .movx h ty d a b c => Sys2Proof.Machine.execMovx h ty d a b c s
  | .movxw h ty d a b c => Sys2Proof.Machine.execMovxw h ty d a b c s
  | .fadd h ty d a b => Sys2Proof.Machine.execFadd h ty d a b s
  | .fsub h ty d a b => Sys2Proof.Machine.execFsub h ty d a b s
  | .fmul h ty d a b => Sys2Proof.Machine.execFmul h ty d a b s
  | .fma h ty d a b c => Sys2Proof.Machine.execFma h ty d a b c s
  | .fmin h ty d a b => Sys2Proof.Machine.execFmin h ty d a b s
  | .fmax h ty d a b => Sys2Proof.Machine.execFmax h ty d a b s
  | .fsetEq h ty d a b => Sys2Proof.Machine.execFsetEq h ty d a b s
  | .fsetNe h ty d a b => Sys2Proof.Machine.execFsetNe h ty d a b s
  | .fsetLt h ty d a b => Sys2Proof.Machine.execFsetLt h ty d a b s
  | .fsetLe h ty d a b => Sys2Proof.Machine.execFsetLe h ty d a b s
  | .fsetGt h ty d a b => Sys2Proof.Machine.execFsetGt h ty d a b s
  | .fsetGe h ty d a b => Sys2Proof.Machine.execFsetGe h ty d a b s
  | .fsetUnord h ty d a b => Sys2Proof.Machine.execFsetUnord h ty d a b s
  | .fsetOrd h ty d a b => Sys2Proof.Machine.execFsetOrd h ty d a b s
  | .frcp h ty d a => Sys2Proof.Machine.execFrcp h ty d a s
  | .fsqrt h ty d a => Sys2Proof.Machine.execFsqrt h ty d a s
  | .frsqrt h ty d a => Sys2Proof.Machine.execFrsqrt h ty d a s
  | .fexp2 h ty d a => Sys2Proof.Machine.execFexp2 h ty d a s
  | .flog2 h ty d a => Sys2Proof.Machine.execFlog2 h ty d a s
  | .fclass h ty d a => Sys2Proof.Machine.execFclass h ty d a s
  | .frint h ty d a => Sys2Proof.Machine.execFrint h ty d a s
  | .fdiv h ty d a b => Sys2Proof.Machine.execFdiv h ty d a b s
  | .fadd2 h ty d a b => Sys2Proof.Machine.execFadd2 h ty d a b s
  | .fsub2 h ty d a b => Sys2Proof.Machine.execFsub2 h ty d a b s
  | .fmul2 h ty d a b => Sys2Proof.Machine.execFmul2 h ty d a b s
  | .fma2 h ty d a b c => Sys2Proof.Machine.execFma2 h ty d a b c s
  | .fmin2 h ty d a b => Sys2Proof.Machine.execFmin2 h ty d a b s
  | .fmax2 h ty d a b => Sys2Proof.Machine.execFmax2 h ty d a b s
  | .cvt h ty src d a b c => Sys2Proof.Machine.execCvt h ty src d a b c s
  | .cvtef h ty d a b c => Sys2Proof.Machine.execCvtef h ty d a b c s
  | .cvtefX2 h ty d a b c => Sys2Proof.Machine.execCvtefX2 h ty d a b c s
  | .ld h ty d base off sp ord sc => Sys2Proof.Machine.execLd h ty d base off sp ord sc s
  | .st h ty d base off sp ord sc => Sys2Proof.Machine.execSt h ty d base off sp ord sc s
  | .ldnf h ty d a c => Sys2Proof.Machine.execLdnf h ty d a c s
  | .atmAdd h ty d a b ord sc => Sys2Proof.Machine.execAtmAdd h ty d a b ord sc s
  | .atmSub h ty d a b ord sc => Sys2Proof.Machine.execAtmSub h ty d a b ord sc s
  | .atmMin h ty d a b ord sc => Sys2Proof.Machine.execAtmMin h ty d a b ord sc s
  | .atmMax h ty d a b ord sc => Sys2Proof.Machine.execAtmMax h ty d a b ord sc s
  | .atmAnd h ty d a b ord sc => Sys2Proof.Machine.execAtmAnd h ty d a b ord sc s
  | .atmOr h ty d a b ord sc => Sys2Proof.Machine.execAtmOr h ty d a b ord sc s
  | .atmXor h ty d a b ord sc => Sys2Proof.Machine.execAtmXor h ty d a b ord sc s
  | .atmExch h ty d a b ord sc => Sys2Proof.Machine.execAtmExch h ty d a b ord sc s
  | .atmCas h ty d a b c ord sc => Sys2Proof.Machine.execAtmCas h ty d a b c ord sc s
  | .atmInc h ty d a b ord sc => Sys2Proof.Machine.execAtmInc h ty d a b ord sc s
  | .atmDec h ty d a b ord sc => Sys2Proof.Machine.execAtmDec h ty d a b ord sc s
  | .atmFadd h ty d a b ord sc => Sys2Proof.Machine.execAtmFadd h ty d a b ord sc s
  | .redAdd h ty a b ord sc => Sys2Proof.Machine.execRedAdd h ty a b ord sc s
  | .redSub h ty a b ord sc => Sys2Proof.Machine.execRedSub h ty a b ord sc s
  | .redMin h ty a b ord sc => Sys2Proof.Machine.execRedMin h ty a b ord sc s
  | .redMax h ty a b ord sc => Sys2Proof.Machine.execRedMax h ty a b ord sc s
  | .redAnd h ty a b ord sc => Sys2Proof.Machine.execRedAnd h ty a b ord sc s
  | .redOr h ty a b ord sc => Sys2Proof.Machine.execRedOr h ty a b ord sc s
  | .redXor h ty a b ord sc => Sys2Proof.Machine.execRedXor h ty a b ord sc s
  | .redInc h ty a b ord sc => Sys2Proof.Machine.execRedInc h ty a b ord sc s
  | .redDec h ty a b ord sc => Sys2Proof.Machine.execRedDec h ty a b ord sc s
  | .redFadd h ty a b ord sc => Sys2Proof.Machine.execRedFadd h ty a b ord sc s
  | .fence h sc => Sys2Proof.Machine.execFence h sc s
  | .acq h sc => Sys2Proof.Machine.execAcq h sc s
  | .rel h sc => Sys2Proof.Machine.execRel h sc s
  | .invr h len base sc => Sys2Proof.Machine.execInvr h len base sc s
  | .wbr h len base sc => Sys2Proof.Machine.execWbr h len base sc s
  | .pgreq h base off sp => Sys2Proof.Machine.execPgreq h base off sp s
  | .gld h d a site off => Sys2Proof.Machine.execGld h d a site off s
  | .gst h a b site off => Sys2Proof.Machine.execGst h a b site off s
  | .gatmAdd h d a b site ord sc => Sys2Proof.Machine.execGatmAdd h d a b site ord sc s
  | .gatmSub h d a b site ord sc => Sys2Proof.Machine.execGatmSub h d a b site ord sc s
  | .gatmMin h d a b site ord sc => Sys2Proof.Machine.execGatmMin h d a b site ord sc s
  | .gatmMax h d a b site ord sc => Sys2Proof.Machine.execGatmMax h d a b site ord sc s
  | .gatmAnd h d a b site ord sc => Sys2Proof.Machine.execGatmAnd h d a b site ord sc s
  | .gatmOr h d a b site ord sc => Sys2Proof.Machine.execGatmOr h d a b site ord sc s
  | .gatmXor h d a b site ord sc => Sys2Proof.Machine.execGatmXor h d a b site ord sc s
  | .gatmExch h d a b site ord sc => Sys2Proof.Machine.execGatmExch h d a b site ord sc s
  | .gadd h d a b site => Sys2Proof.Machine.execGadd h d a b site s
  | .gsub h d a b site => Sys2Proof.Machine.execGsub h d a b site s
  | .gmul h d a b site => Sys2Proof.Machine.execGmul h d a b site s
  | .gfma h d a b site => Sys2Proof.Machine.execGfma h d a b site s
  | .gmin h d a b site => Sys2Proof.Machine.execGmin h d a b site s
  | .gmax h d a b site => Sys2Proof.Machine.execGmax h d a b site s
  | .gset h d a b site cc => Sys2Proof.Machine.execGset h d a b site cc s
  | .gcvt h d a site ty => Sys2Proof.Machine.execGcvt h d a site ty s
  | .stage h a cnt => Sys2Proof.Machine.execStage h a cnt s
  | .cpy h d a b => Sys2Proof.Machine.execCpy h d a b s
  | .cpyBar h d a b bar => Sys2Proof.Machine.execCpyBar h d a b bar s
  | .cpyl4 h d a => Sys2Proof.Machine.execCpyl4 h d a s
  | .cpyl8 h d a => Sys2Proof.Machine.execCpyl8 h d a s
  | .cpyl16 h d a => Sys2Proof.Machine.execCpyl16 h d a s
  | .seal h d => Sys2Proof.Machine.execSeal h d s
  | .waitb h a => Sys2Proof.Machine.execWaitb h a s
  | .bulkLd h ha => Sys2Proof.Machine.execBulkLd h ha s
  | .bulkSt h ha => Sys2Proof.Machine.execBulkSt h ha s
  | .bulkLdBar h ha bar => Sys2Proof.Machine.execBulkLdBar h ha bar s
  | .bulkStBar h ha bar => Sys2Proof.Machine.execBulkStBar h ha bar s
  | .waitm h ha a => Sys2Proof.Machine.execWaitm h ha a s
  | .testm h d ha a => Sys2Proof.Machine.execTestm h d ha a s
  | .mcast h d a b => Sys2Proof.Machine.execMcast h d a b s
  | .mcastBar h d a b bar => Sys2Proof.Machine.execMcastBar h d a b bar s
  | .rowcpy h d a => Sys2Proof.Machine.execRowcpy h d a s
  | .rowfill h d a => Sys2Proof.Machine.execRowfill h d a s
  | .rowand h d a b => Sys2Proof.Machine.execRowand h d a b s
  | .rowor h d a b => Sys2Proof.Machine.execRowor h d a b s
  | .rowxor h d a b => Sys2Proof.Machine.execRowxor h d a b s
  | .rownot h d a => Sys2Proof.Machine.execRownot h d a s
  | .rowmate h d a => Sys2Proof.Machine.execRowmate h d a s
  | .barArrive h bar ord => Sys2Proof.Machine.execBarArrive h bar ord s
  | .barWait h bar ord => Sys2Proof.Machine.execBarWait h bar ord s
  | .barSync h bar ord => Sys2Proof.Machine.execBarSync h bar ord s
  | .barExpect h bar a => Sys2Proof.Machine.execBarExpect h bar a s
  | .barInit h bar a => Sys2Proof.Machine.execBarInit h bar a s
  | .setdecl h k a => Sys2Proof.Machine.execSetdecl h k a s
  | .shld h ha a => Sys2Proof.Machine.execShld h ha a s
  | .shst h ha a => Sys2Proof.Machine.execShst h ha a s
  | .shset h ha f a => Sys2Proof.Machine.execShset h ha f a s
  | .shget h d ha f => Sys2Proof.Machine.execShget h d ha f s
  | .macq h t => Sys2Proof.Machine.execMacq h t s
  | .mrel h t => Sys2Proof.Machine.execMrel h t s
  | .mzeroF32 h t => Sys2Proof.Machine.execMzeroF32 h t s
  | .mzeroI32 h t => Sys2Proof.Machine.execMzeroI32 h t s
  | .mzeroI32s h t => Sys2Proof.Machine.execMzeroI32s h t s
  | .mwait h t => Sys2Proof.Machine.execMwait h t s
  | .mloop h t ha hb a => Sys2Proof.Machine.execMloop h t ha hb a s
  | .mldaSp h t ha => Sys2Proof.Machine.execMldaSp h t ha s
  | .mldaReg h t d a => Sys2Proof.Machine.execMldaReg h t d a s
  | .mdrainSp h t ha => Sys2Proof.Machine.execMdrainSp h t ha s
  | .mdrainReg h t d a => Sys2Proof.Machine.execMdrainReg h t d a s
  | .saccR h t a b => Sys2Proof.Machine.execSaccR h t a b s
  | .saccRc h t d a b => Sys2Proof.Machine.execSaccRc h t d a b s
  | .plane h ha hb => Sys2Proof.Machine.execPlane h ha hb s
  | .unplane h ha hb => Sys2Proof.Machine.execUnplane h ha hb s
  | .hclr h k a => Sys2Proof.Machine.execHclr h k a s
  | .hrd h d k a => Sys2Proof.Machine.execHrd h d k a s
  | .launch h a q => Sys2Proof.Machine.execLaunch h a q s
  | .sread h d idx => Sys2Proof.Machine.execSread h d idx s
  | .swrite h idx a => Sys2Proof.Machine.execSwrite h idx a s
  | .bkpt h code => Sys2Proof.Machine.execBkpt h code s
  | .mark h a tag => Sys2Proof.Machine.execMark h a tag s
  | .siterst h d a => Sys2Proof.Machine.execSiterst h d a s
  | .fatalFault ctx cause r => Sys2Proof.Machine.execFatalFault ctx cause r s
  | .dumpStart => Sys2Proof.Machine.execDumpStart s
  | .savePhase2 ctx tid => Sys2Proof.Machine.execSavePhase2 ctx tid s
  | .saveCacheFlush ctx => Sys2Proof.Machine.execSaveCacheFlush ctx s
  | .rendezvousIssue tid k => Sys2Proof.Machine.execRendezvousIssue tid k s
  | .rendezvousTimeout tid k => Sys2Proof.Machine.execRendezvousTimeout tid k s
  | .registerResultReturn r j => Sys2Proof.Machine.execRegisterResultReturn r j s
  | .groupResourcesFreed r => Sys2Proof.Machine.execGroupResourcesFreed r s
  | .teamRetire tid => Sys2Proof.Machine.execTeamRetire tid s
  | .gridCompletion gid => Sys2Proof.Machine.execGridCompletion gid s
  | .carveChange core => Sys2Proof.Machine.execCarveChange core s
  | .ctxSave ctx => Sys2Proof.Machine.execCtxSave ctx s
  | .releaseComplete r => Sys2Proof.Machine.execReleaseComplete r s
  | .launchAccept ctx q => Sys2Proof.Machine.execLaunchAccept ctx q s
  | .copyComplete tid wid => Sys2Proof.Machine.execCopyComplete tid wid s
  | .engineWorkStop tid wid cause addr => Sys2Proof.Machine.execEngineWorkStop tid wid cause addr s
  | .bulkChunkComplete tid wid chunk => Sys2Proof.Machine.execBulkChunkComplete tid wid chunk s
  | .mcastChunkArrive tid wid rcv chunk => Sys2Proof.Machine.execMcastChunkArrive tid wid rcv chunk s
  | .barrierTimeout r => Sys2Proof.Machine.execBarrierTimeout r s
  | .chunkWaitTimeout r => Sys2Proof.Machine.execChunkWaitTimeout r s
  | .rowFrameComplete tid wid frame => Sys2Proof.Machine.execRowFrameComplete tid wid frame s
  | .planeComplete tid wid => Sys2Proof.Machine.execPlaneComplete tid wid s
  | .pairingTimeout r => Sys2Proof.Machine.execPairingTimeout r s
  | .tokenTimeout r => Sys2Proof.Machine.execTokenTimeout r s
  | .damaskLoopStart core => Sys2Proof.Machine.execDamaskLoopStart core s
  | .damaskLoopComplete core => Sys2Proof.Machine.execDamaskLoopComplete core s
  | .enginePlaceFree core => Sys2Proof.Machine.execEnginePlaceFree core s
  | .saccComplete core => Sys2Proof.Machine.execSaccComplete core s
  | .cacheEviction who ctx va => Sys2Proof.Machine.execCacheEviction who ctx va s
  | .ownerTimeout ctx va rd lanes => Sys2Proof.Machine.execOwnerTimeout ctx va rd lanes s
  | .registryError ctx va => Sys2Proof.Machine.execRegistryError ctx va s
  | .rollCallTimeout ctx va => Sys2Proof.Machine.execRollCallTimeout ctx va s
  | .siteRewriteCas pos => Sys2Proof.Machine.execSiteRewriteCas pos s
  | .pageWalkComplete ctx va => Sys2Proof.Machine.execPageWalkComplete ctx va s
  | .heldWritebackRelease pos => Sys2Proof.Machine.execHeldWritebackRelease pos s
  | .fqheadWrite ctx v => Sys2Proof.Machine.execFqheadWrite ctx v s
  | .svdoneReexecute ctx seq => Sys2Proof.Machine.execSvdoneReexecute ctx seq s
  | .svdoneResume ctx seq => Sys2Proof.Machine.execSvdoneResume ctx seq s
  | .svdoneTerminate ctx seq => Sys2Proof.Machine.execSvdoneTerminate ctx seq s
  | .svdoneRefuse ctx seq => Sys2Proof.Machine.execSvdoneRefuse ctx seq s
  | .registerWrite reg v => Sys2Proof.Machine.execRegisterWrite reg v s
  | .doorbell v => Sys2Proof.Machine.execDoorbell v s
  | .dependenceRead ctx q => Sys2Proof.Machine.execDependenceRead ctx q s
  | .teamPlace gid die core slices => Sys2Proof.Machine.execTeamPlace gid die core slices s
  | .priorityAging gid => Sys2Proof.Machine.execPriorityAging gid s
  | .ctxCreate ctx => Sys2Proof.Machine.execCtxCreate ctx s
  | .ctxDestroy ctx => Sys2Proof.Machine.execCtxDestroy ctx s
  | .ctxRestore ctx place => Sys2Proof.Machine.execCtxRestore ctx place s
  | .ctxDump ctx => Sys2Proof.Machine.execCtxDump ctx s
  | .cxlLinkDown tgt => Sys2Proof.Machine.execCxlLinkDown tgt s
  | .cxlCompletionTimeout tgt => Sys2Proof.Machine.execCxlCompletionTimeout tgt s
  | .targetRestored tgt => Sys2Proof.Machine.execTargetRestored tgt s
  | .nirbiorLinkFault link => Sys2Proof.Machine.execNirbiorLinkFault link s
  | .linkLaneRemap link => Sys2Proof.Machine.execLinkLaneRemap link s
  | .hostMemRead line word => Sys2Proof.Machine.execHostMemRead line word s
  | .hostMemWrite line word data => Sys2Proof.Machine.execHostMemWrite line word data s
  | .hostSnoop page line => Sys2Proof.Machine.execHostSnoop page line s
  | .boot digests fail => Sys2Proof.Machine.execBoot digests fail s
  | .attestationRequest nonce => Sys2Proof.Machine.execAttestationRequest nonce s
  | .pcSample core slice => Sys2Proof.Machine.execPcSample core slice s
  | .cclr part => Sys2Proof.Machine.execCclr part s
  | .fabricTimeCorrection corr => Sys2Proof.Machine.execFabricTimeCorrection corr s
  | .thermalThrottle steps => Sys2Proof.Machine.execThermalThrottle steps s
  | .criticalTemperature => Sys2Proof.Machine.execCriticalTemperature s
  | .coreFailure core => Sys2Proof.Machine.execCoreFailure core s
  | .registryRebuilt ctx va => Sys2Proof.Machine.execRegistryRebuilt ctx va s
  | .hostLinkTraining mode => Sys2Proof.Machine.execHostLinkTraining mode s
  | .temperatureFalls => Sys2Proof.Machine.execTemperatureFalls s

end Sys2Proof.Machine
end

