-- ==== Sys2Proof/Machine/Step.lean ====
section
/-! DEFINITION. Machine/Step.lean: one step of the device: the oldest event of the agenda, or an event that the device makes of
itself, or the issue of one slice, or, when the cycle has nothing left, its end. -/
namespace Sys2Proof.Machine

/-- Run the instruction of one group: its SYNC record first (R455), then its fetch, then its meaning. -/
def stepGroup (s : State) (r : GRef) : Host.Outcome State Fault Refusal :=
  let m := traceSync s.fw s.m r
  match m.team? r.tid, m.group? r with
  | some t, some g =>
    (match instrOf m t g with
     | (.error e, m) => .next { s with m := fetchTrap s.fw (startIssue m r t g) r e }
     | (.ok i, m) => exec i { s with m := startInstr m r t g i })
  | _, _ => .next s

/-- One slice issues; when none can, a time limit that has run out takes effect (R41, R43), else the cycle ends. -/
def stepIssue (s : State) : Host.Outcome State Fault Refusal :=
  match nextGroup s.m with
  | some r => stepGroup s r
  | none =>
    match firstOf (timeoutEvents s) with
    | some o => o
    | none => .next { s with m := tick s.fw s.m }

/-- What happens when the agenda is empty. -/
def stepDefault (s : State) : Host.Outcome State Fault Refusal :=
  match firstOf (promptEvents s) with
  | some o => o
  | none =>
    match slowEvent s with
    | none => stepIssue s
    | some o => if mayWait s.m then stepIssue { s with m := showPart s.m } else o

/-- One step. An agenda entry that is not pending passes with no effect. -/
def step (s : State) : Host.Outcome State Fault Refusal :=
  let s := { s with m := beginStep s.m }
  match s.m.agenda with
  | [] => stepDefault s
  | i :: r =>
    let s := { s with m := { s.m with agenda := r } }
    match exec i s with
    | .refused _ => .next s
    | o => o

/-- The state with an instruction stored where the next step fetches it (log entry 14). -/
def State.withFetchWord (s : State) (nbits w : Nat) : State :=
  let b := BitVec.ofNat 128 (w % 2 ^ nbits)
  { s with m := putInstr (withGroup { s.m with agenda := [], issued := [] }) (b.extractLsb' 0 64) (b.extractLsb' 64 64) }

end Sys2Proof.Machine
end

