-- ==== Sys2Proof/Safety.lean ====
section
/-! DEFINITION. Safety.lean: the vocabulary of the claims: which group issues, that an instruction completed, what it left
as it was, and which steps stop neither by a fault nor by a refusal. -/
namespace Sys2Proof.Machine

/-! ### Issue and completion -/

/-- Group r issues: its team and itself, as they stand. It owes no lanes of an instruction that a loss ended (R429). -/
structure Issuing (s : State) (r : GRef) (t : Team) (g : Group) : Prop where
  cur : s.m.cur = some r
  team : s.m.team? r.tid = some t
  group : t.group? r.gno = some g
  back : g.back = none
  lost : g.lost = []

/-- The instruction waits for no release whose write-backs are held for their pages (R312, R419). -/
def Unheld (s : State) (t : Team) (g : Group) (i : Instr) : Prop := heldRelease s.m t g i = none

/-- The group issues by itself (R29, R30), and no reserved bit of the instruction is set (check 5 of R241). -/
def Alone (h : Hd) : Prop := (h.scope = .lane ∨ h.scope = .group) ∧ h.resv = false

/-- The instruction passes checks 5 to 8 of R241 and those its entry adds. -/
def Passes (i : Instr) (t : Team) (g : Group) (draw : Nat) : Prop :=
  ∀ h op, opOf i = some (h, op) → check h op t g draw = none

/-- One register holds what it held. -/
def SameReg (a b : Regs) : RegId → Prop
  | .v n => b.vreg n = a.vreg n
  | .s n => b.sreg n = a.sreg n
  | .p n => b.preg n = a.preg n
  | .x n => ∀ l, b.xlane n l = a.xlane n l
  | .h n => b.hreg n = a.hreg n

/-- The instruction of group r retired: the group goes on at pc, and of its registers only `ids` may have changed.
Management space is as it was (R466). -/
def Completed (s s' : State) (r : GRef) (ids : List RegId) (pc : DWord) : Prop :=
  s'.fw = s.fw ∧ ∃ g g', s.m.group? r = some g ∧ s'.m.group? r = some g' ∧ g'.pc = pc ∧ g'.retired = g.retired + 1
    ∧ g'.present = g.present ∧ ∀ id, id ∉ ids → SameReg g.regs g'.regs id

/-- The divergence state of group r is as it was (R47). -/
def SameFlow (s s' : State) (r : GRef) : Prop :=
  ∀ g g', s.m.group? r = some g → s'.m.group? r = some g' → g'.amask = g.amask ∧ g'.stack = g.stack

/-- Every other group is as it was. -/
def OthersKept (s s' : State) (r : GRef) : Prop := ∀ q, q ≠ r → s'.m.group? q = s.m.group? q

/-- What a team is besides its groups: its scratchpad, barriers, histograms, works and rendezvous among it. -/
def Team.body (t : Team) : Team := { t with groups := [] }

/-- Every team is as it was but for its groups. -/
def TeamsKept (s s' : State) : Prop := ∀ k, (s'.m.team? k).map Team.body = (s.m.team? k).map Team.body

/-- All that is neither a team nor a performance counter is as it was: memory, caches, registry, translation, contexts with
their fault queues, grids, tiles and engines among it. -/
def DeviceKept (s s' : State) : Prop := { s'.m with teams := s.m.teams, parts := s.m.parts } = s.m

/-- Nothing but the issuing group's own state and the performance counters changed. -/
def OnlyGroup (s s' : State) (r : GRef) : Prop := OthersKept s s' r ∧ TeamsKept s s' ∧ DeviceKept s s'

/-- The state after taking an exception (R390). -/
def stopped (s : State) (t : Team) (x : Stop) : State := { s with m := takeStop s.fw s.m t.tid x }

/-- The step stops neither by a fault nor by a refusal. -/
def Safe (o : Host.Outcome State Fault Refusal) : Prop := ∃ s', o = .next s'

/-! ### Instructions that write registers and nothing else -/

/-- The instructions that write the registers given and nothing else: IARITH, LOGIC, ICMP, MOVE, IMM, PK16, XLANE, FARITH,
FCMP, FSPEC, FDIV, PKF and CVT (R257 to R271, R280 to R294). -/
def regOnly : Instr → Option (Hd × List RegId)
  | .add h ty d _ _ => some (h, d.ids ty.wide)
  | .sub h ty d _ _ => some (h, d.ids ty.wide)
  | .mul h ty d _ _ => some (h, d.ids ty.wide)
  | .mulhi h ty d _ _ => some (h, d.ids ty.wide)
  | .mad h ty d _ _ _ => some (h, d.ids ty.wide)
  | .min h ty d _ _ => some (h, d.ids ty.wide)
  | .max h ty d _ _ => some (h, d.ids ty.wide)
  | .abs h ty d _ => some (h, d.ids ty.wide)
  | .neg h ty d _ => some (h, d.ids ty.wide)
  | .div h ty d _ _ => some (h, d.ids ty.wide)
  | .rem h ty d _ _ => some (h, d.ids ty.wide)
  | .addImm h ty d _ _ => some (h, d.ids ty.wide)
  | .subImm h ty d _ _ => some (h, d.ids ty.wide)
  | .mulImm h ty d _ _ => some (h, d.ids ty.wide)
  | .mulhiImm h ty d _ _ => some (h, d.ids ty.wide)
  | .minImm h ty d _ _ => some (h, d.ids ty.wide)
  | .maxImm h ty d _ _ => some (h, d.ids ty.wide)
  | .and h ty d _ _ => some (h, d.ids ty.wide)
  | .or h ty d _ _ => some (h, d.ids ty.wide)
  | .xor h ty d _ _ => some (h, d.ids ty.wide)
  | .not h ty d _ => some (h, d.ids ty.wide)
  | .andn h ty d _ _ => some (h, d.ids ty.wide)
  | .shl h ty d _ _ => some (h, d.ids ty.wide)
  | .shr h ty d _ _ => some (h, d.ids ty.wide)
  | .sar h ty d _ _ => some (h, d.ids ty.wide)
  | .rotl h ty d _ _ => some (h, d.ids ty.wide)
  | .popc h ty d _ => some (h, d.ids ty.wide)
  | .clz h ty d _ => some (h, d.ids ty.wide)
  | .bfe h ty d _ _ => some (h, d.ids ty.wide)
  | .bfi h ty d _ _ _ => some (h, d.ids ty.wide)
  | .brev h ty d _ => some (h, d.ids ty.wide)
  | .andImm h ty d _ _ => some (h, d.ids ty.wide)
  | .orImm h ty d _ _ => some (h, d.ids ty.wide)
  | .xorImm h ty d _ _ => some (h, d.ids ty.wide)
  | .andnImm h ty d _ _ => some (h, d.ids ty.wide)
  | .shlImm h ty d _ _ => some (h, d.ids ty.wide)
  | .shrImm h ty d _ _ => some (h, d.ids ty.wide)
  | .sarImm h ty d _ _ => some (h, d.ids ty.wide)
  | .rotlImm h ty d _ _ => some (h, d.ids ty.wide)
  | .setEq h _ d _ _ => some (h, d.ids false)
  | .setNe h _ d _ _ => some (h, d.ids false)
  | .setLt h _ d _ _ => some (h, d.ids false)
  | .setLe h _ d _ _ => some (h, d.ids false)
  | .setGt h _ d _ _ => some (h, d.ids false)
  | .setGe h _ d _ _ => some (h, d.ids false)
  | .setEqImm h _ d _ _ => some (h, d.ids false)
  | .setNeImm h _ d _ _ => some (h, d.ids false)
  | .setLtImm h _ d _ _ => some (h, d.ids false)
  | .setLeImm h _ d _ _ => some (h, d.ids false)
  | .setGtImm h _ d _ _ => some (h, d.ids false)
  | .setGeImm h _ d _ _ => some (h, d.ids false)
  | .mov h ty d _ => some (h, d.ids (ty != .b1 && ty.wide))
  | .sel h ty d _ _ _ => some (h, d.ids ty.wide)
  | .movi h ty d _ => some (h, d.ids ty.wide)
  | .movhi h ty d _ => some (h, d.ids ty.wide)
  | .addpc h _ d _ => some (h, d.ids true)
  | .addlo h _ d _ _ => some (h, d.ids true)
  | .add2 h _ d _ _ => some (h, d.ids false)
  | .sub2 h _ d _ _ => some (h, d.ids false)
  | .min2 h _ d _ _ => some (h, d.ids false)
  | .max2 h _ d _ _ => some (h, d.ids false)
  | .maxd2 h _ d _ _ c => some (h, d.ids false ++ c.ids false ++ (match predPair c with | some n => [.p (n + 1)] | none => []))
  | .shfl h ty d _ _ => some (h, d.ids ty.wide)
  | .shflUp h ty d _ _ => some (h, d.ids ty.wide)
  | .shflDn h ty d _ _ => some (h, d.ids ty.wide)
  | .shflXor h ty d _ _ => some (h, d.ids ty.wide)
  | .voteAny h _ d _ => some (h, d.ids false)
  | .voteAll h _ d _ => some (h, d.ids false)
  | .ballot h _ d _ => some (h, d.ids false)
  | .xredAdd h ty d _ => some (h, d.ids ty.wide)
  | .xredMin h ty d _ => some (h, d.ids ty.wide)
  | .xredMax h ty d _ => some (h, d.ids ty.wide)
  | .xredAnd h ty d _ => some (h, d.ids ty.wide)
  | .xredOr h ty d _ => some (h, d.ids ty.wide)
  | .xredXor h ty d _ => some (h, d.ids ty.wide)
  | .xscanAdd h ty d _ => some (h, d.ids ty.wide)
  | .xscanMax h ty d _ => some (h, d.ids ty.wide)
  | .bcast h ty d _ _ => some (h, d.ids ty.wide)
  | .fadd h ty d _ _ => some (h, d.ids ty.wide)
  | .fsub h ty d _ _ => some (h, d.ids ty.wide)
  | .fmul h ty d _ _ => some (h, d.ids ty.wide)
  | .fma h ty d _ _ _ => some (h, d.ids ty.wide)
  | .fmin h ty d _ _ => some (h, d.ids ty.wide)
  | .fmax h ty d _ _ => some (h, d.ids ty.wide)
  | .fsetEq h _ d _ _ => some (h, d.ids false)
  | .fsetNe h _ d _ _ => some (h, d.ids false)
  | .fsetLt h _ d _ _ => some (h, d.ids false)
  | .fsetLe h _ d _ _ => some (h, d.ids false)
  | .fsetGt h _ d _ _ => some (h, d.ids false)
  | .fsetGe h _ d _ _ => some (h, d.ids false)
  | .fsetUnord h _ d _ _ => some (h, d.ids false)
  | .fsetOrd h _ d _ _ => some (h, d.ids false)
  | .frcp h ty d _ => some (h, d.ids ty.wide)
  | .fsqrt h ty d _ => some (h, d.ids ty.wide)
  | .frsqrt h ty d _ => some (h, d.ids ty.wide)
  | .fexp2 h ty d _ => some (h, d.ids ty.wide)
  | .flog2 h ty d _ => some (h, d.ids ty.wide)
  | .fclass h _ d _ => some (h, d.ids false)
  | .frint h ty d _ => some (h, d.ids ty.wide)
  | .fdiv h ty d _ _ => some (h, d.ids ty.wide)
  | .fadd2 h ty d _ _ => some (h, d.ids ty.wide)
  | .fsub2 h ty d _ _ => some (h, d.ids ty.wide)
  | .fmul2 h ty d _ _ => some (h, d.ids ty.wide)
  | .fma2 h ty d _ _ _ => some (h, d.ids ty.wide)
  | .fmin2 h ty d _ _ => some (h, d.ids ty.wide)
  | .fmax2 h ty d _ _ => some (h, d.ids ty.wide)
  | .cvt h ty _ d _ _ _ => some (h, d.ids ty.wide)
  | .cvtef h _ d _ _ _ => some (h, d.ids false)
  | .cvtefX2 h _ d _ _ _ => some (h, d.ids false)
  | _ => none


/-! ### What a result leaves in its destination (R248) -/

/-- The instruction is not at GROUP scope, or its guard holds in some lane (R227). -/
def Active (h : Hd) (g : Group) (draw : Nat) : Prop := h.scope = .group → actOf g h draw ≠ 0

/-- What the register of an operand holds in a lane: one register, or a pair. -/
def holding (r : Regs) (wide : Bool) (o : Opnd) (l : Nat) : DWord :=
  match o with
  | .v n => if wide then (r.vreg (n.toNat + 1)).lane l ++ (r.vreg n.toNat).lane l else ((r.vreg n.toNat).lane l).setWidth 64
  | .s n => (r.sreg n.toNat).val
  | .p n => bit 64 ((r.preg n.toNat).has l)
  | .x n => (r.xlane n.toNat l).setWidth 64
  | .h _ | .a _ | .c _ | .bad _ => 0

/-- What the register keeps of a result (R60, R248): 64 bits, 32 bits, 16 bits, one bit, or for p7 nothing. -/
def keeping (wide : Bool) (o : Opnd) (v : DWord) : DWord :=
  match o with
  | .v _ => if wide then v else (v.setWidth 32).setWidth 64
  | .s _ => v
  | .p n => if n.toNat = 7 then 1 else bit 64 (v.getLsbD 0)
  | .x _ => (v.setWidth 16).setWidth 64
  | .h _ | .a _ | .c _ | .bad _ => 0

/-- The result f of an instruction stands in its destination: an s register holds the one value; in any other register the
lanes of `act` hold theirs and the other lanes what they held (R248). -/
def Written (g g' : Group) (d : Opnd) (wide : Bool) (act : Mask) (f : Nat → DWord) : Prop :=
  match d with
  | .s n => (g'.regs.sreg n.toNat).val = f 0
  | _ => ∀ l, l < 32 → holding g'.regs wide d l = if act.has l then keeping wide d (f l) else holding g.regs wide d l

/-- An instruction of group r completes with result f in d, and does nothing else. -/
def Yields (i : Instr) (h : Hd) (s : State) (r : GRef) (g : Group) (d : Opnd) (wide : Bool) (f : Nat → DWord) : Prop :=
  ∃ s' g', exec i s = .next s' ∧ Completed s s' r (d.ids wide) (nextPc g.pc h) ∧ SameFlow s s' r ∧ OnlyGroup s s' r
    ∧ s'.m.group? r = some g' ∧ Written g g' d wide (memberOf g h s.m.draw).act f

/-- A source of an instruction: an operand at its place, or an immediate (R232, R247). -/
inductive Src where
  | reg (slot : Nat) (o : Opnd)
  | imm (v : BitVec 20)

/-- The value of a source in a lane, read at a type. -/
def Src.val (x : Src) (g : Group) (draw : Nat) (ty : Ty) (l : Nat) : DWord :=
  match x with
  | .reg slot o => srcVal g g draw slot ty o l
  | .imm v => immVal ty v

/-- An element of a source as the integer of its type (R84, R257). -/
def Src.int (x : Src) (g : Group) (draw : Nat) (ty : Ty) (l k : Nat) : Int :=
  intOf ty.signed ty.ew (elem ty.ew k (x.val g draw ty l))

/-- An element of a source as its bits. -/
def Src.bits (x : Src) (g : Group) (draw : Nat) (ty : Ty) (l k : Nat) : Nat := elem ty.ew k (x.val g draw ty l)

/-- Elements 0 and up of a type put together (R85). -/
def elements (ty : Ty) (f : Nat → Nat) : DWord := packElems ty.ew ((List.range ty.count).map f)

/-! ### The results that the tables of R257 to R271 give -/

/-- IARITH and IARITHI but for `div` and `rem` (R257): the destination, the sources and the exact result, and whether SAT
may saturate it. -/
def arithSpec : Instr → Option (Hd × Ty × Opnd × List Src × Bool × (Nat → List Int → Int))
  | .add h ty d a b => some (h, ty, d, [.reg 0 a, .reg 1 b], h.sat, fun _ x => x.getD 0 0 + x.getD 1 0)
  | .sub h ty d a b => some (h, ty, d, [.reg 0 a, .reg 1 b], h.sat, fun _ x => x.getD 0 0 - x.getD 1 0)
  | .mul h ty d a b => some (h, ty, d, [.reg 0 a, .reg 1 b], h.sat, fun _ x => x.getD 0 0 * x.getD 1 0)
  | .mulhi h ty d a b => some (h, ty, d, [.reg 0 a, .reg 1 b], false, fun w x => x.getD 0 0 * x.getD 1 0 / 2 ^ w)
  | .mad h ty d a b c => some (h, ty, d, [.reg 0 a, .reg 1 b, .reg 2 c], h.sat, fun _ x => x.getD 0 0 * x.getD 1 0 + x.getD 2 0)
  | .min h ty d a b => some (h, ty, d, [.reg 0 a, .reg 1 b], false, fun _ x => min (x.getD 0 0) (x.getD 1 0))
  | .max h ty d a b => some (h, ty, d, [.reg 0 a, .reg 1 b], false, fun _ x => max (x.getD 0 0) (x.getD 1 0))
  | .abs h ty d a => some (h, ty, d, [.reg 0 a], h.sat, fun _ x => |x.getD 0 0|)
  | .neg h ty d a => some (h, ty, d, [.reg 0 a], h.sat, fun _ x => -(x.getD 0 0))
  | .addImm h ty d a v => some (h, ty, d, [.reg 0 a, .imm v], h.sat, fun _ x => x.getD 0 0 + x.getD 1 0)
  | .subImm h ty d a v => some (h, ty, d, [.reg 0 a, .imm v], h.sat, fun _ x => x.getD 0 0 - x.getD 1 0)
  | .mulImm h ty d a v => some (h, ty, d, [.reg 0 a, .imm v], h.sat, fun _ x => x.getD 0 0 * x.getD 1 0)
  | .mulhiImm h ty d a v => some (h, ty, d, [.reg 0 a, .imm v], false, fun w x => x.getD 0 0 * x.getD 1 0 / 2 ^ w)
  | .minImm h ty d a v => some (h, ty, d, [.reg 0 a, .imm v], false, fun _ x => min (x.getD 0 0) (x.getD 1 0))
  | .maxImm h ty d a v => some (h, ty, d, [.reg 0 a, .imm v], false, fun _ x => max (x.getD 0 0) (x.getD 1 0))
  | _ => none

/-- LOGIC and LOGICI but for the counts, the bit fields and the reversal (R259): the bits of an element of width w from those
of its sources. -/
def logicSpec : Instr → Option (Hd × Ty × Opnd × List Src × (Nat → List Nat → Nat → Bool))
  | .and h ty d a b => some (h, ty, d, [.reg 0 a, .reg 1 b], fun _ x i => (x.getD 0 0).testBit i && (x.getD 1 0).testBit i)
  | .or h ty d a b => some (h, ty, d, [.reg 0 a, .reg 1 b], fun _ x i => (x.getD 0 0).testBit i || (x.getD 1 0).testBit i)
  | .xor h ty d a b => some (h, ty, d, [.reg 0 a, .reg 1 b], fun _ x i => (x.getD 0 0).testBit i != (x.getD 1 0).testBit i)
  | .not h ty d a => some (h, ty, d, [.reg 0 a], fun _ x i => !(x.getD 0 0).testBit i)
  | .andn h ty d a b => some (h, ty, d, [.reg 0 a, .reg 1 b], fun _ x i => (x.getD 0 0).testBit i && !(x.getD 1 0).testBit i)
  | .shl h ty d a b => some (h, ty, d, [.reg 0 a, .reg 1 b], fun w x i =>
      decide (x.getD 1 0 % w ≤ i) && (x.getD 0 0).testBit (i - x.getD 1 0 % w))
  | .shr h ty d a b => some (h, ty, d, [.reg 0 a, .reg 1 b], fun w x i => (x.getD 0 0).testBit (i + x.getD 1 0 % w))
  | .sar h ty d a b => some (h, ty, d, [.reg 0 a, .reg 1 b], fun w x i => (x.getD 0 0).testBit (min (i + x.getD 1 0 % w) (w - 1)))
  | .rotl h ty d a b => some (h, ty, d, [.reg 0 a, .reg 1 b], fun w x i => (x.getD 0 0).testBit ((i + w - x.getD 1 0 % w) % w))
  | .andImm h ty d a v => some (h, ty, d, [.reg 0 a, .imm v], fun _ x i => (x.getD 0 0).testBit i && (x.getD 1 0).testBit i)
  | .orImm h ty d a v => some (h, ty, d, [.reg 0 a, .imm v], fun _ x i => (x.getD 0 0).testBit i || (x.getD 1 0).testBit i)
  | .xorImm h ty d a v => some (h, ty, d, [.reg 0 a, .imm v], fun _ x i => (x.getD 0 0).testBit i != (x.getD 1 0).testBit i)
  | .andnImm h ty d a v => some (h, ty, d, [.reg 0 a, .imm v], fun _ x i => (x.getD 0 0).testBit i && !(x.getD 1 0).testBit i)
  | .shlImm h ty d a v => some (h, ty, d, [.reg 0 a, .imm v], fun w x i =>
      decide (x.getD 1 0 % w ≤ i) && (x.getD 0 0).testBit (i - x.getD 1 0 % w))
  | .shrImm h ty d a v => some (h, ty, d, [.reg 0 a, .imm v], fun w x i => (x.getD 0 0).testBit (i + x.getD 1 0 % w))
  | .sarImm h ty d a v => some (h, ty, d, [.reg 0 a, .imm v], fun w x i =>
      (x.getD 0 0).testBit (min (i + x.getD 1 0 % w) (w - 1)))
  | .rotlImm h ty d a v => some (h, ty, d, [.reg 0 a, .imm v], fun w x i =>
      (x.getD 0 0).testBit ((i + w - x.getD 1 0 % w) % w))
  | .brev h ty d a => some (h, ty, d, [.reg 0 a], fun w x i => (x.getD 0 0).testBit (w - 1 - i))
  | _ => none

/-- The number of an element of width w whose bits are given. -/
def ofBits (w : Nat) (f : Nat → Bool) : Nat := (List.range w).foldl (fun v i => v + if f i then 2 ^ i else 0) 0

/-- The compares of integers (R261). -/
def compareSpec : Instr → Option (Hd × Ty × Opnd × Src × Src × (Int → Int → Bool))
  | .setEq h ty d a b => some (h, ty, d, .reg 0 a, .reg 1 b, fun x y => decide (x = y))
  | .setNe h ty d a b => some (h, ty, d, .reg 0 a, .reg 1 b, fun x y => decide (x ≠ y))
  | .setLt h ty d a b => some (h, ty, d, .reg 0 a, .reg 1 b, fun x y => decide (x < y))
  | .setLe h ty d a b => some (h, ty, d, .reg 0 a, .reg 1 b, fun x y => decide (x ≤ y))
  | .setGt h ty d a b => some (h, ty, d, .reg 0 a, .reg 1 b, fun x y => decide (y < x))
  | .setGe h ty d a b => some (h, ty, d, .reg 0 a, .reg 1 b, fun x y => decide (y ≤ x))
  | .setEqImm h ty d a v => some (h, ty, d, .reg 0 a, .imm v, fun x y => decide (x = y))
  | .setNeImm h ty d a v => some (h, ty, d, .reg 0 a, .imm v, fun x y => decide (x ≠ y))
  | .setLtImm h ty d a v => some (h, ty, d, .reg 0 a, .imm v, fun x y => decide (x < y))
  | .setLeImm h ty d a v => some (h, ty, d, .reg 0 a, .imm v, fun x y => decide (x ≤ y))
  | .setGtImm h ty d a v => some (h, ty, d, .reg 0 a, .imm v, fun x y => decide (y < x))
  | .setGeImm h ty d a v => some (h, ty, d, .reg 0 a, .imm v, fun x y => decide (y ≤ x))
  | _ => none

/-- PK16 but for `maxd2` (R264): the exact result of one element. -/
def packedSpec : Instr → Option (Hd × Ty × Opnd × Opnd × Opnd × (Int → Int → Int))
  | .add2 h ty d a b => some (h, ty, d, a, b, fun x y => x + y)
  | .sub2 h ty d a b => some (h, ty, d, a, b, fun x y => x - y)
  | .min2 h ty d a b => some (h, ty, d, a, b, min)
  | .max2 h ty d a b => some (h, ty, d, a, b, max)
  | _ => none

/-- The lane that each shuffle reads, of lane i with B's value b (R267). -/
def shuffleSpec : Instr → Option (Hd × Ty × Opnd × Opnd × Opnd × (Nat → Nat → Int))
  | .shfl h ty d a b => some (h, ty, d, a, b, fun _ b => b)
  | .shflUp h ty d a b => some (h, ty, d, a, b, fun i b => (i : Int) - b)
  | .shflDn h ty d a b => some (h, ty, d, a, b, fun i b => (i : Int) + b)
  | .shflXor h ty d a b => some (h, ty, d, a, b, fun i b => ((i ^^^ b : Nat) : Int))
  | _ => none

/-- A source read at a lane of the group's own lane space: 0 in an absent lane (R266). -/
def laneSrc (g : Group) (draw slot : Nat) (ty : Ty) (o : Opnd) (j : Nat) : DWord :=
  if g.present.has j then srcVal g g draw slot ty o j else 0

/-- The value of a predicate source in a lane (R266). -/
def predSrc (g : Group) (draw : Nat) (o : Opnd) (j : Nat) : Bool := (laneSrc g draw 0 .b32 o j).getLsbD 0

/-! ### Float values as extended rationals (R87 to R92) -/

/-- A value: none for a NaN, and infinities below and above every rational. −0 and +0 are one value. -/
def FV.num : FV → Option (WithBot (WithTop ℚ))
  | .nan _ _ => none
  | .inf true => some ⊥
  | .inf false => some ((⊤ : WithTop ℚ) : WithBot (WithTop ℚ))
  | .zero _ => some (((0 : ℚ) : WithTop ℚ) : WithBot (WithTop ℚ))
  | .fin n m e => some ((((if n then -1 else 1) * (m : ℚ) * 2 ^ e : ℚ) : WithTop ℚ) : WithBot (WithTop ℚ))

/-- The rational of a finite value. -/
def FV.rat : FV → Option ℚ
  | .nan _ _ | .inf _ => none
  | .zero _ => some 0
  | .fin n m e => some ((if n then -1 else 1) * (m : ℚ) * 2 ^ e)

/-- The outcomes of R284 on two values, none for a NaN. -/
def FRel (c : FCond) (x y : Option (WithBot (WithTop ℚ))) : Prop :=
  match c with
  | .eq => x ≠ none ∧ x = y
  | .ne => x = none ∨ x ≠ y
  | .lt => ∃ a b, x = some a ∧ y = some b ∧ a < b
  | .le => ∃ a b, x = some a ∧ y = some b ∧ a ≤ b
  | .gt => ∃ a b, x = some a ∧ y = some b ∧ b < a
  | .ge => ∃ a b, x = some a ∧ y = some b ∧ b ≤ a
  | .unord => x = none ∨ y = none
  | .ord => x ≠ none ∧ y ≠ none

/-- The compares of floats (R284). -/
def fcompareSpec : Instr → Option (Hd × Ty × Opnd × Opnd × Opnd × FCond)
  | .fsetEq h ty d a b => some (h, ty, d, a, b, .eq)
  | .fsetNe h ty d a b => some (h, ty, d, a, b, .ne)
  | .fsetLt h ty d a b => some (h, ty, d, a, b, .lt)
  | .fsetLe h ty d a b => some (h, ty, d, a, b, .le)
  | .fsetGt h ty d a b => some (h, ty, d, a, b, .gt)
  | .fsetGe h ty d a b => some (h, ty, d, a, b, .ge)
  | .fsetUnord h ty d a b => some (h, ty, d, a, b, .unord)
  | .fsetOrd h ty d a b => some (h, ty, d, a, b, .ord)
  | _ => none

/-- Sums, products and fused products (R280, R289): the sources and the exact result of rational sources. -/
def floatSpec : Instr → Option (Hd × Ty × Opnd × List Opnd × (List ℚ → ℚ))
  | .fadd h ty d a b => some (h, ty, d, [a, b], fun x => x.getD 0 0 + x.getD 1 0)
  | .fsub h ty d a b => some (h, ty, d, [a, b], fun x => x.getD 0 0 - x.getD 1 0)
  | .fmul h ty d a b => some (h, ty, d, [a, b], fun x => x.getD 0 0 * x.getD 1 0)
  | .fma h ty d a b c => some (h, ty, d, [a, b, c], fun x => x.getD 0 0 * x.getD 1 0 + x.getD 2 0)
  | .fadd2 h ty d a b => some (h, ty, d, [a, b], fun x => x.getD 0 0 + x.getD 1 0)
  | .fsub2 h ty d a b => some (h, ty, d, [a, b], fun x => x.getD 0 0 - x.getD 1 0)
  | .fmul2 h ty d a b => some (h, ty, d, [a, b], fun x => x.getD 0 0 * x.getD 1 0)
  | .fma2 h ty d a b c => some (h, ty, d, [a, b, c], fun x => x.getD 0 0 * x.getD 1 0 + x.getD 2 0)
  | _ => none

/-- Element k of source number j of a float instruction, after DAZ, ABSx and NEGx (R277). -/
def floatSrc (h : Hd) (ty : Ty) (c : Ctl) (g : Group) (draw j : Nat) (o : Opnd) (l k : Nat) : Nat :=
  let v := elem ty.ew k (srcVal g g draw j ty o l)
  if j = 0 then modA h (Ty.fmtD ty) c v else if j = 1 then modB h (Ty.fmtD ty) c v else modC h (Ty.fmtD ty) c v

/-! ### One rounding, in the reals (R91, R92, R281) -/

/-- b is the real v, not 0, rounded once to the format: v itself where it is a whole number of units of a power of two, and
otherwise every such number that lies near enough to v (RoundingCorrect says how these round). -/
def RoundsTo (f : Fmt) (r : Rnd) (v : ℝ) (b : Nat) : Prop :=
  ∃ neg, (neg = true ↔ v < 0)
    ∧ (∀ (m : Nat) (e : Int), m ≠ 0 → |v| = m * (2 : ℝ) ^ e → b = roundBits f r neg m e false)
    ∧ ((∀ (m : Nat) (e : Int), |v| ≠ m * (2 : ℝ) ^ e) → ∃ ε : ℝ, 0 < ε
      ∧ ∀ (m : Nat) (e : Int), m ≠ 0 → |(|v| - m * (2 : ℝ) ^ e)| < ε → b = roundBits f r neg m e false)

/-- b is a number within 2^−240 of the real v, relative to v, rounded once: how near the model's 2^A and log2 A come to their
exact values before they round (log entry 12). -/
def RoundsNear (f : Fmt) (r : Rnd) (v : ℝ) (b : Nat) : Prop :=
  ∃ (neg : Bool) (m : Nat) (e : Int), m ≠ 0 ∧ (neg = true ↔ v < 0) ∧ |(|v| - m * (2 : ℝ) ^ e)| ≤ |v| * (2 : ℝ) ^ (-240 : Int)
    ∧ b = roundBits f r neg m e false

/-- SAT, then CLAMP (R92, R237, R281). -/
def limited (f : Fmt) (c : Ctl) (b : Nat) : Nat := clampBits f c.clamp (satBits f c.sat b)

/-- A real result as it leaves an operation: scaled, rounded once, flushed, saturated and clamped (R281). -/
def Leaves (f : Fmt) (c : Ctl) (rounds : ℝ → Nat → Prop) (v : ℝ) (b : Nat) : Prop :=
  ∃ x, rounds (v * (2 : ℝ) ^ c.scale) x ∧ b = limited f c (flush f c.ftz x)

/-- A rational rounded to an integer by the mode (R91, R96). -/
def RoundsInt (r : Rnd) (q : ℚ) (z : Int) : Prop :=
  match r with
  | .rz => z = if q < 0 then ⌈q⌉ else ⌊q⌋
  | .ru => z = ⌈q⌉
  | .rd => z = ⌊q⌋
  | .rne => |q - z| ≤ 1 / 2 ∧ (|q - z| = 1 / 2 → 2 ∣ z)

/-- A sum that is no rounded real (R282): an infinity, the default NaN, or a zero; none where the exact sum is a real that is
not 0, and with a NaN source. -/
def sumSpecial (f : Fmt) (down : Bool) (x y : FV) : Option Nat :=
  match x, y with
  | .nan _ _, _ | _, .nan _ _ => none
  | .inf n, .inf k => some (if n = k then infBits f n else defaultNan f)
  | .inf n, _ | _, .inf n => some (infBits f n)
  | .zero n, .zero k => some (signBit f (if n = k then n else down))
  | .zero _, .fin _ _ _ | .fin _ _ _, .zero _ => none
  | .fin n m e, .fin k p d =>
    if ((if n then -1 else 1) * (m : ℚ) * 2 ^ e : ℚ) + (if k then -1 else 1) * (p : ℚ) * 2 ^ d = 0 then some (signBit f down) else none

/-- A product that is no rounded real (R282). -/
def productSpecial (f : Fmt) (x y : FV) : Option Nat :=
  match x, y with
  | .nan _ _, _ | _, .nan _ _ | .fin _ _ _, .fin _ _ _ => none
  | .inf _, .zero _ | .zero _, .inf _ => some (defaultNan f)
  | .inf n, .inf k | .inf n, .fin k _ _ | .fin n _ _, .inf k => some (infBits f (n != k))
  | .zero n, .zero k | .zero n, .fin k _ _ | .fin n _ _, .zero k => some (signBit f (n != k))

/-- A fused product that is no rounded real (R282): the product, not rounded, and the third source. -/
def fusedSpecial (f : Fmt) (down : Bool) (x y z : FV) : Option Nat :=
  match x, y with
  | .nan _ _, _ | _, .nan _ _ => none
  | .inf _, .zero _ | .zero _, .inf _ => (match z with
    | .nan _ _ => none
    | _ => some (defaultNan f))
  | .inf n, .inf k | .inf n, .fin k _ _ | .fin n _ _, .inf k => sumSpecial f down (.inf (n != k)) z
  | .zero n, .zero k | .zero n, .fin k _ _ | .fin n _ _, .zero k => sumSpecial f down (.zero (n != k)) z
  | .fin n m e, .fin k p d => sumSpecial f down (.fin (n != k) (m * p) (e + d)) z

/-- The results of sums, products and fused products that are no rounded reals (R282). -/
def floatSpecial (i : Instr) (f : Fmt) (down : Bool) (xs : List FV) : Option Nat :=
  match i, xs with
  | .fadd _ _ _ _ _, [x, y] | .fadd2 _ _ _ _ _, [x, y] => sumSpecial f down x y
  | .fsub _ _ _ _ _, [x, y] | .fsub2 _ _ _ _ _, [x, y] => sumSpecial f down x y.neg
  | .fmul _ _ _ _ _, [x, y] | .fmul2 _ _ _ _ _, [x, y] => productSpecial f x y
  | .fma _ _ _ _ _ _, [x, y, z] | .fma2 _ _ _ _ _ _, [x, y, z] => fusedSpecial f down x y z
  | _, _ => none

/-- A sum of two values with one rounding and FTZ (R94, R282). -/
def SumGives (f : Fmt) (r : Rnd) (ftz : Bool) (x y : FV) (b : Nat) : Prop :=
  match x, y with
  | .nan n fr, _ => b = nanBits f n fr
  | _, .nan n fr => b = nanBits f n fr
  | x, y => match sumSpecial f (r == .rd) x y with
    | some z => b = z
    | none => ∃ p q c, x.rat = some p ∧ y.rat = some q ∧ RoundsTo f r ((p + q : ℚ) : ℝ) c ∧ b = flush f ftz c

/-- The smaller or the larger of two encodings as it stands, −0 below +0; the other source where one is a NaN (R283). -/
def PickGives (f : Fmt) (larger : Bool) (x y b : Nat) : Prop :=
  match FV.dec f x, FV.dec f y with
  | .nan n fr, .nan _ _ => b = nanBits f n fr
  | .nan _ _, _ => b = y
  | _, .nan _ _ => b = x
  | u, v => (b = x ∨ b = y)
    ∧ (∀ w ∈ [u, v], FRel (if larger then .ge else .le) (FV.dec f b).num w.num)
    ∧ ((u = .zero true ∨ v = .zero true) → larger = false → (FV.dec f b).num = (FV.zero true).num → FV.dec f b = .zero true)
    ∧ ((u = .zero false ∨ v = .zero false) → larger = true → (FV.dec f b).num = (FV.zero true).num → FV.dec f b = .zero false)

/-! ### The functions of R285 -/

/-- The functions of R285 that round. -/
inductive Fn where | rcp | sqrt | rsqrt | exp2 | log2 | div
deriving DecidableEq, Repr

/-- The instructions of R285 that round: type, destination, sources and function. -/
def functionSpec : Instr → Option (Hd × Ty × Opnd × List Opnd × Fn)
  | .frcp h ty d a => some (h, ty, d, [a], .rcp)
  | .fsqrt h ty d a => some (h, ty, d, [a], .sqrt)
  | .frsqrt h ty d a => some (h, ty, d, [a], .rsqrt)
  | .fexp2 h ty d a => some (h, ty, d, [a], .exp2)
  | .flog2 h ty d a => some (h, ty, d, [a], .log2)
  | .fdiv h ty d a b => some (h, ty, d, [a, b], .div)
  | _ => none

/-- The tables of R286: a result that is no rounded real. -/
def Fn.special (f : Fmt) (k : Fn) (xs : List FV) : Option Nat :=
  match k, xs with
  | .rcp, [.zero n] => some (infBits f n)
  | .rcp, [.inf n] => some (signBit f n)
  | .sqrt, [.zero n] => some (signBit f n)
  | .rsqrt, [.zero n] => some (infBits f n)
  | .sqrt, [.inf false] => some (infBits f false)
  | .rsqrt, [.inf false] => some (signBit f false)
  | .sqrt, [.inf true] | .sqrt, [.fin true _ _] | .rsqrt, [.inf true] | .rsqrt, [.fin true _ _] => some (defaultNan f)
  | .exp2, [.inf n] => some (if n then signBit f false else infBits f false)
  | .log2, [.zero _] => some (infBits f true)
  | .log2, [.inf false] => some (infBits f false)
  | .log2, [.inf true] | .log2, [.fin true _ _] => some (defaultNan f)
  | .log2, [.fin false m e] => if (m : ℚ) * 2 ^ e = 1 then some (signBit f false) else none
  | .div, [.zero _, .zero _] | .div, [.inf _, .inf _] => some (defaultNan f)
  | .div, [.fin n _ _, .zero k] | .div, [.inf n, .zero k] | .div, [.inf n, .fin k _ _] => some (infBits f (n != k))
  | .div, [.zero n, .fin k _ _] | .div, [.zero n, .inf k] | .div, [.fin n _ _, .inf k] => some (signBit f (n != k))
  | _, _ => none

/-- The exact result on rational sources (R285). -/
noncomputable def Fn.real (k : Fn) (xs : List ℚ) : ℝ :=
  let a : ℝ := ((xs.getD 0 0 : ℚ) : ℝ)
  match k with
  | .rcp => 1 / a
  | .sqrt => Real.sqrt a
  | .rsqrt => 1 / Real.sqrt a
  | .exp2 => (2 : ℝ) ^ a
  | .log2 => Real.logb 2 a
  | .div => a / ((xs.getD 1 0 : ℚ) : ℝ)

/-- The class of a value (R287). -/
def FV.cls (f : Fmt) : FV → Nat
  | .inf n => if n then 0 else 7
  | .zero n => if n then 3 else 4
  | .nan _ fr => if 2 ^ 51 ≤ fr then 9 else 8
  | .fin n m e => if (m : ℚ) * 2 ^ e < 2 ^ f.emin then (if n then 2 else 5) else (if n then 1 else 6)

/-! ### Conversion (R96, R98, R99, R292) -/

/-- What a conversion reads: a NaN, an infinity, a zero with its sign, another rational, or an integer. -/
inductive Val where
  | nan (neg : Bool) (frac : Nat)
  | inf (neg : Bool)
  | zero (neg : Bool)
  | real (q : ℚ)
  | int (v : Int)

/-- A decoded float as what a conversion reads. -/
def FV.val : FV → Val
  | .nan n fr => .nan n fr
  | .inf n => .inf n
  | .zero n => .zero n
  | .fin n m e => .real ((if n then -1 else 1) * (m : ℚ) * 2 ^ e)

/-- ABSA, then NEGA, on the sign of a value (R277, R292). -/
def Val.mods (ab ng : Bool) : Val → Val
  | .nan n fr => .nan ((n && !ab) != ng) fr
  | .inf n => .inf ((n && !ab) != ng)
  | .zero n => .zero ((n && !ab) != ng)
  | .real q => .real ((if ng then -1 else 1) * if ab then |q| else q)
  | .int v => .int v

/-- The value S × (b / 255) × (Q(c) / 127) of a QN4 element (R98, R99). -/
def q4Val (c : Nat) (s : FV) (b : Nat) : Val :=
  let q : Int := [-127, -90, -69, -53, -39, -27, -16, -5, 5, 16, 27, 39, 53, 69, 90, 127].getD c 0
  match s with
  | .nan n fr => .nan n fr
  | .inf n => if b = 0 then .nan false (2 ^ 51) else .inf (n != decide (q < 0))
  | .zero n => .zero (n != decide (q < 0))
  | .fin n m e => if b = 0 then .zero (n != decide (q < 0))
    else .real ((if n then -1 else 1) * (m : ℚ) * 2 ^ e * (b / 255) * (q / 127))

/-- The integer that a float becomes: rounded by the mode and saturated to the range of the type (R96). -/
def IntOf (ty : Ty) (r : Rnd) (scale : Int) (x : Val) (z : Int) : Prop :=
  match x with
  | .nan _ _ | .zero _ => z = 0
  | .inf n => z = if n then intMin ty.signed ty.ew else intMax ty.signed ty.ew
  | .real q => ∃ y, RoundsInt r (q * 2 ^ scale) y ∧ z = max (intMin ty.signed ty.ew) (min (intMax ty.signed ty.ew) y)
  | .int v => z = v

/-- One element converted to a type (R96, R292). -/
def ConvertsTo (ty : Ty) (c : Ctl) (x : Val) (b : Nat) : Prop :=
  match ty.fmt? with
  | some f => (match x with
    | .nan n fr => b = limited f c (nanBits f n fr)
    | .inf n => b = limited f c (infBits f n)
    | .zero n => b = limited f c (signBit f n)
    | .real q => Leaves f c (RoundsTo f c.rnd) (q : ℝ) b
    | .int v => if v = 0 then b = limited f c (signBit f false) else Leaves f c (RoundsTo f c.rnd) (v : ℝ) b)
  | none => (match x with
    | .int v => b = fitInt ty.signed ty.ew c.sat v
    | x => ∃ z, IntOf ty c.rnd c.scale x z ∧ b = wrapTo ty.ew z)

/-- An element of a source of `cvt` (R292): a float after DAZ, ABSA and NEGA, an integer, or a QN4 value after ABSA and NEGA. -/
def cvtSrc (h : Hd) (c : Ctl) (src : Ty) (s b raw : Nat) : Val :=
  match src.fmt? with
  | some f => (FV.dec f (modA h f c raw)).val
  | none => if src = .q4 then (q4Val raw (FV.dec .f32 (srcMods .f32 c.daz false false s)) (b % 256)).mods (Hd.mods h).absA (Hd.mods h).negA
    else .int (intOf src.signed src.ew raw)

/-! ### Narrowing with error feedback (R100, R101) -/

/-- One step of a block: from the residual e and the element x, the element y and the residual after it. For a QN4 target, s is
S after DAZ and b the block scale. -/
def EfStep (ty : Ty) (daz ftz : Bool) (s : FV) (b e x y e' : Nat) : Prop :=
  let read := fun v => FV.dec .f32 (srcMods .f32 daz false false v)
  ∃ t, SumGives .f32 .rne ftz (read x) (read e) t ∧
    match ty.fmt? with
    | some f => ConvertsTo ty plainCtl (FV.dec .f32 t).val y
      ∧ (let kept := ∃ p q z, (FV.dec .f32 t).rat = some p ∧ (FV.dec f y).rat = some q ∧ (FV.dec f (maxFinite f)).rat = some z ∧ |p| ≤ z
        (kept → SumGives .f32 .rne ftz (FV.dec .f32 t) (FV.dec f y).neg e') ∧ (¬ kept → e' = 0))
    | none =>
      let level := fun c : Nat => ((([-127, -90, -69, -53, -39, -27, -16, -5, 5, 16, 27, 39, 53, 69, 90, 127] : List Int).getD c 0 : Int) : ℚ)
      match s, FV.dec .f32 t with
      | .fin n p d, x => if b = 0 then y = 8 ∧ e' = (if x.rat = none then 0 else t) else
        (match x with
        | .nan _ _ => y = 8 ∧ e' = 0
        | .inf k => y = (if n = k then 15 else 0) ∧ e' = 0
        | x => ∃ v neg, x.rat = some v ∧ (neg = true ↔ v < 0 ∨ x = .zero true) ∧
          let sb : ℚ := (if n then -1 else 1) * (p : ℚ) * 2 ^ d * b
          let q := v * 127 * 255 / sb
          (127 < q → y = 15 ∧ e' = 0) ∧ (q < -127 → y = 0 ∧ e' = 0)
            ∧ (|q| ≤ 127 → y < 16 ∧ (∀ c < 16, |level y - q| ≤ |level c - q| ∧ (|level y - q| = |level c - q| → |level y| ≤ |level c|))
              ∧ (q = 0 → (level y < 0 ↔ n ≠ neg))
              ∧ ∃ w, RoundsTo .f32 .rne ((sb / 255 * (level y / 127) : ℚ) : ℝ) w
                ∧ SumGives .f32 .rne ftz (FV.dec .f32 t) (FV.dec .f32 w).neg e'))
      | _, x => y = 8 ∧ e' = (if x.rat = none then 0 else t)

/-- The elements of a block in order, the residual e at its start. -/
def EfBlock (step : Nat → Nat → Nat → Nat → Prop) : Nat → List Nat → List Nat → Prop
  | _, [], [] => True
  | e, x :: xs, y :: ys => ∃ e', step e x y e' ∧ EfBlock step e' xs ys
  | _, _, _ => False

/-! ### Reductions and scans of floats (R97, R269, R270) -/

/-- The fixed tree over 2^k positions: a position that holds nothing passes its partner up. -/
def TreeGives (comb : Nat → Nat → Nat → Prop) : Nat → (Nat → Option Nat) → Option Nat → Prop
  | 0, f, r => r = f 0
  | k + 1, f, r => ∃ a b, TreeGives comb k f a ∧ TreeGives comb k (fun i => f (i + 2 ^ k)) b
      ∧ match a, b with
        | some x, some y => ∃ z, comb x y z ∧ r = some z
        | some x, none => r = some x
        | none, y => r = y

/-- A scan of values, the last first: each step combines, and every prefix leaves as a result. -/
def ScanGives (comb : Nat → Nat → Nat → Prop) (out : Nat → Nat) (first : Nat → Nat) : List Nat → Nat → Prop
  | [], _ => False
  | [x], r => r = first x
  | x :: xs, r => ∃ s z, ScanGives comb out first xs s ∧ comb s x z ∧ r = out z

/-- A value that leaves a reduction or a scan: a NaN quietened, another flushed under FTZ (R97). -/
def leaving (f : Fmt) (ftz : Bool) (v : Nat) : Nat :=
  match FV.dec f v with
  | .nan n fr => nanBits f n fr
  | _ => flush f ftz v

/-! ### Memory as a group sees it -/

/-- The byte of a location within its space. -/
def Loc.off : Loc → Nat
  | .glob va => va
  | .sp _ o _ => o

/-- A word that a team's core reads at once: a scratchpad word that no unfenced store by the other path left open (R134), or a
global word that the core's L1 holds with read permission (R115). -/
def Seen (m : Mach) (t : Team) (l : Loc) (w : Word) : Prop :=
  match l with
  | .sp tid o cl => ∃ u, m.team? tid = some u ∧ u.aliases.find? (fun a => a.o == o - o % 4 && a.cluster == cl) = none
      ∧ w = spWord u (o - o % 4)
  | .glob va => ∃ e, l1Find (m.core t.core) t.ctx (va - va % 4) = some e ∧ permit e.attr t.level .load = .ok () ∧ w = e.val

/-- The value that such an access of `size` bytes reads, little-endian (R12, R160). -/
def Reads (m : Mach) (t : Team) (l : Loc) (stack : Bool) (size : Nat) (v : DWord) : Prop :=
  if size = 8 then ∃ lo hi, Seen m t l lo ∧ Seen m t (l.next stack) hi ∧ v = hi ++ lo
  else ∃ w, Seen m t l w ∧ v = BitVec.ofNat 64 (w.toNat / 2 ^ (8 * (l.off % 4)) % 2 ^ (8 * size))

/-- The byte that stores of the lanes, in order, leave at byte o of a scratchpad; none where none stores. -/
def storedByte (lanes : List Nat) (loc : Nat → Except Cause Loc) (size : Nat → Nat) (v : Nat → DWord) (tid o : Nat) :
    Option Byte :=
  lanes.foldl (fun b l => match loc l with
    | .ok (.sp u p _) => if u = tid ∧ p ≤ o ∧ o < p + size l then some ((v l).extractLsb' (8 * (o - p)) 8) else b
    | _ => b) none

/-- The byte that stores of the lanes, in order, leave at a global address; none where none stores. -/
def storedGlobal (lanes : List Nat) (loc : Nat → Except Cause Loc) (size : Nat → Nat) (v : Nat → DWord) (va : Nat) : Option Byte :=
  lanes.foldl (fun b l => match loc l with
    | .ok (.glob p) => if p ≤ va ∧ va < p + size l then some ((v l).extractLsb' (8 * (va - p)) 8) else b
    | _ => b) none

/-- Scratchpad bytes: every team holds those it held, but for the bytes that f gives. -/
def ScratchAfter (s s' : State) (f : Nat → Nat → Option Byte) : Prop :=
  ∀ tid u, s.m.team? tid = some u → ∃ u', s'.m.team? tid = some u'
    ∧ ∀ o, Memory.get u'.scratch o = (f tid o).getD (Memory.get u.scratch o)

/-- Every scratchpad is in canonical form. -/
def ScratchWf (s : State) : Prop := ∀ u ∈ s.m.teams, Memory.wf u.scratch = true

/-- The core's L1 holds a global word with the permissions that loads and stores need (R114, R115). -/
def Owns (m : Mach) (t : Team) (va : Nat) : Prop :=
  ∃ e, l1Find (m.core t.core) t.ctx (va - va % 4) = some e ∧ permit e.attr t.level .load = .ok () ∧ e.attr.w = true
    ∧ e.attr.q = false ∧ e.attr.pt = false

/-- Atomics and reductions (R306, R307): type, destination, operation, address, operand, compare value, order and scope. -/
def atomSpec : Instr → Option (Hd × Ty × Option Opnd × AOp × Opnd × Opnd × Option Opnd × Bool × MScope)
  | .atmAdd h ty d a b ord sc => some (h, ty, some d, .add, a, b, none, ord, sc)
  | .atmSub h ty d a b ord sc => some (h, ty, some d, .sub, a, b, none, ord, sc)
  | .atmMin h ty d a b ord sc => some (h, ty, some d, .min, a, b, none, ord, sc)
  | .atmMax h ty d a b ord sc => some (h, ty, some d, .max, a, b, none, ord, sc)
  | .atmAnd h ty d a b ord sc => some (h, ty, some d, .and, a, b, none, ord, sc)
  | .atmOr h ty d a b ord sc => some (h, ty, some d, .or, a, b, none, ord, sc)
  | .atmXor h ty d a b ord sc => some (h, ty, some d, .xor, a, b, none, ord, sc)
  | .atmExch h ty d a b ord sc => some (h, ty, some d, .exch, a, b, none, ord, sc)
  | .atmCas h ty d a b c ord sc => some (h, ty, some d, .cas, a, b, some c, ord, sc)
  | .atmInc h ty d a b ord sc => some (h, ty, some d, .inc, a, b, none, ord, sc)
  | .atmDec h ty d a b ord sc => some (h, ty, some d, .dec, a, b, none, ord, sc)
  | .atmFadd h ty d a b ord sc => some (h, ty, some d, .fadd, a, b, none, ord, sc)
  | .redAdd h ty a b ord sc => some (h, ty, none, .add, a, b, none, ord, sc)
  | .redSub h ty a b ord sc => some (h, ty, none, .sub, a, b, none, ord, sc)
  | .redMin h ty a b ord sc => some (h, ty, none, .min, a, b, none, ord, sc)
  | .redMax h ty a b ord sc => some (h, ty, none, .max, a, b, none, ord, sc)
  | .redAnd h ty a b ord sc => some (h, ty, none, .and, a, b, none, ord, sc)
  | .redOr h ty a b ord sc => some (h, ty, none, .or, a, b, none, ord, sc)
  | .redXor h ty a b ord sc => some (h, ty, none, .xor, a, b, none, ord, sc)
  | .redInc h ty a b ord sc => some (h, ty, none, .inc, a, b, none, ord, sc)
  | .redDec h ty a b ord sc => some (h, ty, none, .dec, a, b, none, ord, sc)
  | .redFadd h ty a b ord sc => some (h, ty, none, .fadd, a, b, none, ord, sc)
  | _ => none

/-- Generic atomics (R320). -/
def gatmSpec : Instr → Option (Hd × Opnd × Opnd × Opnd × AOp × Bool × MScope)
  | .gatmAdd h d a b _ ord sc => some (h, d, a, b, .add, ord, sc)
  | .gatmSub h d a b _ ord sc => some (h, d, a, b, .sub, ord, sc)
  | .gatmMin h d a b _ ord sc => some (h, d, a, b, .min, ord, sc)
  | .gatmMax h d a b _ ord sc => some (h, d, a, b, .max, ord, sc)
  | .gatmAnd h d a b _ ord sc => some (h, d, a, b, .and, ord, sc)
  | .gatmOr h d a b _ ord sc => some (h, d, a, b, .or, ord, sc)
  | .gatmXor h d a b _ ord sc => some (h, d, a, b, .xor, ord, sc)
  | .gatmExch h d a b _ ord sc => some (h, d, a, b, .exch, ord, sc)
  | _ => none

/-- Generic arithmetic (R321): the sources in order and the exact result on integers. -/
def genericSpec : Instr → Option (Hd × Opnd × List Opnd × (List Int → Int))
  | .gadd h d a b _ => some (h, d, [a, b], fun x => x.getD 0 0 + x.getD 1 0)
  | .gsub h d a b _ => some (h, d, [a, b], fun x => x.getD 0 0 - x.getD 1 0)
  | .gmul h d a b _ => some (h, d, [a, b], fun x => x.getD 0 0 * x.getD 1 0)
  | .gfma h d a b _ => some (h, d, [a, b, d], fun x => x.getD 0 0 * x.getD 1 0 + x.getD 2 0)
  | .gmin h d a b _ => some (h, d, [a, b], fun x => min (x.getD 0 0) (x.getD 1 0))
  | .gmax h d a b _ => some (h, d, [a, b], fun x => max (x.getD 0 0) (x.getD 1 0))
  | _ => none

/-- The common format (R193): the one tag, or the first row of the table that applies to differing tags. -/
def CommonTag (ts : List (BitVec 4)) (cf : BitVec 4) : Prop :=
  let wide := (5 : BitVec 4) ∈ ts ∨ (6 : BitVec 4) ∈ ts
  let float := ∃ t ∈ ts, t ∈ ([3, 4, 7, 8, 11, 12] : List (BitVec 4))
  let signed := ∃ t ∈ ts, t ∈ ([1, 5, 9, 13] : List (BitVec 4))
  (∀ t ∈ ts, t = cf) ∨ (¬ (∃ u, ∀ t ∈ ts, t = u)
    ∧ (((4 : BitVec 4) ∈ ts ∨ (wide ∧ float)) → cf = 4)
    ∧ ((4 : BitVec 4) ∉ ts → ¬ wide → float → cf = 3)
    ∧ (wide → ¬ float → (signed → cf = 5) ∧ (¬ signed → cf = 6))
    ∧ (¬ wide → ¬ float → (signed → cf = 1) ∧ (¬ signed → cf = 2)))

/-- Element k of a tagged source as an integer of the common format (R193): an unsigned value wraps into a signed format. B32 is
read as N32. -/
def commonInt (cf tag : BitVec 4) (k : Nat) (v : DWord) : Int :=
  let ty := calcTy tag
  intOf (calcTy cf).signed (calcTy cf).ew (wrapTo (calcTy cf).ew (intOf ty.signed ty.ew (elem ty.ew k v)))

/-- Element k of a tagged source in the common float format (R193): exact, but that a 64-bit integer is rounded to F64; a
subnormal reads as zero under DAZ (R93). -/
def CommonVal (daz : Bool) (tag : BitVec 4) (k : Nat) (v : DWord) (x : FV) : Prop :=
  let ty := calcTy tag
  let e := elem ty.ew k v
  let i := intOf ty.signed ty.ew e
  match ty.fmt? with
  | some f => x = FV.dec f (srcMods f daz false false e)
  | none => if ty.wide then ∃ b, ConvertsTo .f64 plainCtl (.int i) b ∧ x = FV.dec .f64 b
    else x = if i = 0 then .zero false else .fin (decide (i < 0)) i.natAbs 0

/-- What leaves an operation whose exact result is special or a rational (R92, R93). -/
def RealGives (f : Fmt) (c : Ctl) (special : Option Nat) (q : Option ℚ) (b : Nat) : Prop :=
  match special, q with
  | some z, _ => b = z
  | none, some q => Leaves f c (RoundsTo f c.rnd) (q : ℝ) b
  | none, none => False

/-- The minimum or the maximum of two exact values, −0 below +0, rounded; the other source where one is a NaN (R283, R321). -/
def PickVal (f : Fmt) (c : Ctl) (larger : Bool) (x y : FV) (b : Nat) : Prop :=
  let leaves := fun (w : FV) => match w with
    | .nan n fr => b = nanBits f n fr
    | .inf n => b = infBits f n
    | .zero n => b = signBit f n
    | w => RealGives f c none w.rat b
  match x, y with
  | .nan n fr, .nan _ _ => b = nanBits f n fr
  | .nan _ _, w | w, .nan _ _ => leaves w
  | x, y => ∃ w ∈ [x, y], leaves w ∧ (∀ v ∈ [x, y], FRel (if larger then .ge else .le) w.num v.num)
    ∧ (w.num = (FV.zero true).num → FV.zero (!larger) ∈ [x, y] → w = .zero (!larger))

/-- A generic result on values of a common float format: the first NaN source (R94), what R282 gives, or the exact result
rounded once, with FTZ; a minimum or a maximum as R283 gives (R193, R321). -/
def GenericGives (i : Instr) (f : Fmt) (c : Ctl) (xs : List FV) (b : Nat) : Prop :=
  let nan := (xs.find? (fun x => x.num.isNone)).map (fun x => match x with
    | .nan n fr => nanBits f n fr
    | _ => 0)
  let sum := fun (x y : FV) => x.rat.bind (fun p => y.rat.map (fun q => p + q))
  let mul := fun (x y : FV) => x.rat.bind (fun p => y.rat.map (fun q => p * q))
  match i, xs with
  | .gadd _ _ _ _ _, [x, y] => RealGives f c (nan <|> sumSpecial f false x y) (sum x y) b
  | .gsub _ _ _ _ _, [x, y] => RealGives f c (nan <|> sumSpecial f false x y.neg) (sum x y.neg) b
  | .gmul _ _ _ _ _, [x, y] => RealGives f c (nan <|> productSpecial f x y) (mul x y) b
  | .gfma _ _ _ _ _, [x, y, z] => RealGives f c (nan <|> fusedSpecial f false x y z)
      ((mul x y).bind (fun p => z.rat.map (fun q => p + q))) b
  | .gmin _ _ _ _ _, [x, y] => PickVal f c false x y b
  | .gmax _ _ _ _ _, [x, y] => PickVal f c true x y b
  | _, _ => False

/-- A compare of integers (R261). -/
def irel (c : Cond) (x y : Int) : Prop :=
  match c with
  | .eq => x = y
  | .ne => x ≠ y
  | .lt => x < y
  | .le => x ≤ y
  | .gt => y < x
  | .ge => y ≤ x

/-- A condition as one of R284. -/
def floatCond : Cond → FCond
  | .eq => .eq
  | .ne => .ne
  | .lt => .lt
  | .le => .le
  | .gt => .gt
  | .ge => .ge

/-- A generic access of a lane at address a meets an element of format f that lies at loc, aligned and not watched: the format
of the team's scratchpads, or of the page as the line in the core's L1 knows it (R191, R316). -/
def GenericLane (s : State) (t : Team) (g : Group) (l : Nat) (w : Made) (a : DWord) (f : BitVec 4) (loc : Loc) : Prop :=
  let n := (tyOfTag f).bytes
  f ≠ 15 ∧ a.toNat % n = 0 ∧ watchHit s.fw s.m t.ctx w a n = false ∧ steer s.m t g l a n = .ok loc
    ∧ ∃ p, steer s.m t g l a 1 = .ok p ∧ match p with
      | .sp _ _ _ => t.spfmt = f
      | .glob va => ∃ e, l1Find (s.m.core t.core) t.ctx (va - va % 4) = some e ∧ e.attr.efmt = f

/-- A loaded element in its result register (R192): one of 32 or 64 bits as it stands, a smaller float as the binary32 of its
value, a smaller integer extended; with lanes of several formats, every one converted to binary32, under the context's FPC (the
model's reading, log entry 59). -/
def LoadedAs (fpc : BitVec 2) (same : Bool) (f : BitVec 4) (raw v : DWord) : Prop :=
  let ty := calcTy f
  let e := elem ty.ew 0 raw
  let f32 := fun (c : Ctl) => ∃ b, ConvertsTo .f32 c (cvtSrc plainHd c ty 0 0 e) b ∧ v = BitVec.ofNat 64 b
  if same = false then f32 (ctlOf plainHd fpc)
  else if 32 ≤ ty.ew then v = raw
  else if ty.fmt?.isSome then f32 plainCtl
  else v = BitVec.ofNat 64 (wrapTo 32 (intOf ty.signed ty.ew e))

/-- A tagged source as an element of format f (R319): its bits where f is B32, otherwise its value rounded, saturated at an
integer format. -/
def StoredAs (c : Ctl) (tag f : BitVec 4) (x v : DWord) : Prop :=
  let src := calcTy tag
  let e := elem src.ew 0 x
  if f = 0 then v = BitVec.ofNat 64 (e % 2 ^ 32)
  else ∃ b, ConvertsTo (tyOfTag f) { c with sat := (tyOfTag f).fmt?.isNone } (cvtSrc plainHd c src 0 0 e) b ∧ v = BitVec.ofNat 64 b

/-- The new value of a generic atomic on an element of format f (R320): sums of floats keep subnormals, minimum and maximum are
those of R283 under the context's FPC (log entry 59). -/
def GenericAtomic (fpc : BitVec 2) (op : AOp) (f : BitVec 4) (old b v : Nat) : Prop :=
  let c := ctlOf plainHd fpc
  let read := fun (ff : Fmt) (x : Nat) => srcMods ff c.daz false false x
  match (calcTy f).fmt?, op with
  | some ff, .add => SumGives ff .rne false (FV.dec ff old) (FV.dec ff b) v
  | some ff, .sub => SumGives ff .rne false (FV.dec ff old) (FV.dec ff b).neg v
  | some ff, .min => ∃ y, PickGives ff false (read ff old) (read ff b) y ∧ v = flush ff c.ftz y
  | some ff, .max => ∃ y, PickGives ff true (read ff old) (read ff b) y ∧ v = flush ff c.ftz y
  | _, op => atomNew op (calcTy f) old b 0 = some v

/-! ### Work, waits and events -/

/-- An instruction of group r completes and enters one piece of work into the group's open batch (R137); P tells more of the
state after it. -/
def Enters (i : Instr) (h : Hd) (s : State) (r : GRef) (t : Team) (g : Group) (k : WorkKind) (P : State → Prop) : Prop :=
  ∃ s' t' g', exec i s = .next s' ∧ Completed s s' r [] (nextPc g.pc h) ∧ SameFlow s s' r ∧ OthersKept s s' r
    ∧ s'.m.team? r.tid = some t' ∧ t'.works = t.works ++ [{ wid := s.m.nextWid, gno := g.gno, kind := k, st := .run }]
    ∧ s'.m.group? r = some g' ∧ g'.openCnt = g.openCnt + 1 ∧ g'.openW = g.openW ++ [s.m.nextWid]
    ∧ { s'.m with teams := s.m.teams, parts := s.m.parts, nextWid := s.m.nextWid } = s.m ∧ P s'

/-- An instruction of group r completes with its registers, but for `ids`, as they were; P tells more of the group and the
state after it. -/
def Completes (i : Instr) (h : Hd) (s : State) (r : GRef) (g : Group) (ids : List RegId) (P : State → Group → Prop) : Prop :=
  ∃ s' g', exec i s = .next s' ∧ Completed s s' r ids (nextPc g.pc h) ∧ SameFlow s s' r ∧ s'.m.group? r = some g' ∧ P s' g'

/-- An instruction of group r parks it: the instruction retires when the group leaves PARKED (R24), but one that waits for a
place of an engine or of a launch queue has retired (R443). -/
def Parks (i : Instr) (h : Hd) (s : State) (r : GRef) (g : Group) (p : Park) (P : State → Prop) : Prop :=
  ∃ s' g', exec i s = .next s' ∧ s'.fw = s.fw ∧ s'.m.group? r = some g' ∧ g'.status = .parked p ∧ g'.npc = nextPc g.pc h
    ∧ g'.pc = g.pc ∧ g'.regs = g.regs ∧ g'.amask = g.amask ∧ g'.stack = g.stack ∧ g'.retired = g.retired + (if p.retired then 1 else 0) ∧ OthersKept s s' r ∧ P s'

/-- An event happens; P tells of the state after it. -/
def Goes (i : Instr) (s : State) (P : State → Prop) : Prop := ∃ s', exec i s = .next s' ∧ P s'

/-- The members of a rendezvous retire and go on at their N, with their registers as they were (R39). -/
def MembersGo (t t' : Team) (k : Option (BitVec 3)) : Prop :=
  (liveMembers t k).Nodup → ∀ n q, n ∈ liveMembers t k → t.group? n = some q → q.back = none → q.lost = [] → ∃ q', t'.group? n = some q'
    ∧ q'.pc = q.npc ∧ q'.retired = q.retired + 1 ∧ q'.regs = q.regs ∧ q'.amask = q.amask ∧ q'.stack = q.stack

/-! ### Tiles and histograms (R104 to R108, R205 to R208, R213, R214, R220) -/

/-- The histogram bin of a drained element (R107); c is the centre exponent. -/
def BinOf (ty : TTy) (c : Int) (v : Word) (b : Nat) : Prop :=
  let at' := fun (e : Int) => (b : Int) = min 30 (max 1 (e - c + 15))
  match ty with
  | .f32 => (match FV.dec .f32 v.toNat with
    | .nan _ _ | .inf _ => b = 31
    | .zero _ => b = 0
    | .fin _ m e =>
      let x : ℚ := m * 2 ^ e
      (x < 2 ^ (-126 : Int) → b = 0) ∧ (2 ^ (-126 : Int) ≤ x → ∃ k : Int, 2 ^ k ≤ x ∧ x < 2 ^ (k + 1) ∧ at' k))
  | .i32 | .i32s => (v = 0 → b = 0) ∧ (v ≠ 0 → ∃ k : Nat, 2 ^ k ≤ v.toInt.natAbs ∧ v.toInt.natAbs < 2 ^ (k + 1) ∧ at' k)

/-- A histogram counted the elements: a counter stops at its largest value, and the sticky flag tells that one was reached (R108). -/
def Counts (ty : TTy) (vs : List Word) (q q' : Hist) : Prop :=
  ∃ bin : Word → Nat, (∀ v, BinOf ty q.centre.toInt v (bin v)) ∧
    let n := fun (j : Nat) => (q.ctr.getD j 0).toNat + (vs.filter (fun v => bin v == j)).length
    q'.centre = q.centre ∧ (∀ j, j < 32 → q'.ctr[j]? = some (BitVec.ofNat 32 (min (n j) (2 ^ 32 - 1))))
      ∧ (q'.ovf = true ↔ q.ovf = true ∨ ∃ j, j < 32 ∧ 2 ^ 32 ≤ n j)

/-- The scratchpad of a team is as it was when a loop or SACC took its picture of it; a team that is gone changes nothing. -/
def Steady (m : Mach) (tid : Nat) (snap : List Host.Cell) : Prop := ∀ u, m.team? tid = some u → u.scratch = snap

/-- Entry k of unit i of an operand's record, from its bit planes (R205 to R208): bit k of the word of each plane. -/
def planeVal (rd : Nat → Word) (f : OFmt) (base units i k : Nat) : Int :=
  let p := fun (b : Nat) => if (rd (base + 4 * (units * b + i))).getLsbD k then (2 : Int) ^ b else 0
  let low := fun (n : Nat) => ((List.range n).map p).sum
  match f.kind with
  | .q4 => qLevel (low f.w).toNat
  | .uint => low f.w
  | .sint | .flt _ => if f.w = 0 then 0 else low (f.w - 1) - p (f.w - 1)

/-- A(i, 32j + k) of a loop, and the exponent of row i's scale: a constant under GEN (R214). -/
def loopRow (rd : Nat → Word) (l : Loop) (j i k : Nat) : Int :=
  let s := Shape.of l.ha
  let idx := ((rd (s.sdst + 2 * i - (s.sdst + 2 * i) % 4)).extractLsb' (8 * ((s.sdst + 2 * i) % 4)) 16).toNat
  if l.gen = 1 then (if i = 32 * j + k then 1 else 0)
  else if l.gen = 2 then (if idx = 32 * j + k then 1 else 0)
  else ((s.opFmt false).map (fun f => planeVal rd f (s.sdst + j * l.ainc) 96 i k)).getD 0
def loopRowExp (rd : Nat → Word) (l : Loop) (j i : Nat) : Option Int :=
  let s := Shape.of l.ha
  if l.gen = 1 ∨ l.gen = 2 then some 0 else match s.opFmt false with
    | some f => recExp rd f (s.sdst + j * l.ainc) 96 i
    | none => some 0

/-- B(32j + k, c) of a loop, and the exponent of column c's scale. -/
def loopCol (rd : Nat → Word) (l : Loop) (j c k : Nat) : Int :=
  let s := Shape.of l.hb
  if l.gen = 3 then 1
  else ((s.opFmt true).map (fun f => planeVal rd f (s.sdst + j * l.binc) (recUnits true (s.dimAt 1)) c k)).getD 0
def loopColExp (rd : Nat → Word) (l : Loop) (j c : Nat) : Option Int :=
  let s := Shape.of l.hb
  if l.gen = 3 then some 0 else match s.opFmt true with
    | some f => recExp rd f (s.sdst + j * l.binc) (recUnits true (s.dimAt 1)) c
    | none => some 0

/-- One segment's exact sum is added to an element (R104 to R106, R213): an F32 tile rounds the scaled sum and then the addition, and
takes the default NaN from a segment that holds an infinity or a NaN; an INT32 tile wraps or saturates. -/
def AccGives (ty : TTy) (sum : Int) (ea eb : Option Int) (v v' : Word) : Prop :=
  match ty, ea, eb with
  | .i32, _, _ => v' = BitVec.ofInt 32 (v.toInt + sum)
  | .i32s, _, _ => v'.toInt = min (2 ^ 31 - 1) (max (-2 ^ 31) (v.toInt + sum))
  | .f32, some a, some b => ∃ x, (sum = 0 → x = 0) ∧ (sum ≠ 0 → RoundsTo .f32 .rne ((sum : ℝ) * (2 : ℝ) ^ (a + b)) x)
      ∧ SumGives .f32 .rne false (FV.dec .f32 v.toNat) (FV.dec .f32 x) v'.toNat
  | .f32, _, _ => v' = 0x7FC00000

/-- Element (i, c) through n K-steps of a loop from step j on (R213); ra and rb give the words of the operands' scratchpads. -/
def LoopGives (ty : TTy) (l : Loop) (ra rb : Nat → Word) (i c : Nat) : Nat → Nat → Word → Word → Prop
  | 0, _, v, v' => v' = v
  | n + 1, j, v, v' => ∃ w, LoopGives ty l ra rb i c n (j + 1) w v'
      ∧ AccGives ty ((List.range 32).map (fun k => loopRow ra l j i k * loopCol rb l j c k)).sum (loopRowExp ra l j i) (loopColExp rb l j c) v w

/-- What SACC adds: the exact product of an integer and two F32 scales, rounded once (R94, R220, R282). -/
def TermGives (src rs cs : Word) (b : Nat) : Prop :=
  let x := FV.dec .f32 rs.toNat
  let y := FV.dec .f32 cs.toNat
  let neg := (src.msb != rs.msb) != cs.msb
  let inf := fun (v : FV) => match v with
    | .inf _ => true
    | _ => false
  match x, y with
  | .nan n fr, _ | _, .nan n fr => b = nanBits .f32 n fr
  | x, y =>
    if inf x || inf y then b = (if src = 0 ∨ x.rat = some 0 ∨ y.rat = some 0 then defaultNan .f32 else infBits .f32 neg)
    else ∃ p q, x.rat = some p ∧ y.rat = some q ∧ if src = 0 ∨ p = 0 ∨ q = 0 then b = signBit .f32 neg
      else RoundsTo .f32 .rne (((src.toInt : ℚ) * p * q : ℚ) : ℝ) b

/-! ### What every step keeps of the machine -/

/-- A team is sound: its scratchpad is in canonical form, no two of its groups have one number, and all that its rendezvous
and groups hold to execute is a program instruction. -/
structure TeamInv (t : Team) : Prop where
  scratch : Memory.wf t.scratch = true
  groups : (t.groups.map (fun g => g.gno)).Nodup
  rdvs : ∀ v ∈ t.rdvs, v.i.parts.isSome = true
  redo : ∀ g ∈ t.groups, ∀ d, g.redo = some d → d.i.parts.isSome = true
  lost : ∀ g ∈ t.groups, ∀ x ∈ g.lost, x.i.parts.isSome = true
  reqs : ∀ g ∈ t.groups, ∀ x ∈ g.reqs, x.i.parts.isSome = true

/-- The machine is sound: memory and every tile are in canonical form, every team is sound, resident or saved, and what a
pending record has reissued is a program instruction. -/
structure MachInv (m : Mach) : Prop where
  mem : Memory.wf m.mem = true
  teams : ∀ t ∈ m.teams, TeamInv t
  tiles : ∀ c ∈ m.cores, ∀ k ∈ c.tiles, Sparse.wfFrom 0 k.els = true
  saved : ∀ k ∈ m.ctxs, ∀ x ∈ k.image, TeamInv x.team ∧ ∀ y ∈ x.tiles, Sparse.wfFrom 0 y.els = true
  pend : ∀ k ∈ m.ctxs, ∀ p ∈ k.pend, ∀ i, p.again = some i → i.parts.isSome = true

/-! ### Special registers (R79, R81, R386, R472) -/

/-- One tile as ACCST gives it. -/
def AccstTile (x : Tile) (v : BitVec 16) : Prop :=
  v.extractLsb' 14 2 = (match x.holder with
      | .nobody => 0
      | .engine _ _ => 1
      | .group _ _ => 2)
    ∧ v.getLsbD 13 = x.inuse ∧ v.getLsbD 12 = x.dirty ∧ v.extractLsb' 10 2 = (match x.ty with
      | .f32 => 0
      | .i32 => 1
      | .i32s => 2)
    ∧ v.extractLsb' 5 5 = 0 ∧ v.extractLsb' 0 5 = (match x.holder with
      | .group _ g => BitVec.ofNat 5 g
      | _ => 0)

/-- What special register i gives a lane of group g of team t, by the tables of R81 and R386: q is the team's grid and k its
context. -/
def SpecialReg (s : State) (t : Team) (g : Group) (q : Grid) (k : Context) (i lane : Nat) (v : DWord) : Prop :=
  let n := fun (x : Nat) => BitVec.ofNat 64 x
  match i with
  | 0x00 => v = n lane
  | 0x01 => v = n (32 * g.gno + lane)
  | 0x02 => v = n g.gno
  | 0x03 => v = n t.groups.length
  | 0x04 => v = n (t.index % q.dimX)
  | 0x05 => v = n (t.index / q.dimX % q.dimY)
  | 0x06 => v = n (t.index / (q.dimX * q.dimY))
  | 0x07 => v = n q.dimX
  | 0x08 => v = n q.dimY
  | 0x09 => v = n q.dimZ
  | 0x0A => v = n t.clteam
  | 0x0B => v = n (q.clx * q.cly)
  | 0x0C => v = n (t.core % 24)
  | 0x0D => v = n (t.core / 24)
  | 0x0E => v = n g.slice
  | 0x0F => v = n t.valloc
  | 0x10 => v = n s.m.cycle
  | 0x11 => v = n (s.m.ftime / 65536)
  | 0x12 => v = n (s.m.ftime % 65536)
  | 0x13 => v = k.ctxb
  | 0x14 => v = k.qlim.setWidth 64
  | 0x15 => v = k.rvlim.setWidth 64
  | 0x16 => ∀ j : BitVec 2, AccstTile (s.m.tile t.core j) (v.extractLsb' (16 * j.toNat) 16)
  | 0x17 => v = k.fpc.setWidth 64
  | 0x18 => v.extractLsb' 0 4 = 2 ∧ v.extractLsb' 4 2 = s.fw.form ∧ v.getLsbD 6 = s.m.modt ∧ v.getLsbD 7 = false
      ∧ v.extractLsb' 8 2 = s.fw.lmode ∧ v.extractLsb' 10 6 = 0 ∧ v.extractLsb' 16 8 = BitVec.ofNat 8 s.fw.ncore.toNat
      ∧ v.extractLsb' 24 40 = 0
  | 0x19 => v = n (512 + if s.m.modt then 1024 * 2 ^ 16 else 0)
  | 0x1A => v = s.fw.links.setWidth 64
  | 0x1B => v = 0
  | 0x40 => v.extractLsb' 0 12 = k.cid ∧ v.extractLsb' 12 3 = k.part ∧ v.extractLsb' 15 49 = 0
  | 0x41 => v = k.fqbase
  | 0x42 => v = k.log2n.setWidth 64
  | 0x43 => v = k.fqhead.setWidth 64
  | 0x44 => v.extractLsb' 0 16 = k.fqtail ∧ v.extractLsb' 16 16 = k.drop ∧ v.extractLsb' 32 32 = 0
  | 0x45 => v = g.stat.setWidth 64
  | i => 0x20 ≤ i → i ≤ 0x2F → ∀ x, s.m.parts[k.part.toNat]? = some x → v = x.pcnt.getD (i - 0x20) 0

/-! ### Management space -/

/-- A Chambray block holds no value that R445 has it ignore. -/
def LegalChambray (b : Chambray) : Prop :=
  (b.sctl &&& 0xFFFFFFFFFFFFC0C0 = 0 ∧ 8 ≤ (b.sctl.extractLsb' 8 6).toNat ∧ (b.sctl.extractLsb' 8 6).toNat ≤ 24
      ∧ 10 ≤ (b.sctl.extractLsb' 0 5).toNat ∧ (b.sctl.extractLsb' 0 5).toNat ≤ 20)
    ∧ b.sbase.extractLsb' 0 12 = 0
    ∧ (b.tctl &&& 0xFFFFFFFF8000007E = 0 ∧ 8 ≤ (b.tctl.extractLsb' 7 6).toNat ∧ (b.tctl.extractLsb' 7 6).toNat ≤ 26)
    ∧ b.tbase.extractLsb' 0 12 = 0
    ∧ ∀ w ∈ b.wctl, w &&& 0xFFFFFFFF0003FFE0 = 0 ∧ 2 ≤ (w.extractLsb' 0 5).toNat

/-- The management registers hold only what R445, R462, R466, R467 and R476 let them hold. -/
def LegalFirmware (fw : Firmware) : Prop :=
  fw.lmode ≠ 3 ∧ fw.throttle < 30
    ∧ (fw.cxlctl.extractLsb' 16 48 = 0 ∧ 5 ≤ fw.cxlctl.toNat ∧ fw.cxlctl.toNat ≤ 1000)
    ∧ (fw.ftsrc.extractLsb' 6 58 = 0 ∧ fw.ftsrc.extractLsb' 0 2 ≠ 3)
    ∧ ∀ b ∈ fw.chambray, LegalChambray b

end Sys2Proof.Machine
end

