-- ==== Sys2Proof/Certificates/Slice0/Obligations.lean ====
section
/-! DEFINITION. Certificates/Slice0/Obligations.lean: what the provers are asked to prove of the device. -/
open Sys2Proof Sys2Proof.Machine

/-! ### Encoding -/

/-- Every well-formed program instruction comes back from its own words, with every field (R226 to R237, R243 to R245). -/
def Obligations.DecodeEncode : Prop := ∀ i : Instr, i.wf = true → decodeWords (encode i) = .ok i

/-- Words that the spec writes out, one or more of each family of R244 that has one, with their modifier words, decode to what they
stand for; an `add` with a C is marked as failing check 5; a major that R244 leaves unallocated is an illegal opcode whatever else
the word holds, and `br` at a scope other than GROUP is an illegal scope (checks 2, 3 and 5 of R241). -/
def Obligations.WorkedWords : Prop :=
  let at' := fun (w : Bool) (sc : Scope) (p : BitVec 3) => { w := w, scope := sc, pneg := false, pred := p, mod := none, resv := false : Hd }
  let l := at' false .lane 7
  let lw := at' true .lane 7
  let g := at' false .group 7
  let gw := at' true .group 7
  let t := at' false .team 7
  let md := fun (n : BitVec 3) (r : RMode) (x : BitVec 32) => some { setn := n, rmode := r, scale := 0, sat := false, clamp := false
                                                                     absA := false, negA := false, absB := false, negB := false
                                                                     absC := false, negC := false, ext := x : Mod }
  (∀ x ∈ ([([0x00840000000A000E], .brd (at' false .lane 1) 5 7), ([0x20DC000000000143], .callt g 5), ([0x00DC000000000001], .exit l)
      , ([0x20DC000000000002], .ret g), ([0x20DC000000000006], .nop g)
      , ([0x811C030080800100], .add lw .i32 (.v 3) (.v 1) (.v 2)), ([0xA11D0782C1800200], .add gw .n32 (.s 7) (.s 5) (.s 6))
      , ([0xA2DD040000000982], .addpc gw .n64 (.s 4) 1), ([0xA2DD048200430183], .addlo gw .n64 (.s 4) (.s 4) 0x860)
      , ([0x031C140804680904], .maxd2 l .i16 (.v 20) (.v 16) (.v 17) (.p 0)), ([0x835D04A100001306], .ballot lw .b1 (.s 4) (.p 2))
      , ([0x441E080301C00300, 0x5FD0000000000000], .fadd { at' false .set 7 with mod := md 2 .rz 0 } .f32 (.v 8) (.v 6) (.v 7))
      , ([0x841C040080806303], .fma lw .f32 (.v 4) (.v 1) (.v 2) (.v 3))
      , ([0x051E050100000703, 0x1FC0000000000001], .cvt { l with mod := md 0 .own 1 } .f16 .f32 (.v 5) (.v 2) (.v 0) (.v 0))
      , ([0x855C0A0100000C00], .cvtef lw .e5 (.v 10) (.v 2) (.v 0) (.v 0))] : List (List DWord × Instr)), decodeWords x.1 = .ok x.2)
    ∧ (∀ x ∈ ([([0x081C040100020003], .ld l .f32 (.v 4) (.v 2) 0x40 .generic false .team)
      , ([0x281D0682000000A2], .ld g .n32 (.s 6) (.s 4) 0 .generic true .die)
      , ([0x285D078000000002], .st g .n32 (.s 7) (.s 0) 0 .generic false .team)
      , ([0x08DC060158400220], .atmAdd l .n32 (.v 6) (.v 2) (.c 1) false .die)
      , ([0x0908000803800240], .redAdd (at' false .lane 2) .n32 (.v 16) (.v 14) false .dev), ([0x295C000000000042], .rel g .dev)
      , ([0x8C1C0801000FC000], .gld lw (.v 8) (.v 2) 0x7E0 0), ([0x0C5C0001018FC000], .gst l (.v 2) (.v 6) 0x7E0 0)
      , ([0x8CDC08035E8FC000], .gadd lw (.v 8) (.v 6) (.c 26) 0x7E0)] : List (List DWord × Instr)), decodeWords x.1 = .ok x.2)
    ∧ (∀ x ∈ ([([0x301C00080001C000], .stage g (.v 16) 7), ([0x305D0A85C3000000], .cpy g (.s 10) (.s 11) (.s 12))
      , ([0x30DD080000000000], .seal g (.s 8)), ([0x30DC008400000001], .waitb g (.s 8)), ([0x711C000000040062], .bulkLdBar t 1 3)
      , ([0x315C008480040000], .waitm g 1 (.s 9)), ([0x115D4203800C0001], .testm l (.p 2) 3 (.v 7))
      , ([0x31DD148180000006], .rowmate g (.s 20) (.s 3)), ([0x31DD0A8100000001], .rowfill g (.s 10) (.s 2))
      , ([0x31DD0C8500000000], .rowcpy g (.s 12) (.s 10)), ([0x31DD108644800004], .rowxor g (.s 16) (.s 12) (.s 18))
      , ([0x321C00000000106A], .barSync g 3 (some .die)), ([0x331C008A00115000], .mloop g 1 4 5 (.s 20))
      , ([0x335E000000180002, 0x1FC000000000000A], .mdrainSp { g with mod := md 0 .own 10 } 0 6)
      , ([0x335C008BD7400004], .saccR g 0 (.s 23) (.a 1)), ([0x33DC00B680000000], .hclr g 0 (.c 13))
      , ([0x341C008200000080], .launch g (.s 4) 2), ([0x945C030000800000], .sread lw (.v 3) 1)
      , ([0x345C008322800001], .swrite g 0x45 (.s 6)), ([0x34DD058200000000], .siterst g (.s 5) (.s 4))] : List (List DWord × Instr)),
        decodeWords x.1 = .ok x.2)
    ∧ decodeWords [0x811C03008080A100] = .ok (.add { lw with resv := true } .i32 (.v 3) (.v 1) (.v 2))
    ∧ (∀ (w m : DWord) (j : Nat), j = (fMajor w).toNat → j = 0 ∨ j = 0x0F ∨ (0x16 ≤ j ∧ j ≤ 0x1F) ∨ (0x27 ≤ j ∧ j ≤ 0x2F)
        ∨ (0x3B ≤ j ∧ j ≤ 0x3F) ∨ 0x54 ≤ j → decode w m = .error .illegalOpcode)
    ∧ (∀ w m : DWord, (fMajor w).toNat = 1 → Scope.dec (w.extractLsb' 61 2) ≠ .group → decode w m = .error .illegalScope)

/-! ### Memory in canonical form -/

/-- A write of a byte, of a word and of consecutive bytes keeps memory canonical, and every byte reads as what was last
written there: a word is little-endian (R12). -/
def Obligations.MemoryReadWrite : Prop :=
  ∀ (m : List Host.Cell) (a k : Nat) (b : Byte) (w : Word) (bs : List Byte), Memory.wf m = true →
    (Memory.wf (Memory.set m a b) = true ∧ Memory.get (Memory.set m a b) k = if k = a then b else Memory.get m k)
      ∧ (Memory.wf (Memory.setWord m a w) = true ∧ Memory.word (Memory.setWord m a w) a = w
        ∧ Memory.get (Memory.setWord m a w) k =
          if a ≤ k ∧ k < a + 4 then w.extractLsb' (8 * (k - a)) 8 else Memory.get m k)
      ∧ (Memory.wf (Memory.setBytes m a bs) = true ∧ Memory.get (Memory.setBytes m a bs) k =
          if a ≤ k ∧ k < a + bs.length then bs.getD (k - a) 0 else Memory.get m k)

/-! ### Steps -/

/-- A step that issues: the SYNC record the chosen group owes (R455), then the meaning of the instruction whose words stand at its
PC (R228), once the loads that it does not let return late have returned; a group whose words cannot be fetched or do not decode
takes the trap of checks 1 to 4 of R241. When a step issues is the model's choice: with no event on the agenda, no prompt event
and no slow event, or one that waits (log entries 1 and 13). The model's choices are also that a step is the oldest event of the
agenda where that is pending, that an event that is not pending passes with no effect, and that the cycle ends where no group can
issue and no time limit has run out (log entries 1 and 13). -/
def Obligations.StepRunsDecoded : Prop :=
  ∀ (s : State),
    let s0 := { s with m := beginStep s.m }
    (∀ m : Mach, s0.m.agenda = [] → firstOf (promptEvents s0) = none →
        ((slowEvent s0 = none ∧ m = s0.m) ∨ (slowEvent s0 ≠ none ∧ mayWait s0.m = true ∧ m = showPart s0.m)) →
        (∀ (r : GRef) (t : Team) (g : Group), nextGroup m = some r →
          let m1 := traceSync s.fw m r
          m1.team? r.tid = some t → t.group? r.gno = some g →
          (∀ (w x : DWord) (i : Instr), g.redo = none → (fetchWord m1 t g.pc).1 = .ok w →
              (w.getLsbD 49 = true → (fetchWord (fetchWord m1 t g.pc).2 t (g.pc + 8)).1 = .ok x) →
              (w.getLsbD 49 = false → x = 0) → decode w x = .ok i →
              ∃ m2, m2 = (if w.getLsbD 49 then (fetchWord (fetchWord m1 t g.pc).2 t (g.pc + 8)).2 else (fetchWord m1 t g.pc).2)
                ∧ step s = exec i { s with m := startInstr m2 r t g i })
            ∧ ∀ (e : FetchStop) (m2 : Mach), instrOf m1 t g = (.error e, m2) →
              step s = .next { s with m := fetchTrap s.fw (startIssue m2 r t g) r e })
          ∧ (nextGroup m = none → firstOf (timeoutEvents { s with m := m }) = none →
            step s = .next { s with m := tick s.fw m }))
      ∧ ∀ (i : Instr) (rest : List Instr), s0.m.agenda = i :: rest →
        (∀ s', exec i { s with m := { s0.m with agenda := rest } } = .next s' → step s = .next s')
          ∧ ((∃ e, exec i { s with m := { s0.m with agenda := rest } } = .refused e) →
            step s = .next { s with m := { s0.m with agenda := rest } })

/-- A program instruction that a group issues stops neither by a fault nor by a refusal (a trap is a next state), and none changes
management space: programs and supervisors never reach it (R466). -/
def Obligations.ProgramsNeverStop : Prop :=
  ∀ (i : Instr) (s : State), i.parts.isSome = true →
    (∀ r t g, Issuing s r t g → Safe (exec i s)) ∧ ∀ s', exec i s = .next s' → s'.fw = s.fw

/-- Every step goes on: in a state in which whatever a group has to run again is a program instruction, as every step keeps it
(InvariantKept), a step ends neither by a fault nor by a refusal; and no event of the agenda, pending or not, makes it do so. -/
def Obligations.StepsGoOn : Prop :=
  ∀ s : State, (∀ t ∈ s.m.teams, ∀ g ∈ t.groups, ∀ d, g.redo = some d → d.i.parts.isSome = true) → Safe (step s)

/-! ### Management space -/

/-- Every step keeps the management registers legal: the link mode is one of three, a completion time is in range, no reserved
bit and no sampling or trace size out of range is ever held (R445, R462, R466, R467). That the clock stays above a floor, below 30
steps of throttle, is the model's choice and no rule's (log entry 42). -/
def Obligations.FirmwareLegalKept : Prop :=
  ∀ s s' : State, LegalFirmware s.fw → step s = .next s' → LegalFirmware s'.fw

/-- Every step keeps the machine sound: memory, scratchpads and tiles in canonical form, no two groups of a team of one number, in
teams resident and saved, and nothing but program instructions waiting at rendezvous, in groups and in records to be executed. -/
def Obligations.InvariantKept : Prop := ∀ s s' : State, MachInv s.m → step s = .next s' → MachInv s'.m

/-- The state after reset: no context, team, grid or cached word; every tile free, not in use, clean and of type F32 (R79); the
Chambray defaults of R445; CXLCTL 100 (R467); 96 cores (R472). Its management registers are legal and its machine is sound. The
model's own choices are in it: memory that nothing has written reads as 0 (log entry 3), and the registers that no rule gives a
value hold those of log entries 2 (BOOTST, FTSRC, CTXCMD, COREMAP, LMODE, FORM, the links, the partitions, the throttle, SECVER) and
8 (FTIME, the pending correction, the counters, CARVE, the elements of a tile, CAP0.MODT, the lost targets). -/
def Obligations.ResetState : Prop :=
  LegalFirmware State.reset.fw ∧ MachInv State.reset.m ∧ State.reset.m.ctxs = [] ∧ State.reset.m.teams = [] ∧ State.reset.m.grids = [] ∧ State.reset.m.mem = []
    ∧ Memory.wf State.reset.m.mem = true ∧ State.reset.m.l2 = [] ∧ State.reset.m.registry = [] ∧ State.reset.m.cores.length = 96
    ∧ (∀ k ∈ State.reset.m.cores, k.l1 = [] ∧ k.icache = [] ∧ k.loops = [] ∧ k.saccs = [] ∧ k.carve = 0 ∧ k.failed = false
      ∧ k.removed = false ∧ k.tiles.length = 4
      ∧ ∀ x ∈ k.tiles, x.holder = .nobody ∧ x.inuse = false ∧ x.dirty = false ∧ x.ty = .f32 ∧ x.els = [])
    ∧ (State.reset.m.modt = true ∧ State.reset.m.ftime = 0 ∧ State.reset.m.slew = 0 ∧ State.reset.m.cycle = 0 ∧ State.reset.m.loss = []
      ∧ ∀ x ∈ State.reset.m.parts, x.pcnt = List.replicate 16 0)
    ∧ (State.reset.fw.cxlctl = 100 ∧ State.reset.fw.bootst = 0 ∧ State.reset.fw.ftsrc = 0 ∧ State.reset.fw.ctxcmd = List.replicate 8 0
      ∧ State.reset.fw.ncore = 96 ∧ State.reset.fw.lmode = 0 ∧ State.reset.fw.form = 2 ∧ State.reset.fw.links = 0xFFF
      ∧ State.reset.fw.lanesRemapped = 0 ∧ State.reset.fw.parts = [0, 1, 2, 3, 4, 5, 6, 7] :: List.replicate 7 [] ∧ State.reset.fw.throttle = 0 ∧ State.reset.fw.holdLaunch = false
      ∧ State.reset.fw.secver = 0 ∧ ∀ n, n < 96 → State.reset.fw.coremap[n]? = some (BitVec.ofNat 64 (26 * (n / 24) + n % 24)))
    ∧ (∀ b ∈ State.reset.fw.chambray, (b.sctl.extractLsb' 8 6).toNat = 16 ∧ (b.sctl.extractLsb' 0 5).toNat = 14
      ∧ (b.tctl.extractLsb' 7 6).toNat = 20 ∧ ∀ w ∈ b.wctl, (w.extractLsb' 0 5).toNat = 2)

/-! ### Instructions that write registers (R246 to R294) -/

/-- An instruction of IARITH, LOGIC, ICMP, MOVE, IMM, PK16, XLANE, FARITH, FCMP, FSPEC, FDIV, PKF or CVT that passes its checks
retires: the group goes on at N, and nothing but its destination registers and the performance counters changes. -/
def Obligations.AluCompletes : Prop :=
  ∀ (i : Instr) (h : Hd) (ids : List RegId) (s : State) (r : GRef) (t : Team) (g : Group),
    regOnly i = some (h, ids) → Issuing s r t g → Alone h → Passes i t g s.m.draw →
    ∃ s', exec i s = .next s' ∧ Completed s s' r ids (nextPc g.pc h) ∧ SameFlow s s' r ∧ OnlyGroup s s' r

/-- IARITH and IARITHI: every element of the result is the exact result of the table of R257 on the elements of the sources,
wrapped to the width, or saturated under SAT. `div` and `rem` raise no trap: division by zero and the minimum over −1 have the
results of R258, and otherwise the quotient is truncated toward zero. -/
def Obligations.IntegerArithmetic : Prop :=
  (∀ (i : Instr) (h : Hd) (ty : Ty) (d : Opnd) (xs : List Src) (sat : Bool) (f : Nat → List Int → Int)
    (s : State) (r : GRef) (t : Team) (g : Group), arithSpec i = some (h, ty, d, xs, sat, f) →
    Issuing s r t g → Alone h → Passes i t g s.m.draw → Active h g s.m.draw →
    Yields i h s r g d ty.wide (fun l => elements ty (fun k =>
      fitInt ty.signed ty.ew sat (f ty.ew (xs.map (fun x => x.int g s.m.draw ty l k))))))
  ∧ ∀ (h : Hd) (ty : Ty) (d a b : Opnd) (s : State) (r : GRef) (t : Team) (g : Group), Issuing s r t g → Alone h →
    Active h g s.m.draw →
    let A := fun l k => (Src.reg 0 a).int g s.m.draw ty l k
    let B := fun l k => (Src.reg 1 b).int g s.m.draw ty l k
    (Passes (.div h ty d a b) t g s.m.draw → Yields (.div h ty d a b) h s r g d ty.wide (fun l => elements ty (fun k =>
        if B l k = 0 then 2 ^ ty.ew - 1
        else if ty.signed ∧ A l k = intMin true ty.ew ∧ B l k = -1 then wrapTo ty.ew (intMin true ty.ew)
        else wrapTo ty.ew ((A l k).tdiv (B l k)))))
      ∧ (Passes (.rem h ty d a b) t g s.m.draw → Yields (.rem h ty d a b) h s r g d ty.wide (fun l => elements ty (fun k =>
        if B l k = 0 then (Src.reg 0 a).bits g s.m.draw ty l k
        else if ty.signed ∧ A l k = intMin true ty.ew ∧ B l k = -1 then 0
        else wrapTo ty.ew (A l k - B l k * (A l k).tdiv (B l k)))))

/-- LOGIC and LOGICI: the bits of every element of the result, from the bits of the elements of the sources (R259); the counts of
one bits and of leading zeros, and the bit fields at a position and a length that C gives (R259, R260). -/
def Obligations.LogicBits : Prop :=
  (∀ (i : Instr) (h : Hd) (ty : Ty) (d : Opnd) (xs : List Src) (f : Nat → List Nat → Nat → Bool)
    (s : State) (r : GRef) (t : Team) (g : Group), logicSpec i = some (h, ty, d, xs, f) →
    Issuing s r t g → Alone h → Passes i t g s.m.draw → Active h g s.m.draw →
    Yields i h s r g d ty.wide (fun l => elements ty (fun k =>
      ofBits ty.ew (f ty.ew (xs.map (fun x => x.bits g s.m.draw ty l k))))))
  ∧ ∀ (h : Hd) (ty : Ty) (d a b c : Opnd) (s : State) (r : GRef) (t : Team) (g : Group), Issuing s r t g → Alone h →
    Active h g s.m.draw →
    let A := fun l k => (Src.reg 0 a).bits g s.m.draw ty l k
    let B := fun l k => (Src.reg 1 b).bits g s.m.draw ty l k
    let pos := fun l k => (Src.reg 2 c).bits g s.m.draw ty l k % 256
    let len := fun l k => (Src.reg 2 c).bits g s.m.draw ty l k / 256 % 256
    let n := fun l k => if 0 < len l k ∧ pos l k < ty.ew then min (len l k) (ty.ew - pos l k) else 0
    (Passes (.popc h ty d a) t g s.m.draw → Yields (.popc h ty d a) h s r g d ty.wide (fun l => elements ty (fun k =>
        ((List.range ty.ew).filter (fun i => (A l k).testBit i)).length)))
      ∧ (Passes (.clz h ty d a) t g s.m.draw → Yields (.clz h ty d a) h s r g d ty.wide (fun l => elements ty (fun k =>
        if A l k = 0 then ty.ew else ty.ew - 1 - Nat.log2 (A l k))))
      ∧ (Passes (.bfe h ty d a c) t g s.m.draw → Yields (.bfe h ty d a c) h s r g d ty.wide (fun l => elements ty (fun k =>
        ofBits ty.ew (fun i => if i < n l k then (A l k).testBit (pos l k + i)
          else decide (0 < n l k) && ty.signed && (A l k).testBit (pos l k + n l k - 1)))))
      ∧ (Passes (.bfi h ty d a b c) t g s.m.draw → Yields (.bfi h ty d a b c) h s r g d ty.wide (fun l => elements ty (fun k =>
        ofBits ty.ew (fun i => if pos l k ≤ i ∧ i < pos l k + n l k then (B l k).testBit (i - pos l k) else (A l k).testBit i))))

/-- The compares of integers, on element 0 of each source: 1 or 0, in a predicate or in an s register (R261). -/
def Obligations.IntegerCompares : Prop :=
  ∀ (i : Instr) (h : Hd) (ty : Ty) (d : Opnd) (a b : Src) (p : Int → Int → Bool) (s : State) (r : GRef) (t : Team) (g : Group),
    compareSpec i = some (h, ty, d, a, b, p) → Issuing s r t g → Alone h → Passes i t g s.m.draw → Active h g s.m.draw →
    Yields i h s r g d false (fun l => bit 64 (p (a.int g s.m.draw ty l 0) (b.int g s.m.draw ty l 0)))

/-- The moves, the selection and the constants (R238, R262, R263). -/
def Obligations.Moves : Prop :=
  ∀ (h : Hd) (ty : Ty) (d a b c : Opnd) (imm : BitVec 20) (s : State) (r : GRef) (t : Team) (g : Group), Issuing s r t g →
    Alone h → Active h g s.m.draw →
    let src := fun slot o l => srcVal g g s.m.draw slot ty o l
    (Passes (.mov h ty d a) t g s.m.draw → ty ≠ .b1 → Yields (.mov h ty d a) h s r g d ty.wide (src 0 a))
      ∧ (Passes (.mov h .b1 d a) t g s.m.draw →
        Yields (.mov h .b1 d a) h s r g d false (fun l => srcVal g g s.m.draw 0 .b32 a l &&& 1))
      ∧ (Passes (.sel h ty d a b c) t g s.m.draw → Yields (.sel h ty d a b c) h s r g d ty.wide (fun l =>
        if (if h.scope = .group then srcVal g g s.m.draw 2 .b64 c l ≠ 0 else srcVal g g s.m.draw 2 .b32 c l = 1)
        then src 0 a l else src 1 b l))
      ∧ (Passes (.movi h ty d imm) t g s.m.draw →
        Yields (.movi h ty d imm) h s r g d ty.wide (fun _ => BitVec.ofNat 64 (wrapTo ty.ew imm.toInt)))
      ∧ (Passes (.movhi h ty d imm) t g s.m.draw →
        Yields (.movhi h ty d imm) h s r g d ty.wide (fun _ => BitVec.ofNat 64 (wrapTo ty.ew (imm.toInt * 4096))))
      ∧ (Passes (.addpc h ty d imm) t g s.m.draw →
        Yields (.addpc h ty d imm) h s r g d true (fun _ => g.pc + (imm.signExtend 64 <<< 12)))
      ∧ (Passes (.addlo h ty d a imm) t g s.m.draw → Yields (.addlo h ty d a imm) h s r g d true (fun l =>
        srcVal g g s.m.draw 0 .n64 a l + (imm.setWidth 12).signExtend 64))

/-- The packed operations saturate; `maxd2` gives the survivors and, in a pair of predicates or in an s register, the
decisions: 1 where B is greater than A (R264, R265). -/
def Obligations.PackedHalves : Prop :=
  (∀ (i : Instr) (h : Hd) (ty : Ty) (d a b : Opnd) (f : Int → Int → Int) (s : State) (r : GRef) (t : Team) (g : Group),
      packedSpec i = some (h, ty, d, a, b, f) → ty.ew = 16 → Issuing s r t g → Alone h → Passes i t g s.m.draw →
      Active h g s.m.draw → Yields i h s r g d false (fun l => elements ty (fun k => fitInt ty.signed 16 true
        (f ((Src.reg 0 a).int g s.m.draw ty l k) ((Src.reg 1 b).int g s.m.draw ty l k)))))
    ∧ ∀ (h : Hd) (ty : Ty) (d a b c : Opnd) (s : State) (r : GRef) (t : Team) (g : Group), ty.ew = 16 → d.isP = false →
      Issuing s r t g → Alone h → Passes (.maxd2 h ty d a b c) t g s.m.draw → Active h g s.m.draw →
      let dec := fun l k => decide ((Src.reg 0 a).int g s.m.draw ty l k < (Src.reg 1 b).int g s.m.draw ty l k)
      ∃ s' g', exec (.maxd2 h ty d a b c) s = .next s' ∧ s'.m.group? r = some g'
        ∧ (d ≠ c → Written g g' d false (memberOf g h s.m.draw).act (fun l => elements ty (fun k =>
          if dec l k then (Src.reg 1 b).bits g s.m.draw ty l k else (Src.reg 0 a).bits g s.m.draw ty l k)))
        ∧ match c with
          | .p n => (n.toNat = 0 ∨ n.toNat = 2 ∨ n.toNat = 4) ∧ ∀ l, l < 32 →
            (g'.regs.preg n.toNat).has l = (if (memberOf g h s.m.draw).act.has l then dec l 0 else (g.regs.preg n.toNat).has l)
            ∧ (g'.regs.preg (n.toNat + 1)).has l =
              (if (memberOf g h s.m.draw).act.has l then dec l 1 else (g.regs.preg (n.toNat + 1)).has l)
          | .s n => (g'.regs.sreg n.toNat).val = BitVec.ofNat 64 (2 * (dec 0 1).toNat + (dec 0 0).toNat)
          | _ => False

/-- The shuffles: a lane reads the lane that its B names, or its own where that lane does not exist; absent lanes read as 0
(R266, R267). -/
def Obligations.Shuffles : Prop :=
  ∀ (i : Instr) (h : Hd) (ty : Ty) (d a b : Opnd) (f : Nat → Nat → Int) (s : State) (r : GRef) (t : Team) (g : Group),
    shuffleSpec i = some (h, ty, d, a, b, f) → Issuing s r t g → Alone h → Passes i t g s.m.draw → Active h g s.m.draw →
    Yields i h s r g d ty.wide (fun l =>
      let j := f l (laneSrc g s.m.draw 1 .n32 b l).toNat
      laneSrc g s.m.draw 0 ty a (if 0 ≤ j ∧ j < 32 then j.toNat else l))

/-- Votes, the ballot, the broadcast, the reductions and the scans over the active lanes of one group: of integers exact, then
wrapped or under SAT saturated; of floats by the fixed tree and lane by lane, each combination rounding once to nearest, every
value read with DAZ and every result flushed and quietened (R97, R268 to R271). That a scan carries the flushed prefix into its next
combination, and what a reduction of no lane gives, are the model's reading (log entry 48). -/
def Obligations.VotesAndReductions : Prop :=
  ∀ (h : Hd) (ty : Ty) (d a b : Opnd) (s : State) (r : GRef) (t : Team) (g : Group), Issuing s r t g → Alone h →
    h.scope = .lane →
    let act := (memberOf g h s.m.draw).act
    let on := fun j => act.has j && predSrc g s.m.draw a j
    let lanes := (List.range 32).filter (fun j => act.has j)
    let w := ty.ew
    let raw := fun j => (laneSrc g s.m.draw 0 ty a j).toNat
    let int := fun j => intOf ty.signed w (raw j)
    let fpc := fpcOf s.m t.ctx
    let gives := fun (i : Instr) (v : Nat → Nat) => Passes i t g s.m.draw → ty.fmt? = none → w = 32 ∨ w = 64 →
      Yields i h s r g d ty.wide (fun l => BitVec.ofNat 64 (v l))
    let upTo := fun l => lanes.filter (fun j => decide (j ≤ l))
    (Passes (.voteAny h ty d a) t g s.m.draw →
        Yields (.voteAny h ty d a) h s r g d false (fun _ => if (List.range 32).any on then 1 else 0))
      ∧ (Passes (.voteAll h ty d a) t g s.m.draw → Yields (.voteAll h ty d a) h s r g d false (fun _ =>
        if (List.range 32).all (fun j => !act.has j || predSrc g s.m.draw a j) then 1 else 0))
      ∧ (Passes (.ballot h ty d a) t g s.m.draw →
        Yields (.ballot h ty d a) h s r g d false (fun _ => BitVec.ofNat 64 (ofBits 32 on)))
      ∧ (Passes (.bcast h ty d a b) t g s.m.draw → Yields (.bcast h ty d a b) h s r g d ty.wide (fun _ =>
        if (srcVal g g s.m.draw 1 .n32 b 0).toNat < 32 then laneSrc g s.m.draw 0 ty a (srcVal g g s.m.draw 1 .n32 b 0).toNat
        else 0))
      ∧ gives (.xredAdd h ty d a) (fun _ => fitInt ty.signed w h.sat (lanes.map int).sum)
      ∧ gives (.xredMin h ty d a) (fun _ => wrapTo w ((lanes.map int).foldr min (intMax ty.signed w)))
      ∧ gives (.xredMax h ty d a) (fun _ => wrapTo w ((lanes.map int).foldr max (intMin ty.signed w)))
      ∧ gives (.xredAnd h ty d a) (fun _ => ofBits w (fun i => lanes.all (fun j => (raw j).testBit i)))
      ∧ gives (.xredOr h ty d a) (fun _ => ofBits w (fun i => lanes.any (fun j => (raw j).testBit i)))
      ∧ gives (.xredXor h ty d a) (fun _ => ofBits w (fun i => (lanes.filter (fun j => (raw j).testBit i)).length % 2 == 1))
      ∧ gives (.xscanAdd h ty d a) (fun l => fitInt ty.signed w h.sat ((upTo l).map int).sum)
      ∧ gives (.xscanMax h ty d a) (fun l => wrapTo w (((upTo l).map int).foldr max (intMin ty.signed w)))
      ∧ ∀ f, ty = .f32 ∧ f = .f32 ∨ ty = .f64 ∧ f = .f64 →
        let part := fun j => srcMods f (fpc.getLsbD 0) false false (raw j)
        let sum := fun x y z => SumGives f .rne false (FV.dec f x) (FV.dec f y) z
        let pos := fun j => if act.has j then some (part j) else none
        (∀ i comb empty, (i = .xredAdd h ty d a ∧ comb = sum ∧ empty = 0) ∨ (i = .xredMin h ty d a ∧ comb = PickGives f false ∧ empty = infBits f false)
            ∨ (i = .xredMax h ty d a ∧ comb = PickGives f true ∧ empty = infBits f true) → Passes i t g s.m.draw →
          ∃ top, TreeGives comb 5 pos top ∧ Yields i h s r g d ty.wide (fun _ =>
            BitVec.ofNat 64 ((top.map (leaving f (fpc.getLsbD 1))).getD empty)))
          ∧ ∀ i comb, (i = .xscanAdd h ty d a ∧ comb = sum) ∨ (i = .xscanMax h ty d a ∧ comb = PickGives f true) → Passes i t g s.m.draw →
            ∃ F : Nat → Nat, (∀ l, act.has l = true → l < 32 →
                ScanGives comb (flush f (fpc.getLsbD 1)) (leaving f (fpc.getLsbD 1)) ((upTo l).map part).reverse (F l))
              ∧ Yields i h s r g d ty.wide (fun l => BitVec.ofNat 64 (F l))

/-! ### Checks, reads and writes of any instruction -/

/-- Checks 5 to 8 of R241 on an instruction of IARITH with two sources: the first that fails decides the trap, and nothing
else happens than that trap. That they are made at GROUP scope also where the guard holds in no active lane is the model's choice,
not R227's words (log entry 56). -/
def Obligations.OperandChecks : Prop :=
  ∀ (h : Hd) (ty : Ty) (d a b : Opnd) (s : State) (r : GRef) (t : Team) (g : Group), Issuing s r t g →
    h.scope = .lane ∨ h.scope = .group →
    let traps := fun c => exec (.add h ty d a b) s =
      .next (stopped s t (Stop.trap c g (nextPc g.pc h)))
    let bad := d.isBad = true ∨ a.isBad = true ∨ b.isBad = true
    let cls := ¬ (dstOk h.grp true ty d = true ∧ srcOk h.grp true ty a = true ∧ srcOk h.grp true ty b = true)
    let odd := ty.wide = true ∧ ∃ o ∈ [d, a, b], ∃ n, o.vnum? = some n ∧ n % 2 = 1
    let out := ∃ o ∈ [d, a, b], ∃ n, o.vnum? = some n ∧ t.valloc < n + (if ty.wide then 2 else 1)
    (h.resv = true → traps 0x41) ∧ (h.resv = false → bad → traps 0x43) ∧ (h.resv = false → ¬ bad → cls → traps 0x44)
      ∧ (h.resv = false → ¬ bad → ¬ cls → odd → traps 0x45) ∧ (h.resv = false → ¬ bad → ¬ cls → ¬ odd → out → traps 0x46)
      ∧ (h.resv = false → ¬ bad → ¬ cls → ¬ odd → ¬ out → Passes (.add h ty d a b) t g s.m.draw)

/-- Any program instruction at LANE or GROUP scope that fails a check of R241 or of its entry traps with that check's cause; at
GROUP scope one that passes and whose guard holds in no active lane retires with no effect (R227). The model's choices: at GROUP
scope checks 5 to 8 are made also where the guard holds in no lane (log entry 56); an instruction that waits for a `.sys` release
whose write-backs are held for their pages begins that release's work and stays where it is, before its checks (log entry 77). -/
def Obligations.FailedCheckTraps : Prop :=
  ∀ (i : Instr) (h : Hd) (op : Op) (s : State) (r : GRef) (t : Team) (g : Group), opOf i = some (h, op) → Issuing s r t g →
    (∀ c, Unheld s t g i → h.scope = .lane ∨ h.scope = .group → check h op t g s.m.draw = some c →
        exec i s = .next (stopped s t (Stop.trap c g (nextPc g.pc h))))
      ∧ (∀ m', heldRelease s.m t g i = some m' → exec i s = .next { s with m := m' })
      ∧ (Unheld s t g i → h.scope = .group → check h op t g s.m.draw = none → actOf g h s.m.draw = 0 →
        ∃ s', exec i s = .next s' ∧ Completed s s' r [] (nextPc g.pc h) ∧ SameFlow s s' r ∧ OnlyGroup s s' r)

/-- A source that is separated from its producers is read as its register stands, at the type (R247); an unseparated v, s, p, x or h
register reads as one of the values the producers left, in each lane of its own (R54). -/
def Obligations.SourceReading : Prop :=
  ∀ (g : Group) (draw slot l : Nat) (ty : Ty),
    (g.old = [] →
        (∀ n, srcVal g g draw slot ty (.v n) l =
            if ty.wide then (g.regs.vreg (n.toNat + 1)).lane l ++ (g.regs.vreg n.toNat).lane l
            else ((g.regs.vreg n.toNat).lane l).setWidth 64)
          ∧ (∀ n, srcVal g g draw slot ty (.s n) l =
            if ty.wide then (g.regs.sreg n.toNat).val else ((g.regs.sreg n.toNat).val.setWidth 32).setWidth 64)
          ∧ (∀ n, srcVal g g draw slot ty (.x n) l = (g.regs.xlane n.toNat l).setWidth 64)
          ∧ ∀ n, srcVal g g draw slot ty (.p n) l = bit 64 ((g.regs.preg n.toNat).has l))
      ∧ (∀ n : BitVec 8, ty.wide = false → ∃ q ∈ g.old ++ [g.regs], srcVal g g draw slot ty (.v n) l = ((q.vreg n.toNat).lane l).setWidth 64)
      ∧ (∀ n : BitVec 8, ty.wide = true → ∃ q ∈ g.old ++ [g.regs], ∃ q' ∈ g.old ++ [g.regs],
        srcVal g g draw slot ty (.v n) l = (q'.vreg (n.toNat + 1)).lane l ++ (q.vreg n.toNat).lane l)
      ∧ (∀ n : BitVec 6, ∃ q ∈ g.old ++ [g.regs], srcVal g g draw slot ty (.s n) l =
        if ty.wide then (q.sreg n.toNat).val else ((q.sreg n.toNat).val.setWidth 32).setWidth 64)
      ∧ (∀ n : BitVec 2, ∃ q ∈ g.old ++ [g.regs], srcVal g g draw slot ty (.x n) l = (q.xlane n.toNat l).setWidth 64)
      ∧ (∀ n : BitVec 3, ∃ q ∈ g.old ++ [g.regs], srcVal g g draw slot ty (.p n) l = bit 64 ((q.preg n.toNat).has l))
      ∧ ∀ n, ∃ q ∈ g.old ++ [g.regs], readH g n draw slot = q.hreg n

/-- p7 reads as true in every lane and keeps no result: a compare into it completes and changes no register (R60). -/
def Obligations.PredicateSeven : Prop :=
  (∀ (q : Regs) (act v : Mask), q.preg 7 = Mask.all ∧ q.setP act 7 v = q)
    ∧ (∀ (q : Regs) (act v : Mask) (n l : Nat), n < 7 → l < 32 →
      ((q.setP act n v).preg n).has l = if act.has l then v.has l else (q.preg n).has l)
    ∧ ∀ (i : Instr) (h : Hd) (ty : Ty) (a b : Src) (p : Int → Int → Bool) (s : State) (r : GRef) (t : Team) (g : Group),
      compareSpec i = some (h, ty, .p 7, a, b, p) → Issuing s r t g → Alone h → Passes i t g s.m.draw →
      ∃ s', exec i s = .next s' ∧ Completed s s' r [] (nextPc g.pc h) ∧ SameFlow s s' r ∧ OnlyGroup s s' r

/-- A result sets the tag of its register to the type's format (R66), and U to 1 exactly when every present lane was written
and all present lanes hold one value (R67); of a pair both registers carry one U, 1 exactly when every present lane was written and
all present lanes hold one 64-bit value. That a LANE-scope instruction with no active lane still sets the tag is the model's
choice (log entry 56), so the statement has an active lane for premise. -/
def Obligations.TagsAndUniform : Prop :=
  ∀ (i : Instr) (h : Hd) (ty : Ty) (d : Opnd) (s : State) (r : GRef) (t : Team) (g : Group),
    ((∃ xs sat f, arithSpec i = some (h, ty, d, xs, sat, f)) ∨ ∃ xs f, logicSpec i = some (h, ty, d, xs, f)) →
    Issuing s r t g → Alone h → Passes i t g s.m.draw → actOf g h s.m.draw ≠ 0 → g.redo = none → g.present ≠ 0 →
    ∃ s' g', exec i s = .next s' ∧ s'.m.group? r = some g'
      ∧ (∀ n, d = .s n → (g'.regs.sreg n.toNat).tag = ty.tag)
      ∧ ∀ n, d = .v n → (g'.regs.vreg n.toNat).tag = ty.tag
        ∧ (ty.wide = true → (g'.regs.vreg (n.toNat + 1)).tag = ty.tag
          ∧ (g'.regs.vreg (n.toNat + 1)).u = (g'.regs.vreg n.toNat).u
          ∧ ((g'.regs.vreg n.toNat).u = true ↔ (∀ l, l < 32 → g.present.has l = true → (actOf g h s.m.draw).has l = true)
            ∧ ∀ l k, l < 32 → k < 32 → g.present.has l = true → g.present.has k = true →
              holding g'.regs true d l = holding g'.regs true d k))
        ∧ (ty.wide = false → ((g'.regs.vreg n.toNat).u = true ↔
          (∀ l, l < 32 → g.present.has l = true → (actOf g h s.m.draw).has l = true)
            ∧ ∀ l k, l < 32 → k < 32 → g.present.has l = true → g.present.has k = true →
              (g'.regs.vreg n.toNat).lane l = (g'.regs.vreg n.toNat).lane k))

/-! ### Floats -/

/-- The compares of floats: unordered where a source is a NaN, and by value otherwise, −0 equal to +0 (R284). -/
def Obligations.FloatCompares : Prop :=
  ∀ (i : Instr) (h : Hd) (ty : Ty) (d a b : Opnd) (cc : FCond) (s : State) (r : GRef) (t : Team) (g : Group),
    fcompareSpec i = some (h, ty, d, a, b, cc) → ty = .f32 ∨ ty = .f64 → Issuing s r t g → Alone h →
    Passes i t g s.m.draw → Active h g s.m.draw →
    let x := fun j o l => (FV.dec (Ty.fmtD ty) (floatSrc h ty (ctlOf h (fpcOf s.m t.ctx)) g s.m.draw j o l 0)).num
    ∃ out : Nat → Bool, (∀ l, out l = true ↔ FRel cc (x 0 a l) (x 1 b l))
      ∧ Yields i h s r g d false (fun l => bit 64 (out l))

/-- Sums, products and fused products: the first NaN source gives the result (R94); an infinite result, an invalid operation and an
exact zero give what R282 gives; another exact result is scaled and rounded once (R91) and flushed under FTZ (R93); then SAT and
CLAMP apply (R92, R281). -/
def Obligations.FloatArithmetic : Prop :=
  ∀ (i : Instr) (h : Hd) (ty : Ty) (d : Opnd) (xs : List Opnd) (ex : List ℚ → ℚ) (s : State) (r : GRef) (t : Team) (g : Group),
    floatSpec i = some (h, ty, d, xs, ex) → Issuing s r t g → Alone h → Passes i t g s.m.draw → Active h g s.m.draw →
    let f := Ty.fmtD ty
    let c := ctlOf h (fpcOf s.m t.ctx)
    let src := fun l k => xs.mapIdx (fun j o => FV.dec f (floatSrc h ty c g s.m.draw j o l k))
    let post := limited f c
    ∃ F : Nat → Nat → Nat, Yields i h s r g d ty.wide (fun l => elements ty (F l))
      ∧ ∀ l k,
        (∀ n fr pre rest, src l k = pre ++ .nan n fr :: rest → (∀ y ∈ pre, y.num ≠ none) → F l k = post (nanBits f n fr))
        ∧ (∀ x, floatSpecial i f (c.rnd == .rd) (src l k) = some x → F l k = post x)
        ∧ ∀ qs : List ℚ, (src l k).map FV.rat = qs.map some → ex qs ≠ 0 →
          ∃ (m : Nat) (e : Int), m ≠ 0 ∧ |ex qs| = (m : ℚ) * 2 ^ e
            ∧ F l k = post (flush f c.ftz (roundBits f c.rnd (decide (ex qs < 0)) m (e + c.scale) false))

/-- Rounding is correct: of the values of the format, toward zero gives the largest in magnitude not beyond the exact one, up and
down the least above and the greatest below, and to nearest one at the least distance, with an even encoding where two are
as near; only to nearest, up and down give infinities (R91, R92). F8E4 has no infinity: up to 448 it rounds as the others, and
a magnitude that rounds to more gives 448 of its sign in every mode (R92). -/
def Obligations.RoundingCorrect : Prop :=
  ∀ (f : Fmt) (neg : Bool) (m : Nat) (e : Int), m ≠ 0 →
    let v : ℚ := (if neg then -1 else 1) * (m : ℚ) * 2 ^ e
    let q := fun r => roundBits f r neg m e false
    let val := fun b => FV.dec f b
    (∃ y, (val (q .rz)).rat = some y ∧ |y| ≤ |v| ∧ 0 ≤ y * v
        ∧ ∀ b z, b < 2 ^ f.width → (val b).rat = some z → |z| ≤ |v| → |z| ≤ |y|)
      ∧ (f ≠ .e4 →
        (∃ y, (val (q .ru)).num = some y ∧ ((v : WithTop ℚ) : WithBot (WithTop ℚ)) ≤ y
          ∧ ∀ b z, b < 2 ^ f.width → (val b).num = some z → ((v : WithTop ℚ) : WithBot (WithTop ℚ)) ≤ z → y ≤ z)
        ∧ (∃ y, (val (q .rd)).num = some y ∧ y ≤ ((v : WithTop ℚ) : WithBot (WithTop ℚ))
          ∧ ∀ b z, b < 2 ^ f.width → (val b).num = some z → z ≤ ((v : WithTop ℚ) : WithBot (WithTop ℚ)) → z ≤ y)
        ∧ (∀ y, (val (q .rne)).rat = some y → ∀ b z, b < 2 ^ f.width → (val b).rat = some z →
          |y - v| ≤ |z - v| ∧ (|y - v| = |z - v| → z = y ∨ q .rne % 2 = 0))
        ∧ ((val (q .rne)).rat = none ↔ (2 - 1 / 2 ^ (f.fbits + 1) : ℚ) * 2 ^ (f.emask - 1 - f.bias) ≤ |v|)
        ∧ ((val (q .rne)).rat = none → val (q .rne) = .inf neg))
      ∧ (f = .e4 →
        (|v| ≤ 448 → (∃ y, (val (q .ru)).rat = some y ∧ v ≤ y ∧ ∀ b z, b < 256 → (val b).rat = some z → v ≤ z → y ≤ z)
          ∧ (∃ y, (val (q .rd)).rat = some y ∧ y ≤ v ∧ ∀ b z, b < 256 → (val b).rat = some z → z ≤ v → z ≤ y)
          ∧ (∃ y, (val (q .rne)).rat = some y ∧ ∀ b z, b < 256 → (val b).rat = some z →
            |y - v| ≤ |z - v| ∧ (|y - v| = |z - v| → z = y ∨ q .rne % 2 = 0)))
        ∧ (448 < |v| → ∀ r, q r = signBit .e4 neg + 0x7E))

/-- The functions that round, but for the powers: the first NaN source gives the result (R94), the special inputs what the tables
of R286 give, and any other the exact reciprocal, root, reciprocal root or quotient, scaled and rounded once, with FTZ, SAT and
CLAMP (R281, R285); and the minimum and maximum: one source as it stands, flushed under FTZ, the other where one is a NaN (R283). -/
def Obligations.FloatFunctions : Prop :=
  (∀ (i : Instr) (h : Hd) (ty : Ty) (d : Opnd) (xs : List Opnd) (fn : Fn) (f : Fmt) (s : State) (r : GRef) (t : Team) (g : Group),
    functionSpec i = some (h, ty, d, xs, fn) → fn ≠ .exp2 → fn ≠ .log2 → (ty = .f32 ∧ f = .f32) ∨ (ty = .f64 ∧ f = .f64) →
    Issuing s r t g → Alone h → Passes i t g s.m.draw → Active h g s.m.draw →
    let c := ctlOf h (fpcOf s.m t.ctx)
    let src := fun l => xs.mapIdx (fun j o => FV.dec f (floatSrc h ty c g s.m.draw j o l 0))
    ∃ F : Nat → Nat, Yields i h s r g d ty.wide (fun l => BitVec.ofNat 64 (F l))
      ∧ ∀ l,
        (∀ n fr pre rest, src l = pre ++ .nan n fr :: rest → (∀ y ∈ pre, y.num ≠ none) → F l = limited f c (nanBits f n fr))
        ∧ ((∀ y ∈ src l, y.num ≠ none) →
          (∀ x, fn.special f (src l) = some x → F l = limited f c x)
            ∧ ∀ qs : List ℚ, fn.special f (src l) = none → (src l).map FV.rat = qs.map some →
              Leaves f c (RoundsTo f c.rnd) (fn.real qs) (F l)))
  ∧ ∀ (i : Instr) (h : Hd) (ty : Ty) (d a b : Opnd) (larger : Bool) (s : State) (r : GRef) (t : Team) (g : Group),
    (i = .fmin h ty d a b ∧ larger = false) ∨ (i = .fmax h ty d a b ∧ larger = true) ∨ (i = .fmin2 h ty d a b ∧ larger = false)
      ∨ (i = .fmax2 h ty d a b ∧ larger = true) → ty.fmt? ≠ none → Issuing s r t g → Alone h → Passes i t g s.m.draw →
    Active h g s.m.draw →
    let f := Ty.fmtD ty
    let c := ctlOf h (fpcOf s.m t.ctx)
    let x := fun j o l k => floatSrc h ty c g s.m.draw j o l k
    ∃ F : Nat → Nat → Nat, Yields i h s r g d ty.wide (fun l => elements ty (F l))
      ∧ ∀ l k, ∃ y, PickGives f larger (x 0 a l k) (x 1 b l k) y ∧ F l k = flush f c.ftz y

/-- `fexp2` and `flog2`: a NaN source gives the result (R94), the special inputs what R286 gives, and an exactly representable
result is exact (R285). Any other result is that of a number within 2^−240 of the exact real, scaled and rounded once: the model's
choice of a working precision, beyond which a power is taken as one of 2^±20000 (log entry 12). -/
def Obligations.FloatPowers : Prop :=
  ∀ (i : Instr) (h : Hd) (ty : Ty) (d : Opnd) (xs : List Opnd) (fn : Fn) (f : Fmt) (s : State) (r : GRef) (t : Team) (g : Group),
    functionSpec i = some (h, ty, d, xs, fn) → fn = .exp2 ∨ fn = .log2 → (ty = .f32 ∧ f = .f32) ∨ (ty = .f64 ∧ f = .f64) →
    Issuing s r t g → Alone h → Passes i t g s.m.draw → Active h g s.m.draw →
    let c := ctlOf h (fpcOf s.m t.ctx)
    let src := fun l => xs.mapIdx (fun j o => FV.dec f (floatSrc h ty c g s.m.draw j o l 0))
    ∃ F : Nat → Nat, Yields i h s r g d ty.wide (fun l => BitVec.ofNat 64 (F l))
      ∧ ∀ l,
        (∀ n fr, src l = [.nan n fr] → F l = limited f c (nanBits f n fr))
        ∧ (∀ x, fn.special f (src l) = some x → F l = limited f c x)
        ∧ ∀ q : ℚ, fn.special f (src l) = none → (src l).map FV.rat = [some q] →
          (∀ z : Int, (fn = .exp2 → q = z) → (fn = .log2 → q = 2 ^ z) → Leaves f c (RoundsTo f c.rnd) (fn.real [q]) (F l))
            ∧ (fn = .log2 ∨ |q| < 16384 → Leaves f c (RoundsNear f c.rnd) (fn.real [q]) (F l))
            ∧ (fn = .exp2 → 16384 ≤ |q| →
              F l = limited f c (flush f c.ftz (roundBits f c.rnd false 1 ((if q < 0 then -20000 else 20000) + c.scale) false)))

/-- Conversions: each element of a unit becomes the value of its source rounded once to the type, with the parts that P chooses
(R96, R98, R99, R290 to R292); CVTEF at LANE scope carries the residual of its block from element to element (R100, R101, R293);
`fclass` tells the class of the encoding and `frint` the integral value, with the sign of a zero kept (R287, R288). -/
def Obligations.Conversions : Prop :=
  ∀ (h : Hd) (ty src : Ty) (d a b c : Opnd) (s : State) (r : GRef) (t : Team) (g : Group), Issuing s r t g → Alone h →
    Active h g s.m.draw →
    let ctl := ctlOf h (fpcOf s.m t.ctx)
    let raw := fun l k => elem src.ew k (srcVal g g s.m.draw 0 src a l)
    let p := Hd.part h
    let old := fun (w : Ty) l k => elem ty.ew k (srcVal g g s.m.draw 3 w d l)
    let act := (memberOf g h s.m.draw).act
    (Passes (.cvt h ty src d a b c) t g s.m.draw →
        let n := min src.count ty.count
        let x := fun l k => cvtSrc h ctl src (srcVal g g s.m.draw 1 .f32 b l).toNat (srcVal g g s.m.draw 2 .n32 c l).toNat (raw l k)
        ∃ F : Nat → Nat → Nat, Yields (.cvt h ty src d a b c) h s r g d ty.wide (fun l => elements ty (F l)) ∧ ∀ l j, j < ty.count →
          (ty.count ≤ src.count → ConvertsTo ty ctl (x l (p * n + j)) (F l j))
            ∧ (src.count < ty.count → p * n ≤ j → j < p * n + n → ConvertsTo ty ctl (x l (j - p * n)) (F l j))
            ∧ (src.count < ty.count → j < p * n ∨ p * n + n ≤ j → F l j = old (if ty.wide then .n64 else .n32) l j))
      ∧ (∀ i kb n, (i = .cvtef h ty d a b c ∧ kb = 1) ∨ (i = .cvtefX2 h ty d a b c ∧ kb = 2) → a = .v n → Passes i t g s.m.draw →
        h.scope = .lane → ty ∈ [Ty.f16, .bf16, .e4, .e5, .q4] →
        let fpc := fpcOf s.m t.ctx
        let lanes := lanesOf act
        let x := (List.range kb).flatMap (fun k => lanes.map (fun l => (readVLane g (n.toNat + k) l s.m.draw (2 * k)).toNat))
        let scale := FV.dec .f32 (srcMods .f32 (fpc.getLsbD 0) false false (srcVal g g s.m.draw 1 .f32 b 0).toNat)
        let block := (srcVal g g s.m.draw 2 .n32 c 0).toNat % 256
        ∃ (y : List Nat) (F : Nat → Nat → Nat), EfBlock (EfStep ty (fpc.getLsbD 0) (fpc.getLsbD 1) scale block) 0 x y
          ∧ Yields i h s r g d false (fun l => elements ty (F l)) ∧ ∀ l ∈ lanes, ∀ j, j < ty.count →
            F l j = if p * kb ≤ j ∧ j < p * kb + kb then y.getD ((j - p * kb) * lanes.length + lanes.idxOf l) 0 else old .n32 l j)
      ∧ ∀ f, (ty = .f32 ∧ f = .f32) ∨ (ty = .f64 ∧ f = .f64) →
        (Passes (.fclass h ty d a) t g s.m.draw → Yields (.fclass h ty d a) h s r g d false (fun l =>
            BitVec.ofNat 64 (2 ^ (FV.dec f (elem ty.ew 0 (srcVal g g s.m.draw 0 ty a l))).cls f)))
          ∧ (Passes (.frint h ty d a) t g s.m.draw →
            let x := fun l => floatSrc h ty ctl g s.m.draw 0 a l 0
            ∃ F : Nat → Nat, Yields (.frint h ty d a) h s r g d ty.wide (fun l => BitVec.ofNat 64 (F l)) ∧ ∀ l,
              match FV.dec f (x l) with
              | .nan n fr => F l = nanBits f n fr
              | .inf _ | .zero _ => F l = x l
              | .fin n m e => ∃ z, RoundsInt ctl.rnd ((if n then -1 else 1) * (m : ℚ) * 2 ^ e) z
                ∧ (z = 0 → F l = signBit f n) ∧ (z ≠ 0 → F l < 2 ^ f.width ∧ (FV.dec f (F l)).rat = some (z : ℚ)))

/-! ### Control transfers and divergence (R47 to R51, R251 to R256) -/

/-- `br`, `call`, `ret` and `callr` whose guard holds: the group goes on at the target, with the mask and the stack as they
were; `call` and `callr` leave N in s63, tagged N64, and `callr s63` goes to the old s63; a target of `ret` or `callr` that
is not a multiple of 8 traps. `callt` reads its target at CTXB + 8 × idx as a load; a failure of that load, or a target that
is not a multiple of 8, stops it with the PC and s63 as they were (R240, R252 to R254). -/
def Obligations.Transfers : Prop :=
  ∀ (h : Hd) (off : BitVec 32) (idx : BitVec 17) (a : Opnd) (s : State) (r : GRef) (t : Team) (g : Group), Issuing s r t g → Alone h →
    Active h g s.m.draw →
    let goes := fun (i : Instr) (ids : List RegId) (pc : DWord) => ∃ s' g', exec i s = .next s'
      ∧ Completed s s' r ids pc ∧ SameFlow s s' r ∧ OthersKept s s' r ∧ TeamsKept s s'
      ∧ (traceOn s.fw s.m t.ctx = false → OnlyGroup s s' r) ∧ s'.m.group? r = some g'
      ∧ (ids = [.s 63] → g'.regs.sreg 63 = { val := nextPc g.pc h, tag := 6 })
    let traps := fun i => exec i s = .next (stopped s t (Stop.trap 0x49 g (nextPc g.pc h)))
    let back := srcVal g g s.m.draw 0 .n64 (.s 63) 0
    let target := srcVal g g s.m.draw 0 .i64 a 0
    goes (.br h off) [] (g.pc + off.signExtend 64 * 8) ∧ goes (.call h off) [.s 63] (g.pc + off.signExtend 64 * 8)
      ∧ (back.toNat % 8 = 0 → goes (.ret h) [] back) ∧ (back.toNat % 8 ≠ 0 → traps (.ret h))
      ∧ (Passes (.callr h a) t g s.m.draw → target.toNat % 8 = 0 → goes (.callr h a) [.s 63] target)
      ∧ (Passes (.callr h a) t g s.m.draw → target.toNat % 8 ≠ 0 → traps (.callr h a))
      ∧ ∀ k, s.m.ctx? t.ctx = some k →
        let p := k.ctxb + idx.setWidth 64 * 8
        let x := groupRead s.m t g p 8 0
        (∀ v, x.1 = .ok v → v.toNat % 8 = 0 → ∃ s' g', exec (.callt h idx) s = .next s' ∧ Completed s s' r [.s 63] v
            ∧ SameFlow s s' r ∧ OthersKept s s' r ∧ s'.m.group? r = some g'
            ∧ g'.regs.sreg 63 = { val := nextPc g.pc h, tag := 6 })
          ∧ (∀ v, x.1 = .ok v → v.toNat % 8 ≠ 0 → exec (.callt h idx) s =
            .next { s with m := takeStop s.fw x.2 t.tid (Stop.trap 0x49 g (nextPc g.pc h)) })
          ∧ (∀ e, x.1 = .error e →
            let y : Stop := { Stop.trap e.cause g (nextPc g.pc h) with addr := e.addr, detail := e.detail }
            exec (.callt h idx) s = .next { s with m := takeStop s.fw x.2 t.tid y })

/-- `brd` (R47): with no lane taken the group goes on at N, with every lane taken at T; otherwise it pushes the join PC, the
taken path and the mask, keeps the lanes not taken and goes on at N, or traps where 32 entries stand. -/
def Obligations.Divergence : Prop :=
  ∀ (h : Hd) (off : BitVec 32) (j : BitVec 16) (s : State) (r : GRef) (t : Team) (g : Group), Issuing s r t g →
    h.scope = .lane → h.resv = false → g.redo = none →
    let taken := actOf g h s.m.draw
    let nottaken := g.amask &&& ~~~taken
    let n := nextPc g.pc h
    let tg := g.pc + off.signExtend 64 * 8
    let goes := fun (pc : DWord) (mask : Mask) (st : List Entry) => ∃ s' g', exec (.brd h off j) s = .next s'
      ∧ Completed s s' r [] pc ∧ OthersKept s s' r ∧ (traceOn s.fw s.m t.ctx = false → OnlyGroup s s' r)
      ∧ s'.m.group? r = some g' ∧ g'.amask = mask ∧ g'.stack = st
    (taken = 0 → goes n g.amask g.stack) ∧ (taken ≠ 0 → nottaken = 0 → goes tg g.amask g.stack)
      ∧ (taken ≠ 0 → nottaken ≠ 0 → g.stack.length = 32 →
        exec (.brd h off j) s = .next (stopped s t (Stop.trap 0x184 g n)))
      ∧ (taken ≠ 0 → nottaken ≠ 0 → g.stack.length ≠ 32 → goes n nottaken
        ({ j := g.pc + j.setWidth 64 * 8, res := tg, pend := taken, save := g.amask } :: g.stack))

/-- `join` (R48): the path not yet run, or the mask of before and the join PC; with no entry it traps. -/
def Obligations.Reconvergence : Prop :=
  ∀ (h : Hd) (s : State) (r : GRef) (t : Team) (g : Group), Issuing s r t g → Alone h → Active h g s.m.draw →
    let goes := fun (pc : DWord) (mask : Mask) (st : List Entry) => ∃ s' g', exec (.join h) s = .next s'
      ∧ Completed s s' r [] pc ∧ OthersKept s s' r ∧ (traceOn s.fw s.m t.ctx = false → OnlyGroup s s' r)
      ∧ s'.m.group? r = some g' ∧ g'.amask = mask ∧ g'.stack = st
    (g.stack = [] → exec (.join h) s = .next (stopped s t (Stop.trap 0x185 g (nextPc g.pc h))))
      ∧ ∀ e rest, g.stack = e :: rest →
        (e.pend ≠ 0 → goes e.res e.pend ({ e with pend := 0 } :: rest)) ∧ (e.pend = 0 → goes e.j e.save rest)

/-- `exit` (R51): its lanes leave the mask and every entry; with lanes left the group goes on at N; with none, entries that hold no
lane are dropped and at the first that holds some the group goes on as after `join`; and with none anywhere the group exits (R25). -/
def Obligations.Exits : Prop :=
  ∀ (h : Hd) (s : State) (r : GRef) (t : Team) (g : Group), Issuing s r t g → h.scope = .lane → h.resv = false →
    g.redo = none →
    let out := actOf g h s.m.draw
    let left := g.amask &&& ~~~out
    let st := g.stack.map (fun e => { e with pend := e.pend &&& ~~~out, save := e.save &&& ~~~out })
    let goes := fun (pc : DWord) (mask : Mask) (st : List Entry) => ∃ s' g', exec (.exit h) s = .next s'
      ∧ Completed s s' r [] pc ∧ OthersKept s s' r ∧ (traceOn s.fw s.m t.ctx = false → OnlyGroup s s' r)
      ∧ s'.m.group? r = some g' ∧ g'.amask = mask ∧ g'.stack = st
    (left ≠ 0 → goes (nextPc g.pc h) left st)
      ∧ (∀ pre e rest, left = 0 → st = pre ++ e :: rest → (∀ x ∈ pre, x.pend = 0 ∧ x.save = 0) →
        (e.pend ≠ 0 → goes e.res e.pend ({ e with pend := 0 } :: rest)) ∧ (e.pend = 0 → e.save ≠ 0 → goes e.j e.save rest))
      ∧ (left = 0 → (∀ e ∈ st, e.pend = 0 ∧ e.save = 0) → ∃ s' g', exec (.exit h) s = .next s' ∧ s'.m.group? r = some g'
        ∧ g'.status = .exited ∧ g'.amask = 0 ∧ g'.stack = [] ∧ g'.retired = g.retired + 1 ∧ g'.regs = g.regs)

/-- `trap n` takes cause 0x2C0 + n with N in AUX (R256); `bkpt` takes cause 0x280 with its code in DETAIL, and stops its group
alone where the debug table says non-stop (R355, R458); with W what the group still waits for has returned (R54, R442). `nop` and
`mark` have no effect on the group but that it goes on (R255); with trace off `mark` has none at all (R356). -/
def Obligations.TrapsAndHints : Prop :=
  ∀ (h : Hd) (n : BitVec 6) (code tag : BitVec 17) (a : Opnd) (s : State) (r : GRef) (t : Team) (g : Group), Issuing s r t g →
    Alone h →
    (Active h g s.m.draw → exec (.trap h n) s =
        .next (stopped s t { Stop.trap (0x2C0 + n.setWidth 10) g (nextPc g.pc h) with aux := nextPc g.pc h })
      ∧ (let x : Stop := { Stop.trap 0x280 g (nextPc g.pc h) with
            detail := code.setWidth 32, nonstop := nonStop s.fw s.m t.ctx }
        let m := if h.w then s.m.modGroup r Group.returned else s.m
        exec (.bkpt h code) s = .next { s with m := takeStop s.fw m t.tid x }))
      ∧ (∃ s', exec (.nop h) s = .next s' ∧ Completed s s' r [] (nextPc g.pc h) ∧ SameFlow s s' r ∧ OnlyGroup s s' r)
      ∧ (check h (opMark h a tag) t g s.m.draw = none → ∃ s', exec (.mark h a tag) s = .next s'
        ∧ Completed s s' r [] (nextPc g.pc h) ∧ SameFlow s s' r ∧ OthersKept s s' r
        ∧ (traceOn s.fw s.m t.ctx = false → OnlyGroup s s' r))

/-! ### Taking an exception and returning from it (R388 to R393) -/

/-- Taking an exception: the group stops where it stands with all its registers, its mask and its stack, the context's next SEQ
is taken and a record waits for service; with room in the queue the 64 bytes of the record stand at slot TAIL, on a page that
is not mapped with Q (R190), and TAIL has moved on, and with none the record is held (R389, R390). That LMASK of a trap of the whole
instruction is the active mask is the model's choice: R389 gives no value there (log entry 15). -/
def Obligations.TakesException : Prop :=
  ∀ (c : Cause) (npc : DWord) (s : State) (r : GRef) (t : Team) (g : Group) (k : Context), Issuing s r t g →
    isReplay c = false → g.status = .ready → s.m.ctx? t.ctx = some k →
    let m' := takeStop s.fw s.m t.tid (Stop.trap c g npc)
    let rec0 : Rec := { cause := c, setw := false, replay := false, info := false, unk := false, held := false, eng := false
                        ns := false, setn := 0xFE, group := BitVec.ofNat 8 g.gno, ctx := t.ctx, team := BitVec.ofNat 32 t.index
                        grid := serialOf s.m t, retired := g.retired, pc := g.pc, lmask := g.amask, detail := 0, addr := 0
                        aux := 0 }
    let slot := fqSlot k k.fqtail
    ∃ g' k' p, m'.group? r = some g' ∧ m'.ctx? t.ctx = some k'
      ∧ g'.status = .suspended ∧ g'.pc = g.pc ∧ g'.regs = g.regs ∧ g'.amask = g.amask ∧ g'.stack = g.stack
      ∧ g'.retired = g.retired ∧ (traceOn s.fw s.m t.ctx = false → ∀ q, q ≠ r → m'.group? q = s.m.group? q)
      ∧ k'.seq = k.seq + 1 ∧ k'.pend = k.pend ++ [p]
      ∧ p.seq = k.seq ∧ p.cause = c ∧ p.tid = t.tid ∧ p.gno = g.gno ∧ p.lmask = g.amask ∧ p.npc = some npc
      ∧ (fqFull k = true ∨ k.held ≠ [] → k'.fqtail = k.fqtail ∧ k'.held = k.held ++ [rec0.bytes k.seq])
      ∧ (fqFull k = false → k.held = [] → k'.fqtail = k.fqtail + 1 ∧ k'.held = []
        ∧ (traceOn s.fw s.m t.ctx = false → k.fqbase.toNat % 64 = 0 →
          victim s.m.draw 64 16384 (sliceWords s.m (homeOf slot) (sliceOf slot)) t.ctx slot = none →
          (∀ i, i < 16 → ∃ e, tlbHit s.m t.ctx (slot + 4 * i) = some e ∧ (leafAttr e.leaf).q = false) →
          ∀ i, i < 16 → ∃ w, l2Find m' t.ctx (slot + 4 * i) = some w ∧ w.d = true
          ∧ leBytes 4 w.val.toNat = ((rec0.bytes k.seq).drop (4 * i)).take 4))

/-- Returning from an exception (R392): ACT 0b00 leaves the group at its PC, ACT 0b01 at N (a group that the record met between
its instructions has none and goes on where it stands), and ACT 0b10 ends it; the record is
completed with its action. -/
def Obligations.ReturnsFromException : Prop :=
  ∀ (ctx : BitVec 12) (k : Context) (p : Pending) (s : State) (t : Team) (g : Group), s.m.ctx? ctx = some k →
    k.st = .running → k.pend = [p] → k.acts = [] → p.acted = false → p.setw = false → p.add = none → p.wid = none →
    p.cause ≠ 3 → p.eng = false → s.m.team? p.tid = some t → t.group? p.gno = some g → isStopped g = true → g.under = none → g.lost = [] →
    let done := fun (i : Instr) (act : BitVec 2) (P : Group → Prop) => actOk p act = true → ∃ s' g' k', exec i s = .next s'
      ∧ s'.fw = s.fw ∧ s'.m.group? { tid := p.tid, gno := p.gno } = some g' ∧ s'.m.ctx? ctx = some k' ∧ k'.pend = [] ∧ P g'
    done (.svdoneReexecute ctx p.seq) 0 (fun g' => g'.status = .ready ∧ g'.pc = g.pc ∧ g'.regs = g.regs ∧ g'.amask = g.amask
        ∧ g'.retired = g.retired ∧ g'.redo = g.redo)
      ∧ done (.svdoneResume ctx p.seq) 1 (fun g' => g'.status = .ready ∧ g'.pc = p.npc.getD g.pc ∧ g'.regs = g.regs ∧ g'.amask = g.amask
        ∧ g'.retired = g.retired ∧ (p.npc ≠ none → g'.redo = none))
      ∧ done (.svdoneTerminate ctx p.seq) 2 (fun g' => g'.status = .exited ∧ g'.amask = 0 ∧ g'.regs = g.regs)

/-! ### Rendezvous (R27 to R46) -/

/-- Arrival at a set-wide instruction: the group parks with its registers as they are, and joins the open rendezvous of its set
or opens one; another PC, a set that is not declared and a set it does not belong to fault (R27, R37, R38, R40). -/
def Obligations.Arrivals : Prop :=
  ∀ (i : Instr) (h : Hd) (op : Op) (s : State) (r : GRef) (t : Team) (g : Group), opOf i = some (h, op) →
    Issuing s r t g → Unheld s t g i → h.scope = .set ∨ h.scope = .team →
    let k := Hd.setKey h
    let n := nextPc g.pc h
    let member := ∀ j, k = some j → ∃ l, t.sets.getD j.toNat none = some l ∧ g.gno ∈ l
    let parks := fun (P : Team → Prop) => ∃ s' t' g', exec i s = .next s' ∧ s'.fw = s.fw ∧ s'.m.team? r.tid = some t'
      ∧ t'.group? r.gno = some g' ∧ P t' ∧ g'.status = .parked (.rendezvous k) ∧ g'.pc = g.pc ∧ g'.npc = n ∧ g'.regs = g.regs
      ∧ g'.amask = g.amask ∧ g'.retired = g.retired ∧ g'.wm = h.w ∧ OthersKept s s' r ∧ DeviceKept s s'
    (member → t.rdv? k = none → parks (fun t' => t'.rdvs = t.rdvs
        ++ [{ set := k, pc := g.pc, i := i, arrived := [(g.gno, actOf g h s.m.draw)], elapsed := 0 }]))
      ∧ (∀ v, member → t.rdv? k = some v → v.pc = g.pc → parks (fun t' => t'.rdv? k =
        some { v with arrived := v.arrived ++ [(g.gno, actOf g h s.m.draw)] }))
      ∧ (∀ v, member → t.rdv? k = some v → v.pc ≠ g.pc →
        exec i s = .next { s with m := setFault s.fw s.m t.tid k { Stop.trap 0x180 g n with aux := v.pc } [] })
      ∧ (∀ j, k = some j → t.sets.getD j.toNat none = none →
        exec i s = .next (stopped s t (Stop.trap 0x182 g n)))
      ∧ (∀ j l, k = some j → t.sets.getD j.toNat none = some l → g.gno ∉ l →
        exec i s = .next (stopped s t (Stop.trap 0x183 g n)))

/-- A rendezvous whose members have all arrived issues its instruction: for one that writes registers only, every live member
retires and goes on at its N, and of its registers only the destinations may have changed (R35, R36, R39). -/
def Obligations.SetWideIssue : Prop :=
  ∀ (tid : Nat) (k : Option (BitVec 3)) (v : Rdv) (h : Hd) (op : Op) (ids : List RegId) (s : State) (t : Team) (n : Nat)
    (g : Group), s.m.team? tid = some t → t.rdv? k = some v → rdvReady t v = true → ctxRuns s.m t.ctx = true →
    regOnly v.i = some (h, ids) → opOf v.i = some (h, op) → h.scope = .set ∨ h.scope = .team →
    (∀ j x, t.group? j = some x → check h op t x s.m.draw = none) → n ∈ liveMembers t k → (liveMembers t k).Nodup →
    t.group? n = some g → g.back = none → g.lost = [] →
    ∃ s' t' g', exec (.rendezvousIssue tid k) s = .next s' ∧ s'.fw = s.fw ∧ DeviceKept s s' ∧ s'.m.team? tid = some t'
      ∧ t'.rdv? k = none ∧ t'.group? n = some g' ∧ g'.pc = g.npc ∧ g'.retired = g.retired + 1 ∧ g'.amask = g.amask
      ∧ g'.stack = g.stack ∧ (∀ id, id ∉ ids → SameReg g.regs g'.regs id)
      ∧ (∀ q, q.tid ≠ tid ∨ q.gno ∉ liveMembers t k → s'.m.group? q = s.m.group? q)

/-! ### Loads, stores, atomics and fences (R295 to R313) -/

/-- A load whose lanes all read at once completes: every active lane, or at GROUP scope the s register, receives its element,
and memory and every other lane and register stay as they were (R296, R299, R300, R303), but that an ordered load at `.sys` with
LMODE 2 has the L2s give up host lines (R464); `ldnf` sets its residency predicate in those lanes as well (R304). -/
def Obligations.Loads : Prop :=
  ∀ (h : Hd) (ty : Ty) (d : Opnd) (F : Nat → DWord) (s : State) (r : GRef) (t : Team) (g : Group), Issuing s r t g → Alone h →
    Active h g s.m.draw → g.metWatch = [] →
    let act := (memberOf g h s.m.draw).act
    let reads := fun (x : Nat → Target × Int) => ∀ l ∈ accLanes h.scope act, (x l).2 % ty.bytes = 0
      ∧ watchHit s.fw s.m t.ctx ⟨true, false⟩ (x l).1.ga ty.bytes = false
      ∧ ∃ loc, (x l).1.loc = .ok loc ∧ Reads s.m t loc (x l).1.stack ty.bytes (F l)
    (∀ base off sp ord sc, Passes (.ld h ty d base off sp ord sc) t g s.m.draw →
        reads (fun l => spaceTarget s.m t g g sp base off ty.bytes l) → ∃ s' g', exec (.ld h ty d base off sp ord sc) s = .next s'
          ∧ Completed s s' r (d.ids ty.wide) (nextPc g.pc h) ∧ SameFlow s s' r ∧ OthersKept s s' r ∧ s'.m.group? r = some g'
          ∧ Written g g' d ty.wide act F ∧ (ord = false ∨ sc ≠ .sys ∨ s.fw.lmode ≠ 2 → s'.m.mem = s.m.mem)
          ∧ ScratchAfter s s' (fun _ _ => none) ∧ (ord = false → OnlyGroup s s' r))
      ∧ ∀ a c, Passes (.ldnf h ty d a c) t g s.m.draw → reads (fun l => genTarget s.m t g g a ty.bytes l) →
        ∃ s' g', exec (.ldnf h ty d a c) s = .next s' ∧ Completed s s' r (d.ids ty.wide ++ c.ids false) (nextPc g.pc h)
          ∧ SameFlow s s' r ∧ OnlyGroup s s' r ∧ s'.m.group? r = some g' ∧ (d ≠ c → Written g g' d ty.wide act F)
          ∧ Written g g' c false act (fun _ => 1)

/-- A store into scratchpads completes; the bytes at the lanes' addresses hold what the highest lane that stores there gives,
every other byte of every scratchpad what it held; an unordered one with no release pending changes nothing else (R296,
R301, R303). -/
def Obligations.ScratchpadStores : Prop :=
  ∀ (h : Hd) (ty : Ty) (d base : Opnd) (off : BitVec 20) (sp : Space) (ord : Bool) (sc : MScope) (s : State) (r : GRef)
    (t : Team) (g : Group), Issuing s r t g → Unheld s t g (.st h ty d base off sp ord sc) → Alone h →
    Passes (.st h ty d base off sp ord sc) t g s.m.draw → Active h g s.m.draw → g.metWatch = [] → ScratchWf s →
    let x := fun l => spaceTarget s.m t g g sp base off ty.bytes l
    let lanes := accLanes h.scope (memberOf g h s.m.draw).act
    (∀ l ∈ lanes, (x l).2 % ty.bytes = 0 ∧ watchHit s.fw s.m t.ctx ⟨false, true⟩ (x l).1.ga ty.bytes = false
      ∧ ∃ tid o cl, (x l).1.loc = .ok (.sp tid o cl)) →
    ∃ s', exec (.st h ty d base off sp ord sc) s = .next s' ∧ Completed s s' r [] (nextPc g.pc h) ∧ SameFlow s s' r
      ∧ OthersKept s s' r
      ∧ ScratchAfter s s' (storedByte lanes (fun l => (x l).1.loc) (fun _ => ty.bytes) (fun l => srcVal g g s.m.draw 1 ty d l))
      ∧ (ord = false → g.relPend = none → DeviceKept s s')

/-- A store to global words that the core's L1 holds with write permission completes there: the words are dirty with the bytes
stored, and nothing else but the L1 of this core changes; a store of a part of a word is of one that is not poisoned, whose
fetch would fault (R114, R115, R130, R301). -/
def Obligations.CachedStores : Prop :=
  ∀ (h : Hd) (ty : Ty) (d base : Opnd) (off : BitVec 20) (sp : Space) (sc : MScope) (s : State) (r : GRef) (t : Team)
    (g : Group), Issuing s r t g → Alone h → Passes (.st h ty d base off sp false sc) t g s.m.draw → Active h g s.m.draw →
    g.relPend = none → g.metWatch = [] → ty.bytes ≠ 0 →
    let x := fun l => spaceTarget s.m t g g sp base off ty.bytes l
    let lanes := accLanes h.scope (memberOf g h s.m.draw).act
    (∀ l ∈ lanes, (x l).2 % ty.bytes = 0 ∧ ((x l).1.stack = true → g.stkBase % 4 = 0 ∧ ty.bytes ≠ 8)
      ∧ watchHit s.fw s.m t.ctx ⟨false, true⟩ (x l).1.ga ty.bytes = false
      ∧ ∃ va, (x l).1.loc = .ok (.glob va) ∧ Owns s.m t va ∧ (ty.bytes = 8 → Owns s.m t (va + 4))
        ∧ (ty.bytes < 4 → isPoisoned s.m t.ctx (va - va % 4) = false)) →
    ∃ s', exec (.st h ty d base off sp false sc) s = .next s' ∧ Completed s s' r [] (nextPc g.pc h) ∧ SameFlow s s' r
      ∧ OthersKept s s' r ∧ TeamsKept s s'
      ∧ { s'.m with teams := s.m.teams, parts := s.m.parts, cores := s.m.cores } = s.m
      ∧ (∀ c, c ≠ t.core → s'.m.core c = s.m.core c)
      ∧ ∀ c va, va % 4 = 0 →
        let stored := storedGlobal lanes (fun l => (x l).1.loc) (fun _ => ty.bytes) (fun l => srcVal g g s.m.draw 1 ty d l)
        match l1Find (s.m.core t.core) c va with
        | none => l1Find (s'.m.core t.core) c va = none
        | some e => ∃ e', l1Find (s'.m.core t.core) c va = some e' ∧ e'.attr = e.attr
          ∧ (c = t.ctx → (∃ k, k < 4 ∧ (stored (va + k)).isSome = true) → e'.d = true)
          ∧ ∀ k, k < 4 → getByte e'.val k = if c = t.ctx then (stored (va + k)).getD (getByte e.val k) else getByte e.val k

/-- An atomic or a reduction on scratchpad words completes; no other byte of a scratchpad changes. The lanes of one word run one at a
time in increasing number, each on the value that the one before it left: the word ends with the last one's and each lane's
destination holds the value that its lane found (R306 to R308). The operations of R307 on the old value, the operand and the
compare value of w bits; `fadd` is the sum rounded once to nearest, the first NaN with the old value first, an exact zero with the
sign of R282, subnormals kept whatever FPC holds. -/
def Obligations.Atomics : Prop :=
  (∀ (i : Instr) (h : Hd) (ty : Ty) (d : Option Opnd) (op : AOp) (a b : Opnd) (c : Option Opnd) (ord : Bool) (sc : MScope)
    (s : State) (r : GRef) (t : Team) (g : Group), atomSpec i = some (h, ty, d, op, a, b, c, ord, sc) →
    ty.bytes = 4 ∨ ty.bytes = 8 → Issuing s r t g → Unheld s t g i → Alone h → Passes i t g s.m.draw → Active h g s.m.draw → g.metWatch = [] → ScratchWf s →
    let x := fun l => genTarget s.m t g g a ty.bytes l
    let lanes := accLanes h.scope (memberOf g h s.m.draw).act
    (∀ l ∈ lanes, (x l).2 % ty.bytes = 0 ∧ watchHit s.fw s.m t.ctx ⟨true, true⟩ (x l).1.ga ty.bytes = false
      ∧ ∃ tid o cl, (x l).1.loc = .ok (.sp tid o cl) ∧ (s.m.team? tid).isSome = true) →
    ∃ s' g', exec i s = .next s' ∧ Completed s s' r ((d.map (fun o => o.ids ty.wide)).getD []) (nextPc g.pc h)
      ∧ SameFlow s s' r ∧ OthersKept s s' r ∧ s'.m.group? r = some g'
      ∧ (∀ tid u, s.m.team? tid = some u → ∃ u', s'.m.team? tid = some u' ∧ ∀ o,
        (∀ l ∈ lanes, ∀ p cl, (x l).1.loc = .ok (.sp tid p cl) → ¬ (p ≤ o ∧ o < p + ty.bytes)) →
        Memory.get u'.scratch o = Memory.get u.scratch o)
      ∧ ∃ F : Nat → DWord, (∀ q, d = some q → Written g g' q ty.wide (memberOf g h s.m.draw).act F)
        ∧ ∀ tid u o, s.m.team? tid = some u →
          let mine := lanes.filter (fun l => match (x l).1.loc with
            | .ok (.sp k p _) => k == tid && p == o
            | _ => false)
          let value := fun (v : Team) => if ty.bytes = 8 then (spWord v (o + 4) ++ spWord v o).toNat else (spWord v o).toNat
          let next := fun (v l : Nat) => (atomNew op ty v (srcVal g g s.m.draw 1 ty b l).toNat
            ((c.map (fun c => (srcVal g g s.m.draw 2 ty c l).toNat)).getD 0)).getD v % 2 ^ (8 * ty.bytes)
          mine ≠ [] → (∃ u', s'.m.team? tid = some u' ∧ value u' = mine.foldl next (value u))
            ∧ ∀ l ∈ mine, F l = BitVec.ofNat 64 ((mine.filter (fun k => decide (k < l))).foldl next (value u)))
  ∧ ∀ (ty : Ty) (old b c : Nat), old < 2 ^ ty.ew → b < 2 ^ ty.ew → c < 2 ^ ty.ew →
    let int := intOf ty.signed ty.ew
    atomNew .add ty old b c = some ((old + b) % 2 ^ ty.ew)
      ∧ (∃ v, atomNew .sub ty old b c = some v ∧ v < 2 ^ ty.ew ∧ (v + b) % 2 ^ ty.ew = old)
      ∧ (∃ v, atomNew .min ty old b c = some v ∧ int v = min (int old) (int b))
      ∧ (∃ v, atomNew .max ty old b c = some v ∧ int v = max (int old) (int b))
      ∧ atomNew .and ty old b c = some (old &&& b) ∧ atomNew .or ty old b c = some (old ||| b)
      ∧ atomNew .xor ty old b c = some (old ^^^ b) ∧ atomNew .exch ty old b c = some b
      ∧ (old = c → atomNew .cas ty old b c = some b) ∧ (old ≠ c → atomNew .cas ty old b c = none)
      ∧ atomNew .inc ty old b c = some (if old ≥ b then 0 else old + 1)
      ∧ atomNew .dec ty old b c = some (if old = 0 ∨ old > b then b else old - 1)
      ∧ ∀ f, (ty = .f32 ∧ f = .f32) ∨ (ty = .f64 ∧ f = .f64) → ∃ v, atomNew .fadd ty old b c = some v ∧ v < 2 ^ ty.ew
        ∧ SumGives f .rne false (FV.dec f old) (FV.dec f b) v

/-- The fences and the region forms (R311 to R313, R119, R134): what they leave of the core's L1, of the RDC of its die and of the two
paths to scratchpads. `invr` drops the Clean words of its range and leaves every other word; `wbr` leaves no word of its range Dirty
and not registered, leaves the words outside as they were, but for those that a full cache or registry recalls, and orders no
scratchpad store; a range that is misaligned or leaves the global window traps. The model's choice: `rel` leaves its work pending, in
relPend, and it is performed before the group's next write, fence or region form (log entry 19). -/
def Obligations.Fences : Prop :=
  ∀ (h : Hd) (sc : MScope) (len base : Opnd) (s : State) (r : GRef) (t : Team) (g : Group), Issuing s r t g → Alone h →
    Active h g s.m.draw →
    let n := (srcVal g g s.m.draw 1 .n64 len 0).toNat
    let a := (srcVal g g s.m.draw 0 .n64 base 0).toNat
    let inside := fun va : Nat => a ≤ va ∧ va < a + n
    let l1 := (s.m.core t.core).l1
    let rdc := s.m.rdc.getD (dieOf t.core) []
    let does := fun (i : Instr) (P : State → Group → Prop) => ∃ s' g', exec i s = .next s'
      ∧ Completed s s' r [] (nextPc g.pc h) ∧ SameFlow s s' r ∧ OthersKept s s' r ∧ ScratchAfter s s' (fun _ _ => none)
      ∧ s'.m.group? r = some g' ∧ P s' g'
    (Unheld s t g (.fence h sc) → does (.fence h sc) (fun s' g' => g'.relPend = none
        ∧ (sc ≠ .team → ∀ w ∈ (s'.m.core t.core).l1, w.d = true)
        ∧ ∀ u ∈ s'.m.teams, ∀ x ∈ u.aliases, x.src = some r ∨ u.core = t.core → r ∈ x.seen))
      ∧ does (.acq h sc) (fun s' g' => g'.relPend = g.relPend ∧ (sc ≠ .sys ∨ s.fw.lmode ≠ 2 → s'.m.mem = s.m.mem)
        ∧ (sc ≠ .team → (s'.m.core t.core).l1 = l1.filter (fun w => w.d)))
      ∧ (Unheld s t g (.rel h sc) → does (.rel h sc) (fun _ g' => g'.relPend = some (sc, g.pc)))
      ∧ (∀ i, i = .invr h len base sc ∨ i = .wbr h len base sc → Unheld s t g i → Passes i t g s.m.draw →
        (a % 4 = 0 → n % 4 = 0 → n = 0 ∨ a + n ≤ 0xF000000000000 →
            does i (fun _ g' => g.relPend.any (fun x => x.1 == .sys) = false ∨ i = .wbr h len base sc → g'.relPend = none))
          ∧ (a % 4 ≠ 0 ∨ n % 4 ≠ 0 →
            exec i s = .next (stopped s t { Stop.trap 0xC1 g (nextPc g.pc h) with addr := BitVec.ofNat 64 a }))
          ∧ (a % 4 = 0 → n % 4 = 0 → n ≠ 0 → 0xF000000000000 < a + n →
            exec i s = .next (stopped s t { Stop.trap 0xC0 g (nextPc g.pc h) with addr := BitVec.ofNat 64 a })))
      ∧ (a % 4 = 0 → n % 4 = 0 → n = 0 ∨ a + n ≤ 0xF000000000000 → g.relPend = none →
        (Passes (.invr h len base sc) t g s.m.draw → does (.invr h len base sc) (fun s' _ => TeamsKept s s'
            ∧ { s'.m with teams := s.m.teams, parts := s.m.parts, cores := s.m.cores, rdc := s.m.rdc } = s.m
            ∧ (∀ c, c ≠ t.core → s'.m.core c = s.m.core c)
            ∧ (s'.m.core t.core).l1 = (if sc = .team then l1 else l1.filter (fun w => w.d || !decide (inside w.va)))
            ∧ s'.m.rdc.getD (dieOf t.core) [] =
              if sc = .team ∨ sc = .die then rdc else rdc.filter (fun w => w.d || !decide (inside w.va))))
          ∧ (Passes (.wbr h len base sc) t g s.m.draw → does (.wbr h len base sc) (fun s' _ => TeamsKept s s'
            ∧ (sc = .team → OnlyGroup s s' r)
            ∧ (sc ≠ .team → ∀ w ∈ (s'.m.core t.core).l1, inside w.va → w.d = true → w.g = true)
            ∧ (sc ≠ .team → sc ≠ .die → ∀ w ∈ s'.m.rdc.getD (dieOf t.core) [], inside w.va → w.d = true → w.writer = t.core % 24 → w.reg = true)
            ∧ ∀ w' ∈ (s'.m.core t.core).l1, ¬ inside w'.va → ∃ w ∈ l1, w'.ctx = w.ctx ∧ w'.va = w.va ∧ w'.val = w.val
              ∧ w'.attr = w.attr ∧ (w'.d = true → w.d = true))))

/-- `pgreq`: a page that translates completes its entry at once; another gives a record with cause 0x003 that waits for service;
an address outside the global window and the stacks traps (R305). That the page is looked at as the instruction issues, and not
when the request reaches the CTU, is the model's choice (log entry 18). -/
def Obligations.PageRequests : Prop :=
  ∀ (h : Hd) (base : Opnd) (off : BitVec 20) (sp : Space) (s : State) (r : GRef) (t : Team) (g : Group) (k : Context),
    Issuing s r t g → Alone h → Active h g s.m.draw → Passes (.pgreq h base off sp) t g s.m.draw →
    s.m.ctx? t.ctx = some k → g.openCnt < 64 →
    let a := srcVal g g s.m.draw 0 .n64 base 0 + off.signExtend 64
    let loc : Except Cause Loc := if a.toNat < 0xF000000000000 then .ok (.glob a.toNat)
      else if sp = .generic ∧ isStackAddr a = true then steer s.m t g 0 a 1 else .error 0xC0
    (∀ c, loc = .error c → exec (.pgreq h base off sp) s =
        .next (stopped s t { Stop.trap c g (nextPc g.pc h) with addr := a }))
      ∧ (∀ va l, loc = .ok (.glob va) → (findLeaf s.m t.ctx va).1 = .ok l →
        ∃ s' g', exec (.pgreq h base off sp) s = .next s' ∧ Completed s s' r [] (nextPc g.pc h) ∧ SameFlow s s' r
          ∧ OthersKept s s' r ∧ s'.m.group? r = some g' ∧ g'.openCnt = g.openCnt + 1 ∧ g'.openW = g.openW)
      ∧ ∀ va c, loc = .ok (.glob va) → (findLeaf s.m t.ctx va).1 = .error c →
        ∃ s' g' k' p, exec (.pgreq h base off sp) s = .next s' ∧ Completed s s' r [] (nextPc g.pc h) ∧ SameFlow s s' r
          ∧ (traceOn s.fw s.m t.ctx = false → OthersKept s s' r) ∧ s'.m.group? r = some g' ∧ g'.openCnt = g.openCnt + 1 ∧ g'.openW = g.openW ++ [s.m.nextWid]
          ∧ s'.m.ctx? t.ctx = some k' ∧ k'.seq = k.seq + 1 ∧ k'.pend = k.pend ++ [p] ∧ p.seq = k.seq ∧ p.cause = 3
          ∧ p.addr = BitVec.ofNat 64 va ∧ p.wid = some s.m.nextWid

/-! ### Generic instructions (R186 to R202, R315 to R323) -/

/-- Generic arithmetic, `gset` and `gcvt`: the common format of their sources, and B32 read as N32 in it (the model's reading where
every source is tagged B32, log entry 51); an integer result wraps, a float one is exact and rounded once; the result takes the
common format's tag; `gset` compares as R261 and R284 do; `gcvt` converts each element where the counts are equal and otherwise
element 0 (R92 to R94, R96, R193, R316, R317, R321 to R323). -/
def Obligations.GenericArithmetic : Prop :=
  (∀ ts : List (BitVec 4), ts ≠ [] → (∀ t ∈ ts, t ≠ 15) → CommonTag ts (commonTag ts))
  ∧ ∀ (s : State) (r : GRef) (t : Team) (g : Group), Issuing s r t g →
    let tag := fun k o => (srcTag g s.m k o).1
    let pairs := fun (os : List Opnd) => ∀ k o, os[k]? = some o → oddPair o (tag k o) = false
    let fpc := fpcOf s.m t.ctx
    let c := ctlOf plainHd fpc
    let val := fun (l k : Nat) (o : Opnd) => srcVal g g s.m.draw k (tyOfTag (tag k o)) o l
    let ints := fun cf (os : List Opnd) l e => os.mapIdx (fun k o => commonInt cf (tag k o) e (val l k o))
    let vals := fun (os : List Opnd) l e (xs : List FV) => xs.length = os.length ∧ ∀ k o x, os[k]? = some o → xs[k]? = some x →
      CommonVal (fpc.getLsbD 0) (tag k o) e (val l k o) x
    let yields := fun (i : Instr) (h : Hd) (d : Opnd) (tg : BitVec 4) (V : Nat → DWord) => ∃ s' g', exec i s = .next s'
      ∧ Completed s s' r (d.ids (tyOfTag tg).wide) (nextPc g.pc h) ∧ SameFlow s s' r ∧ OthersKept s s' r ∧ TeamsKept s s'
      ∧ s'.m.mem = s.m.mem ∧ s'.m.group? r = some g' ∧ Written g g' d (tyOfTag tg).wide (memberOf g h s.m.draw).act V
      ∧ (∀ n, d = .v n → (memberOf g h s.m.draw).act ≠ 0 → (g'.regs.vreg n.toNat).tag = tg)
      ∧ ∀ n, d = .s n → (g'.regs.sreg n.toNat).tag = tg
    (∀ i h d os f, genericSpec i = some (h, d, os, f) → Alone h → Active h g s.m.draw → Passes i t g s.m.draw → pairs os →
      let tags := os.mapIdx tag
      let cf := commonTag tags
      dstPair t d cf = none → ∃ F : Nat → Nat → Nat,
        yields i h d cf (fun l => if ∀ x ∈ tags, x = cf then elements (calcTy cf) (F l) else BitVec.ofNat 64 (F l 0))
        ∧ ∀ l k, k = 0 ∨ ((∀ x ∈ tags, x = cf) ∧ k < (calcTy cf).count) →
          ((calcTy cf).fmt? = none → F l k = wrapTo (calcTy cf).ew (f (ints cf os l k)))
          ∧ ∀ ff, (calcTy cf).fmt? = some ff → ∃ xs, vals os l k xs ∧ GenericGives i ff c xs (F l k))
      ∧ (∀ h d a b site cc, Alone h → Active h g s.m.draw → Passes (.gset h d a b site cc) t g s.m.draw → pairs [a, b] →
        let cf := commonTag [tag 0 a, tag 1 b]
        ∃ out : Nat → Bool, (∀ l, ((calcTy cf).fmt? = none →
              (out l = true ↔ irel cc (commonInt cf (tag 0 a) 0 (val l 0 a)) (commonInt cf (tag 1 b) 0 (val l 1 b))))
            ∧ ((calcTy cf).fmt? ≠ none → ∃ x y, vals [a, b] l 0 [x, y] ∧ (out l = true ↔ FRel (floatCond cc) x.num y.num)))
          ∧ ∃ s' g', exec (.gset h d a b site cc) s = .next s' ∧ Completed s s' r (d.ids false) (nextPc g.pc h) ∧ SameFlow s s' r
            ∧ OthersKept s s' r ∧ TeamsKept s s' ∧ s'.m.mem = s.m.mem ∧ s'.m.group? r = some g'
            ∧ Written g g' d false (memberOf g h s.m.draw).act (fun l => bit 64 (out l))
            ∧ ∀ n, d = .s n → (g'.regs.sreg n.toNat).tag = 6)
      ∧ ∀ h d a site ty, Alone h → Active h g s.m.draw → Passes (.gcvt h d a site ty) t g s.m.draw → pairs [a] →
        dstPair t d ty.tag = none →
        let src := calcTy (tag 0 a)
        let n := if src.count = ty.count then ty.count else 1
        ∃ F : Nat → Nat → Nat, yields (.gcvt h d a site ty) h d ty.tag (fun l => elements ty (fun k => if k < n then F l k else 0))
          ∧ ∀ l k, k < n → ConvertsTo ty c (cvtSrc plainHd c src 0 0 (elem src.ew k (val l 0 a))) (F l k)

/-- Generic accesses, each lane at its own format, to scratchpads, to global words and stack words that the core's L1 holds: a load
gives each lane's element as R192 does, a store leaves each lane's converted value in its element and nothing else, an atomic
works at the format. What FPC does in these conversions is the model's reading (R191, R192, R316 to R320; log entry 59). -/
def Obligations.GenericAccesses : Prop :=
  ∀ (h : Hd) (s : State) (r : GRef) (t : Team) (g : Group) (fm : Nat → BitVec 4) (loc : Nat → Loc), Issuing s r t g → Alone h →
    Active h g s.m.draw → g.redo = none → ScratchWf s →
    let n := fun l => (tyOfTag (fm l)).bytes
    let lanes := accLanes h.scope (actOf g h s.m.draw)
    let fpc := fpcOf s.m t.ctx
    let at' := fun (w : Made) (addr : Nat → DWord) => ∀ l ∈ lanes, GenericLane s t g l w (addr l) (fm l) (loc l)
    let tag := gldTag (lanes.map fm)
    let same := allEq (lanes.map fm)
    let owns := fun (addr : Nat → DWord) => ∀ l ∈ lanes, ∀ va, loc l = .glob va → g.relPend = none ∧ Owns s.m t va
      ∧ (n l = 8 → Owns s.m t (va + 4)) ∧ isPoisoned s.m t.ctx (va - va % 4) = false
      ∧ (n l = 8 → isPoisoned s.m t.ctx (va + 4) = false) ∧ (isStackAddr (addr l) = true → g.stkBase % 4 = 0 ∧ n l ≠ 8)
    let src := fun b l => srcVal g g s.m.draw 1 (tyOfTag (srcTag g s.m 1 b).1) b l
    (lanes ≠ [] → (∀ f ∈ lanes.map fm, f ≠ 15) → (tag = 3 ↔ same = false ∨ ∃ f ∈ lanes.map fm, f ∈ ([3, 7, 8, 11, 12] : List (BitVec 4)))
        ∧ (same = true → ∀ f ∈ lanes.map fm, (f ∈ ([1, 9, 13] : List (BitVec 4)) → tag = 1) ∧ (f ∈ ([2, 10, 14] : List (BitVec 4)) → tag = 2)
          ∧ (f ∈ ([0, 4, 5, 6] : List (BitVec 4)) → tag = f)))
      ∧ (∀ d a site off (raw : Nat → DWord), Passes (.gld h d a site off) t g s.m.draw →
        let addr := fun l => srcVal g g s.m.draw 0 .n64 a l + off.signExtend 64
        at' ⟨true, false⟩ addr → (∀ l ∈ lanes, Reads s.m t (loc l) (isStackAddr (addr l)) (n l) (raw l)) → dstPair t d tag = none →
        ∃ (V : Nat → DWord) (s' : State) (g' : Group), exec (.gld h d a site off) s = .next s'
          ∧ Completed s s' r (d.ids (tyOfTag tag).wide) (nextPc g.pc h) ∧ SameFlow s s' r ∧ OthersKept s s' r ∧ TeamsKept s s'
          ∧ s'.m.mem = s.m.mem ∧ s'.m.group? r = some g' ∧ Written g g' d (tyOfTag tag).wide (actOf g h s.m.draw) V
          ∧ (∀ l ∈ lanes, LoadedAs fpc same (fm l) (raw l) (V l)) ∧ (∀ k, d = .v k → lanes ≠ [] → (g'.regs.vreg k.toNat).tag = tag)
          ∧ ∀ k, d = .s k → (g'.regs.sreg k.toNat).tag = tag)
      ∧ (∀ a b site off, Unheld s t g (.gst h a b site off) → Passes (.gst h a b site off) t g s.m.draw →
        let addr := fun l => srcVal g g s.m.draw 0 .n64 a l + off.signExtend 64
        at' ⟨false, true⟩ addr → owns addr → oddPair b (srcTag g s.m 1 b).1 = false →
        ∃ (V : Nat → DWord) (s' : State), exec (.gst h a b site off) s = .next s' ∧ Completed s s' r [] (nextPc g.pc h)
          ∧ SameFlow s s' r ∧ OthersKept s s' r
          ∧ (∀ l ∈ lanes, StoredAs (ctlOf plainHd fpc) (srcTag g s.m 1 b).1 (fm l) (src b l) (V l))
          ∧ ScratchAfter s s' (storedByte lanes (fun l => .ok (loc l)) n V)
          ∧ (g.relPend = none → s'.m.mem = s.m.mem ∧ (∀ c, c ≠ t.core → s'.m.core c = s.m.core c) ∧ ∀ c va, va % 4 = 0 →
            let stored := storedGlobal lanes (fun l => .ok (loc l)) n V
            match l1Find (s.m.core t.core) c va with
            | none => l1Find (s'.m.core t.core) c va = none
            | some e => ∃ e', l1Find (s'.m.core t.core) c va = some e' ∧ e'.attr = e.attr
              ∧ (c = t.ctx → (∃ k, k < 4 ∧ (stored (va + k)).isSome = true) → e'.d = true)
              ∧ ∀ k, k < 4 → getByte e'.val k = if c = t.ctx then (stored (va + k)).getD (getByte e.val k) else getByte e.val k))
      ∧ ∀ i d a b op ord sc, gatmSpec i = some (h, d, a, b, op, ord, sc) → Unheld s t g i → Passes i t g s.m.draw →
        (∀ l ∈ lanes, n l = 4 ∨ n l = 8) → sc = .team ∨ (∀ l ∈ lanes, ∃ tid o cl, loc l = .sp tid o cl) →
        let addr := fun l => srcVal g g s.m.draw 0 .n64 a l
        at' ⟨true, true⟩ addr → owns addr → (∀ l ∈ lanes, ∀ tid o cl, loc l = .sp tid o cl → (s.m.team? tid).isSome = true) →
        dstPair t d tag = none → oddPair b (srcTag g s.m 1 b).1 = false →
        ∃ s' g', exec i s = .next s' ∧ Completed s s' r (d.ids (tyOfTag tag).wide) (nextPc g.pc h) ∧ SameFlow s s' r
          ∧ OthersKept s s' r ∧ s'.m.group? r = some g'
          ∧ (∀ tid u, s.m.team? tid = some u → ∃ u', s'.m.team? tid = some u' ∧ ∀ o,
            (∀ l ∈ lanes, ∀ p cl, loc l = .sp tid p cl → ¬ (p ≤ o ∧ o < p + n l)) → Memory.get u'.scratch o = Memory.get u.scratch o)
          ∧ (ord = false → g.relPend = none → s'.m.mem = s.m.mem)
          ∧ ∀ l, lanes = [l] → ∃ (bv old new : DWord) (v : DWord),
            StoredAs (if op = .add ∨ op = .sub then plainCtl else ctlOf plainHd fpc) (srcTag g s.m 1 b).1 (fm l) (src b l) bv
            ∧ GenericAtomic fpc op (fm l) old.toNat bv.toNat new.toNat ∧ LoadedAs fpc true (fm l) old v
            ∧ Written g g' d (tyOfTag tag).wide (actOf g h s.m.draw) (fun _ => v)
            ∧ (∀ tid o cl u, loc l = .sp tid o cl → s.m.team? tid = some u →
              old = (if n l = 8 then spWord u (o + 4) ++ spWord u o else (spWord u o).setWidth 64)
              ∧ ∃ u', s'.m.team? tid = some u' ∧ (if n l = 8 then spWord u' (o + 4) ++ spWord u' o else (spWord u' o).setWidth 64)
                = if n l = 8 then new else (new.setWidth 32).setWidth 64)
            ∧ ∀ va e, loc l = .glob va → l1Find (s.m.core t.core) t.ctx va = some e → old.setWidth 32 = e.val
              ∧ (ord = false → ∃ e', l1Find (s'.m.core t.core) t.ctx va = some e' ∧ e'.val = new.setWidth 32 ∧ e'.d = true)

/-! ### Indexed moves (R272 to R275) -/

/-- `movx` reads and `movxw` writes, in each active lane, the window register that the lane's index names; an index past the
window in an active lane traps before any effect (R272 to R275). -/
def Obligations.IndexedMoves : Prop :=
  ∀ (h : Hd) (ty : Ty) (d a b c : Opnd) (s : State) (r : GRef) (t : Team) (g : Group), Issuing s r t g → Alone h →
    Active h g s.m.draw → t.valloc ≤ 256 →
    let act := (memberOf g h s.m.draw).act
    let idx := fun l => (srcVal g g s.m.draw 1 .n32 b l).toNat
    let len := (srcVal g g s.m.draw 2 .n32 c 0).toNat
    let inside := ∀ l, l < 32 → act.has l = true → idx l < len
    let traps := fun i => exec i s = .next (stopped s t (Stop.trap 0x4A g (nextPc g.pc h)))
    (Passes (.movx h ty d a b c) t g s.m.draw →
        (inside → Yields (.movx h ty d a b c) h s r g d ty.wide (fun l => srcVal g g s.m.draw 0 ty (windowReg ty a (idx l)) l))
          ∧ (¬ inside → traps (.movx h ty d a b c)))
      ∧ (Passes (.movxw h ty d a b c) t g s.m.draw →
        (inside → Completes (.movxw h ty d a b c) h s r g ((List.range len).flatMap (fun i => (windowReg ty d i).ids ty.wide))
            (fun s' g' => OnlyGroup s s' r ∧ ∀ i l, i < len → l < 32 → holding g'.regs ty.wide (windowReg ty d i) l =
              if act.has l = true ∧ idx l = i then keeping ty.wide (windowReg ty d i) (srcVal g g s.m.draw 0 ty a l)
              else holding g.regs ty.wide (windowReg ty d i) l))
          ∧ (¬ inside → traps (.movxw h ty d a b c)))

/-! ### Engine work (R136 to R158, R209, R329 to R339) -/

/-- Copies, multicast, row operations, PLANE and UNPLANE: one that passes its checks completes and enters one piece of work,
with nothing moved yet; a sixty-fifth entry and a check that fails trap with no effect (R137, R140, R154, R330, R331, R337, R338,
R351). -/
def Obligations.EngineWork : Prop :=
  ∀ (h : Hd) (d a b : Opnd) (s : State) (r : GRef) (t : Team) (g : Group), Issuing s r t g → Alone h → Active h g s.m.draw →
    let val := fun slot o => engVal g s.m.draw slot o
    let still := fun (s' : State) => ScratchAfter s s' (fun _ _ => none)
    let traps := fun (i : Instr) (c : Cause) (x : DWord) =>
      exec i s = .next (stopped s t { Stop.trap c g (nextPc g.pc h) with addr := x })
    let enters := fun (i : Instr) (k : WorkKind) (P : State → Prop) =>
      (g.openCnt < 64 → Enters i h s r t g k P) ∧ (64 ≤ g.openCnt → traps i 0x1C0 0)
    (∀ i (bar : Option (BitVec 7)), (i = .cpy h d a b ∧ bar = none) ∨ (∃ n, i = .cpyBar h d a b n ∧ bar = some n) →
        Passes i t g s.m.draw →
        let len := (val 2 b).toNat
        let good := 0 < len ∧ len ≤ 65536 ∧ len % 16 = 0
        let there := (val 0 d).toNat % 16 = 0 ∧ (val 1 a).toNat % 16 = 0
          ∧ ∀ x ∈ [val 0 d, val 1 a], ∀ n ∈ [1, len], ∃ loc, steer s.m t g 0 x n = .ok loc
        (¬ good → traps i 0x1C1 0) ∧ (good → (val 0 d).toNat % 16 ≠ 0 → traps i 0xC1 (val 0 d))
          ∧ (good → there → barBad t bar = true → traps i 0x189 0)
          ∧ (good → there → barBad t bar = false →
            enters i (.copy (val 0 d) (val 1 a) len len (bar.map BitVec.toNat)) still))
      ∧ (∀ i z, (i = .cpyl4 h d a ∧ z = 4) ∨ (i = .cpyl8 h d a ∧ z = 8) ∨ (i = .cpyl16 h d a ∧ z = 16) → Passes i t g s.m.draw →
        let act := (memberOf g h s.m.draw).act
        let lanes := (lanesOf act).map (fun l => (l, srcVal g g s.m.draw 0 .n64 d l, srcVal g g s.m.draw 1 .n64 a l))
        lanes ≠ [] → (∀ x ∈ lanes, ∀ p ∈ [x.2.1, x.2.2], p.toNat % z = 0 ∧ ∃ loc, steer s.m t g x.1 p z = .ok loc) →
        enters i (.copyl lanes z) still)
      ∧ (∀ i (bar : Option (BitVec 7)) rcv, (i = .mcast h d a b ∧ bar = none) ∨ (∃ n, i = .mcastBar h d a b n ∧ bar = some n) →
        Passes i t g s.m.draw →
        let v := val 0 d
        let len := (val 2 b).toNat
        let doff := (v.extractLsb' 0 21).toNat
        let map := if v.getLsbD 51 then some ((v.extractLsb' 32 16).toNat * 32) else none
        let bits := mapInit ((doff + len - 1) / 512 - doff / 512 + 1) (fun _ => true)
        mcastPlan s.m t g v (val 1 a) len bar = .ok rcv → rcv ≠ [] →
        enters i (.mcast (val 1 a) len doff rcv map (bar.map BitVec.toNat) []) (fun s' => ScratchWf s →
          ScratchAfter s s' (fun tid q => match map with
            | some o => if tid ∈ rcv ∧ o ≤ q then bits[q - o]? else none
            | none => none)))
      ∧ (∀ i op (y : Option Opnd) n, d = .s n → (i = .rowcpy h d a ∧ op = .cpy ∧ y = none) ∨ (i = .rowfill h d a ∧ op = .fill ∧ y = none)
          ∨ (i = .rownot h d a ∧ op = .not ∧ y = none) ∨ (i = .rowand h d a b ∧ op = .and ∧ y = some b)
          ∨ (i = .rowor h d a b ∧ op = .or ∧ y = some b) ∨ (i = .rowxor h d a b ∧ op = .xor ∧ y = some b) → Passes i t g s.m.draw →
        let f := (readS g (n.toNat + 1) s.m.draw 6).toNat
        let frames := [val 0 d] ++ (if op = .fill then [] else [val 1 a]) ++ y.toList.map (val 2)
        (f = 0 ∨ 4096 < f → traps i 0x1C6 0)
          ∧ (0 < f → f ≤ 4096 → (∀ x ∈ frames, x.toNat + 2048 * f ≤ 0xF000000000000 ∧ x.toNat % 2048 = 0) →
            enters i (.row op (val 0 d) (val 1 a) ((y.map (val 2)).getD 0) f []) still))
      ∧ ∀ i un ha hb, (i = .plane h ha hb ∧ un = false) ∨ (i = .unplane h ha hb ∧ un = true) → h.resv = false →
        let x := readH g ha.toNat s.m.draw 1
        let y := readH g hb.toNat s.m.draw 2
        let bad := planeFail un t.spsz (Shape.of (if un then y else x)) (Shape.of (if un then x else y))
        (∀ c, bad = some c → traps i c 0) ∧ (bad = none → enters i (.plane un x y) still)

/-- Staging, batches and chunk maps: `stage` names the registers it stages; `seal` writes the number of the batch that it
closes, or waits for a place among 32; `waitb` and `waitm` go on where their condition is met and park where it is not; `testm`
gives each lane its chunk's bit; `rowmate` gives the row-mate word. Of the shape register `waitm` and `testm` look at the map offset
alone and make none of the checks of R74: the model's reading (log entry 52) (R137, R138, R145, R153, R329, R332, R333, R335, R336, R339). -/
def Obligations.BatchesAndMaps : Prop :=
  ∀ (h : Hd) (d a : Opnd) (ha : BitVec 4) (s : State) (r : GRef) (t : Team) (g : Group), Issuing s r t g → Alone h →
    Active h g s.m.draw →
    let v := engVal g s.m.draw 0 a
    let traps := fun (i : Instr) (c : Cause) => exec i s = .next (stopped s t (Stop.trap c g (nextPc g.pc h)))
    let only := fun (s' : State) => OnlyGroup s s' r
    (∀ cnt n, a = .v n → Passes (.stage h a cnt) t g s.m.draw → Completes (.stage h a cnt) h s r g [] (fun s' g' => only s'
        ∧ g'.staged = (List.range (min (cnt.toNat + 1) 16)).map (fun i => n.toNat + i)))
      ∧ (∀ n, d = .s n → Passes (.seal h d) t g s.m.draw →
        (g.sealed.length < 32 → Completes (.seal h d) h s r g [.s n.toNat] (fun s' g' => OthersKept s s' r
            ∧ (g.openW ≠ [] ∨ g.openClean = [] → only s')
            ∧ g'.regs.sreg n.toNat = { val := (g.lastSeal + 1).setWidth 64, tag := 6 } ∧ g'.lastSeal = g.lastSeal + 1
            ∧ g'.openCnt = 0 ∧ g'.openW = []
            ∧ g'.sealed = g.sealed ++ (if g.openW = [] then [] else [{ num := g.lastSeal + 1, wids := g.openW, clean := g.openClean }])))
          ∧ (32 ≤ g.sealed.length → Parks (.seal h d) h s r g (.seal d) only))
      ∧ (Passes (.waitb h a) t g s.m.draw →
        let far := g.lastSeal - v.setWidth 16
        let open' := g.sealed.filter (fun b => decide (far.toNat ≤ (g.lastSeal - b.num).toNat))
        (2 ^ 15 ≤ far.toNat → traps (.waitb h a) 0x186)
          ∧ (far.toNat < 2 ^ 15 → open' = [] → Completes (.waitb h a) h s r g [] (fun s' _ => only s'))
          ∧ (far.toNat < 2 ^ 15 → open' ≠ [] → Parks (.waitb h a) h s r g (.waitb (open'.map (fun b => b.num))) only))
      ∧ (Passes (.waitm h ha a) t g s.m.draw →
        let o := mapOffOf s.m g ha + 4 * (v.extractLsb' 32 6).toNat
        let mask : BitVec 32 := v.setWidth 32
        (v.extractLsb' 38 26 ≠ 0 → traps (.waitm h ha a) 0x1D3)
          ∧ (v.extractLsb' 38 26 = 0 → t.spsz < o + 4 → traps (.waitm h ha a) 0xC2)
          ∧ (v.extractLsb' 38 26 = 0 → o + 4 ≤ t.spsz → spWord t o &&& mask = mask →
            Completes (.waitm h ha a) h s r g [] (fun s' _ => only s'))
          ∧ (v.extractLsb' 38 26 = 0 → o + 4 ≤ t.spsz → spWord t o &&& mask ≠ mask →
            Parks (.waitm h ha a) h s r g (.waitm o mask) only))
      ∧ (Passes (.testm h d ha a) t g s.m.draw →
        let act := (memberOf g h s.m.draw).act
        let idx := fun l => (srcVal g g s.m.draw 0 .n32 a l).toNat
        let map := mapOffOf s.m g ha
        ((∃ l < 32, act.has l = true ∧ 2048 ≤ idx l) → traps (.testm h d ha a) 0x1D3)
          ∧ ((∀ l < 32, act.has l = true → idx l < 2048 ∧ map + 4 * (idx l / 32) + 4 ≤ t.spsz) →
            Yields (.testm h d ha a) h s r g d false
              (fun l => bit 64 ((Memory.get t.scratch (map + idx l / 8)).getLsbD (idx l % 8)))))
      ∧ ∀ n, d = .s n → Passes (.rowmate h d a) t g s.m.draw → Completes (.rowmate h d a) h s r g [.s n.toNat] (fun s' g' =>
        OthersKept s s' r ∧ TeamsKept s s' ∧ s'.m.mem = s.m.mem ∧ (g'.regs.sreg n.toNat).val = rowmateVal s.m t.ctx v)

/-! ### Barriers and shape registers (R71, R72, R149, R150, R340 to R346) -/

/-- Barriers: an arrival counts, and the last one with nothing outstanding inverts the phase, counts from 0 again and lets every
waiting group go on; WAIT parks until the phase that the group arrived in is over; EXPECT raises P and INIT sets the target;
a number that is not there, a broken barrier, an overrun, a bad count and a busy barrier fault. EXPECT acts on a broken barrier as
on another one: the model's reading (log entry 54) (R149, R150, R340, R341). -/
def Obligations.Barriers : Prop :=
  ∀ (h : Hd) (b : BitVec 7) (ord : Option MScope) (a : Opnd) (s : State) (r : GRef) (t : Team) (g : Group), Issuing s r t g →
    Alone h → Active h g s.m.draw → h.resv = false → g.status = .ready → (t.groups.map (fun q => q.gno)).Nodup →
    let x := t.bar b.toNat
    let v := (engVal g s.m.draw 0 a).toNat
    let traps := fun (i : Instr) (c : Cause) => exec i s = .next (stopped s t (Stop.trap c g (nextPc g.pc h)))
    let holds := fun (y : Barrier) (s' : State) => ∃ t', s'.m.team? r.tid = some t' ∧ t'.bar b.toNat = y
    let done := fun (i : Instr) (y : Barrier) (P : State → Prop) =>
      Completes i h s r g [] (fun s' _ => holds y s' ∧ P s')
    let woken := fun (s' : State) => ∀ n q o, t.group? n = some q → q.status = .parked (.barrier b.toNat o) → q.back = none → q.lost = [] →
      ∃ q', s'.m.group? { tid := r.tid, gno := n } = some q' ∧ q'.retired = q.retired + 1 ∧ q'.pc = q.npc ∧ q'.regs = q.regs
    let others := fun (s' : State) => OthersKept s s' r
    let free := fun (i : Instr) => Unheld s t g i
    (∀ c, arriveFail t b = some c → (free (.barArrive h b ord) → traps (.barArrive h b ord) c) ∧ (free (.barSync h b ord) → traps (.barSync h b ord) c))
      ∧ (arriveFail t b = none → x.cnt + 1 = x.tgt → x.p = 0 → ∀ i, i = .barArrive h b ord ∨ i = .barSync h b ord → free i →
        done i { x with phase := !x.phase, cnt := 0 } woken)
      ∧ (arriveFail t b = none → x.cnt + 1 ≠ x.tgt ∨ x.p ≠ 0 →
        (free (.barArrive h b ord) → done (.barArrive h b ord) { x with cnt := x.cnt + 1 } others)
        ∧ (free (.barSync h b ord) → Parks (.barSync h b ord) h s r g (.barrier b.toNat ord) (holds { x with cnt := x.cnt + 1 })))
      ∧ (b.toNat < t.bars.length → x.broken = true → traps (.barWait h b ord) 0x1CA)
      ∧ (b.toNat < t.bars.length → x.broken = false → x.phase ≠ g.wph.getD b.toNat false → done (.barWait h b ord) x others)
      ∧ (b.toNat < t.bars.length → x.broken = false → x.phase = g.wph.getD b.toNat false →
        Parks (.barWait h b ord) h s r g (.barrier b.toNat ord) (holds x))
      ∧ (t.bars.length ≤ b.toNat → traps (.barWait h b ord) 0x189 ∧ (Passes (.barExpect h b a) t g s.m.draw → traps (.barExpect h b a) 0x189)
        ∧ (Passes (.barInit h b a) t g s.m.draw → traps (.barInit h b a) 0x189))
      ∧ (Passes (.barExpect h b a) t g s.m.draw → b.toNat < t.bars.length →
        let z := decide (x.cnt = x.tgt ∧ x.p + v = 0)
        (v = 0 ∨ 2 ^ 24 ≤ v → traps (.barExpect h b a) 0x47)
          ∧ (0 < v → v < 2 ^ 24 → 2 ^ 24 ≤ x.p + v → traps (.barExpect h b a) 0x187)
          ∧ (0 < v → v < 2 ^ 24 → x.p + v < 2 ^ 24 → done (.barExpect h b a)
            { x with p := x.p + v, phase := x.phase ^^ z, cnt := if z then 0 else x.cnt } (fun s' => z = false → others s')))
      ∧ (Passes (.barInit h b a) t g s.m.draw → b.toNat < t.bars.length →
        (v = 0 ∨ 32 < v → traps (.barInit h b a) 0x47)
          ∧ (0 < v → v ≤ 32 → x.cnt ≠ 0 ∨ barWaiters t b.toNat ≠ [] → traps (.barInit h b a) 0x18B)
          ∧ (0 < v → v ≤ 32 → x.cnt = 0 → barWaiters t b.toNat = [] →
            done (.barInit h b a) { x with tgt := v, p := 0, broken := false } (fun s' => others s' ∧ DeviceKept s s')))

/-- Shape registers: `shld` reads 64 aligned bytes and traps 0x41 where one of the lowest 51 bits is not 0; `shst` stores them with those bits 0; `shset`
replaces one field with a value that fits it and `shget` reads one (R71, R72, R345, R346). -/
def Obligations.ShapeRegisters : Prop :=
  ∀ (h : Hd) (ha : BitVec 4) (f : BitVec 5) (d a : Opnd) (s : State) (r : GRef) (t : Team) (g : Group), Issuing s r t g →
    Alone h → Active h g s.m.draw →
    let v := engVal g s.m.draw 0 a
    let old := readH g ha.toNat s.m.draw 1
    let traps := fun (i : Instr) (c : Cause) (x : DWord) =>
      exec i s = .next (stopped s t { Stop.trap c g (nextPc g.pc h) with addr := x })
    let word := fun (i : Nat) => v + BitVec.ofNat 64 (4 * i)
    (∀ (W : Nat → Word), Passes (.shld h ha a) t g s.m.draw →
        let x := ofWords ((List.range 16).map W)
        (v.toNat % 64 ≠ 0 → traps (.shld h ha a) 0xC1 v)
          ∧ (v.toNat % 64 = 0 → (∀ i < 16, ∃ loc, steer s.m t g 0 (word i) 4 = .ok loc
              ∧ Reads s.m t loc (isStackAddr (word i)) 4 ((W i).setWidth 64)) →
            (x.extractLsb' 0 51 ≠ 0 → g.status = .ready → ∀ c, s.m.ctx? t.ctx = some c → ∃ s' g' c' p, exec (.shld h ha a) s = .next s'
                ∧ s'.m.group? r = some g' ∧ g'.status = .suspended ∧ g'.pc = g.pc ∧ g'.regs = g.regs ∧ s'.m.ctx? t.ctx = some c'
                ∧ c'.pend = c.pend ++ [p] ∧ p.cause = 0x41 ∧ p.gno = g.gno ∧ p.pc = g.pc)
              ∧ (x.extractLsb' 0 51 = 0 → watchHit s.fw s.m t.ctx ⟨true, false⟩ v 64 = false → Completes (.shld h ha a) h s r g [.h ha.toNat] (fun s' g' => OnlyGroup s s' r
                ∧ g'.regs.hreg ha.toNat = x))))
      ∧ (v.toNat % 64 ≠ 0 → Unheld s t g (.shst h ha a) → Passes (.shst h ha a) t g s.m.draw → traps (.shst h ha a) 0xC1 v)
      ∧ (∀ tid o cl, Passes (.shst h ha a) t g s.m.draw → v.toNat % 64 = 0 → g.relPend = none → ScratchWf s →
        watchHit s.fw s.m t.ctx ⟨false, true⟩ v 64 = false →
        (∀ i < 16, steer s.m t g 0 (word i) 4 = .ok (.sp tid (o + 4 * i) cl)) →
        Completes (.shst h ha a) h s r g [] (fun s' _ => OthersKept s s' r ∧ DeviceKept s s'
          ∧ ScratchAfter s s' (fun u q => if u = tid ∧ o ≤ q ∧ q < o + 64 then
              some ((old &&& ~~~(0x7FFFFFFFFFFFF#512)).extractLsb' (8 * (q - o)) 8) else none)))
      ∧ (Passes (.shset h ha f a) t g s.m.draw →
        (shapeField f.toNat = none → traps (.shset h ha f a) 0x41 0) ∧ ∀ lo n sg, shapeField f.toNat = some (lo, n, sg) →
          let fits := if sg then -(2 ^ 47 : Int) ≤ v.toInt ∧ v.toInt < 2 ^ 47 else v.toNat < 2 ^ n
          (¬ fits → traps (.shset h ha f a) 0x47 0)
            ∧ (fits → Completes (.shset h ha f a) h s r g [.h ha.toNat] (fun s' g' => OnlyGroup s s' r ∧ ∀ j, j < 512 →
              (g'.regs.hreg ha.toNat).getLsbD j = if lo ≤ j ∧ j < lo + n then v.getLsbD (j - lo) else old.getLsbD j)))
      ∧ (Passes (.shget h d ha f) t g s.m.draw → (shapeField f.toNat = none → traps (.shget h d ha f) 0x41 0)
        ∧ ∀ lo n sg, shapeField f.toNat = some (lo, n, sg) → Yields (.shget h d ha f) h s r g d false
          (fun _ => BitVec.ofInt 64 (intOf sg n (old.extractLsb' lo n).toNat)))

/-! ### Instructions that only a set issues (R334, R344) -/

/-- A bulk transfer and `setdecl` at their rendezvous: the transfer is entered among the team's works and its chunk map opened,
one bit for each 512-byte chunk, 0 where a slice touches it; the set takes the list that the lead's pointer names; every member
retires (R143, R144, R334, R344). -/
def Obligations.TeamWideIssue : Prop :=
  ∀ (tid : Nat) (k : Option (BitVec 3)) (v : Rdv) (h : Hd) (s : State) (t : Team), s.m.team? tid = some t →
    t.rdv? k = some v → rdvReady t v = true → ctxRuns s.m t.ctx = true → h.resv = false →
    let goes := fun (P : Team → Prop) => ∃ s' t', exec (.rendezvousIssue tid k) s = .next s' ∧ s'.fw = s.fw
      ∧ s'.m.team? tid = some t' ∧ t'.rdv? k = none ∧ MembersGo t t' k ∧ P t'
    (∀ ha store (bar : Option (BitVec 7)) base n lead rest, (v.i = .bulkLd h ha ∧ store = false ∧ bar = none)
          ∨ (v.i = .bulkSt h ha ∧ store = true ∧ bar = none) ∨ (∃ b, v.i = .bulkLdBar h ha b ∧ store = false ∧ bar = some b)
          ∨ (∃ b, v.i = .bulkStBar h ha b ∧ store = true ∧ bar = some b) →
        let sl := bulkSlices s.m t (wideMembers t v) ha
        let ss := sl.map (fun x => Shape.of x.2)
        sl = lead :: rest → bulkFail t bar ss = none → Memory.wf t.scratch = true →
        (∀ x ∈ ss, 512 * base ≤ x.sdst ∧ x.sdst + x.dense ≤ 512 * (base + n)) → (∃ x ∈ ss, x.sdst < 512 * (base + 1)) →
        (∃ x ∈ ss, 512 * (base + n - 1) < x.sdst + x.dense) → n ≤ 2048 →
        let map := (Shape.of lead.2).mapoff * 32
        let mlen := 32 * ((n + 255) / 256)
        map + mlen ≤ t.spsz → map + mlen ≤ 512 * base ∨ 512 * (base + n) ≤ map →
        let opened := fun j => ss.any (fun x => decide (x.sdst < 512 * (base + j) + 512 ∧ 512 * (base + j) < x.sdst + x.dense))
        let kind : WorkKind := .bulk store sl base n map (bar.map BitVec.toNat) ((List.range n).filter (fun j => !opened j))
          (((t.group? lead.1).map (fun q => q.pc)).getD 0)
        goes (fun t' => t'.works = t.works ++ [{ wid := s.m.nextWid, gno := lead.1, kind := kind, st := .run }]
          ∧ (∀ j, j < 8 * mlen → (Memory.get t'.scratch (map + j / 8)).getLsbD (j % 8) = (decide (n ≤ j) || !opened j))
          ∧ ∀ o, o < map ∨ map + mlen ≤ o → Memory.get t'.scratch o = Memory.get t.scratch o))
      ∧ ∀ kk a mb g n (B : Nat → Byte), v.i = .setdecl h kk a → (wideMembers t v).head? = some mb → t.group? mb.gno = some g →
        Passes (.setdecl h kk a) t g s.m.draw →
        let byte := fun i => engVal g s.m.draw 0 a + BitVec.ofNat 64 i
        let l := (List.range n).map (fun i => (B (i + 1)).toNat)
        (∀ i, i < n + 1 → ∃ loc, steer s.m t g 0 (byte i) 1 = .ok loc
          ∧ Reads s.m t loc (isStackAddr (byte i)) 1 ((B i).setWidth 64)) →
        (B 0).toNat = n → 1 ≤ n → n ≤ 32 → l.Nodup → (∀ x ∈ l, x < t.groups.length) →
        goes (fun t' => t'.sets.getD kk.toNat none = some l ∧ t'.scratch = t.scratch
          ∧ ∀ j, j ≠ kk.toNat → t'.sets.getD j none = t.sets.getD j none)

/-! ### Damask (R76 to R79, R205 to R225, R347 to R352) -/

/-- Tiles, with no SACC and no drain of the core waiting: `macq` takes a free token and `mrel` gives it up, `mzero` sets the type
and zeros, `mwait` waits for the engine's loops on the tile and takes the token back, `mloop` queues a loop with its operands and passes the token to the engine; each of
them without the token faults. A free token goes to the group of the lowest number that asks for it in a cycle. That every tile
instruction of a team without ACC takes 0x1C3 is the model's reading of R404 and R217 (log entry 20) (R76, R77, R212 to R218,
R347, R348, R404). -/
def Obligations.TokensAndLoops : Prop :=
  ∀ (h : Hd) (k : BitVec 2) (s : State) (r : GRef) (t : Team) (g : Group), Issuing s r t g → Alone h → Active h g s.m.draw →
    h.resv = false → g.status = .ready → (s.m.core t.core).saccs = [] → t.core < s.m.cores.length →
    (∀ w ∈ t.works, ∀ k' o bs, w.kind = .drain k' o bs → w.st ≠ .run) →
    let x := s.m.tile t.core k
    let traps := fun (i : Instr) (c : Cause) => exec i s = .next (stopped s t (Stop.trap c g (nextPc g.pc h)))
    let mine := x.holder = .group t.tid g.gno
    let busy := x.holder = .engine t.tid g.gno
    let done := fun (i : Instr) (P : State → Prop) => Completes i h s r g [] (fun s' _ => P s')
    let leaves := fun (y : Tile) (s' : State) => s'.m.tile t.core k = y ∧ OthersKept s s' r ∧ s'.m.mem = s.m.mem
      ∧ ∀ j, j ≠ k → s'.m.tile t.core j = s.m.tile t.core j
    (t.acc = false → ∀ i, i = .macq h k ∨ i = .mrel h k ∨ i = .mzeroF32 h k ∨ i = .mzeroI32 h k ∨ i = .mzeroI32s h k ∨ i = .mwait h k →
        traps i 0x1C3)
      ∧ (t.acc = true →
        (mine → done (.macq h k) (leaves x)) ∧ (busy → traps (.macq h k) 0x1CD)
          ∧ (x.holder = .nobody → macqWaiters s.m t.core k = [] → tokenRival s.m t.core g.gno = false →
            done (.macq h k) (leaves { x with holder := .group t.tid g.gno, inuse := true }))
          ∧ (x.holder = .nobody → macqWaiters s.m t.core k ≠ [] ∨ tokenRival s.m t.core g.gno = true →
            Parks (.macq h k) h s r g (.macq k) (fun s' => DeviceKept s s'))
          ∧ (¬ mine → ¬ busy → x.holder ≠ .nobody → Parks (.macq h k) h s r g (.macq k) (fun s' => DeviceKept s s'))
          ∧ (mine → (∀ w ∈ macqWaiters s.m t.core k, w.1 ≠ r) → done (.mrel h k) (fun s' =>
            macqWaiters s.m t.core k = [] → leaves { x with holder := .nobody, inuse := false } s'))
          ∧ (mine → ∀ i ty, (i = .mzeroF32 h k ∧ ty = .f32) ∨ (i = .mzeroI32 h k ∧ ty = .i32) ∨ (i = .mzeroI32s h k ∧ ty = .i32s) →
            done i (leaves { x with ty := ty, els := [], dirty := false }))
          ∧ (mine → done (.mwait h k) (leaves x)) ∧ (busy → loopOn s.m t.core k = true → Parks (.mwait h k) h s r g (.mwait k) (fun s' => DeviceKept s s'))
          ∧ (busy → loopOn s.m t.core k = false → done (.mwait h k) (leaves { x with holder := .group t.tid g.gno }))
          ∧ (¬ mine → traps (.mrel h k) 0x1C3 ∧ traps (.mzeroF32 h k) 0x1C3 ∧ traps (.mzeroI32 h k) 0x1C3 ∧ traps (.mzeroI32s h k) 0x1C3
            ∧ (¬ busy → traps (.mwait h k) 0x1C3)))
      ∧ ∀ ha hb a, Passes (.mloop h k ha hb a) t g s.m.draw →
        let l : Loop := { lid := s.m.nextWid, tid := t.tid, gno := g.gno, tile := k, ha := readH g ha.toNat s.m.draw 1
                          hb := readH g hb.toNat s.m.draw 2, aTid := t.tid, bTid := t.tid, aSnap := [], bSnap := []
                          ctrl := engVal g s.m.draw 0 a, step := 0, running := false, planesDone := false }
        (∀ c, mloopFail s.m t g l = some c → traps (.mloop h k ha hb a) c)
          ∧ (mloopFail s.m t g l = none → l.pmode = 0 → ((s.m.core t.core).loops.filter (fun y => !y.planesDone)).length < 4 →
            done (.mloop h k ha hb a) (fun s' => OthersKept s s' r
              ∧ (s'.m.core t.core).loops = (s.m.core t.core).loops ++ [{ l with aSnap := t.scratch, bSnap := t.scratch }]
              ∧ s'.m.tile t.core k = { x with holder := .engine t.tid g.gno }))
          ∧ (mloopFail s.m t g l = none → l.pmode = 0 → 4 ≤ ((s.m.core t.core).loops.filter (fun y => !y.planesDone)).length →
            Parks (.mloop h k ha hb a) h s r g (.engine { l with aSnap := t.scratch, bSnap := t.scratch }) (fun s' => s'.m.tile t.core k = x))

/-- Loading and draining a tile that the group holds, SACC and histograms: which element goes where, converted exactly on the way
in and with one rounding on the way out, and a drain's count of every element before it narrows; a histogram that the team does not
have traps (R107, R108, R219 to R222, R349, R350, R352). The model's reading: the cause of a team without ACC (log entry 20), and
that the register forms load, drain and count the rows of lanes that are not present (log entry 61). -/
def Obligations.TileData : Prop :=
  ∀ (h : Hd) (k : BitVec 2) (s : State) (r : GRef) (t : Team) (g : Group), Issuing s r t g → Alone h → Active h g s.m.draw →
    h.resv = false → (s.m.core t.core).saccs = [] → t.core < s.m.cores.length →
    (∀ w ∈ t.works, ∀ k' o bs, w.kind = .drain k' o bs → w.st ≠ .run) →
    let x := s.m.tile t.core k
    let val := fun slot o => engVal g s.m.draw slot o
    let traps := fun (i : Instr) (c : Cause) => exec i s = .next (stopped s t (Stop.trap c g (nextPc g.pc h)))
    let leaves := fun (y : Tile) (s' : State) => s'.m.tile t.core k = y ∧ OthersKept s s' r ∧ TeamsKept s s'
    let sp := fun (ha : BitVec 4) => Shape.of (readH g ha.toNat s.m.draw 1)
    let place := fun (z : Shape) (i j : Nat) => if z.layout = 3 then j * z.boxAt 1 + i else i * z.boxAt 0 + j
    ((t.acc = false ∨ x.holder ≠ .group t.tid g.gno) → ∀ ha, traps (.mldaSp h k ha) 0x1C3 ∧ traps (.mdrainSp h k ha) 0x1C3)
      ∧ (t.acc = true → x.holder = .group t.tid g.gno → Sparse.wfFrom 0 x.els = true →
        (∀ ha, tileShapeFail t x.ty (sp ha) = none → Completes (.mldaSp h k ha) h s r g [] (fun s' _ => ∃ y, leaves y s'
            ∧ y.dirty = true ∧ y.ty = x.ty ∧ y.holder = x.holder ∧ ∀ i j, j < 192 → y.get i j =
              if i < (sp ha).boxAt 1 ∧ j < (sp ha).boxAt 0 then toTile (sp ha).efmt (ofLe (Memory.bytes t.scratch
                ((sp ha).sdst + fmtBytes (sp ha).efmt * place (sp ha) i j) (fmtBytes (sp ha).efmt))) else x.get i j))
          ∧ (∀ n a, Passes (.mldaReg h k (.v n) a) t g s.m.draw → regFormFail x.ty (val 0 a) = none →
            let f := RegForm.of (val 0 a)
            Completes (.mldaReg h k (.v n) a) h s r g [] (fun s' _ => ∃ y, leaves y s' ∧ y.dirty = true ∧ y.ty = x.ty
              ∧ ∀ i j, j < 192 → y.get i j = if f.row ≤ i ∧ i < f.row + 32 ∧ f.col ≤ j ∧ j < f.col + f.cnt then
                toTile f.fmt (readVLane g (n.toNat + (j - f.col)) (i - f.row) s.m.draw (j - f.col)).toNat else x.get i j))
          ∧ (∀ ha, tileShapeFail t x.ty (sp ha) = none → histOf h = none → g.openCnt < 64 →
            Enters (.mdrainSp h k ha) h s r t g (.drain k (sp ha).sdst ((List.range ((sp ha).boxAt 0 * (sp ha).boxAt 1)).flatMap
              (fun e => leBytes (fmtBytes (sp ha).efmt) (fromTile (sp ha).efmt (x.get ((sp ha).tileCell e).1 ((sp ha).tileCell e).2)))))
              (fun s' => ScratchAfter s s' (fun _ _ => none)))
          ∧ (∀ n a, Passes (.mdrainReg h k (.v n) a) t g s.m.draw → regFormFail x.ty (val 0 a) = none → histOf h = none →
            let f := RegForm.of (val 0 a)
            Completes (.mdrainReg h k (.v n) a) h s r g ((List.range f.cnt).map (fun i => .v (n.toNat + i)))
              (fun s' g' => leaves { x with dirty := false } s' ∧ ∀ i l, i < f.cnt → l < 32 →
                (g'.regs.vreg (n.toNat + i)).lane l = if g.present.has l then
                  BitVec.ofNat 32 (fromTile f.fmt (x.get (f.row + l) (f.col + i))) else (g.regs.vreg (n.toNat + i)).lane l))
          ∧ (∀ ha n, tileShapeFail t x.ty (sp ha) = none → histOf h = some n → (t.hists.length ≤ n → traps (.mdrainSp h k ha) 0x1D2)
            ∧ ∀ q, t.hists[n]? = some q → q.ctr.length = 32 → g.openCnt < 64 →
              let vs := (List.range ((sp ha).boxAt 0 * (sp ha).boxAt 1)).map (fun e => x.get ((sp ha).tileCell e).1 ((sp ha).tileCell e).2)
              Enters (.mdrainSp h k ha) h s r t g (.drain k (sp ha).sdst (vs.flatMap (fun v =>
                leBytes (fmtBytes (sp ha).efmt) (fromTile (sp ha).efmt v)))) (fun s' => ScratchAfter s s' (fun _ _ => none)
                  ∧ ∃ t' q', s'.m.team? r.tid = some t' ∧ t'.hists = t.hists.set n q' ∧ Counts x.ty vs q q'))
          ∧ (∀ n a b, Passes (.mdrainReg h k (.v n) a) t g s.m.draw → regFormFail x.ty (val 0 a) = none → histOf h = some b →
            let f := RegForm.of (val 0 a)
            (t.hists.length ≤ b → traps (.mdrainReg h k (.v n) a) 0x1D2)
              ∧ ∀ q, t.hists[b]? = some q → q.ctr.length = 32 →
                Completes (.mdrainReg h k (.v n) a) h s r g ((List.range f.cnt).map (fun i => .v (n.toNat + i)))
                  (fun s' g' => s'.m.tile t.core k = { x with dirty := false } ∧ OthersKept s s' r
                    ∧ (∃ t' q', s'.m.team? r.tid = some t' ∧ t'.hists = t.hists.set b q' ∧ Counts x.ty
                      ((List.range f.cnt).flatMap (fun i => (List.range 32).map (fun l => x.get (f.row + l) (f.col + i)))) q q')
                    ∧ ∀ i l, i < f.cnt → l < 32 → (g'.regs.vreg (n.toNat + i)).lane l = if g.present.has l then
                      BitVec.ofNat 32 (fromTile f.fmt (x.get (f.row + l) (f.col + i))) else (g.regs.vreg (n.toNat + i)).lane l))
          ∧ (∀ i d a src cs, (i = .saccR h k a (.a src) ∧ cs = none) ∨ (i = .saccRc h k d a (.a src) ∧ cs = some (val 1 d).toNat) →
            Passes i t g s.m.draw → (s.m.tile t.core src).holder = .group t.tid g.gno →
            let rs := (val 0 a).toNat
            (x.ty ≠ .f32 ∨ (s.m.tile t.core src).ty = .f32 ∨ src = k → traps i 0x1CB)
              ∧ (x.ty = .f32 → (s.m.tile t.core src).ty ≠ .f32 → src ≠ k → rs % 4 = 0 → rs + 384 ≤ t.spsz →
                (∀ c, cs = some c → c % 4 = 0 ∧ c + 768 ≤ t.spsz) → Completes i h s r g [] (fun s' _ =>
                  leaves { x with dirty := true } s' ∧ (s'.m.core t.core).saccs =
                    [{ tid := t.tid, gno := g.gno, dst := k, src := src, rs := rs, cs := cs, snap := t.scratch }]))))
      ∧ (∀ n a, Passes (.hclr h n a) t g s.m.draw → n.toNat < t.hists.length → Completes (.hclr h n a) h s r g [] (fun s' _ =>
        OthersKept s s' r ∧ DeviceKept s s' ∧ ∃ t', s'.m.team? r.tid = some t' ∧ t'.hists = t.hists.set n.toNat
          { ctr := List.replicate 32 0, centre := (val 0 a).extractLsb' 0 8, ovf := false }))
      ∧ ∀ d n a q, Passes (.hrd h d n a) t g s.m.draw → t.hists[n.toNat]? = some q →
        (32 < (val 0 a).toNat → traps (.hrd h d n a) 0x1D2)
          ∧ ((val 0 a).toNat ≤ 32 → Yields (.hrd h d n a) h s r g d false (fun _ =>
            if (val 0 a).toNat = 32 then (bit 64 q.ovf <<< 8) ||| q.centre.setWidth 64
            else (q.ctr.getD (val 0 a).toNat 0).setWidth 64))

/-! ### Launch, special registers and site reset (R81, R203, R353, R354, R357, R385 to R392) -/

/-- `sread` gives a special register's value, that of the tables of R81 and R386, and, of FQTAIL, acquires; one of the supervisor's
traps at level 0. `swrite` traps at level 0, whichever register it names; above it writes a register that can be written, refuses
reserved bits and leaves every other one alone (R79, R81, R354, R385, R386, R388, R472). That all cores read one CYCLE counter is the
model's choice (log entry 1). -/
def Obligations.SpecialRegisters : Prop :=
  ∀ (h : Hd) (d a : Opnd) (idx : BitVec 8) (s : State) (r : GRef) (t : Team) (g : Group) (k : Context), Issuing s r t g →
    Alone h → Active h g s.m.draw → s.m.ctx? t.ctx = some k →
    let i := idx.toNat
    let v := engVal g s.m.draw 0 a
    let n := nextPc g.pc h
    let traps := fun (j : Instr) (c : Cause) => exec j s = .next (stopped s t (Stop.trap c g n))
    let act := (memberOf g h s.m.draw).act
    let writes := fun (k' : Context) => Completes (.swrite h idx a) h s r g [] (fun s' _ => OthersKept s s' r
      ∧ TeamsKept s s' ∧ s'.m.mem = s.m.mem ∧ s'.m.ctx? t.ctx = some k')
    (∀ q, s.m.grid? t.gid = some q → ∀ j l, SpecialReg s t g q k j l (sregVal s.fw s.m t g j l))
      ∧ (check h (opSread h d idx) t g s.m.draw = none → i ≠ 0x44 → i < 0x40 ∨ t.level ≠ 0 →
        Yields (.sread h d idx) h s r g d (sregWide i) (fun l => sregVal s.fw s.m t g i l))
      ∧ (check h (opSread h d idx) t g s.m.draw = none → i = 0x44 → t.level ≠ 0 → act ≠ 0 →
        Completes (.sread h d idx) h s r g (d.ids true) (fun s' g' => OthersKept s s' r
          ∧ Written g g' d true act (fun _ => (k.drop ++ k.fqtail).setWidth 64)
          ∧ (s'.m.core t.core).l1 = (s.m.core t.core).l1.filter (fun w => w.d)))
      ∧ (0x40 ≤ i → i ≤ 0x45 → t.level = 0 → act ≠ 0 → (h.scope = .group → ∀ j, d = .s j → traps (.sread h d idx) 0x380)
        ∧ (check h (opSread h d idx) t g s.m.draw = none → traps (.sread h d idx) 0x380))
      ∧ (t.level = 0 → act ≠ 0 → (check h (opSwrite h idx a) t g s.m.draw = none → traps (.swrite h idx a) 0x380)
        ∧ (i ≤ 0x1B ∨ (0x20 ≤ i ∧ i ≤ 0x2F) ∨ (0x40 ≤ i ∧ i ≤ 0x45) → ∀ j, a = .s j → traps (.swrite h idx a) 0x380))
      ∧ (check h (opSwrite h idx a) t g s.m.draw = none → act ≠ 0 → t.level ≠ 0 →
        (i = 0x13 → v.toNat % 8 = 0 → writes { k with ctxb := v }) ∧ (i = 0x13 → v.toNat % 8 ≠ 0 → traps (.swrite h idx a) 0x41)
          ∧ (i = 0x14 → v.toNat < 4 → writes { k with qlim := v.setWidth 2 }) ∧ (i = 0x14 → 4 ≤ v.toNat → traps (.swrite h idx a) 0x41)
          ∧ (i = 0x15 → v.toNat < 2 ^ 16 → writes { k with rvlim := v.setWidth 16 })
          ∧ (i = 0x15 → 2 ^ 16 ≤ v.toNat → traps (.swrite h idx a) 0x41)
          ∧ (i = 0x17 → v.extractLsb' 2 30 = 0 → writes { k with fpc := v.setWidth 2 })
          ∧ (i = 0x17 → v.extractLsb' 2 30 ≠ 0 → traps (.swrite h idx a) 0x41)
          ∧ (i = 0x41 → v.toNat % 64 = 0 → writes { k with fqbase := v }) ∧ (i = 0x41 → v.toNat % 64 ≠ 0 → traps (.swrite h idx a) 0x41)
          ∧ (i = 0x42 → 4 ≤ v.toNat → v.toNat ≤ 12 → k.held = [] → k.dropNew = 0 → writes { k with log2n := v.setWidth 5 })
          ∧ (i = 0x42 → 4 ≤ v.toNat → v.toNat ≤ 12 → Completes (.swrite h idx a) h s r g [] (fun s' _ =>
            (traceOn s.fw s.m t.ctx = false → OthersKept s s' r) ∧ ∃ k', s'.m.ctx? t.ctx = some k' ∧ k'.log2n = v.setWidth 5))
          ∧ (i = 0x42 → v.toNat < 4 ∨ (12 < v.toNat ∧ v.toNat < 32) → traps (.swrite h idx a) 0x47)
          ∧ (i = 0x42 → 32 ≤ v.toNat → traps (.swrite h idx a) 0x41)
          ∧ (i = 0x43 → 2 ^ 16 ≤ v.toNat → traps (.swrite h idx a) 0x41)
          ∧ (i = 0x45 → v.extractLsb' 32 30 ≠ 0 → traps (.swrite h idx a) 0x41)
          ∧ (i = 0x43 → v.toNat < 2 ^ 16 → Completes (.swrite h idx a) h s r g [] (fun s' _ =>
            (traceOn s.fw s.m t.ctx = false → OthersKept s s' r) ∧ ∃ k', s'.m.ctx? t.ctx = some k' ∧ k'.fqhead = v.setWidth 16))
          ∧ (i = 0x45 → v.extractLsb' 32 30 = 0 → pendOf k (v.setWidth 32) = [] → Completes (.swrite h idx a) h s r g []
            (fun s' g' => OthersKept s s' r ∧ DeviceKept s s' ∧ g'.stat = 1))
          ∧ (i ∉ [0x13, 0x14, 0x15, 0x17, 0x41, 0x42, 0x43, 0x45] → Completes (.swrite h idx a) h s r g []
            (fun s' _ => OnlyGroup s s' r)))

/-- `launch` appends its record to a queue that has room, after the device's release, and parks where the queue is full; `siterst`
resets the sites of a range and no instruction cache keeps a line of it; both trap a misaligned address (R203, R353, R357). -/
def Obligations.LaunchAndSiteReset : Prop :=
  ∀ (h : Hd) (d a : Opnd) (q : BitVec 17) (s : State) (r : GRef) (t : Team) (g : Group) (m1 : Mach), Issuing s r t g → Alone h →
    Active h g s.m.draw →
    let p := engVal g s.m.draw 0 a
    let n := engVal g s.m.draw 1 d
    let traps := fun (i : Instr) (c : Cause) (x : DWord) =>
      exec i s = .next (stopped s t { Stop.trap c g (nextPc g.pc h) with addr := x })
    (check h (opLaunch h a q) t g s.m.draw = none → Unheld s t g (.launch h a q) →
        (16 ≤ q.toNat → traps (.launch h a q) 0x47 0) ∧ (q.toNat < 16 → p.toNat % 64 ≠ 0 → traps (.launch h a q) 0xC1 p)
          ∧ ∀ ws k, q.toNat < 16 → p.toNat % 64 = 0 →
            readWords16 (releaseBy (settle s.m r) r t.core .dev) t g p 16 [] = (.ok ws, m1) →
            m1.ctx? t.ctx = some k →
            let b := ws.flatMap (fun w => leBytes 4 w.toNat)
            let x := lqueue m1 k (q.setWidth 4)
            recordOk s.fw m1 k (LRec.of b) = true → x.on = true → x.mode = 0 →
            (x.full = false → Completes (.launch h a q) h s r g [] (fun s' _ => OthersKept s s' r
                ∧ s'.m.mem = (appendRecord m1 k (q.setWidth 4) b).mem ∧ s'.m.l2 = (appendRecord m1 k (q.setWidth 4) b).l2))
              ∧ (x.full = true → Parks (.launch h a q) h s r g (.launch (q.setWidth 4) b) (fun s' => s'.m.mem = m1.mem)))
      ∧ (h.resv = false → h.scope = .group → t.level = 0 → (∀ j, d = .s j → ∀ k, a = .s k → traps (.siterst h d a) 0x380 0))
      ∧ (check h (opSiterst h d a) t g s.m.draw = none → t.level ≠ 0 → g.siteAt = none →
        (p.toNat % 8 ≠ 0 ∨ n.toNat % 8 ≠ 0 → traps (.siterst h d a) 0xC1 p)
          ∧ (p.toNat % 8 = 0 → n.toNat % 8 = 0 → n ≠ 0 → 0xF000000000000 < p.toNat + n.toNat → traps (.siterst h d a) 0xC0 p)
          ∧ (p.toNat % 8 = 0 → n.toNat % 8 = 0 → n = 0 ∨ p.toNat + n.toNat ≤ 0xF000000000000 →
            resetSites s.m t p.toNat (n.toNat / 8) = (none, m1) → Completes (.siterst h d a) h s r g [] (fun s' _ =>
              (∀ u x, u ≠ r → s.m.group? u = some x → ∃ y, s'.m.group? u = some { x with stale := y })
              ∧ s'.m.l2 = m1.l2 ∧ s'.m.mem = m1.mem ∧ ∀ c ∈ s'.m.cores, ∀ l ∈ c.icache,
                ¬ (l.ctx = t.ctx ∧ n ≠ 0 ∧ l.va < p.toNat + n.toNat ∧ p.toNat < l.va + 128))))

/-! ### Events -/

/-- What the engines do with work that was issued: a copy within a scratchpad; what is left of a bulk chunk, a multicast chunk or a
drain, of which words may have shown before, each once (the model's reading, log entry 22); a row frame, whole; a plane conversion,
which reads its whole source before it writes (the model's choice, log entry 69); the chunks of a bulk transfer that was restarted,
which complete in order (the model's reading, log entry 85); the loops of a core, which start with those of their pairing and leave
in each element of the tile what R213 and R214 give, and SACC, which leaves what R220 gives, where the scratchpads they read stand
as they were; a row-data fault stops its work and its group (R137, R141 to R144, R148, R154, R155, R157, R158, R209, R213 to R216,
R220, R221, R224, R428). -/
def Obligations.EngineEvents : Prop :=
  (∀ (s : State) (tid wid : Nat) (t : Team) (w : Work), s.m.team? tid = some t → t.works.find? (fun y => y.wid == wid) = some w →
    w.st = .run → Memory.wf t.scratch = true →
    let goes := fun (i : Instr) (P : Team → State → Prop) => Goes i s (fun s' => s'.fw = s.fw ∧ ∃ t', s'.m.team? tid = some t' ∧ P t' s')
    let gone := fun (t' : Team) => t'.works = t.works.filter (fun y => y.wid != wid)
    let holds := fun (t' : Team) (bs : List (Nat × Byte)) => ∀ q, Memory.get t'.scratch q =
      ((bs.reverse.find? (fun x => x.1 == q)).map (fun x => x.2)).getD (Memory.get t.scratch q)
    (∀ dst src len total so o cl, w.kind = .copy dst src len total none → len % 4 = 0 → t.aliases = [] → so % 4 = 0 → o % 4 = 0 →
        (∀ i, i < len / 4 → engLoc s.m t w.gno 0 (src + BitVec.ofNat 64 (4 * i)) = .ok (.sp tid (so + 4 * i) cl)
          ∧ engLoc s.m t w.gno 0 (dst + BitVec.ofNat 64 (4 * i)) = .ok (.sp tid (o + 4 * i) cl)) →
        so + len ≤ o ∨ o + len ≤ so → len ≤ ((src.toNat : Int) - dst.toNat).natAbs →
        goes (.copyComplete tid wid) (fun t' _ => gone t' ∧ ∀ j, Memory.get t'.scratch j =
          if o ≤ j ∧ j < o + len then Memory.get t.scratch (so + (j - o)) else Memory.get t.scratch j))
      ∧ (∀ op dst a b f fin g k (addr : DWord), w.kind = .row op dst a b f fin → rowDataAt s.m t.ctx w.kind addr = true →
        t.group? w.gno = some g → g.status = .ready → s.m.ctx? t.ctx = some k →
        goes (.engineWorkStop tid wid 0x1C9 addr) (fun t' s' => (∃ w', t'.works.find? (fun y => y.wid == wid) = some w'
            ∧ w'.st = .stopped) ∧ (∃ g', t'.group? w.gno = some g' ∧ g'.status = .suspended)
          ∧ ∃ k' p, s'.m.ctx? t.ctx = some k' ∧ k'.pend = k.pend ++ [p] ∧ p.cause = 0x1C9 ∧ p.addr = addr ∧ p.wid = some wid))
      ∧ (∀ sl base n map fin pc chunk ws, w.kind = .bulk false sl base n map none fin pc → ctxRuns s.m t.ctx = true → chunk < n →
        chunk ∉ fin → (w.inOrder = true → ∀ i, i < chunk → i ∈ fin) → (engWords s.m (whoOf t w.gno) ((loadLeft w sl base chunk).filterMap (fun y => y.2.2.addr?)) []).1 = .ok ws →
        goes (.bulkChunkComplete tid wid chunk) (fun t' _ =>
          (Memory.get t'.scratch (map + chunk / 8)).getLsbD (chunk % 8) = true
          ∧ (∀ y ∈ loadLeft w sl base chunk, y.1 ≠ map + chunk / 8 → Memory.get t'.scratch y.1 = y.2.2.value ws)
          ∧ ((∀ i, i < n → i ∈ fin ++ [chunk]) → gone t')
          ∧ ∀ w' ∈ t'.works, w'.wid = wid → w'.kind = .bulk false sl base n map none (fin ++ [chunk]) pc))
      ∧ (∀ src len doff rcv fin u chunk ws m1, w.kind = .mcast src len doff rcv none none fin → u ∈ rcv →
        chunk < mcastChunks doff len → (u, chunk) ∉ fin →
        let ps := mcastLeft w doff len u chunk
        readList s.m t w 0 (ps.map (fun p => src + BitVec.ofNat 64 (p - doff))) [] = (ws, none, m1) → m1.teams = s.m.teams →
        goes (.mcastChunkArrive tid wid u chunk) (fun t' s' =>
          (∀ w' ∈ t'.works, w'.wid = wid → w'.kind = .mcast src len doff rcv none none (fin ++ [(u, chunk)]))
          ∧ ∀ v, s.m.team? u = some v → Memory.wf v.scratch = true → ∃ v', s'.m.team? u = some v' ∧ ∀ i p k, ps[i]? = some p → k < 4 →
            Memory.get v'.scratch (p + k) = getByte (ws.getD i 0) k))
      ∧ (∀ op dst a b f fin frame pa, w.kind = .row op dst a b f fin → frame < f → frame ∉ fin → rowHeld s.m t w frame = false →
        (∀ y ∈ t.works, y.gno = w.gno → y.copyVas s.m t false true = []) → s.m.registry = [] → s.m.l2 = [] →
        s.m.heldWb = [] → s.m.memErr = [] →
        Memory.wf s.m.mem = true →
        let d := dst.toNat + 2048 * frame
        let sa := a.toNat + 2048 * frame
        let sb := b.toNat + 2048 * frame
        frameFail s.m t d (match op with
          | .fill => []
          | .cpy | .not => [sa]
          | .and | .or | .xor => [sa, sb]) = none → paOf s.m t.ctx d = some pa →
        goes (.rowFrameComplete tid wid frame) (fun t' s' => (∀ w' ∈ t'.works, w'.wid = wid → w'.kind = .row op dst a b f (fin ++ [frame]))
          ∧ ∀ j, j < 512 → Memory.word s'.m.mem (pa + 4 * j) =
            rowWord op a j ((frameVals s.m t.ctx sa).getD j 0) ((frameVals s.m t.ctx sb).getD j 0)))
      ∧ (∀ un x y, w.kind = .plane un x y → goes (.planeComplete tid wid) (fun t' _ => gone t' ∧ ∀ q, Memory.get t'.scratch q =
        Memory.get (planeApply un (Shape.of (if un then y else x)) (Shape.of (if un then x else y)) t.scratch) q))
      ∧ (∀ bs, w.kind = .put bs → goes (.planeComplete tid wid) (fun t' _ => gone t' ∧ holds t' bs))
      ∧ (∀ k o bs g, w.kind = .drain k o bs → t.group? w.gno = some g → g.live = true → goes (.planeComplete tid wid) (fun t' s' => gone t'
        ∧ holds t' ((bs.mapIdx (fun i b => (o + i, b))).filter (fun x => !w.did (0, x.1 - x.1 % 4)))
        ∧ s'.m.tile t.core k = { s.m.tile t.core k with dirty := false })))
    ∧ ∀ (s : State) (core : Nat) (l : Loop),
      let loops := (s.m.core core).loops
      (loops.find? (fun y => !y.planesDone) = some l → l.running = false → loopRuns s.m l = true → pairReady s.m l = true →
          Goes (.damaskLoopStart core) s (fun s' => { l with running := true } ∈ (s'.m.core core).loops
            ∧ ∀ c x, x ∈ (s.m.core c).loops → x.lid ∈ l.pair → { x with running := true } ∈ (s'.m.core c).loops))
        ∧ (loops.find? (fun y => y.running && !y.planesDone) = some l → loopRuns s.m l = true →
          Goes (.enginePlaceFree core) s (fun s' => { l with planesDone := true } ∈ (s'.m.core core).loops))
        ∧ (loops.find? (fun y => y.running && y.planesDone) = some l → Goes (.damaskLoopComplete core) s (fun s' =>
          (∀ y ∈ (s'.m.core core).loops, y.lid ≠ l.lid) ∧ ∀ g, s.m.group? { tid := l.tid, gno := l.gno } = some g → g.live = true →
            (s'.m.tile core l.tile).holder = (if g.waits = some (.mwait l.tile) then .group l.tid l.gno else (s.m.tile core l.tile).holder)
              ∧ let x := s.m.tile core l.tile
                let y := s'.m.tile core l.tile
                let cols := (Shape.of l.hb).dimAt 1
                (Steady s.m l.aTid l.aSnap → Steady s.m l.bTid l.bSnap → cols ≤ 192 → Sparse.wfFrom 0 x.els = true → ∀ i c, c < 192 →
                  (i < (Shape.of l.ha).dimAt 1 ∧ c < cols → LoopGives x.ty l (Memory.word l.aSnap) (Memory.word l.bSnap) i c
                      (l.ksteps - l.step) l.step (x.get i c) (y.get i c))
                    ∧ (¬ (i < (Shape.of l.ha).dimAt 1 ∧ c < cols) → y.get i c = x.get i c))))
        ∧ ((∀ y ∈ loops, y.running = false) → (s.m.core core).saccs ≠ [] →
          Goes (.saccComplete core) s (fun s' => (s'.m.core core).saccs = (s.m.core core).saccs.tail
            ∧ ∀ q g, (s.m.core core).saccs.head? = some q → s.m.group? { tid := q.tid, gno := q.gno } = some g → g.live = true →
              Steady s.m q.tid q.snap → Sparse.wfFrom 0 (s.m.tile core q.dst).els = true →
              let x := s.m.tile core q.dst
              let y := s'.m.tile core q.dst
              y.dirty = true ∧ y.ty = x.ty ∧ y.holder = x.holder
                ∧ (q.src ≠ q.dst → s'.m.tile core q.src = s.m.tile core q.src)
                ∧ (∀ i c, 96 ≤ i → c < 192 → y.get i c = x.get i c)
                ∧ ∀ i c, i < 96 → c < 192 → ∃ b, TermGives ((s.m.tile core q.src).get i c) (Memory.word q.snap (q.rs + 4 * i))
                    (match q.cs with
                      | some o => Memory.word q.snap (o + 4 * c)
                      | none => 0x3F800000) b
                  ∧ SumGives .f32 .rne false (FV.dec .f32 (x.get i c).toNat) (FV.dec .f32 b) (y.get i c).toNat))

/-- Time limits, the ends of groups, teams and grids, and the distributor's own events: a parked wait, a handshake and a
rendezvous that have waited RVLIM × 1,024 cycles fault; a result returns, a release completes, a group frees its resources, a
team retires, a grid ends; a record is accepted in turn, a cluster is placed, a waiting grid ages, a drained core takes its
CARVE. The model's choices: a pending release that may run is performed at its event, but a `.sys` release waits while its write-backs
are held for their pages (log entries 19 and 77); a core whose drain ends takes its CARVE and, where it had failed, the spare set
aside for it as it failed, or leaves placement (log entries 32 and 41) (R25, R26, R39 to R43, R52, R111, R119, R151, R217, R224,
R335, R400 to R407, R475). -/
def Obligations.WaitAndPlacementEvents : Prop :=
  (∀ (s : State) (r : GRef) (t : Team) (g : Group) (k : Context), s.m.team? r.tid = some t → t.group? r.gno = some g →
      s.m.ctx? t.ctx = some k →
      let mine := fun (P : Group → State → Prop) (s' : State) => s'.fw = s.fw ∧ ∃ g', s'.m.group? r = some g' ∧ P g' s'
      (∀ i c p, g.status = .parked p → k.rvlim ≠ 0 → k.rvlim.toNat * 1024 ≤ g.waited →
          (i = .barrierTimeout r ∧ c = 0x188 ∧ ∃ b o, p = .barrier b o) ∨ (i = .chunkWaitTimeout r ∧ c = 0x18D ∧ ∃ o m, p = .waitm o m)
            ∨ (i = .tokenTimeout r ∧ c = 0x1CE ∧ ∃ q, p = .macq q) →
          Goes i s (mine (fun g' s' => g'.status = .suspended ∧ g'.pc = g.pc ∧ g'.regs = g.regs ∧ g'.retired = g.retired
            ∧ ∃ k' p', s'.m.ctx? t.ctx = some k' ∧ k'.pend = k.pend ++ [p'] ∧ p'.cause = c ∧ p'.gno = g.gno)))
        ∧ (∀ p, pairingOf s.m r = some p → k.rvlim ≠ 0 → k.rvlim.toNat * 1024 ≤ p.elapsed → Goes (.pairingTimeout r) s (fun s' =>
          ∀ q ∈ s'.m.pairings, q ∈ s.m.pairings ∧ q.loop ∉ pairingArrived s.m p))
        ∧ (∀ j v, t.rdv? j = some v → rdvComplete t v = false → k.st = .running →
          (∀ n ∈ liveMembers t j, ∀ q, t.group? n = some q → isCandidate s.m t q = false) → k.rvlim ≠ 0 → k.rvlim.toNat * 1024 ≤ v.elapsed →
          Goes (.rendezvousTimeout r.tid j) s (fun s' => ∃ t', s'.m.team? r.tid = some t' ∧ t'.rdv? j = none))
        ∧ (∀ i, i < g.outst.length → g.reqs = [] → Goes (.registerResultReturn r i) s (mine (fun g' _ => g'.outst = g.outst.eraseIdx i
          ∧ g'.regs = g.regs)))
        ∧ (∀ sc pc, g.relPend = some (sc, pc) → (sc = .sys → relHeld s.m t.ctx = false ∧ relHeld (releaseBy s.m r t.core .sys) t.ctx = false) →
          Goes (.releaseComplete r) s (mine (fun g' _ => g'.relPend = none ∧ g'.regs = g.regs)))
        ∧ (groupSpent s.m t g = true → Goes (.groupResourcesFreed r) s (mine (fun g' _ => g' = { g with freed := true })))
        ∧ (teamSpent s.m t = true → Goes (.teamRetire r.tid) s (fun s' => s'.m.team? r.tid = none ∧ ∀ gr, s.m.grid? t.gid = some gr →
          ∃ gr', s'.m.grid? t.gid = some gr' ∧ gr'.retired = gr.retired + 1)))
    ∧ (∀ (s : State) (gid : Nat) (g : Grid), s.m.grid? gid = some g →
      (gridSpent s.m g = true → g.cplen = false → Goes (.gridCompletion gid) s (fun s' => s'.m.grid? gid = none ∧ s'.m.mem = s.m.mem))
        ∧ (g.waits = true → g.aged = false → 2097152 ≤ g.waited → Goes (.priorityAging gid) s (fun s' =>
          s'.m.grid? gid = some { g with aged := true }))
        ∧ ∀ die corner slices cs, g.waits = true → fitsAt s.fw s.m g die corner = true → turnOf s.fw s.m g = true →
          clusterCores g die corner = some cs → slices.length = g.ngroups * g.clsize →
          (∀ x ∈ cs.zipIdx, slicesOk s.m x.1 g.desc.valloc ((slices.drop (x.2 * g.ngroups)).take g.ngroups) = true) →
          Goes (.teamPlace gid die corner slices) s (fun s' => ∃ g', s'.m.grid? gid = some g' ∧ g'.next = g.next + g.clsize))
    ∧ (∀ (s : State) (c : BitVec 12) (q : BitVec 4) (k : Context) (x : LQueue) (b : List Byte),
      headRecord s.fw s.m c q = some (k, x, some b) →
      let at' := headFound s.fw s.m c k (some b)
      (at'.2 = none → Goes (.launchAccept c q) s (fun s' => s'.m.grids = s.m.grids))
        ∧ (∀ d, at'.2 = some d → depMet at'.1 c (LRec.of b) = true → Goes (.launchAccept c q) s (fun s' => ∃ g, s'.m.grids = s.m.grids ++ [g]
          ∧ g.ctx = c ∧ g.desc = d
          ∧ g.serial = k.serial ∧ g.dimX = (LRec.of b).gx ∧ g.dimY = (LRec.of b).gy ∧ g.dimZ = (LRec.of b).gz ∧ g.next = 0
          ∧ g.level = 0))
        ∧ ((LRec.of b).depen = true → at'.2 ≠ none → depMet at'.1 c (LRec.of b) = false → Goes (.dependenceRead c q) s (fun s' =>
          s'.m.grids = s.m.grids ∧ s'.fw = s.fw)))
    ∧ (∀ (s : State) (v : DWord), (v.extractLsb' 16 48 ≠ 0 → exec (.doorbell v) s = .next s)
      ∧ (v.extractLsb' 16 48 = 0 → Goes (.doorbell v) s (fun s' => s'.fw = s.fw ∧ s'.m.grids = s.m.grids
        ∧ (s.fw.lmode ≠ 2 → s'.m.mem = s.m.mem))))
    ∧ ∀ (s : State) (core v : Nat), (s.m.core core).draining = some v → coreTeams s.m core = [] →
      Goes (.carveChange core) s (fun s' => (s'.m.core core).draining = none ∧ (s'.m.core core).failed = false
        ∧ (s'.m.core core).carve = v ∧ (s'.m.core core).l1 = []
        ∧ ((s.m.core core).failed = false → s'.fw = s.fw ∧ (s'.m.core core).removed = (s.m.core core).removed)
        ∧ ((s.m.core core).failed = true → ∀ p, (s.m.core core).spare = some p → (s'.m.core core).removed = (s.m.core core).removed
          ∧ s'.fw = { s.fw with coremap := s.fw.coremap.set core (BitVec.ofNat 64 p) })
        ∧ ((s.m.core core).failed = true → (s.m.core core).spare = none → (s'.m.core core).removed = true
          ∧ s'.fw = { s.fw with ncore := s.fw.ncore - 1 }))

/-- Caches, homes, registries, translation and the host's accesses: an evicted word leaves its cache; a silent owner's word is
poisoned; a roll-call starts and ends; a rewrite leaves its queue and, where the code word is the one it was fetched as, writes the
new one at the home, and otherwise nothing; a held write-back leaves its queue; a walk that finds a leaf fills the TLB of its CTU; a
host access reads and writes at the home, but a write leaves a page of code as it is; a snoop writes a dirty word of its line back
from the L1, the RDC or the L2 that holds it and drops it. The model's choices: the word of a silent owner is poisoned at once and a
reader that waits for it faults later (log entry 26), what a roll-call does between its start and its end (log entry 28), and that
the host names memory by physical address and what its write to a page of code does (log entry 39) (R123, R130, R131, R190, R198,
R416, R417, R419, R463, R464). -/
def Obligations.MemoryEvents : Prop :=
  ∀ (s : State) (c : BitVec 12) (va : DWord) (k : Context), s.m.ctx? c = some k →
    let a := va.toNat
    (∀ who w, who.toNat % 64 < 24 → l1Find (s.m.core (24 * (who.toNat / 64) + who.toNat % 64)) c a = some w →
        Goes (.cacheEviction who c va) s (fun s' => l1Find (s'.m.core (24 * (who.toNat / 64) + who.toNat % 64)) c a = none
          ∧ (w.d = true → ∃ e, l2Find s'.m c a = some e ∧ e.val = w.val ∧ e.d = true)))
      ∧ (∀ o lanes, ownerOf s.m c a = some o → mirrorFind s.m (o.toNat / 64 ^^^ 1) c a = none →
        Goes (.ownerTimeout c va none lanes) s (fun s' => isPoisoned s'.m c a = true ∧ s'.m.teams = s.m.teams))
      ∧ (a < 0xF000000000000 → inRoll s.m c a = false → Goes (.registryError c va) s (fun s' => inRoll s'.m c a = true
        ∧ s'.m.mem = s.m.mem ∧ s'.m.registry = s.m.registry))
      ∧ (inRoll s.m c a = true → ∀ i, i = .registryRebuilt c va ∨ i = .rollCallTimeout c va →
        Goes i s (fun s' => inRoll s'.m c a = false ∧ (traceOn s.fw s.m c = false → s'.m.teams = s.m.teams)))
      ∧ (∀ i, i < s.m.rewrites.length → Goes (.siteRewriteCas i) s (fun s' => s'.m.rewrites = s.m.rewrites.eraseIdx i))
      ∧ (∀ i x w m1, s.m.rewrites[i]? = some x → rewriteOk x = true → (∀ c', traceOn s.fw s.m c' = false) →
        codeWord { s.m with rewrites := s.m.rewrites.eraseIdx i } x.ctx x.pc = (some w, m1) → m1.registry = [] →
        (paOf m1 x.ctx x.pc).isSome = true →
        (w = x.old → Goes (.siteRewriteCas i) s (fun s' => s'.m.teams = m1.teams ∧ ∃ e, l2Find s'.m x.ctx x.pc = some e
            ∧ e.val = x.new.extractLsb' 0 32 ∧ e.d = true))
          ∧ (w ≠ x.old → Goes (.siteRewriteCas i) s (fun s' => s'.m.l2 = m1.l2 ∧ s'.m.mem = m1.mem ∧ s'.m.registry = m1.registry
            ∧ s'.m.teams = m1.teams)))
      ∧ (a < 0xF000000000000 → tlbHit s.m c a = none → Goes (.pageWalkComplete c va) s (fun s' =>
        match (walk (s.m.count c 0x0F 1) k.ptroot a).1 with
        | .ok l => if l.leaf.getLsbD 62 = true then
            tlbHit s'.m c a = some { ctx := c, page := a / 2 ^ l.log, log := l.log, leaf := l.leaf, leafPa := l.leafPa, ptrs := l.ptrs }
              ∧ ∀ j, j ≠ ctuOf a → s'.m.ctus.getD j [] = s.m.ctus.getD j []
          else s'.m.ctus = s.m.ctus
        | .error _ => s'.m.ctus = s.m.ctus))
      ∧ (∀ x rest, s.m.heldWb = x :: rest → heldReady s.m x = true →
        Goes (.heldWritebackRelease 0) s (fun s' => s'.m.heldWb = rest))
      ∧ (∀ line word, Goes (.hostMemRead line word) s (fun s' => s'.m.teams = s.m.teams ∧ s'.m.mem = s.m.mem
            ∧ s'.m.hostRead = if physLost s.m (hostWord line word) = true then none else some (physWord s.m (hostWord line word)))
          ∧ ∀ v, Memory.wf s.m.mem = true → Goes (.hostMemWrite line word v) s (fun s' => s'.m.teams = s.m.teams
            ∧ Memory.word s'.m.mem (hostWord line word) =
              if codeMapped s.m (hostWord line word) = true then Memory.word s.m.mem (hostWord line word) else v))
      ∧ (s.fw.lmode ≠ 2 → ∀ page line, Goes (.hostSnoop page line) s (fun s' => s'.m.teams = s.m.teams ∧ s'.fw = s.fw
        ∧ ∀ p, p / 128 = hostLine page line / 128 → lossOf s.m p = none → s.m.registry = [] → Memory.wf s.m.mem = true →
          (∀ w, s.m.l2 = [w] → (∀ j, (s.m.core j).l1 = []) → (∀ d, s.m.rdc.getD d [] = []) → paOf s.m w.ctx w.va = some p →
              s'.m.l2 = [] ∧ (w.d = true → Memory.word s'.m.mem p = w.val) ∧ (w.d = false → s'.m.mem = s.m.mem))
            ∧ (∀ i w, i < 96 → (∀ j, (s.m.core j).l1 = if j = i then [w] else []) → s.m.l2 = [] → (∀ d, s.m.rdc.getD d [] = []) →
              paOf s.m w.ctx w.va = some p → (∀ j, (s'.m.core j).l1 = []) ∧ s'.m.l2 = []
                ∧ (w.d = true → Memory.word s'.m.mem p = w.val) ∧ (w.d = false → s'.m.mem = s.m.mem))
            ∧ ∀ e w, e < 4 → (∀ d, s.m.rdc.getD d [] = if d = e then [w] else []) → (∀ j, (s.m.core j).l1 = []) → s.m.l2 = [] →
              paOf s.m w.ctx w.va = some p → (∀ d, s'.m.rdc.getD d [] = []) ∧ s'.m.l2 = []
                ∧ (w.d = true → Memory.word s'.m.mem p = w.val) ∧ (w.d = false → s'.m.mem = s.m.mem)))

/-- Context commands, saving, restoring and dumps: what each leaves of the context and of the command's status; a refused command
leaves 0xFF and changes nothing else; a write of FQHEAD waits while the context is saved. The model's choices: a destruction
waits for write-backs that are held, and a refused record or image ends its command with 0xFF (log entry 35); the teams of a
cluster are saved in one step (log entry 36); a dump is one step, it ends a save that it cuts off with 0xFF, and a dead context
is dumped no more (log entry 37) (R385, R387, R419, R432 to R439, R441, R468). -/
def Obligations.ContextEvents : Prop :=
  ∀ (s : State) (c : BitVec 12),
    let status := fun (s' : State) => (s'.fw.ctxcmd.getD 0 0).extractLsb' 0 8
    let refused := fun (i : Instr) => Goes i s (fun s' => s'.m = s.m ∧ status s' = 0xFF ∧ s'.fw.cmdRun = false)
    (cmdPending s.fw 1 c = true → ((s.m.ctx? c).isSome = true ∨ createFieldsOk s.fw = false
            ∨ recordReads s.m (s.fw.ctxcmd.getD 6 0).toNat = false → refused (.ctxCreate c))
        ∧ (s.m.ctx? c = none → createFieldsOk s.fw = true → recordReads s.m (s.fw.ctxcmd.getD 6 0).toNat = true →
          let k := newContext s.m s.fw c
          let m0 := (List.range 16).foldl (fun m q => lqTouch m k (BitVec.ofNat 4 q))
            (mscReads (if k.stktab = 0 then s.m else mscReads s.m k.stktab 64) k.svlr 64)
          let m' := { m0 with ctxs := m0.ctxs ++ [k] }
          let x := LRec.of (physBytes m0 k.svlr 64)
          (recordOk s.fw m' k x = false ∨ descOf m' c x = none → Goes (.ctxCreate c) s (fun s' => status s' = 0xFF
            ∧ s'.fw.cmdRun = false ∧ s'.m.ctx? c = none ∧ s'.m.grids = s.m.grids))
          ∧ ∀ d, recordOk s.fw m' k x = true → descOf m' c x = some d → Goes (.ctxCreate c) s (fun s' => status s' = 0
            ∧ (∃ k', s'.m.ctx? c = some k' ∧ k'.st = .running ∧ k'.rvlim = 0x4000 ∧ k'.qlim = 2)
            ∧ ∃ g, s'.m.grids = s.m.grids ++ [g] ∧ g.ctx = c ∧ g.desc = d ∧ g.level = 1)))
      ∧ (cmdPending s.fw 2 c = true → (s.m.ctx? c = none → refused (.ctxDestroy c)) ∧ ((s.m.ctx? c).isSome = true →
        (holdsWrites (emptyContext s.m c) c = false → Goes (.ctxDestroy c) s (fun s' => status s' = 0 ∧ s'.fw.cmdRun = false
          ∧ s'.m.ctx? c = none ∧ (∀ g ∈ s'.m.grids, g.ctx ≠ c) ∧ (∀ l ∈ s'.m.ctus, ∀ e ∈ l, e.ctx ≠ c)
          ∧ ∀ w ∈ s'.m.l2, w.ctx ≠ c))
        ∧ (holdsWrites (emptyContext s.m c) c = true → Goes (.ctxDestroy c) s (fun s' => s'.fw.cmdRun = true
          ∧ s'.m = emptyContext s.m c))))
      ∧ (cmdPending s.fw 3 c = true → ∀ k, s.m.ctx? c = some k → (k.st ≠ .running → refused (.ctxSave c))
        ∧ (k.st = .running → Goes (.ctxSave c) s (fun s' => s'.fw.cmdRun = true ∧ ctxRuns s'.m c = false
          ∧ ∃ k', s'.m.ctx? c = some k' ∧ k'.st = .saving)))
      ∧ (∀ tid t k, s.m.ctx? c = some k → k.st = .saving → s.m.team? tid = some t → t.ctx = c →
        (clusterMates s.m t).all (teamQuiet s.m) = true →
        Goes (.savePhase2 c tid) s (fun s' => (∀ u ∈ clusterMates s.m t, s'.m.team? u.tid = none)
          ∧ ∃ k' xs, s'.m.ctx? c = some k' ∧ k'.image = k.image ++ xs ∧ ∃ x ∈ xs, x.team.tid = tid))
      ∧ (∀ k m', s.m.ctx? c = some k → k.st = .saving → ctxTeams s.m c = [] → finishSave s.m c = (true, m') →
        Goes (.saveCacheFlush c) s (fun s' => ∃ k', s'.m.ctx? c = some k' ∧ k'.st = .saved))
      ∧ (cmdPending s.fw 4 c = true → ∀ k, s.m.ctx? c = some k → (k.st ≠ .saved → refused (.ctxRestore c []))
        ∧ (k.st = .saved → imageIntact s.m k = false → Goes (.ctxRestore c []) s (fun s' => status s' = 0xFF ∧ s'.fw.cmdRun = false
          ∧ ∃ k', s'.m.ctx? c = some k' ∧ k'.st = .saved))
        ∧ ∀ pl m', k.st = .saved → imageIntact s.m k = true → restoreContext s.fw (imageRead s.m k) k pl = some m' →
          Goes (.ctxRestore c pl) s (fun s' => s'.m = m' ∧ status s' = 0 ∧ s'.fw.cmdRun = false
            ∧ ∃ k', m'.ctx? c = some k' ∧ k'.st = .running ∧ k'.image = []))
      ∧ (cmdPending s.fw 5 c = true → ∀ k, s.m.ctx? c = some k → k.st ≠ .dead → (∀ d ∈ s.m.dumps, d.ctx ≠ c) →
        Goes (.ctxDump c) s (fun s' => s'.fw.cmdRun = true ∧ (∃ d, s'.m.dumps = s.m.dumps ++ [d] ∧ d.ctx = c)
          ∧ ∃ k', s'.m.ctx? c = some k' ∧ k'.st = .dumping))
      ∧ (∀ r t k p cause, s.m.team? r.tid = some t → t.ctx = c → t.level = 1 → s.m.ctx? c = some k → k.st ≠ .dead → cause ≠ 0x342 →
        fatalRec s.m c cause r = some p → (∀ d ∈ s.m.dumps, d.ctx ≠ c) → Goes (.fatalFault c cause r) s (fun s' =>
          (∃ d, s'.m.dumps = s.m.dumps ++ [d] ∧ d.ctx = c ∧ d.primary = pendBytes s.m c p)
            ∧ ∃ k', s'.m.ctx? c = some k' ∧ k'.st = .dumping))
      ∧ (∀ r t k p cause, s.m.team? r.tid = some t → t.ctx = c → t.level = 1 → s.m.ctx? c = some k → k.st ≠ .dead → cause ≠ 0x342 →
        fatalRec s.m c cause r = some p → (∃ d ∈ s.m.dumps, d.ctx = c) → Goes (.fatalFault c cause r) s (fun s' => s'.m.dumps = s.m.dumps.map
          (fun d => if d.ctx = c then { d with second := if d.second.length < 8 then d.second ++ [secondBytes s.m p] else d.second
                                               nsecall := d.nsecall + 1 } else d)))
      ∧ (∀ d rest, s.m.dumps = d :: rest → s.fw.cmdRun = true → cmdCtx s.fw = d.ctx → s.fw.ctxcmd ≠ [] →
        (cmdOp s.fw = 3 → Goes .dumpStart s (fun s' => s'.fw.cmdRun = false ∧ status s' = 0xFF))
          ∧ (cmdOp s.fw = 5 → Goes .dumpStart s (fun s' => s'.fw.cmdRun = false ∧ status s' = 0)))
      ∧ (∀ d rest, s.m.dumps = d :: rest → s.m.ctx? d.ctx = none → Goes .dumpStart s (fun s' => s'.m.dumps = rest))
      ∧ (∀ d rest k, s.m.dumps = d :: rest → s.m.ctx? d.ctx = some k → Goes .dumpStart s (fun s' => s'.m.dumps = rest
        ∧ ∃ k', s'.m.ctx? d.ctx = some k' ∧ k'.st = .dead ∧ k'.pend = []))
      ∧ (∀ k p, s.m.ctx? c = some k → k.pend = [p] → k.acts = [] → k.st = .running → p.acted = false → p.cause = 3 → p.add = none →
        ∀ w, p.wid = some w → Goes (.svdoneRefuse c p.seq) s (fun s' => ∃ k', s'.m.ctx? c = some k' ∧ k'.pend = []))
      ∧ ∀ k (v : DWord), s.m.ctx? c = some k → (v.extractLsb' 16 48 ≠ 0 → exec (.fqheadWrite c v) s = .next s)
        ∧ (v.extractLsb' 16 48 = 0 → k.st ≠ .saved → Goes (.fqheadWrite c v) s (fun s' => ∃ k', s'.m.ctx? c = some k'
          ∧ k'.fqhead = v.setWidth 16))
        ∧ (v.extractLsb' 16 48 = 0 → k.st = .saved → Goes (.fqheadWrite c v) s (fun s' => ∃ k', s'.m.ctx? c = some k'
          ∧ k'.fqhead = k.fqhead ∧ k'.late = k.late ++ [(0x43, v)]))

/-- What firmware, host, links, sensors and clocks do: register writes with their ranges (a command with reserved bits set is
ignored but for a create, whose command ends: the model's reading, log entry 63), counters, boot and attestation with
their measurements, lost and restored targets, link training, cores that fail, the clock, fabric time and sampling. The model's
choices: BOOTST counts the stages from 0, and SHA3-256 and its byte order are taken from FIPS 202 (log entry 38); a lost link
clears its bit of CAP2 and every outstanding access to a lost target that returns a value takes its record at the event (log entry
40); a core that fails has its spare set aside at once, and takes it, or leaves placement, when it is empty (log entry 41); the clock
has 29 steps (log entry 42) (R429, R430, R444, R448, R461, R462, R466 to R471, R475, R476). -/
def Obligations.ManagementEvents : Prop :=
  ∀ (s : State),
    (∀ v : DWord, Goes (.registerWrite (.mgmt 0x100) v) s (fun s' => s'.m = s.m ∧ s'.fw =
        if v.extractLsb' 16 48 = 0 ∧ 5 ≤ v.toNat ∧ v.toNat ≤ 1000 then { s.fw with cxlctl := v } else s.fw))
      ∧ (∀ v : DWord, Goes (.registerWrite (.mgmt 0x110) v) s (fun s' => s'.m = s.m ∧ s'.fw =
        if ftsrcOk s.fw v then { s.fw with ftsrc := v } else s.fw))
      ∧ (∀ v : DWord, v.extractLsb' 23 41 ≠ 0 → v.extractLsb' 0 8 ≠ 1 → Goes (.registerWrite (.mgmt 0x1000) v) s (fun s' =>
        s'.m = s.m ∧ s'.fw = s.fw))
      ∧ (∀ v : DWord, s.fw.cmdRun = true ∨ (1 ≤ cmdOp s.fw ∧ cmdOp s.fw ≤ 5) → Goes (.registerWrite (.mgmt 0x1000) v) s (fun s' =>
        s'.m = s.m ∧ s'.fw = s.fw))
      ∧ (∀ v x : DWord, v.extractLsb' 23 41 ≠ 0 → v.extractLsb' 0 8 = 1 → s.fw.cmdRun = false → ¬ (1 ≤ cmdOp s.fw ∧ cmdOp s.fw ≤ 5) →
        s.fw.ctxcmd.head? = some x → Goes (.registerWrite (.mgmt 0x1000) v) s (fun s' => s'.m = s.m ∧ ∃ y : DWord,
          s'.fw = { s.fw with ctxcmd := s.fw.ctxcmd.set 0 y } ∧ y.extractLsb' 0 8 = 0xFF ∧ y.extractLsb' 8 56 = x.extractLsb' 8 56))
      ∧ (∀ p : BitVec 3, Goes (.cclr p) s (fun s' => s'.fw = s.fw ∧ ∀ x, s'.m.parts[p.toNat]? = some x →
        x.pcnt = List.replicate 16 0))
      ∧ (∀ d0 d1 d2 d3, s.fw.bootst = 0 → Goes (.boot [d0, d1, d2, d3] none) s (fun s' => s'.m = s.m ∧ s'.fw.bootst = 0x100
        ∧ ∀ (i : Nat) (x y : BitVec 256), s.fw.mr[i]? = some x → [d0, d1, d2, d3][i]? = some y → s'.fw.mr[i]? = some (BitVec.ofNat 256
          (ofLe (sha3 (leBytes 32 x.toNat ++ leBytes 32 y.toNat))))))
      ∧ (s.fw.bootst = 0 → Goes (.boot [] (some (0, 1))) s (fun s' => s'.m = s.m ∧ s'.fw.bootst = 0x10 ∧ s'.fw.mr = s.fw.mr))
      ∧ (∀ nonce, Goes (.attestationRequest nonce) s (fun s' => s'.fw = s.fw
        ∧ ∃ sig, s'.m.response = leBytes 32 nonce.toNat ++ s.fw.mr.flatMap (fun v => leBytes 32 v.toNat)
          ++ leBytes 8 (capOf s.fw s.m 0).toNat ++ leBytes 8 s.fw.secver.toNat ++ sig ∧ sig.length = 2420))
      ∧ (∀ tgt : BitVec 5, (∀ x ∈ s.m.loss, x.1 ≠ tgt.toNat) → tgt.toNat ≤ 8 → ∀ i c, (i = .cxlLinkDown tgt ∧ c = 0x200)
          ∨ (i = .cxlCompletionTimeout tgt ∧ c = 0x201) → Goes i s (fun s' => s'.fw = s.fw ∧ s'.m.loss = s.m.loss ++ [(tgt.toNat, c)]
            ∧ ∀ (r : GRef) t g k q, s.m.team? r.tid = some t → t.group? r.gno = some g → g.live = true → s.m.ctx? t.ctx = some k → q ∈ g.reqs →
              q.ids ≠ [] → q.lanesOn s.m tgt.toNat t.ctx ≠ [] → ∃ k' xs p, s'.m.ctx? t.ctx = some k' ∧ k'.pend = k.pend ++ xs ∧ p ∈ xs
                ∧ p.cause = c ∧ p.tid = r.tid ∧ p.gno = r.gno))
      ∧ (∀ link : BitVec 4, link.toNat < 12 → (∀ x ∈ s.m.loss, x.1 ≠ 9 + link.toNat) → Goes (.nirbiorLinkFault link) s (fun s' =>
        s'.m.loss = s.m.loss ++ [(9 + link.toNat, 0x203)] ∧ s'.fw.links.getLsbD link.toNat = false))
      ∧ (∀ tgt : BitVec 5, (∃ x ∈ s.m.loss, x.1 = tgt.toNat) → Goes (.targetRestored tgt) s (fun s' => ∀ x ∈ s'.m.loss, x.1 ≠ tgt.toNat))
      ∧ (∀ link : BitVec 4, link.toNat < 12 → s.fw.links.getLsbD link.toNat = true → Goes (.linkLaneRemap link) s (fun s' =>
        s'.m = s.m ∧ s'.fw.links = s.fw.links ∧ s'.fw.lanesRemapped.getLsbD link.toNat = true))
      ∧ (∀ mode : BitVec 2, mode ≠ 3 → Goes (.hostLinkTraining mode) s (fun s' => s'.m = s.m ∧ s'.fw = { s.fw with lmode := mode }))
      ∧ (∀ core, core < 96 → core < s.m.cores.length → (s.m.core core).removed = false → (s.m.core core).failed = false →
        let sp := s.fw.spares.getD (core / 24) []
        let fw' := { s.fw with spares := s.fw.spares.modify (core / 24) List.tail }
        (coreTeams s.m core = [] → (∀ p rest, sp = p :: rest → Goes (.coreFailure core) s (fun s' => (s'.m.core core).removed = false
              ∧ (s'.m.core core).failed = false ∧ s'.fw = { fw' with coremap := s.fw.coremap.set core (BitVec.ofNat 64 p) }))
            ∧ (sp = [] → Goes (.coreFailure core) s (fun s' => (s'.m.core core).removed = true ∧ s'.fw = { fw' with ncore := s.fw.ncore - 1 })))
          ∧ (coreTeams s.m core ≠ [] → Goes (.coreFailure core) s (fun s' => s'.fw = fw' ∧ (s'.m.core core).removed = false
            ∧ (s'.m.core core).failed = true ∧ (s'.m.core core).draining ≠ none ∧ (s'.m.core core).spare = sp.head?
            ∧ (sp = [] → ∀ t ∈ s.m.teams, t.core = core → ctxRuns s'.m t.ctx = false) ∧ (sp ≠ [] → s'.m.teams = s.m.teams))))
      ∧ (∀ n, 1 ≤ n → s.fw.throttle + n < 30 → Goes (.thermalThrottle n) s (fun s' => s'.m = s.m
        ∧ s'.fw = { s.fw with throttle := s.fw.throttle + n }))
      ∧ Goes .criticalTemperature s (fun s' => s'.fw = { s.fw with holdLaunch := true } ∧ ∀ c, ctxRuns s'.m c = false)
      ∧ (s.fw.holdLaunch = true → Goes .temperatureFalls s (fun s' => s'.m = s.m ∧ s'.fw = { s.fw with holdLaunch := false }))
      ∧ (∀ corr : Int, s.fw.ftsrc.extractLsb' 0 2 ≠ 0 → Goes (.fabricTimeCorrection corr) s (fun s' => s'.fw = s.fw ∧ s'.m =
        if 65536000000 < corr then { s.m with ftime := s.m.ftime + corr.toNat } else { s.m with slew := s.m.slew + corr }))
      ∧ ∀ core sl, core < 96 → sl < 8 → sampleOpen s.fw s.m core sl = true → sliceSpent s.m core sl = true →
        Goes (.pcSample core sl) s (fun s' => s'.fw = s.fw ∧ s'.m.teams = s.m.teams ∧ s'.m.ctxs = s.m.ctxs
          ∧ sampleOpen s'.fw s'.m core sl = false)
end

