-- ==== Sys2Proof/Laws/Encoding.lean ====
section
/-! SUPPORT. Laws/Encoding.lean: reading each field of an encoded word gives what was put there: the codes of R58, R226,
R230, R233 and R236, and the formats of R229. -/
namespace Sys2Proof

/-! ### Codes -/

@[simp] theorem Scope.dec_enc (s : Scope) : Scope.dec s.enc = s := by cases s <;> decide
@[simp] theorem MScope.dec_enc (s : MScope) : MScope.dec s.enc = s := by cases s <;> decide
@[simp] theorem Space.dec_enc (s : Space) : Space.dec s.enc = s := by cases s <;> decide
@[simp] theorem RMode.dec_enc (s : RMode) : RMode.dec s.enc = s := by cases s <;> decide
@[simp] theorem Ty.dec_enc (t : Ty) : Ty.dec t.enc = some t := by cases t <;> rfl
@[simp] theorem Cond.dec_enc (c : Cond) : Cond.dec (0#6 ++ c.enc) = some c := by cases c <;> rfl

/-- An operand is what its field says (R58). -/
@[simp] theorem Opnd.dec_enc (o : Opnd) : Opnd.dec o.enc = o := by
  cases o with
  | v n => revert n; decide
  | s n => revert n; decide
  | p n => revert n; decide
  | x n => revert n; decide
  | h n => revert n; decide
  | a n => revert n; decide
  | c n => revert n; decide
  | bad n => revert n; decide

/-! ### Fields of joined fields -/

theorem field_low {v w : Nat} (a : BitVec v) (b : BitVec w) (k n : Nat) (h : k + n ≤ w) :
    (a ++ b).extractLsb' k n = b.extractLsb' k n := by
  apply BitVec.eq_of_getLsbD_eq
  intro i hi
  simp only [BitVec.getLsbD_extractLsb', BitVec.getLsbD_append, show k + i < w by omega, if_true]

theorem field_high {v w : Nat} (a : BitVec v) (b : BitVec w) (k n : Nat) (h : w ≤ k) :
    (a ++ b).extractLsb' k n = a.extractLsb' (k - w) n := by
  apply BitVec.eq_of_getLsbD_eq
  intro i hi
  simp only [BitVec.getLsbD_extractLsb', BitVec.getLsbD_append, show ¬ (k + i < w) by omega, if_false,
    show k + i - w = k - w + i by omega]

theorem field_all {w : Nat} (a : BitVec w) : a.extractLsb' 0 w = a := by simp

theorem bit_low {v w : Nat} (a : BitVec v) (b : BitVec w) (k : Nat) (h : k < w) : (a ++ b).getLsbD k = b.getLsbD k := by
  simp only [BitVec.getLsbD_append, h, if_true]

theorem bit_high {v w : Nat} (a : BitVec v) (b : BitVec w) (k : Nat) (h : w ≤ k) :
    (a ++ b).getLsbD k = a.getLsbD (k - w) := by
  simp only [BitVec.getLsbD_append, show ¬ k < w by omega, if_false]

@[simp] theorem bit_getLsbD (b : Bool) : (bit 1 b).getLsbD 0 = b := by cases b <;> rfl

/-! ### The instruction word (R226) -/

section
variable (h : Hd) (maj : BitVec 7) (f : BitVec 49)

/-- Bits 48 to 0 are the format's. -/
theorem wordOf_low (k n : Nat) (hk : k + n ≤ 49) : (wordOf h maj f).extractLsb' k n = f.extractLsb' k n := by
  rw [wordOf, field_low _ _ _ _ hk]

theorem wordOf_getLsbD (k : Nat) (hk : k < 49) : (wordOf h maj f).getLsbD k = f.getLsbD k := by
  rw [wordOf, bit_low _ _ _ hk]

@[simp] theorem wordOf_m : (wordOf h maj f).getLsbD 49 = h.mod.isSome := by
  rw [wordOf, bit_high _ _ _ (by decide), bit_low _ _ _ (by decide), bit_getLsbD]

@[simp] theorem wordOf_pred : (wordOf h maj f).extractLsb' 50 3 = h.pred := by
  unfold wordOf; repeat (first | rw [field_low _ _ _ _ (by decide)] | rw [field_high _ _ _ _ (by decide)])
  exact field_all _

@[simp] theorem wordOf_pneg : (wordOf h maj f).getLsbD 53 = h.pneg := by
  unfold wordOf; repeat (first | rw [bit_low _ _ _ (by decide)] | rw [bit_high _ _ _ (by decide)])
  exact bit_getLsbD _

@[simp] theorem wordOf_major : (wordOf h maj f).extractLsb' 54 7 = maj := by
  unfold wordOf; repeat (first | rw [field_low _ _ _ _ (by decide)] | rw [field_high _ _ _ _ (by decide)])
  exact field_all _

@[simp] theorem wordOf_scope : (wordOf h maj f).extractLsb' 61 2 = h.scope.enc := by
  unfold wordOf; repeat (first | rw [field_low _ _ _ _ (by decide)] | rw [field_high _ _ _ _ (by decide)])
  exact field_all _

@[simp] theorem wordOf_w : (wordOf h maj f).getLsbD 63 = h.w := by
  unfold wordOf; repeat (first | rw [bit_low _ _ _ (by decide)] | rw [bit_high _ _ _ (by decide)])
  exact bit_getLsbD _

end

/-! ### The modifier word (R236, R237) -/

/-- The fields of a modifier word. -/
theorem Mod.dec_enc (m : Mod) : Mod.dec m.enc = m := by
  have e1 : m.enc.extractLsb' 61 3 = m.setn := by
    unfold Mod.enc; repeat (rw [field_high _ _ _ _ (by decide)])
    exact field_all _
  have e2 : m.enc.extractLsb' 51 3 = m.rmode.enc := by
    unfold Mod.enc; repeat (first | rw [field_low _ _ _ _ (by decide)] | rw [field_high _ _ _ _ (by decide)])
    exact field_all _
  have e3 : m.enc.extractLsb' 45 6 = m.scale := by
    unfold Mod.enc; repeat (first | rw [field_low _ _ _ _ (by decide)] | rw [field_high _ _ _ _ (by decide)])
    exact field_all _
  have e4 : m.enc.extractLsb' 0 32 = m.ext := by
    unfold Mod.enc; rw [field_low _ _ _ _ (by decide)]; exact field_all _
  have b1 : m.enc.getLsbD 44 = m.sat := by
    unfold Mod.enc; repeat (first | rw [bit_low _ _ _ (by decide)] | rw [bit_high _ _ _ (by decide)])
    exact bit_getLsbD _
  have b2 : m.enc.getLsbD 43 = m.clamp := by
    unfold Mod.enc; repeat (first | rw [bit_low _ _ _ (by decide)] | rw [bit_high _ _ _ (by decide)])
    exact bit_getLsbD _
  have b3 : m.enc.getLsbD 42 = m.absA := by
    unfold Mod.enc; repeat (first | rw [bit_low _ _ _ (by decide)] | rw [bit_high _ _ _ (by decide)])
    exact bit_getLsbD _
  have b4 : m.enc.getLsbD 41 = m.negA := by
    unfold Mod.enc; repeat (first | rw [bit_low _ _ _ (by decide)] | rw [bit_high _ _ _ (by decide)])
    exact bit_getLsbD _
  have b5 : m.enc.getLsbD 40 = m.absB := by
    unfold Mod.enc; repeat (first | rw [bit_low _ _ _ (by decide)] | rw [bit_high _ _ _ (by decide)])
    exact bit_getLsbD _
  have b6 : m.enc.getLsbD 39 = m.negB := by
    unfold Mod.enc; repeat (first | rw [bit_low _ _ _ (by decide)] | rw [bit_high _ _ _ (by decide)])
    exact bit_getLsbD _
  have b7 : m.enc.getLsbD 38 = m.absC := by
    unfold Mod.enc; repeat (first | rw [bit_low _ _ _ (by decide)] | rw [bit_high _ _ _ (by decide)])
    exact bit_getLsbD _
  have b8 : m.enc.getLsbD 37 = m.negC := by
    unfold Mod.enc; repeat (first | rw [bit_low _ _ _ (by decide)] | rw [bit_high _ _ _ (by decide)])
    exact bit_getLsbD _
  simp only [Mod.dec, e1, e2, e3, e4, b1, b2, b3, b4, b5, b6, b7, b8, RMode.dec_enc]

theorem Mod.enc_mark (m : Mod) : m.enc.extractLsb' 54 7 = 0x7F#7 := by
  unfold Mod.enc; repeat (first | rw [field_low _ _ _ _ (by decide)] | rw [field_high _ _ _ _ (by decide)])
  exact field_all _

theorem Mod.enc_rmode (m : Mod) : m.enc.extractLsb' 51 3 = m.rmode.enc := by
  unfold Mod.enc; repeat (first | rw [field_low _ _ _ _ (by decide)] | rw [field_high _ _ _ _ (by decide)])
  exact field_all _

theorem Mod.enc_setn (m : Mod) : m.enc.extractLsb' 61 3 = m.setn := by
  unfold Mod.enc; repeat (rw [field_high _ _ _ _ (by decide)])
  exact field_all _

theorem Mod.enc_zero (m : Mod) : m.enc.extractLsb' 32 5 = 0#5 := by
  unfold Mod.enc; repeat (first | rw [field_low _ _ _ _ (by decide)] | rw [field_high _ _ _ _ (by decide)])
  exact field_all _

/-- A modifier that its mnemonic accepts fails no check. -/
theorem modResv_enc (acc : ModAcc) (sc : Scope) (m : Mod) (ho : acc.ok m = true) (hs : m.setn = 0#3 ∨ sc = .set) :
    modResv acc sc m.enc = false := by
  simp only [modResv, Mod.enc_rmode, Mod.enc_zero, Mod.dec_enc, Mod.enc_setn, ho]
  have h1 : decide (m.rmode.enc > 4#3) = false := by cases m.rmode <;> decide
  rcases hs with hs | hs <;> simp [h1, hs]

/-! ### The head -/

/-- What a word of one or two parts decodes from: the word after it. -/
def restOf (h : Hd) : DWord :=
  match h.mod with
  | none => 0#64
  | some m => m.enc

/-- The head comes back from the words of an instruction whose modifier is accepted. -/
theorem hdOf_words (h : Hd) (maj : BitVec 7) (f : BitVec 49) (acc : ModAcc) (hr : h.resv = false)
    (hm : ∀ m, h.mod = some m → acc.ok m = true ∧ (m.setn = 0#3 ∨ h.scope = .set)) :
    hdOf (wordOf h maj f) (restOf h) acc false = h := by
  have hM : fM (wordOf h maj f) = h.mod.isSome := wordOf_m h maj f
  simp only [hdOf, hM, wordOf_w, wordOf_scope, wordOf_pneg, wordOf_pred, Scope.dec_enc, Bool.false_or]
  cases hx : h.mod with
  | none => cases h; simp_all
  | some m =>
    have hy := hm m hx
    have hz := modResv_enc acc h.scope m hy.1 hy.2
    cases h
    simp_all [restOf, Mod.dec_enc]

theorem decodeWords_words (h : Hd) (maj : BitVec 7) (f : BitVec 49) :
    decodeWords (words h maj f) = decode (wordOf h maj f) (restOf h) := by
  unfold words restOf
  cases h.mod <;> rfl

/-- Check 4 of R241 passes on the words of an instruction. -/
theorem mark_words (h : Hd) (maj : BitVec 7) (f : BitVec 49) :
    ((wordOf h maj f).getLsbD 49 && (restOf h).extractLsb' 54 7 != 0x7F#7) = false := by
  rw [wordOf_m, restOf]
  cases h.mod <;> simp [Mod.enc_mark]

/-! ### The formats (R229) -/

section
variable (d : BitVec 9) (a : BitVec 9) (b : BitVec 9) (c : BitVec 9) (ty : BitVec 5) (sub : BitVec 8)
theorem rrr_d : (rrr d a b c ty sub).extractLsb' 40 9 = d := by
  rw [rrr]; repeat (first | rw [field_low _ _ _ _ (by decide)] | rw [field_high _ _ _ _ (by decide)])
  exact field_all _
theorem rrr_a : (rrr d a b c ty sub).extractLsb' 31 9 = a := by
  rw [rrr]; repeat (first | rw [field_low _ _ _ _ (by decide)] | rw [field_high _ _ _ _ (by decide)])
  exact field_all _
theorem rrr_b : (rrr d a b c ty sub).extractLsb' 22 9 = b := by
  rw [rrr]; repeat (first | rw [field_low _ _ _ _ (by decide)] | rw [field_high _ _ _ _ (by decide)])
  exact field_all _
theorem rrr_c : (rrr d a b c ty sub).extractLsb' 13 9 = c := by
  rw [rrr, field_high _ _ _ _ (by decide), field_high _ _ _ _ (by decide), field_low _ _ _ _ (by decide)]; exact field_all _
theorem rrr_ty : (rrr d a b c ty sub).extractLsb' 8 5 = ty := by
  rw [rrr, field_high _ _ _ _ (by decide), field_low _ _ _ _ (by decide)]; exact field_all _
theorem rrr_sub : (rrr d a b c ty sub).extractLsb' 0 8 = sub := by
  rw [rrr, field_low _ _ _ _ (by decide)]; exact field_all _
end

section
variable (d : BitVec 9) (a : BitVec 9) (imm : BitVec 20) (ty : BitVec 5) (sub : BitVec 6)
theorem rri_d : (rri d a imm ty sub).extractLsb' 40 9 = d := by
  rw [rri]; repeat (first | rw [field_low _ _ _ _ (by decide)] | rw [field_high _ _ _ _ (by decide)])
  exact field_all _
theorem rri_a : (rri d a imm ty sub).extractLsb' 31 9 = a := by
  rw [rri]; repeat (first | rw [field_low _ _ _ _ (by decide)] | rw [field_high _ _ _ _ (by decide)])
  exact field_all _
theorem rri_imm : (rri d a imm ty sub).extractLsb' 11 20 = imm := by
  rw [rri, field_high _ _ _ _ (by decide), field_high _ _ _ _ (by decide), field_low _ _ _ _ (by decide)]; exact field_all _
theorem rri_ty : (rri d a imm ty sub).extractLsb' 6 5 = ty := by
  rw [rri, field_high _ _ _ _ (by decide), field_low _ _ _ _ (by decide)]; exact field_all _
theorem rri_sub : (rri d a imm ty sub).extractLsb' 0 6 = sub := by
  rw [rri, field_low _ _ _ _ (by decide)]; exact field_all _
end

section
variable (d : BitVec 9) (a : BitVec 9) (off : BitVec 20) (sp : BitVec 3) (ms : BitVec 3) (sub : BitVec 5)
theorem memf_d : (memf d a off sp ms sub).extractLsb' 40 9 = d := by
  rw [memf]; repeat (first | rw [field_low _ _ _ _ (by decide)] | rw [field_high _ _ _ _ (by decide)])
  exact field_all _
theorem memf_a : (memf d a off sp ms sub).extractLsb' 31 9 = a := by
  rw [memf]; repeat (first | rw [field_low _ _ _ _ (by decide)] | rw [field_high _ _ _ _ (by decide)])
  exact field_all _
theorem memf_off : (memf d a off sp ms sub).extractLsb' 11 20 = off := by
  rw [memf]; repeat (first | rw [field_low _ _ _ _ (by decide)] | rw [field_high _ _ _ _ (by decide)])
  exact field_all _
theorem memf_sp : (memf d a off sp ms sub).extractLsb' 8 3 = sp := by
  rw [memf]; repeat (first | rw [field_low _ _ _ _ (by decide)] | rw [field_high _ _ _ _ (by decide)])
  exact field_all _
theorem memf_ms : (memf d a off sp ms sub).extractLsb' 5 3 = ms := by
  rw [memf, field_high _ _ _ _ (by decide), field_low _ _ _ _ (by decide)]; exact field_all _
theorem memf_sub : (memf d a off sp ms sub).extractLsb' 0 5 = sub := by
  rw [memf, field_low _ _ _ _ (by decide)]; exact field_all _
end

section
variable (d : BitVec 9) (a : BitVec 9) (b : BitVec 9) (site : BitVec 13) (sub : BitVec 9)
theorem genf_d : (genf d a b site sub).extractLsb' 40 9 = d := by
  rw [genf]; repeat (first | rw [field_low _ _ _ _ (by decide)] | rw [field_high _ _ _ _ (by decide)])
  exact field_all _
theorem genf_a : (genf d a b site sub).extractLsb' 31 9 = a := by
  rw [genf]; repeat (first | rw [field_low _ _ _ _ (by decide)] | rw [field_high _ _ _ _ (by decide)])
  exact field_all _
theorem genf_b : (genf d a b site sub).extractLsb' 22 9 = b := by
  rw [genf]; repeat (first | rw [field_low _ _ _ _ (by decide)] | rw [field_high _ _ _ _ (by decide)])
  exact field_all _
theorem genf_site : (genf d a b site sub).extractLsb' 9 13 = site := by
  rw [genf, field_high _ _ _ _ (by decide), field_low _ _ _ _ (by decide)]; exact field_all _
theorem genf_sub : (genf d a b site sub).extractLsb' 0 9 = sub := by
  rw [genf, field_low _ _ _ _ (by decide)]; exact field_all _
end

section
variable (off : BitVec 32) (join16 : BitVec 16) (link : BitVec 1)
theorem brf_off : (brf off join16 link).extractLsb' 17 32 = off := by
  rw [brf, field_high _ _ _ _ (by decide), field_high _ _ _ _ (by decide)]; exact field_all _
theorem brf_join16 : (brf off join16 link).extractLsb' 1 16 = join16 := by
  rw [brf, field_high _ _ _ _ (by decide), field_low _ _ _ _ (by decide)]; exact field_all _
theorem brf_link : (brf off join16 link).extractLsb' 0 1 = link := by
  rw [brf, field_low _ _ _ _ (by decide)]; exact field_all _
end

section
variable (d : BitVec 9) (a : BitVec 9) (b : BitVec 9) (ha : BitVec 4) (hb : BitVec 4) (tile : BitVec 2) (bar : BitVec 7) (sub : BitVec 5)
theorem engf_d : (engf d a b ha hb tile bar sub).extractLsb' 40 9 = d := by
  rw [engf]; repeat (first | rw [field_low _ _ _ _ (by decide)] | rw [field_high _ _ _ _ (by decide)])
  exact field_all _
theorem engf_a : (engf d a b ha hb tile bar sub).extractLsb' 31 9 = a := by
  rw [engf]; repeat (first | rw [field_low _ _ _ _ (by decide)] | rw [field_high _ _ _ _ (by decide)])
  exact field_all _
theorem engf_b : (engf d a b ha hb tile bar sub).extractLsb' 22 9 = b := by
  rw [engf]; repeat (first | rw [field_low _ _ _ _ (by decide)] | rw [field_high _ _ _ _ (by decide)])
  exact field_all _
theorem engf_ha : (engf d a b ha hb tile bar sub).extractLsb' 18 4 = ha := by
  rw [engf]; repeat (first | rw [field_low _ _ _ _ (by decide)] | rw [field_high _ _ _ _ (by decide)])
  exact field_all _
theorem engf_hb : (engf d a b ha hb tile bar sub).extractLsb' 14 4 = hb := by
  rw [engf]; repeat (first | rw [field_low _ _ _ _ (by decide)] | rw [field_high _ _ _ _ (by decide)])
  exact field_all _
theorem engf_tile : (engf d a b ha hb tile bar sub).extractLsb' 12 2 = tile := by
  rw [engf]; repeat (first | rw [field_low _ _ _ _ (by decide)] | rw [field_high _ _ _ _ (by decide)])
  exact field_all _
theorem engf_bar : (engf d a b ha hb tile bar sub).extractLsb' 5 7 = bar := by
  rw [engf, field_high _ _ _ _ (by decide), field_low _ _ _ _ (by decide)]; exact field_all _
theorem engf_sub : (engf d a b ha hb tile bar sub).extractLsb' 0 5 = sub := by
  rw [engf, field_low _ _ _ _ (by decide)]; exact field_all _
end

section
variable (d : BitVec 9) (a : BitVec 9) (sidx : BitVec 8) (imm : BitVec 17) (sub : BitVec 6)
theorem sysf_d : (sysf d a sidx imm sub).extractLsb' 40 9 = d := by
  rw [sysf]; repeat (first | rw [field_low _ _ _ _ (by decide)] | rw [field_high _ _ _ _ (by decide)])
  exact field_all _
theorem sysf_a : (sysf d a sidx imm sub).extractLsb' 31 9 = a := by
  rw [sysf]; repeat (first | rw [field_low _ _ _ _ (by decide)] | rw [field_high _ _ _ _ (by decide)])
  exact field_all _
theorem sysf_sidx : (sysf d a sidx imm sub).extractLsb' 23 8 = sidx := by
  rw [sysf]; repeat (first | rw [field_low _ _ _ _ (by decide)] | rw [field_high _ _ _ _ (by decide)])
  exact field_all _
theorem sysf_imm : (sysf d a sidx imm sub).extractLsb' 6 17 = imm := by
  rw [sysf, field_high _ _ _ _ (by decide), field_low _ _ _ _ (by decide)]; exact field_all _
theorem sysf_sub : (sysf d a sidx imm sub).extractLsb' 0 6 = sub := by
  rw [sysf, field_low _ _ _ _ (by decide)]; exact field_all _
end

/-! ### From a well-formed instruction to its decoding -/

/-- What well-formedness says of the head. -/
theorem Instr.wf_parts {i : Instr} {p : Parts} (hp : i.parts = some p) (hw : i.wf = true) :
    p.h.resv = false ∧ p.scopes p.h.scope = true ∧ p.ty = true ∧ p.extra = true
      ∧ (∀ m, p.h.mod = some m → p.acc.ok m = true ∧ (m.setn = 0#3 ∨ p.h.scope = .set)) := by
  simp only [Instr.wf, hp, Parts.wf, Bool.and_eq_true, Bool.not_eq_true'] at hw
  obtain ⟨⟨⟨⟨⟨h1, h2⟩, h3⟩, h4⟩, h5⟩, h6⟩ := hw
  refine ⟨h1, h2, h3, h5, fun m hm => ?_⟩
  simp only [hm, Bool.and_eq_true, Bool.or_eq_true, beq_iff_eq] at h6
  exact h6

/-- Checks 3 and 4 of R241 pass on the words of an instruction at a scope that its point accepts. -/
theorem decodeWords_of_point {h : Hd} {maj : BitVec 7} {f : BitVec 49} {sc : Scope → Bool} {i : Instr}
    (hp : decodePoint (wordOf h maj f) (restOf h) = some (sc, i)) (hs : sc h.scope = true) :
    decodeWords (words h maj f) = .ok i := by
  have hm := mark_words h maj f
  rw [decodeWords_words, decode, hp]
  simp only [wordOf_scope, Scope.dec_enc, hs, Bool.not_true, Bool.false_eq_true, if_false]
  rw [if_neg (by rw [show fM (wordOf h maj f) = (wordOf h maj f).getLsbD 49 from rfl, hm]; decide)]

end Sys2Proof
end

