-- ==== Sys2Proof/Laws/State.lean ====
section
/-! SUPPORT. Laws/State.lean: what each update of a team, a group or a counter leaves as it was, and what reading the
updated part gives: later proofs cite these and unfold no update. -/
namespace Sys2Proof.Machine

/-! ### Lists -/

@[simp] theorem putAt_getD_same {α : Type} (d : α) (l : List α) (n : Nat) (x e : α) : (putAt d l n x).getD n e = x := by
  induction l generalizing n with
  | nil => induction n with
    | zero => rfl
    | succ n ih => simpa [putAt] using ih
  | cons y r ih => cases n with
    | zero => rfl
    | succ n => simpa [putAt] using ih n

theorem putAt_getD_other {α : Type} (d : α) (l : List α) (n k : Nat) (x : α) (h : k ≠ n) :
    (putAt d l n x).getD k d = l.getD k d := by
  induction l generalizing n k with
  | nil =>
    induction n generalizing k with
    | zero => cases k with
      | zero => exact absurd rfl h
      | succ k => rfl
    | succ n ih => cases k with
      | zero => rfl
      | succ k => simpa [putAt] using ih k (by omega)
  | cons y r ih => cases n with
    | zero => cases k with
      | zero => exact absurd rfl h
      | succ k => rfl
    | succ n => cases k with
      | zero => rfl
      | succ k => simpa [putAt] using ih n k (by omega)

theorem modAt_getD_same {α : Type} (d : α) (l : List α) (n : Nat) (f : α → α) :
    (modAt d l n f).getD n d = f (l.getD n d) := putAt_getD_same d l n _ d

theorem modAt_getD_other {α : Type} (d : α) (l : List α) (n k : Nat) (f : α → α) (h : k ≠ n) :
    (modAt d l n f).getD k d = l.getD k d := putAt_getD_other d l n k _ h

/-- Finding by a key after a change that keeps keys to the entries of key k. -/
theorem find?_modKey {α : Type} (key : α → Nat) (l : List α) (k j : Nat) (f : α → α) (h : ∀ x, key (f x) = key x) :
    (l.map (fun x => if key x == k then f x else x)).find? (fun x => key x == j) =
      if j = k then (l.find? (fun x => key x == j)).map f else l.find? (fun x => key x == j) := by
  induction l with
  | nil => simp
  | cons x xs ih =>
    rw [List.map_cons, List.find?_cons, List.find?_cons, ih]
    have hk : key (if key x == k then f x else x) = key x := by split <;> simp [h]
    rw [hk]
    by_cases hj : key x = j
    · subst hj
      by_cases hx : key x = k <;> simp [hx]
    · rw [show (key x == j) = false from by simp [hj]]

/-! ### Registers -/

theorem newLanes_getD {w : Nat} (old : List (BitVec w)) (act : Mask) (f : Nat → BitVec w) (l : Nat) (h : l < 32) :
    (newLanes old act f).getD l 0 = if act.has l then f l else old.getD l 0 := by
  simp [newLanes, List.getD_eq_getElem?_getD, h]

/-! ### Teams and groups -/

section
variable (m : Mach) (k j : Nat) (f : Team → Team) (r q : GRef) (c : BitVec 12) (n : Nat)

@[simp] theorem modTeam_cur : (m.modTeam k f).cur = m.cur := rfl
@[simp] theorem modTeam_draw : (m.modTeam k f).draw = m.draw := rfl
@[simp] theorem modTeam_cycle : (m.modTeam k f).cycle = m.cycle := rfl
@[simp] theorem modTeam_agenda : (m.modTeam k f).agenda = m.agenda := rfl
@[simp] theorem modTeam_ctxs : (m.modTeam k f).ctxs = m.ctxs := rfl
@[simp] theorem modTeam_grids : (m.modTeam k f).grids = m.grids := rfl
@[simp] theorem modTeam_cores : (m.modTeam k f).cores = m.cores := rfl
@[simp] theorem modTeam_rdc : (m.modTeam k f).rdc = m.rdc := rfl
@[simp] theorem modTeam_mem : (m.modTeam k f).mem = m.mem := rfl
@[simp] theorem modTeam_l2 : (m.modTeam k f).l2 = m.l2 := rfl
@[simp] theorem modTeam_registry : (m.modTeam k f).registry = m.registry := rfl
@[simp] theorem modTeam_mirror : (m.modTeam k f).mirror = m.mirror := rfl
@[simp] theorem modTeam_ctus : (m.modTeam k f).ctus = m.ctus := rfl
@[simp] theorem modTeam_issued : (m.modTeam k f).issued = m.issued := rfl
@[simp] theorem modTeam_stalled : (m.modTeam k f).stalled = m.stalled := rfl
@[simp] theorem modTeam_msc : (m.modTeam k f).msc = m.msc := rfl
@[simp] theorem modTeam_heldWb : (m.modTeam k f).heldWb = m.heldWb := rfl
@[simp] theorem modTeam_memErr : (m.modTeam k f).memErr = m.memErr := rfl
@[simp] theorem modTeam_l2Err : (m.modTeam k f).l2Err = m.l2Err := rfl
@[simp] theorem modTeam_loss : (m.modTeam k f).loss = m.loss := rfl
@[simp] theorem modTeam_rewrites : (m.modTeam k f).rewrites = m.rewrites := rfl
@[simp] theorem modTeam_pairings : (m.modTeam k f).pairings = m.pairings := rfl
@[simp] theorem modTeam_rollCalls : (m.modTeam k f).rollCalls = m.rollCalls := rfl
@[simp] theorem modTeam_poison : (m.modTeam k f).poison = m.poison := rfl
@[simp] theorem modTeam_parts : (m.modTeam k f).parts = m.parts := rfl
@[simp] theorem modTeam_nextWid : (m.modTeam k f).nextWid = m.nextWid := rfl
@[simp] theorem modTeam_sampledNow : (m.modTeam k f).sampledNow = m.sampledNow := rfl
@[simp] theorem modTeam_placedNow : (m.modTeam k f).placedNow = m.placedNow := rfl
@[simp] theorem modTeam_modt : (m.modTeam k f).modt = m.modt := rfl
@[simp] theorem modTeam_ftime : (m.modTeam k f).ftime = m.ftime := rfl
@[simp] theorem modTeam_ftrem : (m.modTeam k f).ftrem = m.ftrem := rfl
@[simp] theorem modTeam_slew : (m.modTeam k f).slew = m.slew := rfl
@[simp] theorem modTeam_dumps : (m.modTeam k f).dumps = m.dumps := rfl
@[simp] theorem modTeam_nextTid : (m.modTeam k f).nextTid = m.nextTid := rfl
@[simp] theorem modTeam_nextGid : (m.modTeam k f).nextGid = m.nextGid := rfl
@[simp] theorem modTeam_hostRead : (m.modTeam k f).hostRead = m.hostRead := rfl
@[simp] theorem modTeam_response : (m.modTeam k f).response = m.response := rfl
@[simp] theorem modTeam_fwLog : (m.modTeam k f).fwLog = m.fwLog := rfl
@[simp] theorem modTeam_ctx? : (m.modTeam k f).ctx? c = m.ctx? c := rfl
@[simp] theorem modTeam_core : (m.modTeam k f).core n = m.core n := rfl
@[simp] theorem modTeam_grid? : (m.modTeam k f).grid? n = m.grid? n := rfl

/-- Looking up a team after a change to team k. -/
theorem team?_modTeam (h : ∀ t, (f t).tid = t.tid) :
    (m.modTeam k f).team? j = if j = k then (m.team? j).map f else m.team? j :=
  find?_modKey (fun t : Team => t.tid) m.teams k j f h

theorem group?_modGroup (t : Team) (a b : Nat) (f : Group → Group) (h : ∀ g, (f g).gno = g.gno) :
    (t.modGroup a f).group? b = if b = a then (t.group? b).map f else t.group? b :=
  find?_modKey (fun g : Group => g.gno) t.groups a b f h

@[simp] theorem team_modGroup_tid (t : Team) (a : Nat) (f : Group → Group) : (t.modGroup a f).tid = t.tid := rfl

theorem team?_modGroup (f : Group → Group) :
    (m.modGroup r f).team? j = if j = r.tid then (m.team? j).map (fun t => t.modGroup r.gno f) else m.team? j :=
  team?_modTeam m r.tid j _ (fun _ => rfl)

/-- Looking up a group after a change to group r. -/
theorem mach_group?_modGroup (f : Group → Group) (h : ∀ g, (f g).gno = g.gno) :
    (m.modGroup r f).group? q = if q = r then (m.group? q).map f else m.group? q := by
  simp only [Mach.group?, team?_modGroup]
  by_cases h1 : q.tid = r.tid
  · rw [if_pos h1]
    cases ht : m.team? q.tid with
    | none => simp
    | some t =>
      simp only [Option.map_some, Option.bind_some, group?_modGroup t _ _ f h]
      by_cases h2 : q.gno = r.gno
      · have : q = r := by cases q; cases r; simp_all
        simp [this]
      · have : q ≠ r := fun e => h2 (by rw [e])
        simp [h2, this]
  · have : q ≠ r := fun e => h1 (by rw [e])
    simp [h1, this]

/-! ### Cores -/

@[simp] theorem modCore_teams (f : Core → Core) : (m.modCore k f).teams = m.teams := rfl
@[simp] theorem modCore_ctxs (f : Core → Core) : (m.modCore k f).ctxs = m.ctxs := rfl
@[simp] theorem modCore_grids (f : Core → Core) : (m.modCore k f).grids = m.grids := rfl
@[simp] theorem modCore_mem (f : Core → Core) : (m.modCore k f).mem = m.mem := rfl
@[simp] theorem modCore_l2 (f : Core → Core) : (m.modCore k f).l2 = m.l2 := rfl
@[simp] theorem modCore_rdc (f : Core → Core) : (m.modCore k f).rdc = m.rdc := rfl
@[simp] theorem modCore_registry (f : Core → Core) : (m.modCore k f).registry = m.registry := rfl
@[simp] theorem modCore_mirror (f : Core → Core) : (m.modCore k f).mirror = m.mirror := rfl
@[simp] theorem modCore_ctus (f : Core → Core) : (m.modCore k f).ctus = m.ctus := rfl
@[simp] theorem modCore_issued (f : Core → Core) : (m.modCore k f).issued = m.issued := rfl
@[simp] theorem modCore_stalled (f : Core → Core) : (m.modCore k f).stalled = m.stalled := rfl
@[simp] theorem modCore_heldWb (f : Core → Core) : (m.modCore k f).heldWb = m.heldWb := rfl
@[simp] theorem modCore_parts (f : Core → Core) : (m.modCore k f).parts = m.parts := rfl
@[simp] theorem modCore_draw (f : Core → Core) : (m.modCore k f).draw = m.draw := rfl
@[simp] theorem modCore_cycle (f : Core → Core) : (m.modCore k f).cycle = m.cycle := rfl
@[simp] theorem modCore_team? (f : Core → Core) : (m.modCore k f).team? j = m.team? j := rfl
@[simp] theorem modCore_group? (f : Core → Core) : (m.modCore k f).group? r = m.group? r := rfl
@[simp] theorem modCore_ctx? (f : Core → Core) : (m.modCore k f).ctx? c = m.ctx? c := rfl
@[simp] theorem modCore_core_same (f : Core → Core) : (m.modCore k f).core k = f (m.core k) := modAt_getD_same Core.initial m.cores k f
theorem modCore_core_other (f : Core → Core) (h : j ≠ k) : (m.modCore k f).core j = m.core j := modAt_getD_other Core.initial m.cores k j f h

/-! ### Counters -/

@[simp] theorem countFix_teams : (m.countFix c k n).teams = m.teams := by unfold Mach.countFix; split <;> rfl
@[simp] theorem countFix_team? : (m.countFix c k n).team? j = m.team? j := by simp [Mach.team?]
@[simp] theorem countFix_group? : (m.countFix c k n).group? r = m.group? r := by simp [Mach.group?]
@[simp] theorem countFix_ctxs : (m.countFix c k n).ctxs = m.ctxs := by unfold Mach.countFix; split <;> rfl
@[simp] theorem countFix_mem : (m.countFix c k n).mem = m.mem := by unfold Mach.countFix; split <;> rfl
@[simp] theorem count_teams : (m.count c k n).teams = m.teams := by unfold Mach.count; split <;> rfl
@[simp] theorem count_team? : (m.count c k n).team? j = m.team? j := by simp [Mach.team?]
@[simp] theorem count_group? : (m.count c k n).group? r = m.group? r := by simp [Mach.group?]
@[simp] theorem count_ctxs : (m.count c k n).ctxs = m.ctxs := by unfold Mach.count; split <;> rfl
@[simp] theorem count_mem : (m.count c k n).mem = m.mem := by unfold Mach.count; split <;> rfl
@[simp] theorem count_cores : (m.count c k n).cores = m.cores := by unfold Mach.count; split <;> rfl

/-- Counting changes the counters of a partition and nothing else. -/
theorem countFix_device : { m.countFix c k n with parts := m.parts } = m := by unfold Mach.countFix; split <;> rfl
theorem count_device : { m.count c k n with parts := m.parts } = m := by unfold Mach.count; split <;> rfl

end

end Sys2Proof.Machine
end

