-- ==== Sys2Proof/Laws/Issue.lean ====
section
/-! SUPPORT. Laws/Issue.lean: what issuing, retiring and writing registers can do, said once: the claims about one
instruction rest on these. -/
namespace Sys2Proof.Machine

/-! ### A group's updates keep its number -/

section
variable (g : Group) (w : Bool) (pc : DWord) (p : Park) (now : Nat) (ids : List RegId) (f : Regs → Regs)

@[simp] theorem afterW_gno : (g.afterW w).gno = g.gno := by unfold Group.afterW; (repeat' split) <;> rfl
@[simp] theorem afterW_pc : (g.afterW w).pc = g.pc := by unfold Group.afterW; (repeat' split) <;> rfl
@[simp] theorem afterW_regs : (g.afterW w).regs = g.regs := by unfold Group.afterW; (repeat' split) <;> rfl
@[simp] theorem afterW_retired : (g.afterW w).retired = g.retired := by unfold Group.afterW; (repeat' split) <;> rfl
@[simp] theorem afterW_amask : (g.afterW w).amask = g.amask := by unfold Group.afterW; (repeat' split) <;> rfl
@[simp] theorem afterW_stack : (g.afterW w).stack = g.stack := by unfold Group.afterW; (repeat' split) <;> rfl
@[simp] theorem afterW_present : (g.afterW w).present = g.present := by unfold Group.afterW; (repeat' split) <;> rfl
@[simp] theorem afterW_lost : (g.afterW w).lost = g.lost := by unfold Group.afterW; (repeat' split) <;> rfl
@[simp] theorem popLost_gno : g.popLost.gno = g.gno := by unfold Group.popLost; split <;> rfl
@[simp] theorem popLost_regs : g.popLost.regs = g.regs := by unfold Group.popLost; split <;> rfl
@[simp] theorem popLost_retired : g.popLost.retired = g.retired := by unfold Group.popLost; split <;> rfl
@[simp] theorem popLost_amask : g.popLost.amask = g.amask := by unfold Group.popLost; split <;> rfl
@[simp] theorem popLost_stack : g.popLost.stack = g.stack := by unfold Group.popLost; split <;> rfl
@[simp] theorem popLost_present : g.popLost.present = g.present := by unfold Group.popLost; split <;> rfl

/-- What a group owes after one more instruction ended by a loss. -/
theorem mem_insertLost (x y : Lost) (l : List Lost) : y ∈ insertLost x l ↔ y = x ∨ y ∈ l := by
  simp only [insertLost, List.mem_append, List.mem_filter, List.mem_cons, decide_eq_true_eq]
  constructor
  · rintro (⟨h, _⟩ | h | ⟨h, _⟩) <;> simp [h]
  · rintro (h | h)
    · exact .inr (.inl h)
    · rcases Nat.lt_or_ge x.img y.img with k | k
      · exact .inr (.inr ⟨h, k⟩)
      · exact .inl ⟨h, k⟩

/-- A group that owes no lanes goes on where it stands. -/
theorem popLost_none (h : g.lost = []) : g.popLost = g := by
  unfold Group.popLost; split
  · next hl => simp [h] at hl
  · rfl

@[simp] theorem retire_gno : (g.retire w pc).gno = g.gno := by simp [Group.retire]
@[simp] theorem retire_regs : (g.retire w pc).regs = g.regs := by simp [Group.retire]
theorem retire_pc (hb : g.back = none) (hl : g.lost = []) : (g.retire w pc).pc = pc := by
  simp only [Group.retire]
  rw [popLost_none _ (by simpa using hl)]
  simp [hb]
theorem retire_retired (hb : g.back = none) : (g.retire w pc).retired = g.retired + 1 := by simp [Group.retire, hb]
@[simp] theorem retire_amask : (g.retire w pc).amask = g.amask := by simp [Group.retire]
@[simp] theorem retire_stack : (g.retire w pc).stack = g.stack := by simp [Group.retire]
@[simp] theorem retire_present : (g.retire w pc).present = g.present := by simp [Group.retire]
@[simp] theorem park_gno : (g.park p w pc now).gno = g.gno := rfl
@[simp] theorem park_status : (g.park p w pc now).status = .parked p := rfl
@[simp] theorem park_regs : (g.park p w pc now).regs = g.regs := rfl
@[simp] theorem park_pc : (g.park p w pc now).pc = g.pc := rfl
@[simp] theorem park_npc : (g.park p w pc now).npc = pc := rfl
@[simp] theorem park_retired : (g.park p w pc now).retired = g.retired := rfl
@[simp] theorem produce_gno : (g.produce ids f).gno = g.gno := rfl
@[simp] theorem produce_regs : (g.produce ids f).regs = f g.regs := rfl
@[simp] theorem produce_pc : (g.produce ids f).pc = g.pc := rfl
@[simp] theorem produce_retired : (g.produce ids f).retired = g.retired := rfl
@[simp] theorem produce_amask : (g.produce ids f).amask = g.amask := rfl
@[simp] theorem produce_stack : (g.produce ids f).stack = g.stack := rfl
@[simp] theorem produce_present : (g.produce ids f).present = g.present := rfl
@[simp] theorem returned_gno : g.returned.gno = g.gno := rfl
@[simp] theorem returned_status : g.returned.status = g.status := rfl
@[simp] theorem returned_pc : g.returned.pc = g.pc := rfl
@[simp] theorem returned_amask : g.returned.amask = g.amask := rfl
@[simp] theorem returned_present : g.returned.present = g.present := rfl
@[simp] theorem returned_stack : g.returned.stack = g.stack := rfl
@[simp] theorem returned_regs : g.returned.regs = g.regs := rfl
@[simp] theorem returned_lost : g.returned.lost = g.lost := rfl
@[simp] theorem returned_redo : g.returned.redo = g.redo := rfl
@[simp] theorem returned_retired : g.returned.retired = g.retired := rfl
@[simp] theorem returned_old : g.returned.old = [] := rfl
@[simp] theorem returned_outst : g.returned.outst = [] := rfl
@[simp] theorem returned_outMem : g.returned.outMem = [] := rfl
@[simp] theorem returned_reqs : g.returned.reqs = g.reds := rfl
@[simp] theorem stopped_gno (x : Stop) (here : Bool) (hit : Hit) : (Group.stopped x here hit g).gno = g.gno := rfl
@[simp] theorem stopped_pc (x : Stop) (here : Bool) (hit : Hit) : (Group.stopped x here hit g).pc = g.pc := rfl
@[simp] theorem stopped_amask (x : Stop) (here : Bool) (hit : Hit) : (Group.stopped x here hit g).amask = g.amask := rfl
@[simp] theorem stopped_present (x : Stop) (here : Bool) (hit : Hit) : (Group.stopped x here hit g).present = g.present := rfl
@[simp] theorem stopped_stack (x : Stop) (here : Bool) (hit : Hit) : (Group.stopped x here hit g).stack = g.stack := rfl
@[simp] theorem stopped_regs (x : Stop) (here : Bool) (hit : Hit) : (Group.stopped x here hit g).regs = g.regs := rfl
@[simp] theorem stopped_lost (x : Stop) (here : Bool) (hit : Hit) : (Group.stopped x here hit g).lost = g.lost := rfl
@[simp] theorem stopped_retired (x : Stop) (here : Bool) (hit : Hit) : (Group.stopped x here hit g).retired = g.retired := rfl
@[simp] theorem writeNow_gno : (g.writeNow f).gno = g.gno := rfl
@[simp] theorem writeNow_regs : (g.writeNow f).regs = f g.regs := rfl
@[simp] theorem writeNow_pc : (g.writeNow f).pc = g.pc := rfl
@[simp] theorem writeNow_retired : (g.writeNow f).retired = g.retired := rfl

end

/-! ### Issuing -/

theorem Issuing.mach {s : State} {r : GRef} {t : Team} {g : Group} (h : Issuing s r t g) : s.m.group? r = some g := by
  simp [Mach.group?, h.team, h.group]

theorem Issuing.tid {s : State} {r : GRef} {t : Team} {g : Group} (h : Issuing s r t g) : t.tid = r.tid := by
  have := List.find?_some h.team
  simpa using this

theorem Issuing.gno {s : State} {r : GRef} {t : Team} {g : Group} (h : Issuing s r t g) : g.gno = r.gno := by
  have := List.find?_some h.group
  simpa using this

theorem Issuing.ref {s : State} {r : GRef} {t : Team} {g : Group} (h : Issuing s r t g) :
    ({ tid := t.tid, gno := g.gno } : GRef) = r := by
  cases r; simp_all [h.tid, h.gno]

theorem issue_next {s : State} {r : GRef} {t : Team} {g : Group} (hi : Issuing s r t g) (h : Hd) (i : Instr) (op : Op) :
    issue s h i op = .next { s with m := issueOn s.fw s.m h i op t g } := by
  simp [issue, hi.cur, hi.team, hi.group]

@[simp] theorem stall_teams (m : Mach) (t : Team) (g : Group) : (m.stall t g).teams = m.teams := rfl
@[simp] theorem stall_mem (m : Mach) (t : Team) (g : Group) : (m.stall t g).mem = m.mem := rfl
@[simp] theorem stall_ctxs (m : Mach) (t : Team) (g : Group) : (m.stall t g).ctxs = m.ctxs := rfl

/-- A group that is held is among the held of its cycle, and its slice has issued nothing. -/
theorem stall_holds (m : Mach) (t : Team) (g : Group) :
    { tid := t.tid, gno := g.gno } ∈ (m.stall t g).stalled ∧ ∀ x ∈ (m.stall t g).issued, ¬ (x.1 = t.core ∧ x.2.1 = g.slice) := by
  constructor
  · simp [Mach.stall]
  · intro x hx
    simp only [Mach.stall, List.mem_filter] at hx
    rintro ⟨h1, h2⟩
    simp [h1, h2] at hx

/-- An instruction that neither releases nor writes memory waits for no release. -/
theorem heldRelease_none {i : Instr} (hr : releaseOf i = none) (hw : afterRel i = false) (m : Mach) (t : Team) (g : Group) :
    heldRelease m t g i = none := by
  simp [heldRelease, needsRelease, hr, hw]

@[simp] theorem memberOf_gno (g : Group) (h : Hd) (draw : Nat) : (memberOf g h draw).gno = g.gno := by
  unfold memberOf; split <;> rfl

/-- An instruction that passes its checks: its body runs for the group, or at GROUP scope, with no active lane, it only
retires. -/
theorem issueOn_alone {fw : Firmware} {m : Mach} {h : Hd} {i : Instr} {op : Op} {t : Team} {g : Group}
    (ha : Alone h) (hc : check h op t g m.draw = none) (hu : heldRelease m t g i = none) (hb : g.back = none) :
    issueOn fw m h i op t g =
      if h.scope = .group ∧ actOf g h m.draw = 0 then
        retireGroup m { tid := t.tid, gno := g.gno } t.ctx h.w (nextPc g.pc h)
      else conclude fw h i t g (op.body fw m t.tid [memberOf g h m.draw]) := by
  rcases ha.1 with hs | hs <;> simp [issueOn, hs, hc, hu, hb]

theorem retireGroup_group? (m : Mach) (r q : GRef) (c : BitVec 12) (w : Bool) (pc : DWord) :
    (retireGroup m r c w pc).group? q = if q = r then (m.group? q).map (fun g => g.retire w pc) else m.group? q := by
  rw [retireGroup, countFix_group?, mach_group?_modGroup _ _ _ _ (by simp)]

/-! ### Frames -/

theorem modGroup_others (m : Mach) (r q : GRef) (f : Group → Group) (h : ∀ g, (f g).gno = g.gno) (hq : q ≠ r) :
    (m.modGroup r f).group? q = m.group? q := by
  rw [mach_group?_modGroup _ _ _ _ h, if_neg hq]

theorem modGroup_body (m : Mach) (r : GRef) (f : Group → Group) (k : Nat) :
    ((m.modGroup r f).team? k).map Team.body = (m.team? k).map Team.body := by
  rw [team?_modGroup]
  split
  · rw [Option.map_map]; congr 1
  · rfl

theorem modGroup_device (m : Mach) (r : GRef) (f : Group → Group) : { m.modGroup r f with teams := m.teams } = m := rfl

/-- A change of the issuing group alone, then its retirement. -/
theorem onlyGroup_retire {s : State} {r : GRef} {f : Group → Group} (hf : ∀ g, (f g).gno = g.gno) (c : BitVec 12) (w : Bool)
    (pc : DWord) : OnlyGroup s { s with m := retireGroup (s.m.modGroup r f) r c w pc } r := by
  refine ⟨fun q hq => ?_, fun k => ?_, ?_⟩
  · simp [retireGroup_group?, hq, modGroup_others _ _ _ _ hf hq]
  · simp only [retireGroup, countFix_team?, modGroup_body]
  · simp only [DeviceKept, retireGroup]
    generalize (if (((s.m.modGroup r f).group? r).bind Group.back).isSome = true then 0 else 1) = n
    have h := countFix_device ((s.m.modGroup r f).modGroup r (fun g => g.retire w pc)) 1 c n
    calc _ = { ({ ((s.m.modGroup r f).modGroup r (fun g => g.retire w pc)).countFix c 1 n with
                parts := ((s.m.modGroup r f).modGroup r (fun g => g.retire w pc)).parts } : Mach) with teams := s.m.teams } := rfl
      _ = s.m := by rw [h]; rfl

theorem modGroup_id (m : Mach) (r : GRef) : m.modGroup r (fun g => g) = m := by
  simp [Mach.modGroup, Mach.modTeam, Team.modGroup]

theorem onlyGroup_retire0 {s : State} {r : GRef} (c : BitVec 12) (w : Bool) (pc : DWord) :
    OnlyGroup s { s with m := retireGroup s.m r c w pc } r := by
  have := onlyGroup_retire (s := s) (r := r) (f := fun g => g) (fun _ => rfl) c w pc
  rwa [modGroup_id] at this

/-- What such a step completes. -/
theorem completed_retire {s : State} {r : GRef} {t : Team} {g : Group} (hi : Issuing s r t g) {f : Group → Group}
    (hf : ∀ g, (f g).gno = g.gno) {ids : List RegId} {c : BitVec 12} {w : Bool} {pc : DWord}
    (hb : (f g).back = none) (hl : (f g).lost = []) (hr : (f g).retired = g.retired) (hp : (f g).present = g.present) (hk : ∀ id, id ∉ ids → SameReg g.regs (f g).regs id) :
    Completed s { s with m := retireGroup (s.m.modGroup r f) r c w pc } r ids pc := by
  refine ⟨rfl, g, (f g).retire w pc, hi.mach, ?_, retire_pc _ _ _ hb hl, by rw [retire_retired _ _ _ hb, hr], by simp [hp], by simpa using hk⟩
  simp [retireGroup_group?, mach_group?_modGroup _ _ _ _ hf, hi.mach]

theorem completed_retire0 {s : State} {r : GRef} {t : Team} {g : Group} (hi : Issuing s r t g) (ids : List RegId)
    (c : BitVec 12) (w : Bool) (pc : DWord) : Completed s { s with m := retireGroup s.m r c w pc } r ids pc := by
  have := completed_retire (ids := ids) (c := c) (w := w) (pc := pc) hi (f := fun g => g) (fun _ => rfl) hi.back hi.lost rfl rfl
    (fun id _ => by cases id <;> simp [SameReg])
  rwa [modGroup_id] at this

theorem sameFlow_retire {s : State} {r : GRef} {f : Group → Group} (hf : ∀ g, (f g).gno = g.gno)
    (ha : ∀ g, (f g).amask = g.amask ∧ (f g).stack = g.stack) (c : BitVec 12) (w : Bool) (pc : DWord) :
    SameFlow s { s with m := retireGroup (s.m.modGroup r f) r c w pc } r := by
  intro a b h1 h2
  have h3 : some ((f a).retire w pc) = some b := by
    rw [← h2]; simp only [retireGroup_group?, if_true, mach_group?_modGroup _ _ _ _ hf, h1, Option.map_some]
  cases h3
  simpa using ha a

theorem sameFlow_retire0 {s : State} {r : GRef} (c : BitVec 12) (w : Bool) (pc : DWord) :
    SameFlow s { s with m := retireGroup s.m r c w pc } r := by
  have := sameFlow_retire (s := s) (r := r) (f := fun g => g) (fun _ => rfl) (fun _ => ⟨rfl, rfl⟩) c w pc
  rwa [modGroup_id] at this

/-! ### Register writes -/

theorem setV_frame (r : Regs) (pr a b : Mask) (n : Nat) (tag : BitVec 4) (f : Nat → Word) (id : RegId) (h : id ≠ .v n) :
    SameReg r (r.setV pr a b n tag f) id := by
  cases id with
  | v k => exact putAt_getD_other noV r.v n k _ (by simpa using h)
  | s k => rfl
  | p k => rfl
  | x k => intro l; rfl
  | h k => rfl

theorem setVPair_frame (r : Regs) (pr a b : Mask) (n : Nat) (tag : BitVec 4) (f : Nat → DWord) (id : RegId)
    (h : id ≠ .v n) (h' : id ≠ .v (n + 1)) : SameReg r (r.setVPair pr a b n tag f) id := by
  cases id with
  | v k =>
    exact (putAt_getD_other noV _ (n + 1) k _ (by simpa using h')).trans (putAt_getD_other noV r.v n k _ (by simpa using h))
  | s k => rfl
  | p k => rfl
  | x k => intro l; rfl
  | h k => rfl

theorem setS_frame (r : Regs) (n : Nat) (tag : BitVec 4) (v : DWord) (id : RegId) (h : id ≠ .s n) :
    SameReg r (r.setS n tag v) id := by
  cases id with
  | s k => exact putAt_getD_other noS r.s n k _ (by simpa using h)
  | v k => rfl
  | p k => rfl
  | x k => intro l; rfl
  | h k => rfl

theorem setP_frame (r : Regs) (a : Mask) (n : Nat) (v : Mask) (id : RegId) (h : n = 7 ∨ id ≠ .p n) :
    SameReg r (r.setP a n v) id := by
  unfold Regs.setP
  split
  · cases id <;> simp [SameReg]
  · next hn =>
    cases id with
    | p k =>
      have hk : k ≠ n := by
        rcases h with h | h
        · exact absurd h hn
        · simpa using h
      have := putAt_getD_other 0 r.p n k ((r.preg n &&& ~~~a) ||| (v &&& a)) hk
      simp only [Regs.preg, if_neg hn] at this
      simp only [SameReg, Regs.preg, if_neg hn]
      split
      · rfl
      · exact this
    | v k => rfl
    | s k => rfl
    | x k => intro l; rfl
    | h k => rfl

theorem setX_frame (r : Regs) (a : Mask) (n : Nat) (f : Nat → BitVec 16) (id : RegId) (h : id ≠ .x n) :
    SameReg r (r.setX a n f) id := by
  cases id with
  | x k =>
    intro l
    have := putAt_getD_other [] r.x n k (newLanes (r.x.getD n []) a f) (by simpa using h)
    simp only [Regs.xlane, Regs.setX, this]
  | v k => rfl
  | s k => rfl
  | p k => rfl
  | h k => rfl

theorem sameReg_trans {a b c : Regs} {id : RegId} (h : SameReg a b id) (h' : SameReg b c id) : SameReg a c id := by
  cases id <;> simp_all [SameReg]

/-- A result writes only the registers that its destination names. -/
theorem putVal_frame (pr : Mask) (mb : Member) (d : Opnd) (wide : Bool) (tag : BitVec 4) (f : Nat → DWord) (r : Regs)
    (id : RegId) (h : id ∉ d.ids wide) : SameReg r (putVal pr mb d wide tag f r) id := by
  cases d with
  | v n =>
    cases wide with
    | true =>
      simp [Opnd.ids] at h
      exact setVPair_frame r pr mb.act mb.tot n.toNat tag f id h.1 h.2
    | false => exact setV_frame r pr mb.act mb.tot n.toNat tag _ id (by simpa [Opnd.ids] using h)
  | s n => exact setS_frame r _ _ _ id (by simpa [Opnd.ids] using h)
  | p n =>
    apply setP_frame
    by_cases h7 : n.toNat = 7
    · exact .inl h7
    · right
      simpa [Opnd.ids, h7] using h
  | x n => exact setX_frame r _ _ _ id (by simpa [Opnd.ids] using h)
  | h n => cases id <;> simp [putVal, SameReg]
  | a n => cases id <;> simp [putVal, SameReg]
  | c n => cases id <;> simp [putVal, SameReg]
  | bad n => cases id <;> simp [putVal, SameReg]

/-! ### Register-only instructions -/

theorem memberGroups_one {t : Team} {g : Group} {mb : Member} (h : t.group? mb.gno = some g) :
    memberGroups t [mb] = [(g, mb)] := by
  simp [memberGroups, h]

/-- A register-only instruction of one group writes that group's registers. -/
theorem regBody_one {m : Mach} {t : Team} {g : Group} {mb : Member} {sc : Scope} (hs : sc = .lane ∨ sc = .group)
    (ht : m.team? t.tid = some t) (hg : t.group? mb.gno = some g) (fw : Firmware) (ids : List RegId)
    (f : Firmware → Mach → Team → Group → Group → Member → Regs → Regs) :
    regBody sc ids f fw m t.tid [mb] =
      (m.modGroup { tid := t.tid, gno := g.gno } (fun x => x.produce ids (f fw m t g g mb)), .done) := by
  have hp : passes sc mb = true := by rcases hs with rfl | rfl <;> rfl
  simp [regBody, ht, memberGroups_one hg, leadOf, hp]

/-- The lane space of one group. -/
theorem spaceOf_one {h : Hd} {t : Team} {g : Group} {mb : Member} (hs : h.scope = .lane ∨ h.scope = .group)
    (hg : t.group? mb.gno = some g) : spaceOf h t [mb] = [some (g, mb)] := by
  rcases hs with hs | hs <;> simp [spaceOf, hs, memberGroups_one hg]

/-- A cross-lane instruction of one group writes that group's registers. -/
theorem crossOp_one {m : Mach} {t : Team} {g : Group} {mb : Member} {h : Hd} (hs : h.scope = .lane ∨ h.scope = .group)
    (ht : m.team? t.tid = some t) (hg : t.group? mb.gno = some g) (fw : Firmware) (ws : List Want) (d : Opnd) (wide : Bool)
    (tag : BitVec 4) (f : Cross → Nat → DWord) :
    (crossOp h ws d wide tag f).body fw m t.tid [mb] =
      (m.modGroup { tid := t.tid, gno := g.gno } (fun x => x.produce (d.ids wide)
        (putVal g.present mb d wide tag (fun l => f { m := m, t := t, space := [some (g, mb)] } l))), .done) := by
  have hp : passes h.scope mb = true := by rcases hs with hs | hs <;> rw [hs] <;> rfl
  simp [crossOp, ht, spaceOf_one hs hg, hp, List.range_succ]

/-- An instruction whose body changes only its group's registers completes, and changes nothing else. -/
theorem completes_of_regs {s : State} {r : GRef} {t : Team} {g : Group} {h : Hd} {i : Instr} {op : Op} {ids : List RegId}
    (hi : Issuing s r t g) (ha : Alone h) (hc : check h op t g s.m.draw = none) (hu : Unheld s t g i)
    (hb : ∃ F : Regs → Regs, (∀ id, id ∉ ids → SameReg g.regs (F g.regs) id)
      ∧ op.body s.fw s.m t.tid [memberOf g h s.m.draw] = (s.m.modGroup r (fun x => x.produce ids F), .done)) :
    ∃ s', issue s h i op = .next s' ∧ Completed s s' r ids (nextPc g.pc h) ∧ SameFlow s s' r ∧ OnlyGroup s s' r := by
  obtain ⟨F, hF, hb⟩ := hb
  rw [issue_next hi, issueOn_alone ha hc hu hi.back, hi.ref]
  split
  · exact ⟨_, rfl, completed_retire0 hi ids _ _ _, sameFlow_retire0 _ _ _, onlyGroup_retire0 _ _ _⟩
  · rw [hb]
    simp only [conclude, hi.ref, hi.back, Option.getD_none]
    have h1 : ∀ x : Group, (x.produce ids F).gno = x.gno := fun _ => rfl
    exact ⟨_, rfl, completed_retire (f := fun x => x.produce ids F) hi h1 hi.back hi.lost rfl rfl hF,
      sameFlow_retire (f := fun x => x.produce ids F) h1 (fun _ => ⟨rfl, rfl⟩) _ _ _,
      onlyGroup_retire (f := fun x => x.produce ids F) h1 _ _ _⟩

theorem Issuing.here {s : State} {r : GRef} {t : Team} {g : Group} (hi : Issuing s r t g) : s.m.team? t.tid = some t := by
  rw [hi.tid]; exact hi.team

theorem Issuing.member {s : State} {r : GRef} {t : Team} {g : Group} (hi : Issuing s r t g) (h : Hd) :
    t.group? (memberOf g h s.m.draw).gno = some g := by
  simp [hi.gno, hi.group]

theorem valOp_body {s : State} {r : GRef} {t : Team} {g : Group} {h : Hd} (hi : Issuing s r t g) (ha : Alone h)
    (ws : List Want) (d : Opnd) (wide : Bool) (tag : BitVec 4) (f : Eval → Nat → DWord) :
    ∃ F : Regs → Regs, (∀ id, id ∉ d.ids wide → SameReg g.regs (F g.regs) id)
      ∧ (valOp h ws d wide tag f).body s.fw s.m t.tid [memberOf g h s.m.draw]
        = (s.m.modGroup r (fun x => x.produce (d.ids wide) F), .done) := by
  refine ⟨putVal g.present (memberOf g h s.m.draw) d wide tag (f { fw := s.fw, m := s.m, t := t, lead := g, g := g }),
    fun id hid => putVal_frame _ _ _ _ _ _ _ _ hid, ?_⟩
  simp only [valOp]
  rw [regBody_one ha.1 hi.here (hi.member h), hi.ref]

theorem crossOp_body {s : State} {r : GRef} {t : Team} {g : Group} {h : Hd} (hi : Issuing s r t g) (ha : Alone h)
    (ws : List Want) (d : Opnd) (wide : Bool) (tag : BitVec 4) (f : Cross → Nat → DWord) :
    ∃ F : Regs → Regs, (∀ id, id ∉ d.ids wide → SameReg g.regs (F g.regs) id)
      ∧ (crossOp h ws d wide tag f).body s.fw s.m t.tid [memberOf g h s.m.draw]
        = (s.m.modGroup r (fun x => x.produce (d.ids wide) F), .done) := by
  refine ⟨putVal g.present (memberOf g h s.m.draw) d wide tag
    (fun l => f { m := s.m, t := t, space := [some (g, memberOf g h s.m.draw)] } l),
    fun id hid => putVal_frame _ _ _ _ _ _ _ _ hid, ?_⟩
  rw [crossOp_one ha.1 hi.here (hi.member h), hi.ref]

/-- An instruction that is `valOp` over some operands completes. -/
theorem completes_valOp {s : State} {r : GRef} {t : Team} {g : Group} {h : Hd} {i : Instr} {op : Op} {ws : List Want}
    {d : Opnd} {wide : Bool} {tag : BitVec 4} {f : Eval → Nat → DWord} (hi : Issuing s r t g) (ha : Alone h)
    (hc : check h op t g s.m.draw = none) (hu : Unheld s t g i) (ho : op = valOp h ws d wide tag f) :
    ∃ s', issue s h i op = .next s' ∧ Completed s s' r (d.ids wide) (nextPc g.pc h) ∧ SameFlow s s' r ∧ OnlyGroup s s' r := by
  subst ho
  exact completes_of_regs hi ha hc hu (valOp_body hi ha ws d wide tag f)

/-- An instruction that is `crossOp` over some operands completes. -/
theorem completes_crossOp {s : State} {r : GRef} {t : Team} {g : Group} {h : Hd} {i : Instr} {op : Op} {ws : List Want}
    {d : Opnd} {wide : Bool} {tag : BitVec 4} {f : Cross → Nat → DWord} (hi : Issuing s r t g) (ha : Alone h)
    (hc : check h op t g s.m.draw = none) (hu : Unheld s t g i) (ho : op = crossOp h ws d wide tag f) :
    ∃ s', issue s h i op = .next s' ∧ Completed s s' r (d.ids wide) (nextPc g.pc h) ∧ SameFlow s s' r ∧ OnlyGroup s s' r := by
  subst ho
  exact completes_of_regs hi ha hc hu (crossOp_body hi ha ws d wide tag f)

/-! ### Results -/

theorem maskOf_has (f : Nat → Bool) (l : Nat) (h : l < 32) : (maskOf f).has l = f l := by
  have key : ∀ (ls : List Nat) (m : Mask) (_ : ∀ k ∈ ls, k < 32),
      (ls.foldl (fun m l => if f l then m ||| (1#32 <<< l) else m) m).getLsbD l = (m.getLsbD l || (ls.contains l && f l)) := by
    intro ls
    induction ls with
    | nil => intro m _; simp
    | cons k r ih =>
      intro m hk
      rw [List.foldl_cons, ih _ (fun x hx => hk x (List.mem_cons_of_mem _ hx))]
      have hk32 := hk k (List.mem_cons_self ..)
      by_cases hkl : k = l
      · subst hkl
        by_cases hf : f k = true
        · simp [hf, h]
        · simp [hf]
      · have hlk : l ≠ k := fun e => hkl e.symm
        have h1 : (1#32 <<< k).getLsbD l = false := by
          rw [BitVec.getLsbD_shiftLeft]
          by_cases hlt : l < k
          · simp [hlt]
          · have : l - k ≠ 0 := by omega
            simp [this]
        have hc : (k :: r).contains l = r.contains l := by simp [hlk]
        rw [hc]
        split
        · rw [BitVec.getLsbD_or, h1]; simp
        · rfl
  have := key (List.range 32) 0#32 (fun k hk => by simpa using hk)
  simpa [maskOf, h] using this

theorem setV_lane (r : Regs) (pr a b : Mask) (n : Nat) (tag : BitVec 4) (f : Nat → Word) (l : Nat) (hl : l < 32) :
    ((r.setV pr a b n tag f).vreg n).lane l = if a.has l then f l else (r.vreg n).lane l := by
  unfold Regs.setV
  rw [Regs.vreg, putAt_getD_same]
  exact newLanes_getD _ _ _ _ hl

theorem setVPair_lane (r : Regs) (pr a b : Mask) (n : Nat) (tag : BitVec 4) (f : Nat → DWord) (l : Nat) (hl : l < 32) :
    ((r.setVPair pr a b n tag f).vreg (n + 1)).lane l ++ ((r.setVPair pr a b n tag f).vreg n).lane l =
      if a.has l then f l else (r.vreg (n + 1)).lane l ++ (r.vreg n).lane l := by
  have h1 : ((r.setVPair pr a b n tag f).vreg (n + 1)).lane l =
      if a.has l then (f l).extractLsb' 32 32 else (r.vreg (n + 1)).lane l := by
    unfold Regs.setVPair
    rw [Regs.vreg, putAt_getD_same, VReg.lane]
    exact newLanes_getD (r.vreg (n + 1)).lanes a (fun l => (f l).extractLsb' 32 32) l hl
  have h0 : ((r.setVPair pr a b n tag f).vreg n).lane l =
      if a.has l then (f l).extractLsb' 0 32 else (r.vreg n).lane l := by
    unfold Regs.setVPair
    rw [Regs.vreg, putAt_getD_other _ _ _ _ _ (by omega), putAt_getD_same, VReg.lane]
    exact newLanes_getD (r.vreg n).lanes a (fun l => (f l).extractLsb' 0 32) l hl
  rw [h1, h0]
  split
  · generalize f l = v
    apply BitVec.eq_of_getLsbD_eq
    intro i hi
    rw [BitVec.getLsbD_append]
    by_cases h2 : i < 32
    · simp [h2]
    · have : 32 + (i - 32) = i := by omega
      simp [h2, this]; omega
  · rfl

theorem setX_lane (r : Regs) (a : Mask) (n : Nat) (f : Nat → BitVec 16) (l : Nat) (hl : l < 32) :
    (r.setX a n f).xlane n l = if a.has l then f l else r.xlane n l := by
  unfold Regs.setX
  rw [Regs.xlane, putAt_getD_same]
  exact newLanes_getD _ _ _ _ hl

theorem setP_lane (r : Regs) (a : Mask) (n : Nat) (f : Nat → Bool) (l : Nat) (hl : l < 32) (h7 : n ≠ 7) :
    ((r.setP a n (maskOf f)).preg n).has l = if a.has l then f l else (r.preg n).has l := by
  have h1 : (r.setP a n (maskOf f)).preg n = (r.preg n &&& ~~~a) ||| (maskOf f &&& a) := by
    unfold Regs.setP
    rw [if_neg h7, Regs.preg, if_neg h7, putAt_getD_same]
  have hm := maskOf_has f l hl
  simp only [Mask.has] at hm
  rw [h1]
  simp only [Mask.has, BitVec.getLsbD_or, BitVec.getLsbD_and, BitVec.getLsbD_not, hm, hl, decide_true, Bool.true_and]
  cases a.getLsbD l <;> simp

/-- What a register write leaves in its destination (R60, R248). -/
theorem putVal_written (g g' : Group) (mb : Member) (pr : Mask) (d : Opnd) (wide : Bool) (tag : BitVec 4) (f : Nat → DWord)
    (h : g'.regs = putVal pr mb d wide tag f g.regs) : Written g g' d wide mb.act f := by
  cases d with
  | v n =>
    intro l hl
    rw [h]
    cases wide with
    | false =>
      show (((g.regs.setV pr mb.act mb.tot n.toNat tag _).vreg n.toNat).lane l).setWidth 64 =
        if mb.act.has l then ((f l).setWidth 32).setWidth 64 else ((g.regs.vreg n.toNat).lane l).setWidth 64
      rw [setV_lane _ _ _ _ _ _ _ _ hl]
      split <;> rfl
    | true => exact setVPair_lane _ _ _ _ _ _ _ _ hl
  | s n =>
    show (g'.regs.sreg n.toNat).val = f 0
    rw [h]
    show ((putAt noS g.regs.s n.toNat _).getD n.toNat noS).val = f 0
    rw [putAt_getD_same]
  | p n =>
    intro l hl
    by_cases h7 : n.toNat = 7
    · have h1 : ∀ r : Regs, holding r wide (.p n) l = 1 := by
        intro r
        show bit 64 ((r.preg n.toNat).has l) = 1
        rw [Regs.preg, if_pos h7, show Mask.all = BitVec.allOnes 32 from rfl, Mask.has, BitVec.getLsbD_allOnes, decide_eq_true hl]
        rfl
      have h2 : keeping wide (.p n) (f l) = 1 := by rw [keeping, if_pos h7]
      rw [h1, h1, h2, ite_self]
    · rw [h]
      show bit 64 (((g.regs.setP mb.act n.toNat (maskOf _)).preg n.toNat).has l) =
        if mb.act.has l then keeping wide (.p n) (f l) else bit 64 ((g.regs.preg n.toNat).has l)
      rw [setP_lane _ _ _ _ _ hl h7, keeping, if_neg h7]
      split <;> rfl
  | x n =>
    intro l hl
    rw [h]
    show ((g.regs.setX mb.act n.toNat _).xlane n.toNat l).setWidth 64 =
      if mb.act.has l then ((f l).setWidth 16).setWidth 64 else (g.regs.xlane n.toNat l).setWidth 64
    rw [setX_lane _ _ _ _ _ hl]
    split <;> rfl
  | h n => intro l _; exact (ite_self _).symm
  | a n => intro l _; exact (ite_self _).symm
  | c n => intro l _; exact (ite_self _).symm
  | bad n => intro l _; exact (ite_self _).symm

/-- An instruction whose body writes one result yields it. -/
theorem yields_of_body {s : State} {r : GRef} {t : Team} {g : Group} {h : Hd} {i : Instr} {op : Op} {d : Opnd} {wide : Bool}
    {tag : BitVec 4} {f : Nat → DWord} (hi : Issuing s r t g) (ha : Alone h) (hact : Active h g s.m.draw)
    (hc : check h op t g s.m.draw = none) (hu : Unheld s t g i) (he : exec i s = issue s h i op)
    (hb : op.body s.fw s.m t.tid [memberOf g h s.m.draw] = (s.m.modGroup r (fun x => x.produce (d.ids wide)
      (putVal g.present (memberOf g h s.m.draw) d wide tag f)), .done)) :
    Yields i h s r g d wide f := by
  have hF : ∀ id, id ∉ d.ids wide → SameReg g.regs (putVal g.present (memberOf g h s.m.draw) d wide tag f g.regs) id :=
    fun id hid => putVal_frame _ _ _ _ _ _ _ _ hid
  have hn : ¬ (h.scope = .group ∧ actOf g h s.m.draw = 0) := fun ⟨a, b⟩ => hact a b
  have h1 : ∀ x : Group, (x.produce (d.ids wide) (putVal g.present (memberOf g h s.m.draw) d wide tag f)).gno = x.gno :=
    fun _ => rfl
  refine ⟨_, ((g.produce (d.ids wide) (putVal g.present (memberOf g h s.m.draw) d wide tag f)).retire h.w (nextPc g.pc h)),
    he.trans ((issue_next hi ..).trans
      (show _ = Host.Outcome.next { s with m := retireGroup (s.m.modGroup r (fun x => x.produce (d.ids wide)
        (putVal g.present (memberOf g h s.m.draw) d wide tag f))) r t.ctx h.w (nextPc g.pc h) } from by
        rw [issueOn_alone ha hc hu hi.back, if_neg hn, hb]; simp only [conclude, hi.ref, hi.back, Option.getD_none])), ?_⟩
  refine ⟨completed_retire (f := fun x => x.produce (d.ids wide) _) hi h1 hi.back hi.lost rfl rfl hF,
    sameFlow_retire (f := fun x => x.produce (d.ids wide) _) h1 (fun _ => ⟨rfl, rfl⟩) _ _ _,
    onlyGroup_retire (f := fun x => x.produce (d.ids wide) _) h1 _ _ _, ?_, ?_⟩
  · simp [retireGroup_group?, mach_group?_modGroup _ _ _ _ h1, hi.mach]
  · exact putVal_written g _ _ g.present _ _ tag _ (by simp)

/-- A value instruction yields its function of the sources. -/
theorem yields_valOp {s : State} {r : GRef} {t : Team} {g : Group} {h : Hd} {i : Instr} {op : Op} {ws : List Want}
    {d : Opnd} {wide : Bool} {tag : BitVec 4} {f : Eval → Nat → DWord} (hi : Issuing s r t g) (ha : Alone h)
    (hact : Active h g s.m.draw) (hc : check h op t g s.m.draw = none) (hu : Unheld s t g i) (he : exec i s = issue s h i op)
    (ho : op = valOp h ws d wide tag f) :
    Yields i h s r g d wide (f { fw := s.fw, m := s.m, t := t, lead := g, g := g }) := by
  subst ho
  refine yields_of_body (tag := tag) hi ha hact hc hu he ?_
  simp only [valOp]
  rw [regBody_one ha.1 hi.here (hi.member h), hi.ref]

/-- A cross-lane instruction yields its function of the group's lanes. -/
theorem yields_crossOp {s : State} {r : GRef} {t : Team} {g : Group} {h : Hd} {i : Instr} {op : Op} {ws : List Want}
    {d : Opnd} {wide : Bool} {tag : BitVec 4} {f : Cross → Nat → DWord} (hi : Issuing s r t g) (ha : Alone h)
    (hact : Active h g s.m.draw) (hc : check h op t g s.m.draw = none) (hu : Unheld s t g i) (he : exec i s = issue s h i op)
    (ho : op = crossOp h ws d wide tag f) :
    Yields i h s r g d wide (f { m := s.m, t := t, space := [some (g, memberOf g h s.m.draw)] }) := by
  subst ho
  exact yields_of_body (tag := tag) hi ha hact hc hu he (by rw [crossOp_one ha.1 hi.here (hi.member h), hi.ref])

theorem Written.congr {g g' : Group} {d : Opnd} {wide : Bool} {act : Mask} {f f' : Nat → DWord}
    (h : Written g g' d wide act f) (hf : ∀ l, l < 32 → f l = f' l) : Written g g' d wide act f' := by
  cases d with
  | s n => exact h.trans (hf 0 (by omega))
  | v n => intro l hl; rw [← hf l hl]; exact h l hl
  | p n => intro l hl; rw [← hf l hl]; exact h l hl
  | x n => intro l hl; rw [← hf l hl]; exact h l hl
  | h n => intro l hl; rw [← hf l hl]; exact h l hl
  | a n => intro l hl; rw [← hf l hl]; exact h l hl
  | c n => intro l hl; rw [← hf l hl]; exact h l hl
  | bad n => intro l hl; rw [← hf l hl]; exact h l hl

/-- A result is known by its 32 lanes. -/
theorem Yields.congr {i : Instr} {h : Hd} {s : State} {r : GRef} {g : Group} {d : Opnd} {wide : Bool} {f f' : Nat → DWord}
    (hy : Yields i h s r g d wide f) (hf : ∀ l, l < 32 → f l = f' l) : Yields i h s r g d wide f' := by
  obtain ⟨s', g', h1, h2, h3, h4, h5, h6⟩ := hy
  exact ⟨s', g', h1, h2, h3, h4, h5, h6.congr hf⟩

/-! ### The lane space of one group -/

section
variable (m : Mach) (t : Team) (g : Group) (mb : Member)

theorem cross_n_one : (Cross.mk m t [some (g, mb)]).n = 32 := rfl

theorem cross_src_one (slot : Nat) (ty : Ty) (o : Opnd) (j : Nat) (h : j < 32) :
    (Cross.mk m t [some (g, mb)]).src slot ty o j = laneSrc g m.draw slot ty o j := by
  have h0 : j / 32 = 0 := by omega
  have h1 : j % 32 = j := Nat.mod_eq_of_lt h
  simp only [Cross.src, h0, h1]
  rfl

theorem cross_active_one (j : Nat) (h : j < 32) : (Cross.mk m t [some (g, mb)]).active j = mb.act.has j := by
  have h0 : j / 32 = 0 := by omega
  have h1 : j % 32 = j := Nat.mod_eq_of_lt h
  simp only [Cross.active, h0, h1]
  rfl

theorem cross_scalar_one (slot : Nat) (ty : Ty) (o : Opnd) :
    (Cross.mk m t [some (g, mb)]).scalar slot ty o 0 = srcVal g g m.draw slot ty o 0 := rfl

end

end Sys2Proof.Machine
end

