-- ==== Sys2Proof/Laws/Memory.lean ====
section
/-! SUPPORT. Laws/Memory.lean: sparse memory keeps its canonical form, and a byte reads as what was last written there. -/
namespace Sys2Proof.Machine

theorem Sparse.wfFrom_mono {n : Nat} {lo lo' : Nat} (m : List (Nat × BitVec n)) (hl : lo' ≤ lo)
    (h : Sparse.wfFrom lo m = true) : Sparse.wfFrom lo' m = true := by
  cases m with
  | nil => rfl
  | cons x r =>
    simp only [Sparse.wfFrom, Bool.and_eq_true, decide_eq_true_eq] at h ⊢
    exact ⟨⟨by omega, h.1.2⟩, h.2⟩

theorem Sparse.set_wfFrom {n : Nat} (m : List (Nat × BitVec n)) (a : Nat) (b : BitVec n) (lo : Nat) (hl : lo ≤ a)
    (h : Sparse.wfFrom lo m = true) : Sparse.wfFrom lo (Sparse.set m a b) = true := by
  induction m generalizing lo with
  | nil =>
    simp only [Sparse.set]
    split
    · rfl
    · next hb =>
      simp only [Sparse.wfFrom, Bool.and_eq_true, decide_eq_true_eq, and_true]
      exact ⟨hl, hb⟩
  | cons x r ih =>
    obtain ⟨k, c⟩ := x
    simp only [Sparse.wfFrom, Bool.and_eq_true, decide_eq_true_eq] at h
    simp only [Sparse.set]
    split
    · next hk =>
      split
      · simp only [Sparse.wfFrom, Bool.and_eq_true, decide_eq_true_eq]; exact h
      · next hb =>
        simp only [Sparse.wfFrom, Bool.and_eq_true, decide_eq_true_eq]
        exact ⟨⟨hl, hb⟩, ⟨by omega, h.1.2⟩, h.2⟩
    · split
      · next hk he =>
        subst he
        split
        · exact Sparse.wfFrom_mono r (by omega) h.2
        · next hb =>
          simp only [Sparse.wfFrom, Bool.and_eq_true, decide_eq_true_eq]
          exact ⟨⟨hl, hb⟩, h.2⟩
      · next hk he =>
        simp only [Sparse.wfFrom, Bool.and_eq_true, decide_eq_true_eq]
        exact ⟨h.1, ih (k + 1) (by omega) h.2⟩

theorem Sparse.get_below {n : Nat} (m : List (Nat × BitVec n)) (lo a : Nat) (ha : a < lo) (h : Sparse.wfFrom lo m = true) :
    Sparse.get m a = 0 := by
  cases m with
  | nil => rfl
  | cons x r =>
    obtain ⟨k, c⟩ := x
    simp only [Sparse.wfFrom, Bool.and_eq_true, decide_eq_true_eq] at h
    simp only [Sparse.get]
    rw [if_neg (by omega), if_pos (by omega)]

/-- A place reads as what was last written there; every other place as before. -/
theorem Sparse.get_set {n : Nat} (m : List (Nat × BitVec n)) (a k : Nat) (b : BitVec n) (lo : Nat)
    (h : Sparse.wfFrom lo m = true) : Sparse.get (Sparse.set m a b) k = if k = a then b else Sparse.get m k := by
  induction m generalizing lo with
  | nil =>
    simp only [Sparse.set]
    split
    · next hb => subst hb; simp [Sparse.get]
    · simp only [Sparse.get]
      split
      · rfl
      · split <;> rfl
  | cons x r ih =>
    obtain ⟨j, c⟩ := x
    simp only [Sparse.wfFrom, Bool.and_eq_true, decide_eq_true_eq] at h
    have hr := h.2
    simp only [Sparse.set]
    split
    · next hj =>
      split
      · next hb =>
        subst hb
        by_cases hk : k = a
        · subst hk
          simp only [Sparse.get, if_true]
          rw [if_neg (by omega), if_pos hj]
        · rw [if_neg hk]
      · by_cases hk : k = a
        · simp [Sparse.get, hk]
        · rw [if_neg hk]
          simp only [Sparse.get, if_neg hk]
          by_cases hl : k < a
          · rw [if_pos hl, if_neg (by omega), if_pos (by omega)]
          · rw [if_neg hl]
    · split
      · next hj he =>
        subst he
        split
        · next hb =>
          subst hb
          by_cases hk : k = a
          · subst hk; rw [if_pos rfl]
            exact Sparse.get_below r (k + 1) k (by omega) hr
          · rw [if_neg hk]
            simp only [Sparse.get, if_neg hk]
            by_cases hl : k < a
            · rw [if_pos hl]; exact Sparse.get_below r (a + 1) k (by omega) hr
            · rw [if_neg hl]
        · simp only [Sparse.get]
          by_cases hk : k = a
          · rw [if_pos hk, if_pos hk]
          · rw [if_neg hk, if_neg hk, if_neg hk]
      · next hj he =>
        simp only [Sparse.get, ih (j + 1) hr]
        by_cases hk : k = a
        · subst hk
          rw [if_neg he, if_neg hj]
          simp
        · simp only [if_neg hk]

/-- Dropping the entries below a place changes nothing at or above it. -/
theorem Sparse.get_from {n : Nat} (m : List (Nat × BitVec n)) (a k : Nat) (hk : a ≤ k) :
    Sparse.get (Sparse.from m a) k = Sparse.get m k := by
  induction m with
  | nil => rfl
  | cons x r ih =>
    obtain ⟨j, c⟩ := x
    simp only [Sparse.from]
    split
    · next hj =>
      rw [ih]
      simp only [Sparse.get]
      rw [if_neg (by omega), if_neg (by omega)]
    · rfl

/-! ### Bytes -/

theorem Memory.set_wf (m : List Host.Cell) (a : Nat) (b : Byte) (h : Memory.wf m = true) : Memory.wf (Memory.set m a b) = true :=
  Sparse.set_wfFrom m a b 0 (Nat.zero_le a) h

theorem Memory.get_set (m : List Host.Cell) (a k : Nat) (b : Byte) (h : Memory.wf m = true) :
    Memory.get (Memory.set m a b) k = if k = a then b else Memory.get m k := Sparse.get_set m a k b 0 h

theorem Memory.setWord_wf (m : List Host.Cell) (a : Nat) (w : Word) (h : Memory.wf m = true) :
    Memory.wf (Memory.setWord m a w) = true :=
  Memory.set_wf _ _ _ (Memory.set_wf _ _ _ (Memory.set_wf _ _ _ (Memory.set_wf _ _ _ h)))

theorem Memory.setBytes_wf (bs : List Byte) (m : List Host.Cell) (a : Nat) (h : Memory.wf m = true) :
    Memory.wf (Memory.setBytes m a bs) = true := by
  induction bs generalizing m a with
  | nil => exact h
  | cons b r ih => exact ih _ _ (Memory.set_wf m a b h)

theorem Memory.wf_nil : Memory.wf [] = true := rfl

/-- The bytes of a written word, and every other byte. -/
theorem Memory.get_setWord (m : List Host.Cell) (a k : Nat) (w : Word) (h : Memory.wf m = true) :
    Memory.get (Memory.setWord m a w) k =
      if a ≤ k ∧ k < a + 4 then w.extractLsb' (8 * (k - a)) 8 else Memory.get m k := by
  have h0 := Memory.set_wf m a (w.extractLsb' 0 8) h
  have h1 := Memory.set_wf _ (a + 1) (w.extractLsb' 8 8) h0
  have h2 := Memory.set_wf _ (a + 2) (w.extractLsb' 16 8) h1
  simp only [Memory.setWord, Memory.get_set _ _ _ _ h2, Memory.get_set _ _ _ _ h1, Memory.get_set _ _ _ _ h0,
    Memory.get_set _ _ _ _ h]
  by_cases hk : a ≤ k ∧ k < a + 4
  · rw [if_pos hk]
    obtain ⟨j, rfl⟩ := Nat.exists_eq_add_of_le hk.1
    have : j = 0 ∨ j = 1 ∨ j = 2 ∨ j = 3 := by omega
    rcases this with rfl | rfl | rfl | rfl <;> simp
  · rw [if_neg hk]
    rw [if_neg (by omega), if_neg (by omega), if_neg (by omega), if_neg (by omega)]

/-- A word is its four bytes, the first lowest (R12). -/
theorem Memory.word_eq (m : List Host.Cell) (a : Nat) :
    Memory.word m a = Memory.get m (a + 3) ++ Memory.get m (a + 2) ++ Memory.get m (a + 1) ++ Memory.get m a := by
  simp only [Memory.word, Memory.get, Sparse.get_from m a _ (Nat.le_add_right a _), Sparse.get_from m a a (Nat.le_refl a)]

/-- A word reads as what was last written there. -/
theorem Memory.word_setWord (m : List Host.Cell) (a : Nat) (w : Word) (h : Memory.wf m = true) :
    Memory.word (Memory.setWord m a w) a = w := by
  rw [Memory.word_eq]
  simp only [Memory.get_setWord m a _ w h]
  rw [if_pos (by omega), if_pos (by omega), if_pos (by omega), if_pos (by omega)]
  apply BitVec.eq_of_getLsbD_eq
  intro i hi
  simp only [BitVec.getLsbD_append, BitVec.getLsbD_extractLsb']
  by_cases h1 : i < 8
  · simp [h1]
  · by_cases h2 : i < 16
    · simp [h1, show i - 8 < 8 by omega, show 8 + (i - 8) = i by omega]
    · by_cases h3 : i < 24
      · simp [h1, show ¬ i - 8 < 8 by omega, show i - 8 - 8 < 8 by omega, show 16 + (i - 8 - 8) = i by omega]
      · simp [h1, show ¬ i - 8 < 8 by omega, show ¬ i - 8 - 8 < 8 by omega, show i - 8 - 8 - 8 < 8 by omega,
          show 24 + (i - 8 - 8 - 8) = i by omega]

/-- A word apart from the one written reads as before. -/
theorem Memory.word_setWord_other (m : List Host.Cell) (a k : Nat) (w : Word) (h : Memory.wf m = true)
    (hk : k + 4 ≤ a ∨ a + 4 ≤ k) : Memory.word (Memory.setWord m a w) k = Memory.word m k := by
  rw [Memory.word_eq, Memory.word_eq]
  simp only [Memory.get_setWord m a _ w h]
  rw [if_neg (by omega), if_neg (by omega), if_neg (by omega), if_neg (by omega)]

end Sys2Proof.Machine
end

