-- ==== Sys2Proof/Laws/PerInstr.lean ====
section
/-! SUPPORT. Laws/PerInstr.lean: the families of statements made for every constructor of Instr. -/
namespace Sys2Proof.Laws

/-! ### How many words an instruction takes (R228): one, or two where it has a modifier; an event has none -/

/-- The words that the parts of an instruction call for. -/
def wordCount (i : Instr) : Nat :=
  match i.parts with
  | none => 0
  | some p => if p.h.mod.isSome then 2 else 1

def EncodedWords.Statement (i : Instr) : Prop := (encode i).length = wordCount i

theorem words_length (h : Hd) (maj : BitVec 7) (f : BitVec 49) : (words h maj f).length = if h.mod.isSome then 2 else 1 := by
  unfold words
  cases h.mod <;> rfl

theorem EncodedWords.br (h : Hd) (off : BitVec 32) : EncodedWords.Statement (.br h off) := words_length h _ _
theorem EncodedWords.call (h : Hd) (off : BitVec 32) : EncodedWords.Statement (.call h off) := words_length h _ _
theorem EncodedWords.brd (h : Hd) (off : BitVec 32) (join16 : BitVec 16) :
    EncodedWords.Statement (.brd h off join16) := words_length h _ _
theorem EncodedWords.join (h : Hd) : EncodedWords.Statement (.join h) := words_length h _ _
theorem EncodedWords.exit (h : Hd) : EncodedWords.Statement (.exit h) := words_length h _ _
theorem EncodedWords.ret (h : Hd) : EncodedWords.Statement (.ret h) := words_length h _ _
theorem EncodedWords.callt (h : Hd) (idx : BitVec 17) : EncodedWords.Statement (.callt h idx) := words_length h _ _
theorem EncodedWords.callr (h : Hd) (a : Opnd) : EncodedWords.Statement (.callr h a) := words_length h _ _
theorem EncodedWords.trap (h : Hd) (n : BitVec 6) : EncodedWords.Statement (.trap h n) := words_length h _ _
theorem EncodedWords.nop (h : Hd) : EncodedWords.Statement (.nop h) := words_length h _ _
theorem EncodedWords.add (h : Hd) (ty : Ty) (d a b : Opnd) :
    EncodedWords.Statement (.add h ty d a b) := words_length h _ _
theorem EncodedWords.sub (h : Hd) (ty : Ty) (d a b : Opnd) :
    EncodedWords.Statement (.sub h ty d a b) := words_length h _ _
theorem EncodedWords.mul (h : Hd) (ty : Ty) (d a b : Opnd) :
    EncodedWords.Statement (.mul h ty d a b) := words_length h _ _
theorem EncodedWords.mulhi (h : Hd) (ty : Ty) (d a b : Opnd) :
    EncodedWords.Statement (.mulhi h ty d a b) := words_length h _ _
theorem EncodedWords.mad (h : Hd) (ty : Ty) (d a b c : Opnd) :
    EncodedWords.Statement (.mad h ty d a b c) := words_length h _ _
theorem EncodedWords.min (h : Hd) (ty : Ty) (d a b : Opnd) :
    EncodedWords.Statement (.min h ty d a b) := words_length h _ _
theorem EncodedWords.max (h : Hd) (ty : Ty) (d a b : Opnd) :
    EncodedWords.Statement (.max h ty d a b) := words_length h _ _
theorem EncodedWords.abs (h : Hd) (ty : Ty) (d a : Opnd) :
    EncodedWords.Statement (.abs h ty d a) := words_length h _ _
theorem EncodedWords.neg (h : Hd) (ty : Ty) (d a : Opnd) :
    EncodedWords.Statement (.neg h ty d a) := words_length h _ _
theorem EncodedWords.div (h : Hd) (ty : Ty) (d a b : Opnd) :
    EncodedWords.Statement (.div h ty d a b) := words_length h _ _
theorem EncodedWords.rem (h : Hd) (ty : Ty) (d a b : Opnd) :
    EncodedWords.Statement (.rem h ty d a b) := words_length h _ _
theorem EncodedWords.addImm (h : Hd) (ty : Ty) (d a : Opnd) (imm : BitVec 20) :
    EncodedWords.Statement (.addImm h ty d a imm) := words_length h _ _
theorem EncodedWords.subImm (h : Hd) (ty : Ty) (d a : Opnd) (imm : BitVec 20) :
    EncodedWords.Statement (.subImm h ty d a imm) := words_length h _ _
theorem EncodedWords.mulImm (h : Hd) (ty : Ty) (d a : Opnd) (imm : BitVec 20) :
    EncodedWords.Statement (.mulImm h ty d a imm) := words_length h _ _
theorem EncodedWords.mulhiImm (h : Hd) (ty : Ty) (d a : Opnd) (imm : BitVec 20) :
    EncodedWords.Statement (.mulhiImm h ty d a imm) := words_length h _ _
theorem EncodedWords.minImm (h : Hd) (ty : Ty) (d a : Opnd) (imm : BitVec 20) :
    EncodedWords.Statement (.minImm h ty d a imm) := words_length h _ _
theorem EncodedWords.maxImm (h : Hd) (ty : Ty) (d a : Opnd) (imm : BitVec 20) :
    EncodedWords.Statement (.maxImm h ty d a imm) := words_length h _ _
theorem EncodedWords.and (h : Hd) (ty : Ty) (d a b : Opnd) :
    EncodedWords.Statement (.and h ty d a b) := words_length h _ _
theorem EncodedWords.or (h : Hd) (ty : Ty) (d a b : Opnd) :
    EncodedWords.Statement (.or h ty d a b) := words_length h _ _
theorem EncodedWords.xor (h : Hd) (ty : Ty) (d a b : Opnd) :
    EncodedWords.Statement (.xor h ty d a b) := words_length h _ _
theorem EncodedWords.not (h : Hd) (ty : Ty) (d a : Opnd) :
    EncodedWords.Statement (.not h ty d a) := words_length h _ _
theorem EncodedWords.andn (h : Hd) (ty : Ty) (d a b : Opnd) :
    EncodedWords.Statement (.andn h ty d a b) := words_length h _ _
theorem EncodedWords.shl (h : Hd) (ty : Ty) (d a b : Opnd) :
    EncodedWords.Statement (.shl h ty d a b) := words_length h _ _
theorem EncodedWords.shr (h : Hd) (ty : Ty) (d a b : Opnd) :
    EncodedWords.Statement (.shr h ty d a b) := words_length h _ _
theorem EncodedWords.sar (h : Hd) (ty : Ty) (d a b : Opnd) :
    EncodedWords.Statement (.sar h ty d a b) := words_length h _ _
theorem EncodedWords.rotl (h : Hd) (ty : Ty) (d a b : Opnd) :
    EncodedWords.Statement (.rotl h ty d a b) := words_length h _ _
theorem EncodedWords.popc (h : Hd) (ty : Ty) (d a : Opnd) :
    EncodedWords.Statement (.popc h ty d a) := words_length h _ _
theorem EncodedWords.clz (h : Hd) (ty : Ty) (d a : Opnd) :
    EncodedWords.Statement (.clz h ty d a) := words_length h _ _
theorem EncodedWords.bfe (h : Hd) (ty : Ty) (d a c : Opnd) :
    EncodedWords.Statement (.bfe h ty d a c) := words_length h _ _
theorem EncodedWords.bfi (h : Hd) (ty : Ty) (d a b c : Opnd) :
    EncodedWords.Statement (.bfi h ty d a b c) := words_length h _ _
theorem EncodedWords.brev (h : Hd) (ty : Ty) (d a : Opnd) :
    EncodedWords.Statement (.brev h ty d a) := words_length h _ _
theorem EncodedWords.andImm (h : Hd) (ty : Ty) (d a : Opnd) (imm : BitVec 20) :
    EncodedWords.Statement (.andImm h ty d a imm) := words_length h _ _
theorem EncodedWords.orImm (h : Hd) (ty : Ty) (d a : Opnd) (imm : BitVec 20) :
    EncodedWords.Statement (.orImm h ty d a imm) := words_length h _ _
theorem EncodedWords.xorImm (h : Hd) (ty : Ty) (d a : Opnd) (imm : BitVec 20) :
    EncodedWords.Statement (.xorImm h ty d a imm) := words_length h _ _
theorem EncodedWords.andnImm (h : Hd) (ty : Ty) (d a : Opnd) (imm : BitVec 20) :
    EncodedWords.Statement (.andnImm h ty d a imm) := words_length h _ _
theorem EncodedWords.shlImm (h : Hd) (ty : Ty) (d a : Opnd) (imm : BitVec 20) :
    EncodedWords.Statement (.shlImm h ty d a imm) := words_length h _ _
theorem EncodedWords.shrImm (h : Hd) (ty : Ty) (d a : Opnd) (imm : BitVec 20) :
    EncodedWords.Statement (.shrImm h ty d a imm) := words_length h _ _
theorem EncodedWords.sarImm (h : Hd) (ty : Ty) (d a : Opnd) (imm : BitVec 20) :
    EncodedWords.Statement (.sarImm h ty d a imm) := words_length h _ _
theorem EncodedWords.rotlImm (h : Hd) (ty : Ty) (d a : Opnd) (imm : BitVec 20) :
    EncodedWords.Statement (.rotlImm h ty d a imm) := words_length h _ _
theorem EncodedWords.setEq (h : Hd) (ty : Ty) (d a b : Opnd) :
    EncodedWords.Statement (.setEq h ty d a b) := words_length h _ _
theorem EncodedWords.setNe (h : Hd) (ty : Ty) (d a b : Opnd) :
    EncodedWords.Statement (.setNe h ty d a b) := words_length h _ _
theorem EncodedWords.setLt (h : Hd) (ty : Ty) (d a b : Opnd) :
    EncodedWords.Statement (.setLt h ty d a b) := words_length h _ _
theorem EncodedWords.setLe (h : Hd) (ty : Ty) (d a b : Opnd) :
    EncodedWords.Statement (.setLe h ty d a b) := words_length h _ _
theorem EncodedWords.setGt (h : Hd) (ty : Ty) (d a b : Opnd) :
    EncodedWords.Statement (.setGt h ty d a b) := words_length h _ _
theorem EncodedWords.setGe (h : Hd) (ty : Ty) (d a b : Opnd) :
    EncodedWords.Statement (.setGe h ty d a b) := words_length h _ _
theorem EncodedWords.setEqImm (h : Hd) (ty : Ty) (d a : Opnd) (imm : BitVec 20) :
    EncodedWords.Statement (.setEqImm h ty d a imm) := words_length h _ _
theorem EncodedWords.setNeImm (h : Hd) (ty : Ty) (d a : Opnd) (imm : BitVec 20) :
    EncodedWords.Statement (.setNeImm h ty d a imm) := words_length h _ _
theorem EncodedWords.setLtImm (h : Hd) (ty : Ty) (d a : Opnd) (imm : BitVec 20) :
    EncodedWords.Statement (.setLtImm h ty d a imm) := words_length h _ _
theorem EncodedWords.setLeImm (h : Hd) (ty : Ty) (d a : Opnd) (imm : BitVec 20) :
    EncodedWords.Statement (.setLeImm h ty d a imm) := words_length h _ _
theorem EncodedWords.setGtImm (h : Hd) (ty : Ty) (d a : Opnd) (imm : BitVec 20) :
    EncodedWords.Statement (.setGtImm h ty d a imm) := words_length h _ _
theorem EncodedWords.setGeImm (h : Hd) (ty : Ty) (d a : Opnd) (imm : BitVec 20) :
    EncodedWords.Statement (.setGeImm h ty d a imm) := words_length h _ _
theorem EncodedWords.mov (h : Hd) (ty : Ty) (d a : Opnd) :
    EncodedWords.Statement (.mov h ty d a) := words_length h _ _
theorem EncodedWords.sel (h : Hd) (ty : Ty) (d a b c : Opnd) :
    EncodedWords.Statement (.sel h ty d a b c) := words_length h _ _
theorem EncodedWords.movi (h : Hd) (ty : Ty) (d : Opnd) (imm : BitVec 20) :
    EncodedWords.Statement (.movi h ty d imm) := words_length h _ _
theorem EncodedWords.movhi (h : Hd) (ty : Ty) (d : Opnd) (imm : BitVec 20) :
    EncodedWords.Statement (.movhi h ty d imm) := words_length h _ _
theorem EncodedWords.addpc (h : Hd) (ty : Ty) (d : Opnd) (imm : BitVec 20) :
    EncodedWords.Statement (.addpc h ty d imm) := words_length h _ _
theorem EncodedWords.addlo (h : Hd) (ty : Ty) (d a : Opnd) (imm : BitVec 20) :
    EncodedWords.Statement (.addlo h ty d a imm) := words_length h _ _
theorem EncodedWords.add2 (h : Hd) (ty : Ty) (d a b : Opnd) :
    EncodedWords.Statement (.add2 h ty d a b) := words_length h _ _
theorem EncodedWords.sub2 (h : Hd) (ty : Ty) (d a b : Opnd) :
    EncodedWords.Statement (.sub2 h ty d a b) := words_length h _ _
theorem EncodedWords.min2 (h : Hd) (ty : Ty) (d a b : Opnd) :
    EncodedWords.Statement (.min2 h ty d a b) := words_length h _ _
theorem EncodedWords.max2 (h : Hd) (ty : Ty) (d a b : Opnd) :
    EncodedWords.Statement (.max2 h ty d a b) := words_length h _ _
theorem EncodedWords.maxd2 (h : Hd) (ty : Ty) (d a b c : Opnd) :
    EncodedWords.Statement (.maxd2 h ty d a b c) := words_length h _ _
theorem EncodedWords.shfl (h : Hd) (ty : Ty) (d a b : Opnd) :
    EncodedWords.Statement (.shfl h ty d a b) := words_length h _ _
theorem EncodedWords.shflUp (h : Hd) (ty : Ty) (d a b : Opnd) :
    EncodedWords.Statement (.shflUp h ty d a b) := words_length h _ _
theorem EncodedWords.shflDn (h : Hd) (ty : Ty) (d a b : Opnd) :
    EncodedWords.Statement (.shflDn h ty d a b) := words_length h _ _
theorem EncodedWords.shflXor (h : Hd) (ty : Ty) (d a b : Opnd) :
    EncodedWords.Statement (.shflXor h ty d a b) := words_length h _ _
theorem EncodedWords.voteAny (h : Hd) (ty : Ty) (d a : Opnd) :
    EncodedWords.Statement (.voteAny h ty d a) := words_length h _ _
theorem EncodedWords.voteAll (h : Hd) (ty : Ty) (d a : Opnd) :
    EncodedWords.Statement (.voteAll h ty d a) := words_length h _ _
theorem EncodedWords.ballot (h : Hd) (ty : Ty) (d a : Opnd) :
    EncodedWords.Statement (.ballot h ty d a) := words_length h _ _
theorem EncodedWords.xredAdd (h : Hd) (ty : Ty) (d a : Opnd) :
    EncodedWords.Statement (.xredAdd h ty d a) := words_length h _ _
theorem EncodedWords.xredMin (h : Hd) (ty : Ty) (d a : Opnd) :
    EncodedWords.Statement (.xredMin h ty d a) := words_length h _ _
theorem EncodedWords.xredMax (h : Hd) (ty : Ty) (d a : Opnd) :
    EncodedWords.Statement (.xredMax h ty d a) := words_length h _ _
theorem EncodedWords.xredAnd (h : Hd) (ty : Ty) (d a : Opnd) :
    EncodedWords.Statement (.xredAnd h ty d a) := words_length h _ _
theorem EncodedWords.xredOr (h : Hd) (ty : Ty) (d a : Opnd) :
    EncodedWords.Statement (.xredOr h ty d a) := words_length h _ _
theorem EncodedWords.xredXor (h : Hd) (ty : Ty) (d a : Opnd) :
    EncodedWords.Statement (.xredXor h ty d a) := words_length h _ _
theorem EncodedWords.xscanAdd (h : Hd) (ty : Ty) (d a : Opnd) :
    EncodedWords.Statement (.xscanAdd h ty d a) := words_length h _ _
theorem EncodedWords.xscanMax (h : Hd) (ty : Ty) (d a : Opnd) :
    EncodedWords.Statement (.xscanMax h ty d a) := words_length h _ _
theorem EncodedWords.bcast (h : Hd) (ty : Ty) (d a b : Opnd) :
    EncodedWords.Statement (.bcast h ty d a b) := words_length h _ _
theorem EncodedWords.movx (h : Hd) (ty : Ty) (d a b c : Opnd) :
    EncodedWords.Statement (.movx h ty d a b c) := words_length h _ _
theorem EncodedWords.movxw (h : Hd) (ty : Ty) (d a b c : Opnd) :
    EncodedWords.Statement (.movxw h ty d a b c) := words_length h _ _
theorem EncodedWords.fadd (h : Hd) (ty : Ty) (d a b : Opnd) :
    EncodedWords.Statement (.fadd h ty d a b) := words_length h _ _
theorem EncodedWords.fsub (h : Hd) (ty : Ty) (d a b : Opnd) :
    EncodedWords.Statement (.fsub h ty d a b) := words_length h _ _
theorem EncodedWords.fmul (h : Hd) (ty : Ty) (d a b : Opnd) :
    EncodedWords.Statement (.fmul h ty d a b) := words_length h _ _
theorem EncodedWords.fma (h : Hd) (ty : Ty) (d a b c : Opnd) :
    EncodedWords.Statement (.fma h ty d a b c) := words_length h _ _
theorem EncodedWords.fmin (h : Hd) (ty : Ty) (d a b : Opnd) :
    EncodedWords.Statement (.fmin h ty d a b) := words_length h _ _
theorem EncodedWords.fmax (h : Hd) (ty : Ty) (d a b : Opnd) :
    EncodedWords.Statement (.fmax h ty d a b) := words_length h _ _
theorem EncodedWords.fsetEq (h : Hd) (ty : Ty) (d a b : Opnd) :
    EncodedWords.Statement (.fsetEq h ty d a b) := words_length h _ _
theorem EncodedWords.fsetNe (h : Hd) (ty : Ty) (d a b : Opnd) :
    EncodedWords.Statement (.fsetNe h ty d a b) := words_length h _ _
theorem EncodedWords.fsetLt (h : Hd) (ty : Ty) (d a b : Opnd) :
    EncodedWords.Statement (.fsetLt h ty d a b) := words_length h _ _
theorem EncodedWords.fsetLe (h : Hd) (ty : Ty) (d a b : Opnd) :
    EncodedWords.Statement (.fsetLe h ty d a b) := words_length h _ _
theorem EncodedWords.fsetGt (h : Hd) (ty : Ty) (d a b : Opnd) :
    EncodedWords.Statement (.fsetGt h ty d a b) := words_length h _ _
theorem EncodedWords.fsetGe (h : Hd) (ty : Ty) (d a b : Opnd) :
    EncodedWords.Statement (.fsetGe h ty d a b) := words_length h _ _
theorem EncodedWords.fsetUnord (h : Hd) (ty : Ty) (d a b : Opnd) :
    EncodedWords.Statement (.fsetUnord h ty d a b) := words_length h _ _
theorem EncodedWords.fsetOrd (h : Hd) (ty : Ty) (d a b : Opnd) :
    EncodedWords.Statement (.fsetOrd h ty d a b) := words_length h _ _
theorem EncodedWords.frcp (h : Hd) (ty : Ty) (d a : Opnd) :
    EncodedWords.Statement (.frcp h ty d a) := words_length h _ _
theorem EncodedWords.fsqrt (h : Hd) (ty : Ty) (d a : Opnd) :
    EncodedWords.Statement (.fsqrt h ty d a) := words_length h _ _
theorem EncodedWords.frsqrt (h : Hd) (ty : Ty) (d a : Opnd) :
    EncodedWords.Statement (.frsqrt h ty d a) := words_length h _ _
theorem EncodedWords.fexp2 (h : Hd) (ty : Ty) (d a : Opnd) :
    EncodedWords.Statement (.fexp2 h ty d a) := words_length h _ _
theorem EncodedWords.flog2 (h : Hd) (ty : Ty) (d a : Opnd) :
    EncodedWords.Statement (.flog2 h ty d a) := words_length h _ _
theorem EncodedWords.fclass (h : Hd) (ty : Ty) (d a : Opnd) :
    EncodedWords.Statement (.fclass h ty d a) := words_length h _ _
theorem EncodedWords.frint (h : Hd) (ty : Ty) (d a : Opnd) :
    EncodedWords.Statement (.frint h ty d a) := words_length h _ _
theorem EncodedWords.fdiv (h : Hd) (ty : Ty) (d a b : Opnd) :
    EncodedWords.Statement (.fdiv h ty d a b) := words_length h _ _
theorem EncodedWords.fadd2 (h : Hd) (ty : Ty) (d a b : Opnd) :
    EncodedWords.Statement (.fadd2 h ty d a b) := words_length h _ _
theorem EncodedWords.fsub2 (h : Hd) (ty : Ty) (d a b : Opnd) :
    EncodedWords.Statement (.fsub2 h ty d a b) := words_length h _ _
theorem EncodedWords.fmul2 (h : Hd) (ty : Ty) (d a b : Opnd) :
    EncodedWords.Statement (.fmul2 h ty d a b) := words_length h _ _
theorem EncodedWords.fma2 (h : Hd) (ty : Ty) (d a b c : Opnd) :
    EncodedWords.Statement (.fma2 h ty d a b c) := words_length h _ _
theorem EncodedWords.fmin2 (h : Hd) (ty : Ty) (d a b : Opnd) :
    EncodedWords.Statement (.fmin2 h ty d a b) := words_length h _ _
theorem EncodedWords.fmax2 (h : Hd) (ty : Ty) (d a b : Opnd) :
    EncodedWords.Statement (.fmax2 h ty d a b) := words_length h _ _
theorem EncodedWords.cvt (h : Hd) (ty src : Ty) (d a b c : Opnd) :
    EncodedWords.Statement (.cvt h ty src d a b c) := words_length h _ _
theorem EncodedWords.cvtef (h : Hd) (ty : Ty) (d a b c : Opnd) :
    EncodedWords.Statement (.cvtef h ty d a b c) := words_length h _ _
theorem EncodedWords.cvtefX2 (h : Hd) (ty : Ty) (d a b c : Opnd) :
    EncodedWords.Statement (.cvtefX2 h ty d a b c) := words_length h _ _
theorem EncodedWords.ld (h : Hd) (ty : Ty) (d base : Opnd) (off : BitVec 20) (sp : Space) (ord : Bool) (sc : MScope) :
    EncodedWords.Statement (.ld h ty d base off sp ord sc) := words_length h _ _
theorem EncodedWords.st (h : Hd) (ty : Ty) (d base : Opnd) (off : BitVec 20) (sp : Space) (ord : Bool) (sc : MScope) :
    EncodedWords.Statement (.st h ty d base off sp ord sc) := words_length h _ _
theorem EncodedWords.ldnf (h : Hd) (ty : Ty) (d a c : Opnd) :
    EncodedWords.Statement (.ldnf h ty d a c) := words_length h _ _
theorem EncodedWords.atmAdd (h : Hd) (ty : Ty) (d a b : Opnd) (ord : Bool) (sc : MScope) :
    EncodedWords.Statement (.atmAdd h ty d a b ord sc) := words_length h _ _
theorem EncodedWords.atmSub (h : Hd) (ty : Ty) (d a b : Opnd) (ord : Bool) (sc : MScope) :
    EncodedWords.Statement (.atmSub h ty d a b ord sc) := words_length h _ _
theorem EncodedWords.atmMin (h : Hd) (ty : Ty) (d a b : Opnd) (ord : Bool) (sc : MScope) :
    EncodedWords.Statement (.atmMin h ty d a b ord sc) := words_length h _ _
theorem EncodedWords.atmMax (h : Hd) (ty : Ty) (d a b : Opnd) (ord : Bool) (sc : MScope) :
    EncodedWords.Statement (.atmMax h ty d a b ord sc) := words_length h _ _
theorem EncodedWords.atmAnd (h : Hd) (ty : Ty) (d a b : Opnd) (ord : Bool) (sc : MScope) :
    EncodedWords.Statement (.atmAnd h ty d a b ord sc) := words_length h _ _
theorem EncodedWords.atmOr (h : Hd) (ty : Ty) (d a b : Opnd) (ord : Bool) (sc : MScope) :
    EncodedWords.Statement (.atmOr h ty d a b ord sc) := words_length h _ _
theorem EncodedWords.atmXor (h : Hd) (ty : Ty) (d a b : Opnd) (ord : Bool) (sc : MScope) :
    EncodedWords.Statement (.atmXor h ty d a b ord sc) := words_length h _ _
theorem EncodedWords.atmExch (h : Hd) (ty : Ty) (d a b : Opnd) (ord : Bool) (sc : MScope) :
    EncodedWords.Statement (.atmExch h ty d a b ord sc) := words_length h _ _
theorem EncodedWords.atmCas (h : Hd) (ty : Ty) (d a b c : Opnd) (ord : Bool) (sc : MScope) :
    EncodedWords.Statement (.atmCas h ty d a b c ord sc) := words_length h _ _
theorem EncodedWords.atmInc (h : Hd) (ty : Ty) (d a b : Opnd) (ord : Bool) (sc : MScope) :
    EncodedWords.Statement (.atmInc h ty d a b ord sc) := words_length h _ _
theorem EncodedWords.atmDec (h : Hd) (ty : Ty) (d a b : Opnd) (ord : Bool) (sc : MScope) :
    EncodedWords.Statement (.atmDec h ty d a b ord sc) := words_length h _ _
theorem EncodedWords.atmFadd (h : Hd) (ty : Ty) (d a b : Opnd) (ord : Bool) (sc : MScope) :
    EncodedWords.Statement (.atmFadd h ty d a b ord sc) := words_length h _ _
theorem EncodedWords.redAdd (h : Hd) (ty : Ty) (a b : Opnd) (ord : Bool) (sc : MScope) :
    EncodedWords.Statement (.redAdd h ty a b ord sc) := words_length h _ _
theorem EncodedWords.redSub (h : Hd) (ty : Ty) (a b : Opnd) (ord : Bool) (sc : MScope) :
    EncodedWords.Statement (.redSub h ty a b ord sc) := words_length h _ _
theorem EncodedWords.redMin (h : Hd) (ty : Ty) (a b : Opnd) (ord : Bool) (sc : MScope) :
    EncodedWords.Statement (.redMin h ty a b ord sc) := words_length h _ _
theorem EncodedWords.redMax (h : Hd) (ty : Ty) (a b : Opnd) (ord : Bool) (sc : MScope) :
    EncodedWords.Statement (.redMax h ty a b ord sc) := words_length h _ _
theorem EncodedWords.redAnd (h : Hd) (ty : Ty) (a b : Opnd) (ord : Bool) (sc : MScope) :
    EncodedWords.Statement (.redAnd h ty a b ord sc) := words_length h _ _
theorem EncodedWords.redOr (h : Hd) (ty : Ty) (a b : Opnd) (ord : Bool) (sc : MScope) :
    EncodedWords.Statement (.redOr h ty a b ord sc) := words_length h _ _
theorem EncodedWords.redXor (h : Hd) (ty : Ty) (a b : Opnd) (ord : Bool) (sc : MScope) :
    EncodedWords.Statement (.redXor h ty a b ord sc) := words_length h _ _
theorem EncodedWords.redInc (h : Hd) (ty : Ty) (a b : Opnd) (ord : Bool) (sc : MScope) :
    EncodedWords.Statement (.redInc h ty a b ord sc) := words_length h _ _
theorem EncodedWords.redDec (h : Hd) (ty : Ty) (a b : Opnd) (ord : Bool) (sc : MScope) :
    EncodedWords.Statement (.redDec h ty a b ord sc) := words_length h _ _
theorem EncodedWords.redFadd (h : Hd) (ty : Ty) (a b : Opnd) (ord : Bool) (sc : MScope) :
    EncodedWords.Statement (.redFadd h ty a b ord sc) := words_length h _ _
theorem EncodedWords.fence (h : Hd) (sc : MScope) : EncodedWords.Statement (.fence h sc) := words_length h _ _
theorem EncodedWords.acq (h : Hd) (sc : MScope) : EncodedWords.Statement (.acq h sc) := words_length h _ _
theorem EncodedWords.rel (h : Hd) (sc : MScope) : EncodedWords.Statement (.rel h sc) := words_length h _ _
theorem EncodedWords.invr (h : Hd) (len base : Opnd) (sc : MScope) :
    EncodedWords.Statement (.invr h len base sc) := words_length h _ _
theorem EncodedWords.wbr (h : Hd) (len base : Opnd) (sc : MScope) :
    EncodedWords.Statement (.wbr h len base sc) := words_length h _ _
theorem EncodedWords.pgreq (h : Hd) (base : Opnd) (off : BitVec 20) (sp : Space) :
    EncodedWords.Statement (.pgreq h base off sp) := words_length h _ _
theorem EncodedWords.gld (h : Hd) (d a : Opnd) (site : BitVec 13) (off : BitVec 9) :
    EncodedWords.Statement (.gld h d a site off) := words_length h _ _
theorem EncodedWords.gst (h : Hd) (a b : Opnd) (site : BitVec 13) (off : BitVec 9) :
    EncodedWords.Statement (.gst h a b site off) := words_length h _ _
theorem EncodedWords.gatmAdd (h : Hd) (d a b : Opnd) (site : BitVec 13) (ord : Bool) (sc : MScope) :
    EncodedWords.Statement (.gatmAdd h d a b site ord sc) := words_length h _ _
theorem EncodedWords.gatmSub (h : Hd) (d a b : Opnd) (site : BitVec 13) (ord : Bool) (sc : MScope) :
    EncodedWords.Statement (.gatmSub h d a b site ord sc) := words_length h _ _
theorem EncodedWords.gatmMin (h : Hd) (d a b : Opnd) (site : BitVec 13) (ord : Bool) (sc : MScope) :
    EncodedWords.Statement (.gatmMin h d a b site ord sc) := words_length h _ _
theorem EncodedWords.gatmMax (h : Hd) (d a b : Opnd) (site : BitVec 13) (ord : Bool) (sc : MScope) :
    EncodedWords.Statement (.gatmMax h d a b site ord sc) := words_length h _ _
theorem EncodedWords.gatmAnd (h : Hd) (d a b : Opnd) (site : BitVec 13) (ord : Bool) (sc : MScope) :
    EncodedWords.Statement (.gatmAnd h d a b site ord sc) := words_length h _ _
theorem EncodedWords.gatmOr (h : Hd) (d a b : Opnd) (site : BitVec 13) (ord : Bool) (sc : MScope) :
    EncodedWords.Statement (.gatmOr h d a b site ord sc) := words_length h _ _
theorem EncodedWords.gatmXor (h : Hd) (d a b : Opnd) (site : BitVec 13) (ord : Bool) (sc : MScope) :
    EncodedWords.Statement (.gatmXor h d a b site ord sc) := words_length h _ _
theorem EncodedWords.gatmExch (h : Hd) (d a b : Opnd) (site : BitVec 13) (ord : Bool) (sc : MScope) :
    EncodedWords.Statement (.gatmExch h d a b site ord sc) := words_length h _ _
theorem EncodedWords.gadd (h : Hd) (d a b : Opnd) (site : BitVec 13) :
    EncodedWords.Statement (.gadd h d a b site) := words_length h _ _
theorem EncodedWords.gsub (h : Hd) (d a b : Opnd) (site : BitVec 13) :
    EncodedWords.Statement (.gsub h d a b site) := words_length h _ _
theorem EncodedWords.gmul (h : Hd) (d a b : Opnd) (site : BitVec 13) :
    EncodedWords.Statement (.gmul h d a b site) := words_length h _ _
theorem EncodedWords.gfma (h : Hd) (d a b : Opnd) (site : BitVec 13) :
    EncodedWords.Statement (.gfma h d a b site) := words_length h _ _
theorem EncodedWords.gmin (h : Hd) (d a b : Opnd) (site : BitVec 13) :
    EncodedWords.Statement (.gmin h d a b site) := words_length h _ _
theorem EncodedWords.gmax (h : Hd) (d a b : Opnd) (site : BitVec 13) :
    EncodedWords.Statement (.gmax h d a b site) := words_length h _ _
theorem EncodedWords.gset (h : Hd) (d a b : Opnd) (site : BitVec 13) (cc : Cond) :
    EncodedWords.Statement (.gset h d a b site cc) := words_length h _ _
theorem EncodedWords.gcvt (h : Hd) (d a : Opnd) (site : BitVec 13) (ty : Ty) :
    EncodedWords.Statement (.gcvt h d a site ty) := words_length h _ _
theorem EncodedWords.stage (h : Hd) (a : Opnd) (cnt : BitVec 8) :
    EncodedWords.Statement (.stage h a cnt) := words_length h _ _
theorem EncodedWords.cpy (h : Hd) (d a b : Opnd) : EncodedWords.Statement (.cpy h d a b) := words_length h _ _
theorem EncodedWords.cpyBar (h : Hd) (d a b : Opnd) (bar : BitVec 7) :
    EncodedWords.Statement (.cpyBar h d a b bar) := words_length h _ _
theorem EncodedWords.cpyl4 (h : Hd) (d a : Opnd) : EncodedWords.Statement (.cpyl4 h d a) := words_length h _ _
theorem EncodedWords.cpyl8 (h : Hd) (d a : Opnd) : EncodedWords.Statement (.cpyl8 h d a) := words_length h _ _
theorem EncodedWords.cpyl16 (h : Hd) (d a : Opnd) : EncodedWords.Statement (.cpyl16 h d a) := words_length h _ _
theorem EncodedWords.seal (h : Hd) (d : Opnd) : EncodedWords.Statement (.seal h d) := words_length h _ _
theorem EncodedWords.waitb (h : Hd) (a : Opnd) : EncodedWords.Statement (.waitb h a) := words_length h _ _
theorem EncodedWords.bulkLd (h : Hd) (ha : BitVec 4) : EncodedWords.Statement (.bulkLd h ha) := words_length h _ _
theorem EncodedWords.bulkSt (h : Hd) (ha : BitVec 4) : EncodedWords.Statement (.bulkSt h ha) := words_length h _ _
theorem EncodedWords.bulkLdBar (h : Hd) (ha : BitVec 4) (bar : BitVec 7) :
    EncodedWords.Statement (.bulkLdBar h ha bar) := words_length h _ _
theorem EncodedWords.bulkStBar (h : Hd) (ha : BitVec 4) (bar : BitVec 7) :
    EncodedWords.Statement (.bulkStBar h ha bar) := words_length h _ _
theorem EncodedWords.waitm (h : Hd) (ha : BitVec 4) (a : Opnd) :
    EncodedWords.Statement (.waitm h ha a) := words_length h _ _
theorem EncodedWords.testm (h : Hd) (d : Opnd) (ha : BitVec 4) (a : Opnd) :
    EncodedWords.Statement (.testm h d ha a) := words_length h _ _
theorem EncodedWords.mcast (h : Hd) (d a b : Opnd) : EncodedWords.Statement (.mcast h d a b) := words_length h _ _
theorem EncodedWords.mcastBar (h : Hd) (d a b : Opnd) (bar : BitVec 7) :
    EncodedWords.Statement (.mcastBar h d a b bar) := words_length h _ _
theorem EncodedWords.rowcpy (h : Hd) (d a : Opnd) : EncodedWords.Statement (.rowcpy h d a) := words_length h _ _
theorem EncodedWords.rowfill (h : Hd) (d a : Opnd) : EncodedWords.Statement (.rowfill h d a) := words_length h _ _
theorem EncodedWords.rowand (h : Hd) (d a b : Opnd) : EncodedWords.Statement (.rowand h d a b) := words_length h _ _
theorem EncodedWords.rowor (h : Hd) (d a b : Opnd) : EncodedWords.Statement (.rowor h d a b) := words_length h _ _
theorem EncodedWords.rowxor (h : Hd) (d a b : Opnd) : EncodedWords.Statement (.rowxor h d a b) := words_length h _ _
theorem EncodedWords.rownot (h : Hd) (d a : Opnd) : EncodedWords.Statement (.rownot h d a) := words_length h _ _
theorem EncodedWords.rowmate (h : Hd) (d a : Opnd) : EncodedWords.Statement (.rowmate h d a) := words_length h _ _
theorem EncodedWords.barArrive (h : Hd) (bar : BitVec 7) (ord : Option MScope) :
    EncodedWords.Statement (.barArrive h bar ord) := words_length h _ _
theorem EncodedWords.barWait (h : Hd) (bar : BitVec 7) (ord : Option MScope) :
    EncodedWords.Statement (.barWait h bar ord) := words_length h _ _
theorem EncodedWords.barSync (h : Hd) (bar : BitVec 7) (ord : Option MScope) :
    EncodedWords.Statement (.barSync h bar ord) := words_length h _ _
theorem EncodedWords.barExpect (h : Hd) (bar : BitVec 7) (a : Opnd) :
    EncodedWords.Statement (.barExpect h bar a) := words_length h _ _
theorem EncodedWords.barInit (h : Hd) (bar : BitVec 7) (a : Opnd) :
    EncodedWords.Statement (.barInit h bar a) := words_length h _ _
theorem EncodedWords.setdecl (h : Hd) (k : BitVec 3) (a : Opnd) :
    EncodedWords.Statement (.setdecl h k a) := words_length h _ _
theorem EncodedWords.shld (h : Hd) (ha : BitVec 4) (a : Opnd) :
    EncodedWords.Statement (.shld h ha a) := words_length h _ _
theorem EncodedWords.shst (h : Hd) (ha : BitVec 4) (a : Opnd) :
    EncodedWords.Statement (.shst h ha a) := words_length h _ _
theorem EncodedWords.shset (h : Hd) (ha : BitVec 4) (f : BitVec 5) (a : Opnd) :
    EncodedWords.Statement (.shset h ha f a) := words_length h _ _
theorem EncodedWords.shget (h : Hd) (d : Opnd) (ha : BitVec 4) (f : BitVec 5) :
    EncodedWords.Statement (.shget h d ha f) := words_length h _ _
theorem EncodedWords.macq (h : Hd) (t : BitVec 2) : EncodedWords.Statement (.macq h t) := words_length h _ _
theorem EncodedWords.mrel (h : Hd) (t : BitVec 2) : EncodedWords.Statement (.mrel h t) := words_length h _ _
theorem EncodedWords.mzeroF32 (h : Hd) (t : BitVec 2) : EncodedWords.Statement (.mzeroF32 h t) := words_length h _ _
theorem EncodedWords.mzeroI32 (h : Hd) (t : BitVec 2) : EncodedWords.Statement (.mzeroI32 h t) := words_length h _ _
theorem EncodedWords.mzeroI32s (h : Hd) (t : BitVec 2) : EncodedWords.Statement (.mzeroI32s h t) := words_length h _ _
theorem EncodedWords.mwait (h : Hd) (t : BitVec 2) : EncodedWords.Statement (.mwait h t) := words_length h _ _
theorem EncodedWords.mloop (h : Hd) (t : BitVec 2) (ha hb : BitVec 4) (a : Opnd) :
    EncodedWords.Statement (.mloop h t ha hb a) := words_length h _ _
theorem EncodedWords.mldaSp (h : Hd) (t : BitVec 2) (ha : BitVec 4) :
    EncodedWords.Statement (.mldaSp h t ha) := words_length h _ _
theorem EncodedWords.mldaReg (h : Hd) (t : BitVec 2) (d a : Opnd) :
    EncodedWords.Statement (.mldaReg h t d a) := words_length h _ _
theorem EncodedWords.mdrainSp (h : Hd) (t : BitVec 2) (ha : BitVec 4) :
    EncodedWords.Statement (.mdrainSp h t ha) := words_length h _ _
theorem EncodedWords.mdrainReg (h : Hd) (t : BitVec 2) (d a : Opnd) :
    EncodedWords.Statement (.mdrainReg h t d a) := words_length h _ _
theorem EncodedWords.saccR (h : Hd) (t : BitVec 2) (a b : Opnd) :
    EncodedWords.Statement (.saccR h t a b) := words_length h _ _
theorem EncodedWords.saccRc (h : Hd) (t : BitVec 2) (d a b : Opnd) :
    EncodedWords.Statement (.saccRc h t d a b) := words_length h _ _
theorem EncodedWords.plane (h : Hd) (ha hb : BitVec 4) : EncodedWords.Statement (.plane h ha hb) := words_length h _ _
theorem EncodedWords.unplane (h : Hd) (ha hb : BitVec 4) :
    EncodedWords.Statement (.unplane h ha hb) := words_length h _ _
theorem EncodedWords.hclr (h : Hd) (k : BitVec 3) (a : Opnd) :
    EncodedWords.Statement (.hclr h k a) := words_length h _ _
theorem EncodedWords.hrd (h : Hd) (d : Opnd) (k : BitVec 3) (a : Opnd) :
    EncodedWords.Statement (.hrd h d k a) := words_length h _ _
theorem EncodedWords.launch (h : Hd) (a : Opnd) (q : BitVec 17) :
    EncodedWords.Statement (.launch h a q) := words_length h _ _
theorem EncodedWords.sread (h : Hd) (d : Opnd) (idx : BitVec 8) :
    EncodedWords.Statement (.sread h d idx) := words_length h _ _
theorem EncodedWords.swrite (h : Hd) (idx : BitVec 8) (a : Opnd) :
    EncodedWords.Statement (.swrite h idx a) := words_length h _ _
theorem EncodedWords.bkpt (h : Hd) (code : BitVec 17) : EncodedWords.Statement (.bkpt h code) := words_length h _ _
theorem EncodedWords.mark (h : Hd) (a : Opnd) (tag : BitVec 17) :
    EncodedWords.Statement (.mark h a tag) := words_length h _ _
theorem EncodedWords.siterst (h : Hd) (d a : Opnd) : EncodedWords.Statement (.siterst h d a) := words_length h _ _
theorem EncodedWords.rendezvousIssue (tid : Nat) (k : Option (BitVec 3)) :
    EncodedWords.Statement (.rendezvousIssue tid k) := rfl
theorem EncodedWords.rendezvousTimeout (tid : Nat) (k : Option (BitVec 3)) :
    EncodedWords.Statement (.rendezvousTimeout tid k) := rfl
theorem EncodedWords.registerResultReturn (r : GRef) (i : Nat) :
    EncodedWords.Statement (.registerResultReturn r i) := rfl
theorem EncodedWords.groupResourcesFreed (r : GRef) : EncodedWords.Statement (.groupResourcesFreed r) := rfl
theorem EncodedWords.teamRetire (tid : Nat) : EncodedWords.Statement (.teamRetire tid) := rfl
theorem EncodedWords.copyComplete (tid wid : Nat) : EncodedWords.Statement (.copyComplete tid wid) := rfl
theorem EncodedWords.engineWorkStop (tid wid : Nat) (cause : BitVec 10) (addr : BitVec 64) :
    EncodedWords.Statement (.engineWorkStop tid wid cause addr) := rfl
theorem EncodedWords.bulkChunkComplete (tid wid : Nat) (chunk : Nat) :
    EncodedWords.Statement (.bulkChunkComplete tid wid chunk) := rfl
theorem EncodedWords.mcastChunkArrive (tid wid : Nat) (rcv chunk : Nat) :
    EncodedWords.Statement (.mcastChunkArrive tid wid rcv chunk) := rfl
theorem EncodedWords.barrierTimeout (r : GRef) : EncodedWords.Statement (.barrierTimeout r) := rfl
theorem EncodedWords.chunkWaitTimeout (r : GRef) : EncodedWords.Statement (.chunkWaitTimeout r) := rfl
theorem EncodedWords.rowFrameComplete (tid wid : Nat) (frame : Nat) :
    EncodedWords.Statement (.rowFrameComplete tid wid frame) := rfl
theorem EncodedWords.planeComplete (tid wid : Nat) : EncodedWords.Statement (.planeComplete tid wid) := rfl
theorem EncodedWords.pairingTimeout (r : GRef) : EncodedWords.Statement (.pairingTimeout r) := rfl
theorem EncodedWords.tokenTimeout (r : GRef) : EncodedWords.Statement (.tokenTimeout r) := rfl
theorem EncodedWords.damaskLoopStart (core : Nat) : EncodedWords.Statement (.damaskLoopStart core) := rfl
theorem EncodedWords.damaskLoopComplete (core : Nat) : EncodedWords.Statement (.damaskLoopComplete core) := rfl
theorem EncodedWords.enginePlaceFree (core : Nat) : EncodedWords.Statement (.enginePlaceFree core) := rfl
theorem EncodedWords.saccComplete (core : Nat) : EncodedWords.Statement (.saccComplete core) := rfl
theorem EncodedWords.cacheEviction (who : BitVec 8) (ctx : BitVec 12) (va : BitVec 64) :
    EncodedWords.Statement (.cacheEviction who ctx va) := rfl
theorem EncodedWords.ownerTimeout (ctx : BitVec 12) (va : BitVec 64) (rd : Option GRef) (lanes : BitVec 32) :
    EncodedWords.Statement (.ownerTimeout ctx va rd lanes) := rfl
theorem EncodedWords.registryError (ctx : BitVec 12) (va : BitVec 64) :
    EncodedWords.Statement (.registryError ctx va) := rfl
theorem EncodedWords.rollCallTimeout (ctx : BitVec 12) (va : BitVec 64) :
    EncodedWords.Statement (.rollCallTimeout ctx va) := rfl
theorem EncodedWords.siteRewriteCas (i : Nat) : EncodedWords.Statement (.siteRewriteCas i) := rfl
theorem EncodedWords.pageWalkComplete (ctx : BitVec 12) (va : BitVec 64) :
    EncodedWords.Statement (.pageWalkComplete ctx va) := rfl
theorem EncodedWords.heldWritebackRelease (i : Nat) : EncodedWords.Statement (.heldWritebackRelease i) := rfl
theorem EncodedWords.fqheadWrite (ctx : BitVec 12) (v : BitVec 64) :
    EncodedWords.Statement (.fqheadWrite ctx v) := rfl
theorem EncodedWords.svdoneReexecute (ctx : BitVec 12) (seq : BitVec 32) :
    EncodedWords.Statement (.svdoneReexecute ctx seq) := rfl
theorem EncodedWords.svdoneResume (ctx : BitVec 12) (seq : BitVec 32) :
    EncodedWords.Statement (.svdoneResume ctx seq) := rfl
theorem EncodedWords.svdoneTerminate (ctx : BitVec 12) (seq : BitVec 32) :
    EncodedWords.Statement (.svdoneTerminate ctx seq) := rfl
theorem EncodedWords.svdoneRefuse (ctx : BitVec 12) (seq : BitVec 32) :
    EncodedWords.Statement (.svdoneRefuse ctx seq) := rfl
theorem EncodedWords.registerWrite (off : RegSpace) (v : BitVec 64) :
    EncodedWords.Statement (.registerWrite off v) := rfl
theorem EncodedWords.doorbell (v : BitVec 64) : EncodedWords.Statement (.doorbell v) := rfl
theorem EncodedWords.launchAccept (ctx : BitVec 12) (q : BitVec 4) :
    EncodedWords.Statement (.launchAccept ctx q) := rfl
theorem EncodedWords.dependenceRead (ctx : BitVec 12) (q : BitVec 4) :
    EncodedWords.Statement (.dependenceRead ctx q) := rfl
theorem EncodedWords.teamPlace (gid die core : Nat) (slices : List Nat) :
    EncodedWords.Statement (.teamPlace gid die core slices) := rfl
theorem EncodedWords.priorityAging (gid : Nat) : EncodedWords.Statement (.priorityAging gid) := rfl
theorem EncodedWords.carveChange (core : Nat) : EncodedWords.Statement (.carveChange core) := rfl
theorem EncodedWords.gridCompletion (gid : Nat) : EncodedWords.Statement (.gridCompletion gid) := rfl
theorem EncodedWords.ctxCreate (ctx : BitVec 12) : EncodedWords.Statement (.ctxCreate ctx) := rfl
theorem EncodedWords.ctxDestroy (ctx : BitVec 12) : EncodedWords.Statement (.ctxDestroy ctx) := rfl
theorem EncodedWords.ctxSave (ctx : BitVec 12) : EncodedWords.Statement (.ctxSave ctx) := rfl
theorem EncodedWords.ctxRestore (ctx : BitVec 12) (place : List (Nat × Nat)) :
    EncodedWords.Statement (.ctxRestore ctx place) := rfl
theorem EncodedWords.ctxDump (ctx : BitVec 12) : EncodedWords.Statement (.ctxDump ctx) := rfl
theorem EncodedWords.savePhase2 (ctx : BitVec 12) (tid : Nat) : EncodedWords.Statement (.savePhase2 ctx tid) := rfl
theorem EncodedWords.saveCacheFlush (ctx : BitVec 12) : EncodedWords.Statement (.saveCacheFlush ctx) := rfl
theorem EncodedWords.fatalFault (ctx : BitVec 12) (cause : BitVec 10) (r : GRef) :
    EncodedWords.Statement (.fatalFault ctx cause r) := rfl
theorem EncodedWords.dumpStart : EncodedWords.Statement .dumpStart := rfl
theorem EncodedWords.cxlLinkDown (tgt : BitVec 5) : EncodedWords.Statement (.cxlLinkDown tgt) := rfl
theorem EncodedWords.cxlCompletionTimeout (tgt : BitVec 5) : EncodedWords.Statement (.cxlCompletionTimeout tgt) := rfl
theorem EncodedWords.targetRestored (tgt : BitVec 5) : EncodedWords.Statement (.targetRestored tgt) := rfl
theorem EncodedWords.nirbiorLinkFault (link : BitVec 4) : EncodedWords.Statement (.nirbiorLinkFault link) := rfl
theorem EncodedWords.linkLaneRemap (link : BitVec 4) : EncodedWords.Statement (.linkLaneRemap link) := rfl
theorem EncodedWords.hostMemRead (line : BitVec 32) (word : BitVec 5) :
    EncodedWords.Statement (.hostMemRead line word) := rfl
theorem EncodedWords.hostMemWrite (line : BitVec 32) (word : BitVec 5) (data : BitVec 32) :
    EncodedWords.Statement (.hostMemWrite line word data) := rfl
theorem EncodedWords.hostSnoop (page : BitVec 32) (line : BitVec 5) :
    EncodedWords.Statement (.hostSnoop page line) := rfl
theorem EncodedWords.boot (digests : List (BitVec 256)) (fail : Option (BitVec 4 × BitVec 4)) :
    EncodedWords.Statement (.boot digests fail) := rfl
theorem EncodedWords.attestationRequest (nonce : BitVec 256) :
    EncodedWords.Statement (.attestationRequest nonce) := rfl
theorem EncodedWords.pcSample (core slice : Nat) : EncodedWords.Statement (.pcSample core slice) := rfl
theorem EncodedWords.cclr (part : BitVec 3) : EncodedWords.Statement (.cclr part) := rfl
theorem EncodedWords.fabricTimeCorrection (corr : Int) : EncodedWords.Statement (.fabricTimeCorrection corr) := rfl
theorem EncodedWords.thermalThrottle (steps : Nat) : EncodedWords.Statement (.thermalThrottle steps) := rfl
theorem EncodedWords.criticalTemperature : EncodedWords.Statement .criticalTemperature := rfl
theorem EncodedWords.coreFailure (core : Nat) : EncodedWords.Statement (.coreFailure core) := rfl
theorem EncodedWords.registryRebuilt (ctx : BitVec 12) (va : BitVec 64) :
    EncodedWords.Statement (.registryRebuilt ctx va) := rfl
theorem EncodedWords.releaseComplete (r : GRef) : EncodedWords.Statement (.releaseComplete r) := rfl
theorem EncodedWords.hostLinkTraining (mode : BitVec 2) : EncodedWords.Statement (.hostLinkTraining mode) := rfl
theorem EncodedWords.temperatureFalls : EncodedWords.Statement .temperatureFalls := rfl

end Sys2Proof.Laws
end

