-- ==== Sys2Proof/Tests/Slice0.lean ====
section
/-! SUPPORT. Tests/Slice0.lean: words written out from the encodings of the spec, ill-formed terms that the checks refuse,
single steps on small states, and for every statement of Certificates/Slice0/Obligations.lean a state that meets its
hypotheses. -/
namespace Sys2Proof.Tests
open Sys2Proof Sys2Proof.Machine
set_option Elab.async false

/-! ### Heads and small states -/

/-- LANE scope, no guard, no modifier word. -/
def hd : Hd := { w := false, scope := .lane, pneg := false, pred := 7, mod := none, resv := false }
/-- The same at GROUP scope. -/
def hdG : Hd := { hd with scope := .group }
/-- The same at TEAM scope. -/
def hdT : Hd := { hd with scope := .team }
/-- A modifier word with no field set. -/
def bare : Mod :=
  { setn := 0, rmode := .own, scale := 0, sat := false, clamp := false, absA := false, negA := false, absB := false, negB := false
    absC := false, negC := false, ext := 0 }

/-! ### Decoding: every mnemonic, by a word written out from R226, R229, R230, R244, R245 and R315 -/

/-- Each word decodes to the instruction beside it. -/
def allDecode (l : List (DWord × Instr)) : Prop := ∀ p ∈ l, (decodeWords [p.1]).toOption = some p.2

theorem test_words_control : allDecode [
    (0x205DFFFFFFFC0000, .br hdG 0xFFFFFFFE),
    (0x205C000000120001, .call hdG 9),
    (0x00840000000A000E, .brd { hd with pred := 1 } 5 7),
    (0x20DC000000000000, .join hdG),
    (0x00DC000000000001, .exit hd),
    (0x20DC000000000002, .ret hdG),
    (0x20DC000000000143, .callt hdG 5),
    (0x20DC008A00000004, .callr hdG (.s 20)),
    (0x20DC000000000FC5, .trap hdG 63),
    (0x60DC000000000006, .nop hdT)] := by
  unfold allDecode; decide

theorem test_words_iarith : allDecode [
    (0x011C030080800100, .add hd .i32 (.v 3) (.v 1) (.v 2)),
    (0x011C030080800101, .sub hd .i32 (.v 3) (.v 1) (.v 2)),
    (0x011C030080800102, .mul hd .i32 (.v 3) (.v 1) (.v 2)),
    (0x011C030080800103, .mulhi hd .i32 (.v 3) (.v 1) (.v 2)),
    (0x011C030080A08104, .mad hd .i32 (.v 3) (.v 1) (.v 2) (.s 4)),
    (0x011C030080800105, .min hd .i32 (.v 3) (.v 1) (.v 2)),
    (0x011C030080800106, .max hd .i32 (.v 3) (.v 1) (.v 2)),
    (0x011C030080000107, .abs hd .i32 (.v 3) (.v 1)),
    (0x011C030080000108, .neg hd .i32 (.v 3) (.v 1)),
    (0x011C030080800109, .div hd .i32 (.v 3) (.v 1) (.v 2)),
    (0x011C03008080010A, .rem hd .i32 (.v 3) (.v 1) (.v 2)),
    (0x015C0300FFFFF080, .addImm hd .n32 (.v 3) (.v 1) 0xFFFFE),
    (0x015C0300FFFFF081, .subImm hd .n32 (.v 3) (.v 1) 0xFFFFE),
    (0x015C0300FFFFF082, .mulImm hd .n32 (.v 3) (.v 1) 0xFFFFE),
    (0x015C0300FFFFF083, .mulhiImm hd .n32 (.v 3) (.v 1) 0xFFFFE),
    (0x015C0300FFFFF085, .minImm hd .n32 (.v 3) (.v 1) 0xFFFFE),
    (0x015C0300FFFFF086, .maxImm hd .n32 (.v 3) (.v 1) 0xFFFFE)] := by
  unfold allDecode; decide

theorem test_words_logic : allDecode [
    (0x019C030080800000, .and hd .b32 (.v 3) (.v 1) (.v 2)),
    (0x019C030080800001, .or hd .b32 (.v 3) (.v 1) (.v 2)),
    (0x019C030080800002, .xor hd .b32 (.v 3) (.v 1) (.v 2)),
    (0x019C030080000003, .not hd .b32 (.v 3) (.v 1)),
    (0x019C030080800004, .andn hd .b32 (.v 3) (.v 1) (.v 2)),
    (0x019C030080800005, .shl hd .b32 (.v 3) (.v 1) (.v 2)),
    (0x019C030080800006, .shr hd .b32 (.v 3) (.v 1) (.v 2)),
    (0x019C030080800007, .sar hd .b32 (.v 3) (.v 1) (.v 2)),
    (0x019C030080800008, .rotl hd .b32 (.v 3) (.v 1) (.v 2)),
    (0x019C030080000009, .popc hd .b32 (.v 3) (.v 1)),
    (0x019C03008000000A, .clz hd .b32 (.v 3) (.v 1)),
    (0x019C03008000420B, .bfe hd .n32 (.v 3) (.v 1) (.v 2)),
    (0x019C03008080820C, .bfi hd .n32 (.v 3) (.v 1) (.v 2) (.v 4)),
    (0x019C03008000000D, .brev hd .b32 (.v 3) (.v 1)),
    (0x01DC030080002A80, .andImm hd .n16 (.v 3) (.v 1) 5),
    (0x01DC030080002A81, .orImm hd .n16 (.v 3) (.v 1) 5),
    (0x01DC030080002A82, .xorImm hd .n16 (.v 3) (.v 1) 5),
    (0x01DC030080002A84, .andnImm hd .n16 (.v 3) (.v 1) 5),
    (0x01DC030080002A85, .shlImm hd .n16 (.v 3) (.v 1) 5),
    (0x01DC030080002A86, .shrImm hd .n16 (.v 3) (.v 1) 5),
    (0x01DC030080002A87, .sarImm hd .n16 (.v 3) (.v 1) 5),
    (0x01DC030080002A88, .rotlImm hd .n16 (.v 3) (.v 1) 5)] := by
  unfold allDecode; decide

theorem test_words_compare : allDecode [
    (0x021D420080800D00, .setEq hd .i8 (.p 2) (.v 1) (.v 2)),
    (0x025D420080008040, .setEqImm hd .i32 (.p 2) (.v 1) 16),
    (0x021D420080800D01, .setNe hd .i8 (.p 2) (.v 1) (.v 2)),
    (0x025D420080008041, .setNeImm hd .i32 (.p 2) (.v 1) 16),
    (0x021D420080800D02, .setLt hd .i8 (.p 2) (.v 1) (.v 2)),
    (0x025D420080008042, .setLtImm hd .i32 (.p 2) (.v 1) 16),
    (0x021D420080800D03, .setLe hd .i8 (.p 2) (.v 1) (.v 2)),
    (0x025D420080008043, .setLeImm hd .i32 (.p 2) (.v 1) 16),
    (0x021D420080800D04, .setGt hd .i8 (.p 2) (.v 1) (.v 2)),
    (0x025D420080008044, .setGtImm hd .i32 (.p 2) (.v 1) 16),
    (0x021D420080800D05, .setGe hd .i8 (.p 2) (.v 1) (.v 2)),
    (0x025D420080008045, .setGeImm hd .i32 (.p 2) (.v 1) 16)] := by
  unfold allDecode; decide

theorem test_words_move : allDecode [
    (0x029C030080000300, .mov hd .f32 (.v 3) (.v 1)),
    (0x029C030080A88001, .sel hd .b32 (.v 3) (.v 1) (.v 2) (.p 4)),
    (0x02DC030000003840, .movi hd .i32 (.v 3) 7),
    (0x02DC03007FFFF981, .movhi hd .n64 (.v 3) 0xFFFFF),
    (0x22DD080000000982, .addpc hdG .n64 (.s 8) 1),
    (0x22DD0884803FF983, .addlo hdG .n64 (.s 8) (.s 9) 0x7FF),
    (0x031C030080800A00, .add2 hd .n16 (.v 3) (.v 1) (.v 2)),
    (0x031C030080800A01, .sub2 hd .n16 (.v 3) (.v 1) (.v 2)),
    (0x031C030080800A02, .min2 hd .n16 (.v 3) (.v 1) (.v 2)),
    (0x031C030080800A03, .max2 hd .n16 (.v 3) (.v 1) (.v 2)),
    (0x031C140804680904, .maxd2 hd .i16 (.v 20) (.v 16) (.v 17) (.p 0))] := by
  unfold allDecode; decide

theorem test_words_lanes : allDecode [
    (0x035C030080800000, .shfl hd .b32 (.v 3) (.v 1) (.v 2)),
    (0x035C030080800001, .shflUp hd .b32 (.v 3) (.v 1) (.v 2)),
    (0x035C030080800002, .shflDn hd .b32 (.v 3) (.v 1) (.v 2)),
    (0x035C030080800003, .shflXor hd .b32 (.v 3) (.v 1) (.v 2)),
    (0x035D04A100001304, .voteAny hd .b1 (.s 4) (.p 2)),
    (0x035D04A100001305, .voteAll hd .b1 (.s 4) (.p 2)),
    (0x035D04A100001306, .ballot hd .b1 (.s 4) (.p 2)),
    (0x035C030100000107, .xredAdd hd .i32 (.v 3) (.v 2)),
    (0x035C030100000108, .xredMin hd .i32 (.v 3) (.v 2)),
    (0x035C030100000109, .xredMax hd .i32 (.v 3) (.v 2)),
    (0x035C03010000010A, .xredAnd hd .i32 (.v 3) (.v 2)),
    (0x035C03010000010B, .xredOr hd .i32 (.v 3) (.v 2)),
    (0x035C03010000010C, .xredXor hd .i32 (.v 3) (.v 2)),
    (0x035C03010000010D, .xscanAdd hd .i32 (.v 3) (.v 2)),
    (0x035C03010000010E, .xscanMax hd .i32 (.v 3) (.v 2)),
    (0x035D0300C080000F, .bcast hd .b32 (.s 3) (.v 1) (.s 2)),
    (0x039C03008080A000, .movx hd .b32 (.v 3) (.v 1) (.v 2) (.v 5)),
    (0x039C03008080A001, .movxw hd .b32 (.v 3) (.v 1) (.v 2) (.v 5))] := by
  unfold allDecode; decide

theorem test_words_float : allDecode [
    (0x041C030080800400, .fadd hd .f64 (.v 3) (.v 1) (.v 2)),
    (0x041C030080800401, .fsub hd .f64 (.v 3) (.v 1) (.v 2)),
    (0x041C030080800402, .fmul hd .f64 (.v 3) (.v 1) (.v 2)),
    (0x041C030080A08403, .fma hd .f64 (.v 3) (.v 1) (.v 2) (.s 4)),
    (0x041C030080800404, .fmin hd .f64 (.v 3) (.v 1) (.v 2)),
    (0x041C030080800405, .fmax hd .f64 (.v 3) (.v 1) (.v 2)),
    (0x045D410080800300, .fsetEq hd .f32 (.p 1) (.v 1) (.v 2)),
    (0x045D410080800301, .fsetNe hd .f32 (.p 1) (.v 1) (.v 2)),
    (0x045D410080800302, .fsetLt hd .f32 (.p 1) (.v 1) (.v 2)),
    (0x045D410080800303, .fsetLe hd .f32 (.p 1) (.v 1) (.v 2)),
    (0x045D410080800304, .fsetGt hd .f32 (.p 1) (.v 1) (.v 2)),
    (0x045D410080800305, .fsetGe hd .f32 (.p 1) (.v 1) (.v 2)),
    (0x045D410080800306, .fsetUnord hd .f32 (.p 1) (.v 1) (.v 2)),
    (0x045D410080800307, .fsetOrd hd .f32 (.p 1) (.v 1) (.v 2)),
    (0x049C030080000300, .frcp hd .f32 (.v 3) (.v 1)),
    (0x049C030080000301, .fsqrt hd .f32 (.v 3) (.v 1)),
    (0x049C030080000302, .frsqrt hd .f32 (.v 3) (.v 1)),
    (0x049C030080000303, .fexp2 hd .f32 (.v 3) (.v 1)),
    (0x049C030080000304, .flog2 hd .f32 (.v 3) (.v 1)),
    (0x049C030080000305, .fclass hd .f32 (.v 3) (.v 1)),
    (0x049C030080000306, .frint hd .f32 (.v 3) (.v 1)),
    (0x049C030080800307, .fdiv hd .f32 (.v 3) (.v 1) (.v 2)),
    (0x04DC030080800800, .fadd2 hd .bf16 (.v 3) (.v 1) (.v 2)),
    (0x04DC030080800801, .fsub2 hd .bf16 (.v 3) (.v 1) (.v 2)),
    (0x04DC030080800802, .fmul2 hd .bf16 (.v 3) (.v 1) (.v 2)),
    (0x04DC030080A08803, .fma2 hd .bf16 (.v 3) (.v 1) (.v 2) (.s 4)),
    (0x04DC030080800804, .fmin2 hd .bf16 (.v 3) (.v 1) (.v 2)),
    (0x04DC030080800805, .fmax2 hd .bf16 (.v 3) (.v 1) (.v 2)),
    (0x051C050100000703, .cvt hd .f16 .f32 (.v 5) (.v 2) (.v 0) (.v 0)),
    (0x055C0A0100000C00, .cvtef hd .e5 (.v 10) (.v 2) (.v 0) (.v 0)),
    (0x055C0A0100000B01, .cvtefX2 hd .e4 (.v 10) (.v 2) (.v 0) (.v 0))] := by
  unfold allDecode; decide

theorem test_words_memory : allDecode [
    (0x081C040100020003, .ld hd .f32 (.v 4) (.v 2) 0x40 .generic false .team),
    (0x085C04817FFFE2C0, .st hd .b32 (.v 4) (.s 2) 0xFFFFC .scratch true .dev),
    (0x089C030100282000, .ldnf hd .b32 (.v 3) (.v 2) (.p 1)),
    (0x08DC060100400240, .atmAdd hd .n32 (.v 6) (.v 2) (.v 1) false .dev),
    (0x091C0001004002E0, .redAdd hd .n32 (.v 2) (.v 1) true .sys),
    (0x08DC060100400241, .atmSub hd .n32 (.v 6) (.v 2) (.v 1) false .dev),
    (0x091C0001004002E1, .redSub hd .n32 (.v 2) (.v 1) true .sys),
    (0x08DC060100400242, .atmMin hd .n32 (.v 6) (.v 2) (.v 1) false .dev),
    (0x091C0001004002E2, .redMin hd .n32 (.v 2) (.v 1) true .sys),
    (0x08DC060100400243, .atmMax hd .n32 (.v 6) (.v 2) (.v 1) false .dev),
    (0x091C0001004002E3, .redMax hd .n32 (.v 2) (.v 1) true .sys),
    (0x08DC060100400244, .atmAnd hd .n32 (.v 6) (.v 2) (.v 1) false .dev),
    (0x091C0001004002E4, .redAnd hd .n32 (.v 2) (.v 1) true .sys),
    (0x08DC060100400245, .atmOr hd .n32 (.v 6) (.v 2) (.v 1) false .dev),
    (0x091C0001004002E5, .redOr hd .n32 (.v 2) (.v 1) true .sys),
    (0x08DC060100400246, .atmXor hd .n32 (.v 6) (.v 2) (.v 1) false .dev),
    (0x091C0001004002E6, .redXor hd .n32 (.v 2) (.v 1) true .sys),
    (0x08DC060100400247, .atmExch hd .n32 (.v 6) (.v 2) (.v 1) false .dev),
    (0x08DC06010040E2A8, .atmCas hd .n32 (.v 6) (.v 2) (.v 1) (.v 7) true .die),
    (0x08DC060100400249, .atmInc hd .n32 (.v 6) (.v 2) (.v 1) false .dev),
    (0x091C0001004002E9, .redInc hd .n32 (.v 2) (.v 1) true .sys),
    (0x08DC06010040024A, .atmDec hd .n32 (.v 6) (.v 2) (.v 1) false .dev),
    (0x091C0001004002EA, .redDec hd .n32 (.v 2) (.v 1) true .sys),
    (0x08DC06010040034B, .atmFadd hd .f32 (.v 6) (.v 2) (.v 1) false .dev),
    (0x091C0001004003EB, .redFadd hd .f32 (.v 2) (.v 1) true .sys),
    (0x295C000000000040, .fence hdG .dev),
    (0x295C000000000041, .acq hdG .dev),
    (0x295C000000000042, .rel hdG .dev),
    (0x295D058200000023, .invr hdG (.s 5) (.s 4) .die),
    (0x295D058200000024, .wbr hdG (.s 5) (.s 4) .die),
    (0x299C008200008100, .pgreq hdG (.s 4) 0x10 .global)] := by
  unfold allDecode; decide

theorem test_words_generic : allDecode [
    (0x0C1C0801000FC1FC, .gld hd (.v 8) (.v 2) 0x7E0 0x1FC),
    (0x0C5C00010193C008, .gst hd (.v 2) (.v 6) 0x9E0 8),
    (0x0C9C0801018FC1C0, .gatmAdd hd (.v 8) (.v 2) (.v 6) 0x7E0 true .sys),
    (0x0C9C0801018FC1C1, .gatmSub hd (.v 8) (.v 2) (.v 6) 0x7E0 true .sys),
    (0x0C9C0801018FC1C2, .gatmMin hd (.v 8) (.v 2) (.v 6) 0x7E0 true .sys),
    (0x0C9C0801018FC1C3, .gatmMax hd (.v 8) (.v 2) (.v 6) 0x7E0 true .sys),
    (0x0C9C0801018FC1C4, .gatmAnd hd (.v 8) (.v 2) (.v 6) 0x7E0 true .sys),
    (0x0C9C0801018FC1C5, .gatmOr hd (.v 8) (.v 2) (.v 6) 0x7E0 true .sys),
    (0x0C9C0801018FC1C6, .gatmXor hd (.v 8) (.v 2) (.v 6) 0x7E0 true .sys),
    (0x0C9C0801018FC1C7, .gatmExch hd (.v 8) (.v 2) (.v 6) 0x7E0 true .sys),
    (0x0CDC0801018FC000, .gadd hd (.v 8) (.v 2) (.v 6) 0x7E0),
    (0x0D1C0801018FC000, .gsub hd (.v 8) (.v 2) (.v 6) 0x7E0),
    (0x0D5C0801018FC000, .gmul hd (.v 8) (.v 2) (.v 6) 0x7E0),
    (0x0D9C0801018FC000, .gfma hd (.v 8) (.v 2) (.v 6) 0x7E0),
    (0x0DDC0801018FC000, .gmin hd (.v 8) (.v 2) (.v 6) 0x7E0),
    (0x0E1C0801018FC000, .gmax hd (.v 8) (.v 2) (.v 6) 0x7E0),
    (0x0E5D4101018FC004, .gset hd (.p 1) (.v 2) (.v 6) 0x7E0 .gt),
    (0x0E9C0801000FC007, .gcvt hd (.v 8) (.v 2) 0x7E0 .f16)] := by
  unfold allDecode; decide

theorem test_words_engines : allDecode [
    (0x301C00080001C000, .stage hdG (.v 16) 7),
    (0x305D0A85C3000000, .cpy hdG (.s 10) (.s 11) (.s 12)),
    (0x305D0A85C3000BE1, .cpyBar hdG (.s 10) (.s 11) (.s 12) 95),
    (0x109C040300000000, .cpyl4 hd (.v 4) (.v 6)),
    (0x109C040300000001, .cpyl8 hd (.v 4) (.v 6)),
    (0x109C040300000002, .cpyl16 hd (.v 4) (.v 6)),
    (0x30DD080000000000, .seal hdG (.s 8)),
    (0x30DC008400000001, .waitb hdG (.s 8)),
    (0x711C000000040000, .bulkLd hdT 1),
    (0x711C000000040001, .bulkSt hdT 1),
    (0x711C000000040062, .bulkLdBar hdT 1 3),
    (0x711C000000040063, .bulkStBar hdT 1 3),
    (0x315C0082000C0000, .waitm hdG 3 (.s 4)),
    (0x115D4203800C0001, .testm hd (.p 2) 3 (.v 7)),
    (0x319D0A85C3000000, .mcast hdG (.s 10) (.s 11) (.s 12)),
    (0x319D0A85C3000041, .mcastBar hdG (.s 10) (.s 11) (.s 12) 2),
    (0x31DD088500000000, .rowcpy hdG (.s 8) (.s 10)),
    (0x31DD088500000001, .rowfill hdG (.s 8) (.s 10)),
    (0x31DD088543000002, .rowand hdG (.s 8) (.s 10) (.s 12)),
    (0x31DD088543000003, .rowor hdG (.s 8) (.s 10) (.s 12)),
    (0x31DD088543000004, .rowxor hdG (.s 8) (.s 10) (.s 12)),
    (0x31DD088500000005, .rownot hdG (.s 8) (.s 10)),
    (0x31DD088500000006, .rowmate hdG (.s 8) (.s 10))] := by
  unfold allDecode; decide

theorem test_words_sync : allDecode [
    (0x321C000000000060, .barArrive hdG 3 none),
    (0x321C000000002069, .barWait hdG 3 (some .dev)),
    (0x321C00000000106A, .barSync hdG 3 (some .die)),
    (0x321C008200000063, .barExpect hdG 3 (.s 4)),
    (0x321C008200000064, .barInit hdG 3 (.s 4)),
    (0x725C0082000000A0, .setdecl hdT 5 (.s 4)),
    (0x329C008200080000, .shld hdG 2 (.s 4)),
    (0x329C008200080001, .shst hdG 2 (.s 4)),
    (0x329C008200080262, .shset hdG 2 19 (.s 4)),
    (0x329D040000080263, .shget hdG (.s 4) 2 19)] := by
  unfold allDecode; decide

theorem test_words_matrix : allDecode [
    (0x32DC000000003000, .macq hdG 3),
    (0x32DC000000003001, .mrel hdG 3),
    (0x32DC000000003002, .mzeroF32 hdG 3),
    (0x32DC000000003003, .mzeroI32 hdG 3),
    (0x32DC000000003004, .mzeroI32s hdG 3),
    (0x32DC000000003005, .mwait hdG 3),
    (0x331C008A00115000, .mloop hdG 1 4 5 (.s 20)),
    (0x335C000000181000, .mldaSp hdG 1 6),
    (0x335C000000181002, .mdrainSp hdG 1 6),
    (0x335C108180001001, .mldaReg hdG 1 (.v 16) (.s 3)),
    (0x335C108180001003, .mdrainReg hdG 1 (.v 16) (.s 3)),
    (0x335C0081D7801004, .saccR hdG 1 (.s 3) (.a 2)),
    (0x335D0581D7801005, .saccRc hdG 1 (.s 5) (.s 3) (.a 2)),
    (0x339C000000048000, .plane hdG 1 2),
    (0x339C000000048001, .unplane hdG 1 2),
    (0x33DC0081800000E0, .hclr hdG 7 (.s 3)),
    (0x33DD0281800000E1, .hrd hdG (.s 2) 7 (.s 3))] := by
  unfold allDecode; decide

theorem test_words_system : allDecode [
    (0x341C008200000080, .launch hdG (.s 4) 2),
    (0x345D070022000000, .sread hdG (.s 7) 0x44),
    (0x345C0083A8000001, .swrite hdG 0x50 (.s 7)),
    (0x349C0000007FFFC0, .bkpt hdG 0x1FFFF),
    (0x349C008200000241, .mark hdG (.s 4) 9),
    (0x34DD058200000000, .siterst hdG (.s 5) (.s 4))] := by
  unfold allDecode; decide
/-! ### The encodings that the spec works out (chapters 9 to 13) -/

theorem test_spec_words : allDecode [
    (0x811C030080800100, .add { hd with w := true } .i32 (.v 3) (.v 1) (.v 2)),
    (0x841C040080806303, .fma { hd with w := true } .f32 (.v 4) (.v 1) (.v 2) (.v 3)),
    (0x855C0A0100000C00, .cvtef { hd with w := true } .e5 (.v 10) (.v 2) (.v 0) (.v 0)),
    (0x281D0682000000A2, .ld hdG .n32 (.s 6) (.s 4) 0 .generic true .die),
    (0x08DC060158400220, .atmAdd hd .n32 (.v 6) (.v 2) (.c 1) false .die),
    (0x295C000000000042, .rel hdG .dev),
    (0x0C5C0001018FC000, .gst hd (.v 2) (.v 6) 0x7E0 0),
    (0x8C1C0801000FC000, .gld { hd with w := true } (.v 8) (.v 2) 0x7E0 0),
    (0x331C008A00115000, .mloop hdG 1 4 5 (.s 20)),
    (0x945C030000800000, .sread { hd with w := true } (.v 3) 1)] := by unfold allDecode; decide

theorem test_modifier_words :
    (decodeWords [0x441E080301C00300, 0x5FD0000000000000]).toOption
        = some (.fadd { hd with scope := .set, mod := some { bare with setn := 2, rmode := .rz } } .f32 (.v 8) (.v 6) (.v 7))
      ∧ (decodeWords [0x051E050100000703, 0x1FC0000000000001]).toOption
        = some (.cvt { hd with mod := some { bare with ext := 1 } } .f16 .f32 (.v 5) (.v 2) (.v 0) (.v 0))
      ∧ (decodeWords [0x335E000000180002, 0x1FC000000000000A]).toOption
        = some (.mdrainSp { hdG with mod := some { bare with ext := 10 } } 0 6) := by decide

/-- What the words of the table under R245 that end in a trap leave of checks 2 to 5. -/
theorem test_refused_words :
    decodeWords [0x05C0000000000000] = .error .illegalOpcode
      ∧ decodeWords [0x5FD0000000000000] = .error .illegalOpcode
      ∧ (∃ i, (decodeWords [0x811C03008080A100]) = .ok i ∧ i.wf = false)
      ∧ (decodeWords [0xA11C030080800100]).toOption = some (.add { hdG with w := true } .i32 (.v 3) (.v 1) (.v 2))
      ∧ decodeWords [0x811C03008080010B] = .error .illegalOpcode := by
  refine ⟨by decide, by decide, ⟨.add { hd with w := true, resv := true } .i32 (.v 3) (.v 1) (.v 2), ?_, by decide⟩, by decide, ?_⟩
  all_goals decide

/-! ### WellFormed: each check refuses a term that fails it alone -/

theorem test_wf_ok : (Instr.add hd .i32 (.v 3) (.v 1) (.v 2)).wf = true := by decide
theorem test_wf_reserved_bit : (Instr.add { hd with resv := true } .i32 (.v 3) (.v 1) (.v 2)).wf = false := by decide
theorem test_wf_scope : (Instr.br hd 1).wf = false ∧ (Instr.exit hdG).wf = false ∧ (Instr.shfl hdG .b32 (.v 3) (.v 1) (.v 2)).wf = false
    ∧ (Instr.gld hdT (.v 8) (.v 2) 0x7E0 0).wf = false ∧ (Instr.setdecl hdG 1 (.s 4)).wf = false := by decide
theorem test_wf_type : (Instr.add hd .f32 (.v 3) (.v 1) (.v 2)).wf = false ∧ (Instr.ld hd .q4 (.v 4) (.v 2) 0 .generic false .team).wf = false
    ∧ (Instr.addpc hdG .i64 (.s 8) 1).wf = false := by decide
theorem test_wf_operand : (Instr.add hd .i32 (.v 3) (.bad 0) (.v 2)).wf = false := by decide
theorem test_wf_entry : (Instr.brd hd 5 0).wf = false ∧ (Instr.join { hdG with pred := 1 }).wf = false
    ∧ (Instr.ld hd .f32 (.v 4) (.v 2) 0 .generic false .die).wf = false ∧ (Instr.pgreq hdG (.s 4) 0 .stack).wf = false
    ∧ (Instr.addlo hdG .n64 (.s 8) (.s 9) 0x1000).wf = false ∧ (Instr.cvt hd .f16 .f32 (.v 5) (.v 2) (.v 1) (.v 0)).wf = false := by decide
theorem test_wf_modifier :
    (Instr.mulhi { hd with mod := some { bare with sat := true } } .i32 (.v 3) (.v 1) (.v 2)).wf = false
      ∧ (Instr.fadd { hd with mod := some { bare with setn := 2 } } .f32 (.v 8) (.v 6) (.v 7)).wf = false
      ∧ (Instr.fadd { hd with mod := some { bare with negC := true } } .f32 (.v 8) (.v 6) (.v 7)).wf = false
      ∧ (Instr.fmin { hd with mod := some { bare with rmode := .rz } } .f32 (.v 8) (.v 6) (.v 7)).wf = false
      ∧ (Instr.fmin { hd with mod := some { bare with clamp := true } } .f32 (.v 8) (.v 6) (.v 7)).wf = false
      ∧ (Instr.fmin { hd with mod := some { bare with scale := 1 } } .f32 (.v 8) (.v 6) (.v 7)).wf = false
      ∧ (Instr.fadd { hd with mod := some { bare with ext := 1 } } .f32 (.v 8) (.v 6) (.v 7)).wf = false
      ∧ (Instr.mdrainSp { hdG with mod := some { bare with ext := 2 } } 0 6).wf = false := by decide
theorem test_wf_event : (Instr.doorbell 0).wf = false := by decide

/-! ### Small states -/

/-- The group and team that a launch leaves at PC 0: one group of 32 lanes at level 0, VALLOC 64, a scratchpad of 4,096 bytes. -/
def g0 : Group := newGroup (bareGrid 0) 0 0 0 0 none
/-- A team of one group. -/
def teamOf (g : Group) : Team := newTeam (bareGrid 0) 0 0 0 0 [g]
/-- The team of `g0`. -/
def t0 : Team := teamOf g0
/-- The group of every test. -/
def r0 : GRef := { tid := 0, gno := 0 }
/-- A device with one context and one team, whose group issues. -/
def dev (t : Team) (k : Context := bareContext) : State :=
  { State.reset with m := { Mach.initial with cur := some r0, ctxs := [k], grids := [bareGrid 0], teams := [t], nextTid := 1, nextGid := 1 } }
/-- The device of `g0`. -/
def s0 : State := dev t0
/-- A group with an s register set, tagged N64. -/
def withS (g : Group) (n : Nat) (v : DWord) : Group := { g with regs := { g.regs with s := g.regs.s.set n { val := v, tag := 6 } } }
/-- A group with a v register set, tagged I32. -/
def withV (g : Group) (n : Nat) (f : Nat → Word) : Group :=
  { g with regs := { g.regs with v := g.regs.v.set n { lanes := (List.range 32).map f, tag := 1, u := false } } }
/-- The group after one instruction. -/
def after (i : Instr) (s : State) : Option Group :=
  match exec i s with
  | .next s' => s'.m.group? r0
  | _ => none
/-- A lane of a v register after one instruction. -/
def laneAfter (i : Instr) (s : State) (n l : Nat) : Option Word := (after i s).map (fun g => (g.regs.vreg n).lane l)
/-- An s register after one instruction. -/
def sAfter (i : Instr) (s : State) (n : Nat) : Option DWord := (after i s).map (fun g => (g.regs.sreg n).val)

theorem issuing (t : Team) (g : Group) (k : Context := bareContext) (ht : t.tid = 0 := by rfl)
    (hg : t.group? 0 = some g := by rfl) (hb : g.back = none := by rfl) (hl : g.lost = [] := by rfl) : Issuing (dev t k) r0 t g :=
  ⟨rfl, by simp [dev, r0, Mach.team?, ht], hg, hb, hl⟩
/-- No release waits, so none is held, but for an ordered form at `.sys`. -/
theorem unheld {s : State} {t : Team} {g : Group} {i : Instr} (hr : g.relPend = none := by rfl) (hi : releaseOf i ≠ some .sys := by decide) :
    Unheld s t g i := by
  simp [Unheld, heldRelease, needsRelease, hr, hi]

theorem passes {i : Instr} {h : Hd} {op : Op} {t : Team} {g : Group} {n : Nat} (e : opOf i = some (h, op))
    (c : check h op t g n = none) : Passes i t g n := by
  intro h' op' e'
  rw [e] at e'
  cases e'
  exact c

theorem alone : Alone hd ∧ Alone hdG := ⟨⟨.inl rfl, rfl⟩, .inr rfl, rfl⟩
/-- A bounded statement, evaluated element by element. -/
theorem all_of {α : Type} {p : α → Prop} [∀ x, Decidable (p x)] {l : List α} (h : l.all (fun x => decide (p x)) = true) : ∀ x ∈ l, p x := by
  simpa using h
theorem ok_of {e : Except Cause Loc} (h : e.toOption.isSome = true) : ∃ l, e = .ok l := by cases e <;> simp_all [Except.toOption]
theorem active (g : Group) (n : Nat) : Active hd g n := fun h => nomatch h

theorem activeG : Active hdG g0 0 := fun _ => by decide
/-- What most statements assume, at LANE and at GROUP scope. -/
theorem shared : Issuing s0 r0 t0 g0 ∧ Alone hd ∧ Active hd g0 s0.m.draw ∧ Alone hdG ∧ Active hdG g0 s0.m.draw :=
  ⟨issuing t0 g0, alone.1, active g0 _, alone.2, activeG⟩

/-- s4 holding a value, and its team. -/
def g4 (v : DWord) : Group := withS g0 4 v
def t4 (v : DWord) : Team := teamOf (g4 v)
theorem activeG4 (v : DWord) : Active hdG (g4 v) 0 := fun _ => by show actOf g0 hdG 0 ≠ 0; decide
theorem shared4 (v : DWord) (k : Context := bareContext) : Issuing (dev (t4 v) k) r0 (t4 v) (g4 v) ∧ Alone hdG ∧ Active hdG (g4 v) 0 :=
  ⟨issuing (t4 v) (g4 v) k, alone.2, activeG4 v⟩
/-- s registers set one after the other. -/
def gS (l : List (Nat × DWord)) : Group := l.foldl (fun g x => withS g x.1 x.2) g0
/-- A shape register from its field numbers (R346). -/
def shape (l : List (Nat × Nat)) : BitVec 512 :=
  l.foldl (fun h x => match shapeField x.1 with
    | some (lo, n, _) => setField h lo n x.2
    | none => h) 0
/-- x0 holding an index in each lane. -/
def withX (g : Group) (f : Nat → BitVec 16) : Group := { g with regs := { g.regs with x := g.regs.x.set 0 ((List.range 32).map f) } }
/-- A group with shape registers h0, h1 and so on. -/
def withH (g : Group) (l : List (BitVec 512)) : Group := { g with regs := { g.regs with h := l ++ List.replicate (16 - l.length) 0 } }

/-! ### A state for the hypotheses of each statement -/

theorem wit_DecodeEncode : ∃ i : Instr, i.wf = true := ⟨.add hd .i32 (.v 3) (.v 1) (.v 2), by decide⟩
theorem wit_MemoryReadWrite : Memory.wf [] = true ∧ Memory.wf [(0, 1), (7, 255)] = true := by decide
/-- Both ends of every range of majors that R244 leaves unallocated. -/
theorem wit_WorkedWords : (∀ j ∈ [0, 0x0F, 0x16, 0x1F, 0x27, 0x2F, 0x3B, 0x3F, 0x54, 0x7F], (fMajor (BitVec.ofNat 64 (j * 2 ^ 54))).toNat = j)
    ∧ (fMajor 0x005C000000000000).toNat = 1 ∧ Scope.dec ((0x005C000000000000 : DWord).extractLsb' 61 2) ≠ .group := by
  and_intros <;> decide
theorem wit_AluCompletes : ∃ i h ids, regOnly i = some (h, ids) ∧ Issuing s0 r0 t0 g0 ∧ Alone h ∧ Passes i t0 g0 s0.m.draw :=
  ⟨.add hd .i32 (.v 3) (.v 1) (.v 2), hd, _, rfl, issuing t0 g0, alone.1, passes rfl (by decide)⟩
theorem wit_IntegerArithmetic : ∃ i h ty d xs sat f, arithSpec i = some (h, ty, d, xs, sat, f) ∧ Issuing s0 r0 t0 g0 ∧ Alone h
    ∧ Passes i t0 g0 s0.m.draw ∧ Active h g0 s0.m.draw :=
  ⟨.add hd .i32 (.v 3) (.v 1) (.v 2), hd, _, _, _, _, _, rfl, issuing t0 g0, alone.1, passes rfl (by decide), active g0 _⟩
theorem wit_IntegerArithmetic_divRem : Issuing s0 r0 t0 g0 ∧ Alone hd ∧ Active hd g0 s0.m.draw ∧ Passes (.div hd .i32 (.v 3) (.v 1) (.v 2)) t0 g0 s0.m.draw
    ∧ Passes (.rem hd .i32 (.v 3) (.v 1) (.v 2)) t0 g0 s0.m.draw :=
  ⟨shared.1, alone.1, active g0 _, passes rfl (by decide), passes rfl (by decide)⟩
theorem wit_LogicBits : ∃ i h ty d xs f, logicSpec i = some (h, ty, d, xs, f) ∧ Issuing s0 r0 t0 g0 ∧ Alone h
    ∧ Passes i t0 g0 s0.m.draw ∧ Active h g0 s0.m.draw :=
  ⟨.andn hd .b32 (.v 3) (.v 1) (.v 2), hd, _, _, _, _, rfl, shared.1, alone.1, passes rfl (by decide), active g0 _⟩
theorem wit_LogicBits_fields : Issuing s0 r0 t0 g0 ∧ Alone hd ∧ Active hd g0 s0.m.draw ∧ Passes (.popc hd .n32 (.v 3) (.v 1)) t0 g0 s0.m.draw
    ∧ Passes (.clz hd .n32 (.v 3) (.v 1)) t0 g0 s0.m.draw ∧ Passes (.bfe hd .n32 (.v 3) (.v 1) (.v 2)) t0 g0 s0.m.draw
    ∧ Passes (.bfi hd .n32 (.v 3) (.v 1) (.v 2) (.v 4)) t0 g0 s0.m.draw := by
  refine ⟨shared.1, alone.1, active g0 _, ?_, ?_, ?_, ?_⟩ <;> exact passes rfl (by decide)
theorem wit_IntegerCompares : ∃ i h ty d a b p, compareSpec i = some (h, ty, d, a, b, p) ∧ Issuing s0 r0 t0 g0 ∧ Alone h
    ∧ Passes i t0 g0 s0.m.draw ∧ Active h g0 s0.m.draw :=
  ⟨.setLt hd .i32 (.p 1) (.v 1) (.v 2), hd, _, _, _, _, _, rfl, shared.1, alone.1, passes rfl (by decide), active g0 _⟩
theorem wit_Moves : Passes (.mov hd .f32 (.v 3) (.v 1)) t0 g0 s0.m.draw ∧ Passes (.mov hd .b1 (.p 3) (.p 1)) t0 g0 s0.m.draw
    ∧ Passes (.sel hd .b32 (.v 3) (.v 1) (.v 2) (.p 4)) t0 g0 s0.m.draw ∧ Passes (.movi hd .i32 (.v 3) 7) t0 g0 s0.m.draw
    ∧ Passes (.movhi hd .n64 (.v 4) 7) t0 g0 s0.m.draw ∧ Passes (.addpc hdG .n64 (.s 8) 1) t0 g0 s0.m.draw
    ∧ Passes (.addlo hdG .n64 (.s 8) (.s 9) 0x7FF) t0 g0 s0.m.draw ∧ Passes (.sel hdG .b32 (.s 3) (.s 1) (.s 2) (.s 4)) t0 g0 s0.m.draw := by
  refine ⟨?_, ?_, ?_, ?_, ?_, ?_, ?_, ?_⟩ <;> exact passes rfl (by decide)
theorem wit_PackedHalves : (∃ i h ty d a b f, packedSpec i = some (h, ty, d, a, b, f) ∧ ty.ew = 16 ∧ Alone h ∧ Passes i t0 g0 s0.m.draw)
    ∧ Passes (.maxd2 hd .i16 (.v 20) (.v 16) (.v 17) (.p 0)) t0 g0 s0.m.draw
    ∧ Passes (.maxd2 hd .i16 (.v 20) (.v 16) (.v 17) (.p 4)) t0 g0 s0.m.draw
    ∧ Passes (.maxd2 hdG .i16 (.s 20) (.s 16) (.s 17) (.s 4)) t0 g0 s0.m.draw :=
  ⟨⟨.add2 hd .i16 (.v 3) (.v 1) (.v 2), hd, _, _, _, _, _, rfl, rfl, alone.1, passes rfl (by decide)⟩, passes rfl (by decide),
    passes rfl (by decide), passes rfl (by decide)⟩
theorem wit_Shuffles : ∃ i h ty d a b f, shuffleSpec i = some (h, ty, d, a, b, f) ∧ Issuing s0 r0 t0 g0 ∧ Alone h
    ∧ Passes i t0 g0 s0.m.draw ∧ Active h g0 s0.m.draw :=
  ⟨.shflUp hd .b32 (.v 3) (.v 1) (.v 2), hd, _, _, _, _, _, rfl, shared.1, alone.1, passes rfl (by decide), active g0 _⟩
theorem wit_VotesAndReductions : Passes (.voteAny hd .b1 (.s 4) (.p 2)) t0 g0 s0.m.draw ∧ Passes (.voteAll hd .b1 (.s 4) (.p 2)) t0 g0 s0.m.draw
    ∧ Passes (.ballot hd .b1 (.s 4) (.p 2)) t0 g0 s0.m.draw ∧ Passes (.bcast hd .b32 (.s 3) (.v 1) (.s 2)) t0 g0 s0.m.draw
    ∧ Passes (.xredAdd hd .i32 (.s 3) (.v 2)) t0 g0 s0.m.draw ∧ hd.scope = .lane := by
  refine ⟨?_, ?_, ?_, ?_, ?_, rfl⟩ <;> exact passes rfl (by decide)
/-- The reductions and the scans, of integers and of floats. -/
theorem wit_VotesAndReductions_more : Passes (.xredMin hd .n64 (.v 4) (.v 2)) t0 g0 s0.m.draw ∧ Passes (.xredMax hd .i32 (.s 3) (.v 2)) t0 g0 s0.m.draw
    ∧ Passes (.xredAnd hd .n32 (.s 3) (.v 2)) t0 g0 s0.m.draw ∧ Passes (.xredOr hd .n32 (.s 3) (.v 2)) t0 g0 s0.m.draw
    ∧ Passes (.xredXor hd .n32 (.v 3) (.v 2)) t0 g0 s0.m.draw ∧ Passes (.xscanAdd hd .i32 (.v 3) (.v 2)) t0 g0 s0.m.draw
    ∧ Passes (.xscanMax hd .n64 (.v 4) (.v 2)) t0 g0 s0.m.draw ∧ Passes (.xredAdd hd .f32 (.s 3) (.v 2)) t0 g0 s0.m.draw
    ∧ Passes (.xredMin hd .f64 (.v 4) (.v 2)) t0 g0 s0.m.draw ∧ Passes (.xredMax hd .f32 (.v 3) (.v 2)) t0 g0 s0.m.draw
    ∧ Passes (.xscanAdd hd .f32 (.v 3) (.v 2)) t0 g0 s0.m.draw ∧ Passes (.xscanMax hd .f64 (.v 4) (.v 2)) t0 g0 s0.m.draw
    ∧ Ty.i32.fmt? = none ∧ Ty.i32.ew = 32 ∧ Ty.n64.ew = 64 := by
  refine ⟨?_, ?_, ?_, ?_, ?_, ?_, ?_, ?_, ?_, ?_, ?_, ?_, rfl, rfl, rfl⟩ <;> exact passes rfl (by decide)
/-- Each check fails alone: v63 is the last register of a launch with VALLOC 64. -/
theorem wit_OperandChecks : t0.valloc = 64
    ∧ exec (.add { hd with resv := true } .i32 (.v 3) (.v 1) (.v 2)) s0 = .next (stopped s0 t0 (Stop.trap 0x41 g0 8))
    ∧ Passes (.add hd .i32 (.v 63) (.v 1) (.v 2)) t0 g0 s0.m.draw ∧ Passes (.add hd .i64 (.v 62) (.v 0) (.v 2)) t0 g0 s0.m.draw
    ∧ check hd (opAdd hd .i32 (.bad 0) (.v 1) (.v 2)) t0 g0 0 = some 0x43 ∧ check hdG (opAdd hdG .i32 (.v 3) (.v 1) (.v 2)) t0 g0 0 = some 0x44
    ∧ check hd (opAdd hd .i64 (.v 3) (.v 1) (.v 2)) t0 g0 0 = some 0x45 ∧ check hd (opAdd hd .i32 (.v 64) (.v 1) (.v 2)) t0 g0 0 = some 0x46 :=
  ⟨rfl, rfl, passes rfl (by decide), passes rfl (by decide), by decide, by decide, by decide, by decide⟩
theorem wit_FailedCheckTraps : (∃ i h op c, opOf i = some (h, op) ∧ h.scope = .group ∧ check h op t0 g0 s0.m.draw = some c)
    ∧ ∃ i h op, opOf i = some (h, op) ∧ h.scope = .group ∧ check h op t0 g0 s0.m.draw = none ∧ actOf g0 h s0.m.draw = 0 :=
  ⟨⟨.add hdG .i32 (.v 3) (.v 1) (.v 2), hdG, _, 0x44, rfl, rfl, by decide⟩,
    ⟨.add { hdG with pneg := true } .i32 (.s 3) (.s 1) (.s 2), { hdG with pneg := true }, _, rfl, rfl, by decide, by decide⟩⟩
/-- An instruction that waits for no release, and one that a release of a host word on no page holds. -/
theorem wit_FailedCheckTraps_release : Unheld s0 t0 g0 (.add hdG .i32 (.v 3) (.v 1) (.v 2))
    ∧ let s : State := { s0 with m := { s0.m with heldWb := [{ ctx := 0, va := 2 ^ 51, val := 0 }] } }
      (heldRelease s.m t0 g0 (.fence hdG .sys)).isSome = true := ⟨unheld, by decide +kernel⟩
theorem wit_SourceReading : g0.old = [] ∧ Ty.i32.wide = false ∧ Ty.i64.wide = true := ⟨rfl, rfl, rfl⟩
theorem wit_PredicateSeven : ∃ i h ty a b p, compareSpec i = some (h, ty, .p 7, a, b, p) ∧ Issuing s0 r0 t0 g0 ∧ Alone h
    ∧ Passes i t0 g0 s0.m.draw :=
  ⟨.setLt hd .i32 (.p 7) (.v 1) (.v 2), hd, _, _, _, _, rfl, shared.1, alone.1, passes rfl (by decide)⟩
theorem wit_TagsAndUniform : (∃ i h ty d xs sat f, arithSpec i = some (h, ty, d, xs, sat, f) ∧ Alone h ∧ Passes i t0 g0 s0.m.draw
      ∧ Active h g0 s0.m.draw ∧ d = .v 3 ∧ ty.wide = false) ∧ (∃ i h ty d xs f, logicSpec i = some (h, ty, d, xs, f) ∧ Alone h
      ∧ Passes i t0 g0 s0.m.draw ∧ Active h g0 s0.m.draw ∧ d = .s 3) ∧ Passes (.add hd .i64 (.v 4) (.v 0) (.v 2)) t0 g0 s0.m.draw
    ∧ Ty.i64.wide = true ∧ g0.redo = none ∧ Issuing s0 r0 t0 g0 ∧ actOf g0 hd 0 ≠ 0 ∧ actOf g0 hdG 0 ≠ 0 ∧ g0.present ≠ 0 :=
  ⟨⟨.add hd .i32 (.v 3) (.v 1) (.v 2), hd, _, _, _, _, _, rfl, alone.1, passes rfl (by decide), active g0 _, rfl, rfl⟩,
    ⟨.and hdG .b32 (.s 3) (.s 1) (.s 2), hdG, _, _, _, _, rfl, alone.2, passes rfl (by decide), activeG, rfl⟩,
    passes rfl (by decide), rfl, rfl, shared.1, by decide, by decide, by decide⟩
theorem wit_FloatCompares : ∃ i h ty d a b cc, fcompareSpec i = some (h, ty, d, a, b, cc) ∧ (ty = .f32 ∨ ty = .f64) ∧ Issuing s0 r0 t0 g0
    ∧ Alone h ∧ Passes i t0 g0 s0.m.draw ∧ Active h g0 s0.m.draw :=
  ⟨.fsetLt hd .f32 (.p 1) (.v 1) (.v 2), hd, _, _, _, _, _, rfl, .inl rfl, shared.1, alone.1, passes rfl (by decide), active g0 _⟩
theorem wit_FloatArithmetic : (∃ i h ty d xs ex, floatSpec i = some (h, ty, d, xs, ex) ∧ Issuing s0 r0 t0 g0 ∧ Alone h
      ∧ Passes i t0 g0 s0.m.draw ∧ Active h g0 s0.m.draw)
    ∧ (∃ n fr, FV.dec .f32 0x7FC00000 = .nan n fr) ∧ (FV.dec .f32 0x3F800000 = .fin false 0x800000 (-23))
    ∧ (∃ x, floatSpecial (.fadd hd .f32 (.v 3) (.v 1) (.v 2)) .f32 false [.inf false, .inf true] = some x)
    ∧ (∃ x, floatSpecial (.fma hd .f32 (.v 3) (.v 1) (.v 2) (.v 4)) .f32 false [.zero false, .zero false, .zero true] = some x)
    ∧ ∃ q, (FV.fin false 0x800000 (-23)).rat = some q ∧ q + q ≠ 0 :=
  ⟨⟨.fma hd .f32 (.v 3) (.v 1) (.v 2) (.v 4), hd, _, _, _, _, rfl, shared.1, alone.1, passes rfl (by decide), active g0 _⟩,
    ⟨false, _, rfl⟩, by decide, ⟨_, rfl⟩, ⟨_, rfl⟩, ⟨_, rfl, by norm_num⟩⟩
/-- A format with infinities; F8E4 at its greatest finite value and past it. -/
theorem wit_RoundingCorrect : (∃ (m : Nat) (f : Fmt), m ≠ 0 ∧ f ≠ .e4) ∧ |((7 : Nat) : ℚ) * 2 ^ (6 : Int)| ≤ 448 ∧ 448 < |((15 : Nat) : ℚ) * 2 ^ (5 : Int)| := by
  refine ⟨⟨1, .f32, by decide, by decide⟩, ?_, ?_⟩ <;> norm_num
/-- A NaN source, special inputs, a finite one; the minimum of two bf16 elements. -/
theorem wit_FloatFunctions : (∃ i h d xs, functionSpec i = some (h, .f32, d, xs, .div) ∧ Alone h ∧ Active h g0 0 ∧ Passes i t0 g0 0)
    ∧ (∃ i h d xs, functionSpec i = some (h, .f64, d, xs, .sqrt) ∧ Alone h ∧ Active h g0 0 ∧ Passes i t0 g0 0) ∧ Issuing s0 r0 t0 g0
    ∧ (∃ x, Fn.special .f32 .div [.zero false, .zero true] = some x) ∧ (∃ x, Fn.special .f32 .sqrt [.inf false] = some x)
    ∧ Fn.special .f64 .sqrt [.fin false 9 0] = none ∧ (∃ q, (FV.fin false 9 0).rat = some q) ∧ (FV.inf false).num ≠ none
    ∧ Ty.bf16.fmt? ≠ none ∧ Passes (.fmin2 hd .bf16 (.v 3) (.v 1) (.v 2)) t0 g0 0 ∧ Passes (.fmax hd .f64 (.v 4) (.v 6) (.v 2)) t0 g0 0 :=
  ⟨⟨.fdiv hd .f32 (.v 3) (.v 1) (.v 2), hd, _, _, rfl, alone.1, active g0 _, passes rfl (by decide)⟩,
    ⟨.fsqrt hd .f64 (.v 4) (.v 2), hd, _, _, rfl, alone.1, active g0 _, passes rfl (by decide)⟩, shared.1, ⟨_, rfl⟩, ⟨_, rfl⟩, rfl, ⟨_, rfl⟩,
    by decide, by decide, passes rfl (by decide), passes rfl (by decide)⟩
/-- An integral exponent, one past the range, and the logarithm of a power of two. -/
theorem wit_FloatPowers : Passes (.fexp2 hd .f32 (.v 3) (.v 1)) t0 g0 0 ∧ Passes (.flog2 hd .f64 (.v 4) (.v 2)) t0 g0 0
    ∧ functionSpec (.fexp2 hd .f32 (.v 3) (.v 1)) = some (hd, .f32, .v 3, [.v 1], .exp2)
    ∧ functionSpec (.flog2 hd .f64 (.v 4) (.v 2)) = some (hd, .f64, .v 4, [.v 2], .log2) ∧ Alone hd ∧ Active hd g0 0
    ∧ Fn.special .f32 .exp2 [.fin false 3 0] = none ∧ (FV.fin false 3 0).rat = some 3 ∧ (FV.fin true 1 14).rat = some (-16384)
    ∧ (∃ x, Fn.special .f32 .log2 [.zero true] = some x) ∧ Fn.special .f32 .log2 [.fin false 1 5] = none ∧ (FV.fin false 1 5).rat = some (2 ^ (5 : Int)) := by
  refine ⟨passes rfl (by decide), passes rfl (by decide), rfl, rfl, alone.1, active g0 _, rfl, ?_, ?_, ⟨_, rfl⟩, ?_, ?_⟩ <;>
    norm_num [FV.rat, Fn.special]
/-- Conversions that keep, narrow and widen the unit; CVTEF with and without a code; the class and the rounding. -/
theorem wit_Conversions : Passes (.cvt hd .i32 .f32 (.v 5) (.v 2) (.v 0) (.v 0)) t0 g0 0
    ∧ Passes (.cvt hd .f16 .f32 (.v 5) (.v 2) (.v 0) (.v 0)) t0 g0 0 ∧ Passes (.cvt hd .f32 .e4 (.v 5) (.v 2) (.v 0) (.v 0)) t0 g0 0
    ∧ Ty.f32.count < Ty.f16.count ∧ Ty.f32.count < Ty.e4.count ∧ Hd.part hd = 0
    ∧ Passes (.cvtef hd .e5 (.v 10) (.v 2) (.v 0) (.v 0)) t0 g0 0 ∧ Passes (.cvtefX2 hd .e4 (.v 10) (.v 2) (.v 0) (.v 0)) t0 g0 0
    ∧ Passes (.cvtef hd .q4 (.v 10) (.v 2) (.s 4) (.s 5)) t0 g0 0 ∧ Passes (.fclass hd .f64 (.v 3) (.v 4)) t0 g0 0
    ∧ Passes (.frint hd .f32 (.v 3) (.v 4)) t0 g0 0 ∧ Issuing s0 r0 t0 g0 ∧ Alone hd ∧ Active hd g0 0 ∧ hd.scope = .lane := by
  refine ⟨?_, ?_, ?_, by decide, by decide, by decide, ?_, ?_, ?_, ?_, ?_, shared.1, alone.1, active g0 _, rfl⟩ <;> exact passes rfl (by decide)
/-- s63 holding a value. -/
def g63 (v : DWord) : Group := withS g0 63 v
/-- The context with CTXB at the team's scratchpad, so that `callt` reads there. -/
def kSp : Context := { bareContext with ctxb := 0xF000000000000 }
/-- Byte 0 of the scratchpad holds b. -/
def tSp (b : Byte) : Team := { t0 with scratch := [(0, b)] }

/-- Targets 0, 8 and 4 of `ret`, `callr` and `callt`, and a link table that no page maps. -/
theorem wit_Transfers : (∀ v : DWord, v = 0 ∨ v = 8 ∨ v = 4 → Issuing (dev (teamOf (g63 v))) r0 (teamOf (g63 v)) (g63 v)
      ∧ srcVal (g63 v) (g63 v) 0 0 .n64 (.s 63) 0 = v ∧ srcVal (g63 v) (g63 v) 0 0 .i64 (.s 63) 0 = v
      ∧ Passes (.callr hdG (.s 63)) (teamOf (g63 v)) (g63 v) 0)
    ∧ Alone hdG ∧ Active hdG g0 0
    ∧ ((groupRead (dev (tSp 8) kSp).m (tSp 8) g0 kSp.ctxb 8 0).1 = .ok 8) ∧ ((groupRead (dev (tSp 4) kSp).m (tSp 4) g0 kSp.ctxb 8 0).1 = .ok 4)
    ∧ ∃ c, (groupRead s0.m t0 g0 bareContext.ctxb 8 0).1 = .error c := by
  refine ⟨?_, alone.2, activeG, by decide, by decide, ⟨_, rfl⟩⟩
  rintro v (rfl | rfl | rfl) <;> exact ⟨issuing _ _, by decide, by decide, passes rfl (by decide)⟩

/-- A stack of n entries. -/
def gStk (n : Nat) (p : Mask) : Group := { g0 with stack := List.replicate n { j := 64, res := 32, pend := p, save := 15 } }

/-- No lane taken, every lane taken, some taken with 31 entries and with 32. -/
theorem wit_Divergence : (actOf g0 { hd with pneg := true } 0 = 0) ∧ (actOf g0 hd 0 ≠ 0 ∧ g0.amask &&& ~~~actOf g0 hd 0 = 0)
    ∧ ∀ n, n = 31 ∨ n = 32 → ∃ g : Group, g.stack.length = n ∧ g.redo = none ∧ actOf g { hd with pred := 1 } 0 = 5
      ∧ g.amask &&& ~~~actOf g { hd with pred := 1 } 0 ≠ 0 ∧ Issuing (dev (teamOf g)) r0 (teamOf g) g := by
  refine ⟨by decide, by decide, ?_⟩
  rintro n (rfl | rfl)
  · exact ⟨{ gStk 31 1 with regs := { g0.regs with p := [0, 5, 0, 0, 0, 0, 0] } }, rfl, rfl, by decide, by decide, issuing _ _⟩
  · exact ⟨{ gStk 32 1 with regs := { g0.regs with p := [0, 5, 0, 0, 0, 0, 0] } }, rfl, rfl, by decide, by decide, issuing _ _⟩
theorem wit_Reconvergence : (∀ g, g = g0 ∨ g = gStk 1 3 ∨ g = gStk 1 0 → Issuing (dev (teamOf g)) r0 (teamOf g) g)
    ∧ Active hdG g0 0 ∧ g0.stack = [] ∧ (∃ e, (gStk 1 3).stack = [e] ∧ e.pend ≠ 0) ∧ ∃ e, (gStk 1 0).stack = [e] ∧ e.pend = 0 := by
  refine ⟨?_, activeG, rfl, ⟨_, rfl, by decide⟩, _, rfl, rfl⟩
  rintro g (rfl | rfl | rfl) <;> exact issuing _ _
/-- Some lanes leave, all leave with a path left, with a mask left, and with nothing left. -/
theorem wit_Exits : (g0.amask &&& ~~~actOf { g0 with regs := { g0.regs with p := [0, 5, 0, 0, 0, 0, 0] } } { hd with pred := 1 } 0 ≠ 0)
    ∧ (g0.amask &&& ~~~actOf g0 hd 0 = 0 ∧ g0.stack = [])
    ∧ (∃ g : Group, g.amask &&& ~~~actOf g hd 0 = 0 ∧ g.redo = none ∧ (∃ e, g.stack = [e] ∧ e.pend &&& ~~~actOf g hd 0 ≠ 0) ∧ Issuing (dev (teamOf g)) r0 (teamOf g) g)
    ∧ (∃ g : Group, g.amask &&& ~~~actOf g hd 0 = 0 ∧ g.redo = none
      ∧ (∃ e, g.stack = [e] ∧ e.pend &&& ~~~actOf g hd 0 = 0 ∧ e.save &&& ~~~actOf g hd 0 ≠ 0) ∧ Issuing (dev (teamOf g)) r0 (teamOf g) g)
    ∧ ∃ g : Group, g.amask &&& ~~~actOf g hd 0 = 0 ∧ g.redo = none ∧ Issuing (dev (teamOf g)) r0 (teamOf g) g
      ∧ ∃ x e, g.stack = [x, e] ∧ x.pend &&& ~~~actOf g hd 0 = 0 ∧ x.save &&& ~~~actOf g hd 0 = 0 ∧ e.pend &&& ~~~actOf g hd 0 ≠ 0 :=
  ⟨by decide, by decide, ⟨{ gStk 1 0xF0 with amask := 0xF }, by decide, rfl, ⟨_, rfl, by decide⟩, issuing _ _⟩,
    ⟨{ gStk 1 0 with amask := 1 }, by decide, rfl, ⟨_, rfl, by decide, by decide⟩, issuing _ _⟩,
    ⟨{ g0 with amask := 0xF, stack := [{ j := 64, res := 32, pend := 0, save := 3 }, { j := 64, res := 32, pend := 0xF0, save := 15 }] }, by decide, rfl,
      issuing _ _, _, _, rfl, by decide, by decide, by decide⟩⟩
theorem wit_TrapsAndHints_traps : Issuing s0 r0 t0 g0 ∧ Alone hdG ∧ Active hdG g0 s0.m.draw := ⟨shared.1, shared.2.2.2⟩
theorem wit_TrapsAndHints_noEffect : check hdG (opMark hdG (.s 4) 9) t0 g0 s0.m.draw = none ∧ traceOn s0.fw s0.m t0.ctx = false := by decide

/-- A queue with room and a full one. -/
theorem wit_TakesException : Issuing s0 r0 t0 g0 ∧ isReplay 0x2C0 = false ∧ g0.status = .ready ∧ s0.m.ctx? t0.ctx = some bareContext
    ∧ fqFull bareContext = false ∧ bareContext.held = [] ∧ (dev t0 { bareContext with fqtail := 64 }).m.ctx? t0.ctx = some { bareContext with fqtail := 64 }
    ∧ fqFull { bareContext with fqtail := 64 } = true ∧ traceOn s0.fw s0.m t0.ctx = false :=
  ⟨shared.1, by decide, rfl, rfl, by decide, rfl, rfl, by decide, by decide⟩
/-- A record of a software trap. -/
def pend0 : Pending :=
  { seq := 5, cause := 0x2C0, flags := 0, setn := 0xFE, tid := 0, gno := 0, pc := 0, lmask := 1, addr := 0, detail := 0, aux := 8, npc := some 8, again := none
    wid := none, add := none, acted := false }
/-- The context in which it waits, and its group. -/
def kPend : Context := { bareContext with pend := [pend0] }
def gStop : Group := { g0 with status := .suspended }
theorem wit_ReturnsFromException : (dev (teamOf gStop) kPend).m.ctx? 0 = some kPend ∧ kPend.st = .running ∧ kPend.acts = []
    ∧ pend0.acted = false ∧ pend0.setw = false ∧ pend0.eng = false ∧ pend0.cause ≠ 3
    ∧ (dev (teamOf gStop) kPend).m.team? pend0.tid = some (teamOf gStop) ∧ (teamOf gStop).group? pend0.gno = some gStop
    ∧ isStopped gStop = true ∧ gStop.under = none ∧ gStop.lost = [] ∧ pend0.add = none ∧ pend0.wid = none ∧ actOk pend0 0 = true ∧ actOk pend0 1 = true ∧ actOk pend0 2 = true :=
  ⟨rfl, rfl, rfl, rfl, by decide, by decide, by decide, rfl, rfl, by decide, rfl, rfl, rfl, rfl, by decide, by decide, by decide⟩

/-- SET scope, set 2. -/
def hd2 : Hd := { hd with scope := .set, mod := some { bare with setn := 2 } }
/-- A team that declares set 2 with the members l, and has the rendezvous rv open. -/
def tSet (l : Option (List Nat)) (rv : List Rdv) : Team := { t0 with sets := t0.sets.set 2 l, rdvs := rv }
def rdv2 (pc : DWord) : Rdv := { set := some 2, pc := pc, i := .nop hd2, arrived := [(1, 1)], elapsed := 0 }
/-- An arrival that opens, one that joins, one at another PC, an undeclared set, and a group that is no member. -/
theorem wit_Arrivals : opOf (.nop hd2) = some (hd2, opNop hd2) ∧ (∀ s t, Unheld s t g0 (.nop hd2)) ∧ hd2.scope = .set ∧ Hd.setKey hd2 = some 2
    ∧ (∀ t, t ∈ [tSet (some [0, 1]) [], tSet (some [0, 1]) [rdv2 0], tSet (some [0, 1]) [rdv2 8], tSet none [], tSet (some [1]) []] →
      Issuing (dev t) r0 t g0)
    ∧ (tSet (some [0, 1]) []).rdv? (some 2) = none ∧ (tSet (some [0, 1]) [rdv2 0]).rdv? (some 2) = some (rdv2 0) ∧ (rdv2 0).pc = g0.pc
    ∧ (tSet (some [0, 1]) [rdv2 8]).rdv? (some 2) = some (rdv2 8) ∧ (rdv2 8).pc ≠ g0.pc ∧ (tSet none []).sets.getD 2 none = none
    ∧ (tSet (some [1]) []).sets.getD 2 none = some [1] ∧ (tSet (some [0, 1]) []).sets.getD 2 none = some [0, 1] := by
  refine ⟨rfl, fun _ _ => unheld, rfl, rfl, ?_, by decide, rfl, rfl, rfl, by decide, by decide, by decide, by decide⟩
  intro t ht
  simp only [List.mem_cons, List.not_mem_nil, or_false] at ht
  rcases ht with rfl | rfl | rfl | rfl | rfl <;> exact issuing _ _

/-- A group parked at the rendezvous of its team, which has arrived. -/
def gArr : Group := { g0 with status := .parked (.rendezvous none), npc := 8 }
def rdvT (i : Instr) : Rdv := { set := none, pc := 0, i := i, arrived := [(0, 0xFFFFFFFF)], elapsed := 0 }
def tArr (i : Instr) : Team := { teamOf gArr with rdvs := [rdvT i] }
theorem only_group {t : Team} (h : t.groups = [gArr]) {j : Nat} {x : Group} (hx : t.group? j = some x) : x = gArr := by
  have := List.mem_of_find?_eq_some hx
  simpa [h] using this
theorem wit_SetWideIssue : ∃ i h op ids, regOnly i = some (h, ids) ∧ opOf i = some (h, op) ∧ h.scope = .team
    ∧ (dev (tArr i)).m.team? 0 = some (tArr i) ∧ (tArr i).rdv? none = some (rdvT i) ∧ rdvReady (tArr i) (rdvT i) = true
    ∧ ctxRuns (dev (tArr i)).m (tArr i).ctx = true ∧ (∀ j x, (tArr i).group? j = some x → check h op (tArr i) x 0 = none)
    ∧ 0 ∈ liveMembers (tArr i) none ∧ (liveMembers (tArr i) none).Nodup ∧ (tArr i).group? 0 = some gArr ∧ gArr.back = none ∧ gArr.lost = [] := by
  refine ⟨.add hdT .i32 (.v 3) (.v 1) (.v 2), hdT, _, _, rfl, rfl, rfl, rfl, rfl, by decide, by decide, ?_, by decide, by decide, rfl, rfl, rfl⟩
  intro j x hx
  obtain rfl := only_group rfl hx
  decide
/-- The device whose core 0 holds words 0 and 4 of context 0 in its L1 with read and write permission. -/
def own (va : Nat) : L1W :=
  { ctx := 0, va := va, val := 0x01020304, d := false, g := false
    attr := { r := true, w := true, q := false, m := false, pt := false, efmt := 0 } }
def devL1 (t : Team) : State :=
  { dev t with m := { (dev t).m with cores := (dev t).m.cores.modify 0 (fun k => { k with l1 := [own 0, own 4] }) } }
theorem issuingL1 (t : Team) (g : Group) (ht : t.tid = 0 := by rfl) (hg : t.group? 0 = some g := by rfl) (hb : g.back = none := by rfl)
    (hl : g.lost = [] := by rfl) : Issuing (devL1 t) r0 t g :=
  ⟨rfl, by simp [devL1, dev, r0, Mach.team?, ht], hg, hb, hl⟩

/-- A scratchpad word and a word of the L1, each read by one lane of a GROUP load; `ldnf` of the L1 word. -/
theorem wit_Loads : (g4 0).metWatch = [] ∧ Issuing (devL1 (t4 0)) r0 (t4 0) (g4 0) ∧ Alone hdG ∧ Active hdG (g4 0) 0
    ∧ Passes (.ld hdG .b32 (.s 6) (.s 4) 0 .scratch false .team) (t4 0) (g4 0) 0
    ∧ Passes (.ld hdG .b64 (.s 6) (.s 4) 0 .global false .team) (t4 0) (g4 0) 0
    ∧ Passes (.ldnf hdG .b32 (.s 6) (.s 4) (.s 7)) (t4 0) (g4 0) 0
    ∧ accLanes .group (memberOf (g4 0) hdG 0).act = [0]
    ∧ (let x := spaceTarget (devL1 (t4 0)).m (t4 0) (g4 0) (g4 0) .scratch (.s 4) 0 4 0
       x.2 % 4 = 0 ∧ watchHit (devL1 (t4 0)).fw (devL1 (t4 0)).m 0 ⟨true, false⟩ x.1.ga 4 = false
        ∧ ∃ loc, x.1.loc = .ok loc ∧ Reads (devL1 (t4 0)).m (t4 0) loc x.1.stack 4 0)
    ∧ (let x := spaceTarget (devL1 (t4 0)).m (t4 0) (g4 0) (g4 0) .global (.s 4) 0 8 0
       x.2 % 8 = 0 ∧ watchHit (devL1 (t4 0)).fw (devL1 (t4 0)).m 0 ⟨true, false⟩ x.1.ga 8 = false
        ∧ ∃ loc, x.1.loc = .ok loc ∧ Reads (devL1 (t4 0)).m (t4 0) loc x.1.stack 8 0x0102030401020304)
    ∧ (let x := genTarget (devL1 (t4 0)).m (t4 0) (g4 0) (g4 0) (.s 4) 4 0
       x.2 % 4 = 0 ∧ watchHit (devL1 (t4 0)).fw (devL1 (t4 0)).m 0 ⟨true, false⟩ x.1.ga 4 = false
        ∧ ∃ loc, x.1.loc = .ok loc ∧ Reads (devL1 (t4 0)).m (t4 0) loc x.1.stack 4 0x01020304) := by
  refine ⟨rfl, issuingL1 _ _, alone.2, activeG4 0, passes rfl (by decide), passes rfl (by decide), passes rfl (by decide), by decide,
    ⟨by decide, by decide, _, rfl, ⟨0, ⟨t4 0, rfl, rfl, by decide⟩, by decide⟩⟩,
    ⟨by decide, by decide, _, rfl, ⟨0x01020304, 0x01020304, ⟨own 0, by decide, by decide, rfl⟩, ⟨own 4, by decide, by decide, rfl⟩, by decide⟩⟩,
    ⟨by decide, by decide, _, rfl, ⟨0x01020304, ⟨own 0, by decide, by decide, rfl⟩, by decide⟩⟩⟩

/-- The first and the last word of a scratchpad of 4,096 bytes. -/
theorem wit_ScratchpadStores : ∀ v : DWord, v = 0 ∨ v = 4092 → (g4 v).metWatch = [] ∧ Issuing (dev (t4 v)) r0 (t4 v) (g4 v) ∧ Alone hdG ∧ Active hdG (g4 v) 0
    ∧ Passes (.st hdG .b32 (.s 6) (.s 4) 0 .scratch false .team) (t4 v) (g4 v) 0 ∧ ScratchWf (dev (t4 v))
    ∧ accLanes .group (memberOf (g4 v) hdG 0).act = [0] ∧ (g4 v).relPend = none
    ∧ Unheld (dev (t4 v)) (t4 v) (g4 v) (.st hdG .b32 (.s 6) (.s 4) 0 .scratch false .team)
    ∧ (let x := spaceTarget (dev (t4 v)).m (t4 v) (g4 v) (g4 v) .scratch (.s 4) 0 4 0
       x.2 % 4 = 0 ∧ watchHit (dev (t4 v)).fw (dev (t4 v)).m 0 ⟨false, true⟩ x.1.ga 4 = false ∧ ∃ tid o cl, x.1.loc = .ok (.sp tid o cl)) := by
  rintro v (rfl | rfl) <;>
  exact ⟨rfl, issuing _ _, alone.2, activeG4 _, passes rfl (by decide), by unfold ScratchWf; decide, by decide, rfl, unheld,
    ⟨by decide, by decide, _, _, _, rfl⟩⟩
/-- A word and a doubleword that the L1 owns. -/
theorem wit_CachedStores : (g4 0).metWatch = [] ∧ Issuing (devL1 (t4 0)) r0 (t4 0) (g4 0) ∧ Passes (.st hdG .b64 (.s 6) (.s 4) 0 .global false .team) (t4 0) (g4 0) 0
    ∧ Alone hdG ∧ Active hdG (g4 0) 0 ∧ (g4 0).relPend = none ∧ Ty.b64.bytes = 8 ∧ accLanes .group (memberOf (g4 0) hdG 0).act = [0]
    ∧ (let x := spaceTarget (devL1 (t4 0)).m (t4 0) (g4 0) (g4 0) .global (.s 4) 0 8 0
       x.2 % 8 = 0 ∧ x.1.stack = false ∧ watchHit (devL1 (t4 0)).fw (devL1 (t4 0)).m 0 ⟨false, true⟩ x.1.ga 8 = false
        ∧ ∃ va, x.1.loc = .ok (.glob va) ∧ Owns (devL1 (t4 0)).m (t4 0) va ∧ Owns (devL1 (t4 0)).m (t4 0) (va + 4)) :=
  ⟨rfl, issuingL1 _ _, passes rfl (by decide), alone.2, activeG4 0, rfl, rfl, by decide, by decide, by decide, by decide, 0, rfl,
    ⟨own 0, by decide, by decide, rfl, rfl, rfl⟩, ⟨own 4, by decide, by decide, rfl, rfl, rfl⟩⟩
/-- One lane of a GROUP atomic at the scratchpad's first word and at its last doubleword. -/
theorem wit_Atomics : (∃ i h d op a b c ord sc, atomSpec i = some (h, .n32, d, op, a, b, c, ord, sc) ∧ (∀ s t v, Unheld s t (g4 v) i) ∧ Ty.n32.bytes = 4 ∧ Alone h
      ∧ Passes i (t4 0xF000000000000) (g4 0xF000000000000) 0 ∧ a = .s 4)
    ∧ (∃ i h d op a b c ord sc, atomSpec i = some (h, .b64, d, op, a, b, c, ord, sc) ∧ (∀ s t v, Unheld s t (g4 v) i) ∧ Ty.b64.bytes = 8 ∧ Alone h
      ∧ Passes i (t4 0xF000000000FF8) (g4 0xF000000000FF8) 0 ∧ a = .s 4)
    ∧ ∀ v : DWord, ∀ z : Nat, (v = 0xF000000000000 ∧ z = 4) ∨ (v = 0xF000000000FF8 ∧ z = 8) → Issuing (dev (t4 v)) r0 (t4 v) (g4 v)
      ∧ (g4 v).metWatch = [] ∧ Active hdG (g4 v) 0 ∧ ScratchWf (dev (t4 v)) ∧ accLanes .group (memberOf (g4 v) hdG 0).act = [0]
      ∧ (let x := genTarget (dev (t4 v)).m (t4 v) (g4 v) (g4 v) (.s 4) z 0
         x.2 % z = 0 ∧ watchHit (dev (t4 v)).fw (dev (t4 v)).m 0 ⟨true, true⟩ x.1.ga z = false
          ∧ ∃ tid o cl, x.1.loc = .ok (.sp tid o cl) ∧ ((dev (t4 v)).m.team? tid).isSome = true) := by
  refine ⟨⟨.redAdd hdG .n32 (.s 4) (.s 6) false .team, hdG, _, _, _, _, _, _, _, rfl, fun _ _ _ => unheld, rfl, alone.2, passes rfl (by decide), rfl⟩,
    ⟨.atmCas hdG .b64 (.s 8) (.s 4) (.s 6) (.s 7) false .team, hdG, _, _, _, _, _, _, _, rfl, fun _ _ _ => unheld, rfl, alone.2, passes rfl (by decide), rfl⟩, ?_⟩
  rintro v z (⟨rfl, rfl⟩ | ⟨rfl, rfl⟩)
  · exact ⟨issuing _ _, rfl, activeG4 _, by unfold ScratchWf; decide, by decide, by decide, by decide, 0, 0, false, by decide, rfl⟩
  · exact ⟨issuing _ _, rfl, activeG4 _, by unfold ScratchWf; decide, by decide, by decide, by decide, 0, 4088, false, by decide, rfl⟩
theorem wit_Atomics_operations : (0xFFFFFFFF : Nat) < 2 ^ Ty.n32.ew ∧ (0 : Nat) < 2 ^ Ty.f16.ew := by decide
/-- The last word of the global window, one word past it, an empty range, and a misaligned start and length. -/
theorem wit_Fences : ∀ v n : DWord, (v = 0xEFFFFFFFFFFFC ∧ n = 4) ∨ (v = 0xEFFFFFFFFFFFC ∧ n = 8) ∨ (v = 0xF000000000000 ∧ n = 0) ∨ (v = 2 ∧ n = 4)
      ∨ (v = 4 ∧ n = 2) → let g := withS (g4 v) 5 n
    Issuing (dev (teamOf g)) r0 (teamOf g) g ∧ Alone hdG ∧ Active hdG g 0 ∧ srcVal g g 0 1 .n64 (.s 5) 0 = n ∧ srcVal g g 0 0 .n64 (.s 4) 0 = v
      ∧ Passes (.invr hdG (.s 5) (.s 4) .dev) (teamOf g) g 0 ∧ Passes (.wbr hdG (.s 5) (.s 4) .dev) (teamOf g) g 0 ∧ g.relPend = none
      ∧ (∀ i, i = .fence hdG .dev ∨ i = .rel hdG .sys ∨ i = .invr hdG (.s 5) (.s 4) .dev ∨ i = .wbr hdG (.s 5) (.s 4) .dev →
        Unheld (dev (teamOf g)) (teamOf g) g i) := by
  rintro v n (⟨rfl, rfl⟩ | ⟨rfl, rfl⟩ | ⟨rfl, rfl⟩ | ⟨rfl, rfl⟩ | ⟨rfl, rfl⟩) <;>
  exact ⟨issuing _ _, alone.2, fun _ => by decide, by decide, by decide, passes rfl (by decide), passes rfl (by decide), rfl,
    by rintro i (rfl | rfl | rfl | rfl) <;> exact unheld⟩

/-- A TLB entry for page 0 of context 0, resident in tier 0 at its home. -/
def tlb0 : TlbE := { ctx := 0, page := 0, log := 16, leaf := 0x600000000000000F, leafPa := 0, ptrs := [] }
/-- The CTUs with one entry, in that of address 0. -/
def ctus0 (e : TlbE) : List (List TlbE) := modAt [] Mach.initial.ctus (ctuOf 0) (fun l => l ++ [e])
def devTlb (t : Team) : State := { dev t with m := { (dev t).m with ctus := ctus0 tlb0 } }
theorem wit_PageRequests : (∀ v : DWord, v = 0 ∨ v = 0x10000000000000 → Issuing (dev (t4 v)) r0 (t4 v) (g4 v) ∧ Alone hdG ∧ Active hdG (g4 v) 0
      ∧ Passes (.pgreq hdG (.s 4) 0 .generic) (t4 v) (g4 v) 0 ∧ (g4 v).openCnt < 64 ∧ (dev (t4 v)).m.ctx? (t4 v).ctx = some bareContext
      ∧ srcVal (g4 v) (g4 v) 0 0 .n64 (.s 4) 0 + (0 : BitVec 20).signExtend 64 = v)
    ∧ steer (dev (t4 0)).m (t4 0) (g4 0) 0 0x10000000000000 1 = .error 0xC0 ∧ steer (dev (t4 0)).m (t4 0) (g4 0) 0 0 1 = .ok (.glob 0)
    ∧ (∃ c, (findLeaf (dev (t4 0)).m 0 0).1 = .error c)
    ∧ ∃ l, (findLeaf (devTlb (t4 0)).m 0 0).1 = .ok l ∧ l = { leaf := 0x600000000000000F, log := 16, leafPa := 0, ptrs := [] } := by
  refine ⟨?_, by decide, by decide, ⟨_, rfl⟩, ⟨_, rfl, by decide⟩⟩
  rintro v (rfl | rfl) <;> exact ⟨issuing _ _, alone.2, activeG4 _, passes rfl (by decide), by decide, rfl, by decide⟩

/-- A group whose v2 and v6 hold tags of the caller's. -/
def gTag (a b : BitVec 4) : Group :=
  { g0 with regs := { g0.regs with v := (g0.regs.v.set 2 { lanes := List.replicate 32 0x3F800000, tag := a, u := true }).set 6 { lanes := List.replicate 32 0x40000000, tag := b, u := true } } }
/-- Two integer formats of two widths, a float and an integer, and one float format. -/
theorem wit_GenericArithmetic_formats : ∀ a b cf : BitVec 4, (a = 1 ∧ b = 9 ∧ cf = 1) ∨ (a = 3 ∧ b = 1 ∧ cf = 3) ∨ (a = 3 ∧ b = 3 ∧ cf = 3) →
    let g := gTag a b
    Issuing (dev (teamOf g)) r0 (teamOf g) g ∧ Alone hd ∧ Active hd g 0 ∧ Passes (.gmul hd (.v 8) (.v 2) (.v 6) 0x7E0) (teamOf g) g 0
      ∧ Passes (.gset hd (.p 1) (.v 2) (.v 6) 0x7E0 .lt) (teamOf g) g 0 ∧ Passes (.gcvt hd (.v 8) (.v 2) 0x7E0 .f16) (teamOf g) g 0
      ∧ (srcTag g (dev (teamOf g)).m 0 (.v 2)).1 = a ∧ (srcTag g (dev (teamOf g)).m 1 (.v 6)).1 = b ∧ commonTag [a, b] = cf
      ∧ oddPair (.v 2) a = false ∧ oddPair (.v 6) b = false ∧ dstPair (teamOf g) (.v 8) cf = none := by
  rintro a b cf (⟨rfl, rfl, rfl⟩ | ⟨rfl, rfl, rfl⟩ | ⟨rfl, rfl, rfl⟩) <;>
    exact ⟨issuing _ _, alone.1, active _ _, passes rfl (by decide), passes rfl (by decide), passes rfl (by decide), by decide, by decide, by decide,
      by decide, by decide, by decide⟩
theorem wit_GenericArithmetic : (∃ i h d os f, genericSpec i = some (h, d, os, f) ∧ Alone h ∧ Active h g0 0 ∧ Passes i t0 g0 0
      ∧ (∀ k o, os[k]? = some o → oddPair o (srcTag g0 s0.m k o).1 = false ∧ (srcTag g0 s0.m k o).1 = 0)
      ∧ commonTag (os.mapIdx (fun k o => (srcTag g0 s0.m k o).1)) = 0 ∧ dstPair t0 d 0 = none)
    ∧ (calcTy 0).fmt? = none ∧ Passes (.gset hd (.p 1) (.v 2) (.v 6) 0x7E0 .gt) t0 g0 0 ∧ Passes (.gcvt hd (.v 8) (.v 2) 0x7E0 .f16) t0 g0 0
    ∧ dstPair t0 (.v 8) Ty.f16.tag = none ∧ (memberOf (g4 0) hdG 0).act ≠ 0 := by
  refine ⟨⟨.gadd hd (.v 8) (.v 2) (.v 6) 0x7E0, hd, _, _, _, rfl, alone.1, active g0 _, passes rfl (by decide), ?_, by decide, by decide⟩, by decide,
    passes rfl (by decide), passes rfl (by decide), by decide, by decide⟩
  intro k o ho
  rcases k with _ | _ | k <;> simp at ho <;> subst ho <;> decide
/-- A generic access of an s register to the first word of the scratchpad, whose format is F32. -/
theorem wit_GenericAccesses : let v : DWord := 0xF000000000000
    Issuing (dev (t4 v)) r0 (t4 v) (g4 v) ∧ Alone hdG ∧ Active hdG (g4 v) 0 ∧ (g4 v).redo = none ∧ ScratchWf (dev (t4 v)) ∧ (t4 v).spfmt = 3
    ∧ accLanes .group (actOf (g4 v) hdG 0) = [0] ∧ srcVal (g4 v) (g4 v) 0 0 .n64 (.s 4) 0 = v ∧ v.toNat % 4 = 0
    ∧ watchHit (dev (t4 v)).fw (dev (t4 v)).m 0 ⟨false, true⟩ v 4 = false ∧ watchHit (dev (t4 v)).fw (dev (t4 v)).m 0 ⟨true, false⟩ v 4 = false
    ∧ steer (dev (t4 v)).m (t4 v) (g4 v) 0 v 4 = .ok (.sp 0 0 false) ∧ Reads (dev (t4 v)).m (t4 v) (.sp 0 0 false) false 4 0
    ∧ Passes (.gld hdG (.s 8) (.s 4) 0x7E0 0) (t4 v) (g4 v) 0 ∧ dstPair (t4 v) (.s 8) (gldTag [3]) = none
    ∧ Passes (.gst hdG (.s 4) (.s 6) 0x7E0 0) (t4 v) (g4 v) 0 ∧ oddPair (.s 6) (srcTag (g4 v) (dev (t4 v)).m 1 (.s 6)).1 = false
    ∧ Passes (.gatmAdd hdG (.s 8) (.s 4) (.s 6) 0x7E0 false .team) (t4 v) (g4 v) 0 ∧ (tyOfTag 3).bytes = 4 :=
  ⟨issuing _ _, alone.2, activeG4 _, rfl, by unfold ScratchWf; decide, by decide, by decide, by decide, by decide, by decide, by decide, by decide,
    ⟨0, ⟨t4 _, rfl, rfl, by decide⟩, by decide⟩, passes rfl (by decide), by decide, passes rfl (by decide), by decide,
    passes rfl (by decide), by decide⟩
/-- The scratchpad's first word as a lane of format F32, and a word of the L1 as one of format N8: a load, a store and an atomic. -/
theorem wit_GenericAccesses_lanes : (let v : DWord := 0xF000000000000
      GenericLane (dev (t4 v)) (t4 v) (g4 v) 0 ⟨true, true⟩ v 3 (.sp 0 0 false) ∧ GenericLane (dev (t4 v)) (t4 v) (g4 v) 0 ⟨true, false⟩ v 3 (.sp 0 0 false)
        ∧ GenericLane (dev (t4 v)) (t4 v) (g4 v) 0 ⟨false, true⟩ v 3 (.sp 0 0 false))
    ∧ Issuing (devL1 (t4 0)) r0 (t4 0) (g4 0) ∧ Active hdG (g4 0) 0 ∧ ScratchWf (devL1 (t4 0)) ∧ (∀ w ∈ [(⟨true, false⟩ : Made), ⟨false, true⟩, ⟨true, true⟩],
      GenericLane (devL1 (t4 0)) (t4 0) (g4 0) 0 w 0 0 (.glob 0))
    ∧ Reads (devL1 (t4 0)).m (t4 0) (.glob 0) (isStackAddr 0) 4 0x01020304 ∧ Owns (devL1 (t4 0)).m (t4 0) 0 ∧ isPoisoned (devL1 (t4 0)).m 0 0 = false
    ∧ isStackAddr 0 = false ∧ (g4 0).relPend = none ∧ (tyOfTag 0).bytes = 4 ∧ dstPair (t4 0) (.s 8) (gldTag [0]) = none
    ∧ Passes (.gld hdG (.s 8) (.s 4) 0x7E0 0) (t4 0) (g4 0) 0 ∧ Passes (.gst hdG (.s 4) (.s 6) 0x7E0 0) (t4 0) (g4 0) 0
    ∧ Passes (.gatmMax hdG (.s 8) (.s 4) (.s 6) 0x7E0 false .team) (t4 0) (g4 0) 0
    ∧ (∀ s t v, Unheld s t (g4 v) (.gst hdG (.s 4) (.s 6) 0x7E0 0) ∧ Unheld s t (g4 v) (.gatmMax hdG (.s 8) (.s 4) (.s 6) 0x7E0 false .team)) := by
  refine ⟨⟨?_, ?_, ?_⟩, issuingL1 _ _, activeG4 0, by unfold ScratchWf; decide, ?_, ⟨0x01020304, ⟨own 0, by decide, by decide, rfl⟩, by decide⟩,
    ⟨own 0, by decide, by decide, rfl, rfl, rfl⟩, by decide, by decide, rfl, by decide, by decide, passes rfl (by decide), passes rfl (by decide),
    passes rfl (by decide), fun _ _ _ => ⟨unheld, unheld⟩⟩
  iterate 3 exact ⟨by decide, by decide, by decide, by decide, .sp 0 0 false, by decide, rfl⟩
  intro w hw
  simp only [List.mem_cons, List.not_mem_nil, or_false] at hw
  rcases hw with rfl | rfl | rfl <;> exact ⟨by decide, by decide, by decide, by decide, .glob 0, by decide, own 0, by decide, rfl⟩
/-- Index 0 within a window of one register; index 1 past it. -/
theorem wit_IndexedMoves : ∀ g : Group, g = g0 ∨ g = withX g0 (fun _ => 1) → Issuing (dev (teamOf g)) r0 (teamOf g) g ∧ Alone hd
    ∧ Active hd g 0 ∧ (teamOf g).valloc ≤ 256 ∧ Passes (.movx hd .b32 (.v 3) (.v 1) (.x 0) (.c 1)) (teamOf g) g 0
    ∧ Passes (.movxw hd .b32 (.v 3) (.v 1) (.x 0) (.c 1)) (teamOf g) g 0 ∧ (srcVal g g 0 2 .n32 (.c 1) 0).toNat = 1
    ∧ ((g = g0 ∧ ∀ l, l < 32 → (srcVal g g 0 1 .n32 (.x 0) l).toNat = 0) ∨ ∀ l, l < 32 → (srcVal g g 0 1 .n32 (.x 0) l).toNat = 1) := by
  rintro g (rfl | rfl)
  · exact ⟨issuing _ _, alone.1, active _ _, by decide, passes rfl (by decide), passes rfl (by decide), by decide, .inl ⟨rfl, by decide⟩⟩
  · exact ⟨issuing _ _, alone.1, active _ _, by decide, passes rfl (by decide), passes rfl (by decide), by decide, .inr (by decide)⟩

/-- Copy lengths 0, 16, 65,536 and 65,552, destinations 0 and 8; barriers 0 and 1 of one; 63 and 64 entries. -/
theorem wit_EngineWork_copies : (∀ n d : DWord, (n = 0 ∧ d = 0) ∨ (n = 16 ∧ d = 0) ∨ (n = 65536 ∧ d = 0) ∨ (n = 65552 ∧ d = 0) ∨ (n = 16 ∧ d = 8) →
      let g := gS [(4, d), (5, 65536), (6, n)]
      Issuing (dev (teamOf g)) r0 (teamOf g) g ∧ Active hdG g 0 ∧ Passes (.cpyBar hdG (.s 4) (.s 5) (.s 6) 1) (teamOf g) g 0
        ∧ Passes (.cpy hdG (.s 4) (.s 5) (.s 6)) (teamOf g) g 0 ∧ engVal g 0 0 (.s 4) = d ∧ engVal g 0 1 (.s 5) = 65536 ∧ engVal g 0 2 (.s 6) = n
        ∧ (d = 0 → 0 < n → n ≤ 65536 → ∀ x ∈ [d, 65536], ∀ k ∈ [1, n.toNat], (steer (dev (teamOf g)).m (teamOf g) g 0 x k).toOption.isSome))
    ∧ barBad t0 (some 0) = false ∧ barBad t0 (some 1) = true ∧ ({ g0 with openCnt := 63 } : Group).openCnt < 64
    ∧ Alone hdG ∧ (64 : Nat) ≤ ({ g0 with openCnt := 64 } : Group).openCnt := by
  refine ⟨?_, by decide +kernel, by decide +kernel, by decide +kernel, alone.2, by decide +kernel⟩
  rintro n d (⟨rfl, rfl⟩ | ⟨rfl, rfl⟩ | ⟨rfl, rfl⟩ | ⟨rfl, rfl⟩ | ⟨rfl, rfl⟩) <;>
    refine ⟨issuing _ _, fun _ => by decide +kernel, passes rfl (by decide +kernel), passes rfl (by decide +kernel), by decide +kernel, by decide +kernel, by decide +kernel, ?_⟩ <;>
    intro h0 h1 h2 <;> first | exact absurd h0 (by decide +kernel) | exact absurd h1 (by decide +kernel) | exact absurd h2 (by decide +kernel) |
      exact fun x hx => all_of (by revert x; exact all_of (by decide +kernel))
theorem wit_EngineWork_cpyl : Issuing s0 r0 t0 g0 ∧ Alone hd ∧ Active hd g0 0 ∧ Passes (.cpyl16 hd (.v 4) (.v 6)) t0 g0 0
    ∧ (let lanes := (lanesOf (memberOf g0 hd 0).act).map (fun l => (l, srcVal g0 g0 0 0 .n64 (.v 4) l, srcVal g0 g0 0 1 .n64 (.v 6) l))
       lanes ≠ [] ∧ ∀ x ∈ lanes, ∀ p ∈ [x.2.1, x.2.2], p.toNat % 16 = 0 ∧ ∃ loc, steer s0.m t0 g0 x.1 p 16 = .ok loc) := by
  refine ⟨shared.1, alone.1, active _ _, passes rfl (by decide +kernel), by decide +kernel, ?_⟩
  have h : ((lanesOf (memberOf g0 hd 0).act).map (fun l => (l, srcVal g0 g0 0 0 .n64 (.v 4) l, srcVal g0 g0 0 1 .n64 (.v 6) l))).all
      (fun x => [x.2.1, x.2.2].all (fun p => p.toNat % 16 == 0 && (steer s0.m t0 g0 x.1 p 16).toOption.isSome)) = true := by decide +kernel
  intro x hx p hp
  have h' := List.all_eq_true.mp (List.all_eq_true.mp h x hx) p hp
  rw [Bool.and_eq_true, beq_iff_eq] at h'
  exact ⟨h'.1, ok_of h'.2⟩
/-- One receiver, with a chunk map at byte 32 × 96 of its scratchpad. -/
theorem wit_EngineWork_mcast : let g := gS [(4, 0x0018006000000000), (5, 0), (6, 16)]
    Issuing (dev (teamOf g)) r0 (teamOf g) g ∧ Active hdG g 0 ∧ Passes (.mcast hdG (.s 4) (.s 5) (.s 6)) (teamOf g) g 0
      ∧ Passes (.mcastBar hdG (.s 4) (.s 5) (.s 6) 0) (teamOf g) g 0
      ∧ mcastPlan (dev (teamOf g)).m (teamOf g) g (engVal g 0 0 (.s 4)) (engVal g 0 1 (.s 5)) (engVal g 0 2 (.s 6)).toNat (some 0) = .ok [0]
      ∧ ScratchWf (dev (teamOf g)) :=
  ⟨issuing _ _, fun _ => by decide +kernel, passes rfl (by decide +kernel), passes rfl (by decide +kernel), by decide +kernel, by unfold ScratchWf; decide⟩
/-- Frame counts 0, 1, 4,096 and 4,097. -/
theorem wit_EngineWork_rows : ∀ f : DWord, f = 0 ∨ f = 1 ∨ f = 4096 ∨ f = 4097 → let g := gS [(8, 0), (9, f), (10, 8388608), (12, 16777216)]
    Issuing (dev (teamOf g)) r0 (teamOf g) g ∧ Active hdG g 0 ∧ Passes (.rowxor hdG (.s 8) (.s 10) (.s 12)) (teamOf g) g 0
      ∧ Passes (.rowfill hdG (.s 8) (.s 10)) (teamOf g) g 0 ∧ (readS g 9 0 6).toNat = f.toNat
      ∧ ∀ x ∈ [engVal g 0 0 (.s 8), engVal g 0 1 (.s 10), engVal g 0 2 (.s 12)], x.toNat + 2048 * 4096 ≤ 0xF000000000000 ∧ x.toNat % 2048 = 0 := by
  rintro f (rfl | rfl | rfl | rfl) <;>
    exact ⟨issuing _ _, fun _ => by decide +kernel, passes rfl (by decide +kernel), passes rfl (by decide +kernel), by decide +kernel, all_of (by decide +kernel)⟩
/-- A dense matrix of signed bytes, 1 × 32, and its bit-parallel records. -/
def hDense : BitVec 512 := shape [(1, 13), (2, 2), (3, 32), (4, 1), (10, 32), (11, 1)]
def hRec : BitVec 512 := shape [(1, 13), (2, 2), (3, 32), (4, 1), (10, 32), (11, 1), (15, 1), (17, 1024)]
theorem wit_EngineWork_planes : let g := withH g0 [hDense, hRec]
    Issuing (dev (teamOf g)) r0 (teamOf g) g ∧ Active hdG g 0
      ∧ planeFail false 4096 (Shape.of (readH g 0 0 1)) (Shape.of (readH g 1 0 2)) = none
      ∧ planeFail true 4096 (Shape.of (readH g 0 0 2)) (Shape.of (readH g 1 0 1)) = none
      ∧ ∃ c, planeFail false 4096 (Shape.of (readH g0 0 0 1)) (Shape.of (readH g0 1 0 2)) = some c :=
  ⟨issuing _ _, fun _ => by decide +kernel, by decide +kernel, by decide +kernel, 0x1C2, by decide +kernel⟩
/-- A group with n sealed batches that are not complete. -/
def gSeal (n : Nat) (v : DWord) : Group := { g4 v with sealed := (List.range n).map (fun i => { num := BitVec.ofNat 16 i, wids := [i], clean := [] }), lastSeal := BitVec.ofNat 16 (n - 1) }
/-- Distances 0, 2^15 − 1 and 2^15 from LASTSEAL 0, one of 0 with a batch open; 31 and 32 open batches. -/
theorem wit_BatchesAndMaps : Passes (.stage hdG (.v 16) 7) t0 g0 0 ∧ Passes (.rowmate hdG (.s 8) (.s 10)) t0 g0 0
    ∧ (∀ n, n = 31 ∨ n = 32 → Issuing (dev (teamOf (gSeal n 0))) r0 (teamOf (gSeal n 0)) (gSeal n 0) ∧ Active hdG (gSeal n 0) 0
      ∧ Passes (.seal hdG (.s 8)) (teamOf (gSeal n 0)) (gSeal n 0) 0 ∧ (gSeal n 0).sealed.length = n)
    ∧ ∀ n (v far : DWord), (n = 0 ∧ v = 0 ∧ far = 0) ∨ (n = 0 ∧ v = 32769 ∧ far = 32767) ∨ (n = 0 ∧ v = 32768 ∧ far = 32768) ∨ (n = 1 ∧ v = 0 ∧ far = 0) →
      let g := gSeal n v
      Issuing (dev (teamOf g)) r0 (teamOf g) g ∧ Alone hdG ∧ Active hdG g 0 ∧ Passes (.waitb hdG (.s 4)) (teamOf g) g 0
        ∧ (g.lastSeal - (engVal g 0 0 (.s 4)).setWidth 16).toNat = far.toNat
        ∧ (g.sealed.filter (fun b => decide (far.toNat ≤ (g.lastSeal - b.num).toNat))).length = n := by
  refine ⟨passes rfl (by decide), passes rfl (by decide), ?_, ?_⟩
  · rintro n (rfl | rfl) <;> exact ⟨issuing _ _, fun _ => by decide +kernel, passes rfl (by decide +kernel), by decide +kernel⟩
  · rintro n v far (⟨rfl, rfl, rfl⟩ | ⟨rfl, rfl, rfl⟩ | ⟨rfl, rfl, rfl⟩ | ⟨rfl, rfl, rfl⟩) <;>
      exact ⟨issuing _ _, alone.2, fun _ => by decide +kernel, passes rfl (by decide +kernel), by decide +kernel, by decide +kernel⟩
/-- A bit past word 63, a map word past SPSZ, a mask that is met and one that is not; chunks 2,047 and 2,048. -/
theorem wit_BatchesAndMaps_maps : (∀ v : DWord, v = 0x4000000000 ∨ v = 0x3F00000000 ∨ v = 0 ∨ v = 1 → let g := withH (g4 v) [shape [(18, 122)]]
      Issuing (dev (teamOf g)) r0 (teamOf g) g ∧ Alone hdG ∧ Active hdG g 0 ∧ Passes (.waitm hdG 0 (.s 4)) (teamOf g) g 0
        ∧ engVal g 0 0 (.s 4) = v ∧ mapOffOf (dev (teamOf g)).m g 0 = 3904 ∧ spWord (teamOf g) 3904 = 0 ∧ (teamOf g).spsz = 4096)
    ∧ ∀ v : Word, v = 2047 ∨ v = 2048 → let g := withV g0 7 (fun _ => v)
      Issuing (dev (teamOf g)) r0 (teamOf g) g ∧ Passes (.testm hd (.p 2) 0 (.v 7)) (teamOf g) g 0 ∧ Alone hd ∧ Active hd g 0
        ∧ (srcVal g g 0 0 .n32 (.v 7) 31).toNat = v.toNat ∧ (memberOf g hd 0).act = 0xFFFFFFFF ∧ mapOffOf (dev (teamOf g)).m g 0 = 0 := by
  refine ⟨?_, ?_⟩
  · rintro v (rfl | rfl | rfl | rfl) <;>
      exact ⟨issuing _ _, alone.2, fun _ => by decide +kernel, passes rfl (by decide +kernel), by decide +kernel, by decide +kernel, by decide +kernel, by decide +kernel⟩
  · rintro v (rfl | rfl) <;>
      exact ⟨issuing _ _, passes rfl (by decide +kernel), alone.1, active _ _, by decide +kernel, by decide +kernel, by decide +kernel⟩

/-- A team whose barrier 0 is b, and whose group holds v in s4. -/
def tBar (b : Barrier) (v : DWord) : Team := { t4 v with bars := [b] }
def bar0 : Barrier := { tgt := 2, cnt := 0, p := 0, phase := false, broken := false }
/-- Barrier 1 of one, a broken one, an overrun; the last arrival, an earlier one, one with bytes outstanding; a phase over and
one that is not; counts of EXPECT and INIT at the ends of their ranges. -/
theorem wit_Barriers : (∀ b v, Issuing (dev (tBar b v)) r0 (tBar b v) (g4 v) ∧ Unheld (dev (tBar b v)) (tBar b v) (g4 v) (.barArrive hdG 0 (some .dev))
      ∧ Unheld (dev (tBar b v)) (tBar b v) (g4 v) (.barSync hdG 0 none) ∧ Alone hdG ∧ Active hdG (g4 v) 0 ∧ (g4 v).status = .ready
      ∧ ((tBar b v).groups.map (fun q => q.gno)).Nodup ∧ (tBar b v).bar 0 = b ∧ (tBar b v).bars.length = 1)
    ∧ arriveFail (tBar bar0 0) 1 = some 0x189 ∧ arriveFail (tBar { bar0 with broken := true } 0) 0 = some 0x1CA
    ∧ arriveFail (tBar { bar0 with cnt := 2 } 0) 0 = some 0x18A ∧ arriveFail (tBar { bar0 with cnt := 1 } 0) 0 = none
    ∧ arriveFail (tBar { bar0 with cnt := 1, p := 16 } 0) 0 = none ∧ arriveFail (tBar bar0 0) 0 = none
    ∧ bar0.phase = (g4 0).wph.getD 0 false ∧ ({ bar0 with phase := true } : Barrier).phase ≠ (g4 0).wph.getD 0 false
    ∧ barWaiters (tBar bar0 1) 0 = []
    ∧ ∀ v : DWord, v = 0 ∨ v = 1 ∨ v = 32 ∨ v = 33 ∨ v = 0xFFFFFF ∨ v = 0x1000000 → engVal (g4 v) 0 0 (.s 4) = v
      ∧ Passes (.barExpect hdG 0 (.s 4)) (tBar bar0 v) (g4 v) 0 ∧ Passes (.barInit hdG 0 (.s 4)) (tBar bar0 v) (g4 v) 0 := by
  refine ⟨fun b v => ⟨issuing _ _, unheld, unheld, alone.2, activeG4 v, rfl, by simp [tBar, t4, teamOf, newTeam], rfl, rfl⟩, by decide, by decide, by decide, by decide,
    by decide, by decide, by decide, by decide, by decide, ?_⟩
  rintro v (rfl | rfl | rfl | rfl | rfl | rfl) <;> exact ⟨by decide +kernel, passes rfl (by decide +kernel), passes rfl (by decide +kernel)⟩

theorem rd32 (w : Word) : w.setWidth 64 = BitVec.ofNat 64 (w.toNat / 2 ^ (8 * 0) % 2 ^ (8 * 4)) := by
  have := w.isLt
  apply BitVec.eq_of_toNat_eq
  simp only [BitVec.toNat_setWidth, BitVec.toNat_ofNat, Nat.mul_zero, Nat.pow_zero, Nat.div_one]
  omega
/-- Addresses 64 and 32 of the scratchpad; a record of zeros there, and one whose bit 0 is set; a field number past the last;
values at the ends of the ranges of RANK, STRIDE1 and BASE. -/
theorem wit_ShapeRegisters : (∀ v : DWord, v = 0xF000000000000 ∨ v = 0xF000000000020 → Issuing (dev (t4 v)) r0 (t4 v) (g4 v) ∧ Alone hdG ∧ Active hdG (g4 v) 0
      ∧ Passes (.shld hdG 2 (.s 4)) (t4 v) (g4 v) 0 ∧ Passes (.shst hdG 2 (.s 4)) (t4 v) (g4 v) 0 ∧ engVal (g4 v) 0 0 (.s 4) = v
      ∧ (g4 v).relPend = none ∧ Unheld (dev (t4 v)) (t4 v) (g4 v) (.shst hdG 2 (.s 4)) ∧ ScratchWf (dev (t4 v)) ∧ (g4 v).status = .ready
      ∧ (dev (t4 v)).m.ctx? (t4 v).ctx = some bareContext)
    ∧ (∀ b : Byte, b = 0 ∨ b = 1 → let v : DWord := 0xF000000000000
        let t : Team := { t4 v with scratch := if b = 0 then [] else [(0, b)] }
        (∀ i < 16, ∃ loc, steer (dev t).m t (g4 v) 0 (v + BitVec.ofNat 64 (4 * i)) 4 = .ok loc
          ∧ Reads (dev t).m t loc (isStackAddr (v + BitVec.ofNat 64 (4 * i))) 4 ((spWord t (4 * i)).setWidth 64))
        ∧ (ofWords ((List.range 16).map (fun i => spWord t (4 * i)))).extractLsb' 0 51 = b.setWidth 51
        ∧ ∀ i < 16, steer (dev t).m t (g4 v) 0 (v + BitVec.ofNat 64 (4 * i)) 4 = .ok (.sp 0 (4 * i) false))
    ∧ shapeField 20 = none ∧ shapeField 2 = some (441, 3, false) ∧ shapeField 7 = some (265, 48, true) ∧ shapeField 0 = some (448, 64, false)
    ∧ ∀ v : DWord, v = 7 ∨ v = 8 ∨ v = 0x7FFFFFFFFFFF ∨ v = 0x800000000000 ∨ v = 0xFFFF800000000000 → engVal (g4 v) 0 0 (.s 4) = v
      ∧ Passes (.shset hdG 2 2 (.s 4)) (t4 v) (g4 v) 0 ∧ Passes (.shget hdG (.s 4) 2 19) (t4 v) (g4 v) 0 := by
  refine ⟨?_, ?_, by decide, by decide, by decide, by decide, ?_⟩
  · rintro v (rfl | rfl) <;> exact ⟨issuing _ _, alone.2, activeG4 _, passes rfl (by decide +kernel), passes rfl (by decide +kernel), by decide +kernel, rfl, unheld,
      by unfold ScratchWf; decide +kernel, rfl, rfl⟩
  · intro b hb
    have st : ∀ t : Team, t.tid = 0 → t.spsz = 4096 → ∀ i < 16,
        steer (dev t).m t (g4 0xF000000000000) 0 ((0xF000000000000 : DWord) + BitVec.ofNat 64 (4 * i)) 4 = .ok (.sp 0 (4 * i) false) := by
      intro t h0 h1 i hi
      interval_cases i <;> simp [steer, locTeamSp, h0, h1]
    refine ⟨fun i hi => ⟨_, st _ rfl rfl i hi, ?_⟩, ?_, st _ rfl rfl⟩
    · refine ⟨_, ⟨_, rfl, rfl, congrArg (spWord _) (show 4 * i = 4 * i - 4 * i % 4 by omega)⟩, ?_⟩
      rw [show (Loc.sp 0 (4 * i) false).off % 4 = 0 from Nat.mul_mod_right 4 i]
      exact rd32 _
    · rcases hb with rfl | rfl <;> decide +kernel
  · rintro v (rfl | rfl | rfl | rfl | rfl) <;> exact ⟨by decide +kernel, passes rfl (by decide +kernel), passes rfl (by decide +kernel)⟩
/-- A team at the rendezvous of instruction i, whose group holds shapes and s4. -/
def tArrH (i : Instr) (v : DWord) (l : List (BitVec 512)) : Team :=
  { teamOf { withH (g4 v) l with status := .parked (.rendezvous none), npc := 8 } with rdvs := [rdvT i] }
/-- One slice of 128 words at scratchpad byte 0, its chunk map at byte 2,048. -/
def hBulk : BitVec 512 := shape [(1, 1), (2, 1), (3, 128), (10, 128), (18, 64)]
theorem wit_TeamWideIssue_bulk : let t := tArrH (.bulkLdBar hdT 0 0) 0 [hBulk]
    let v := rdvT (.bulkLdBar hdT 0 0)
    (dev t).m.team? 0 = some t ∧ t.rdv? none = some v ∧ rdvReady t v = true ∧ ctxRuns (dev t).m t.ctx = true
      ∧ bulkSlices (dev t).m t (wideMembers t v) 0 = [(0, hBulk)] ∧ bulkFail t (some 0) [Shape.of hBulk] = none ∧ Memory.wf t.scratch = true
      ∧ (Shape.of hBulk).sdst = 0 ∧ (Shape.of hBulk).dense = 512 ∧ (Shape.of hBulk).mapoff * 32 = 2048 ∧ t.spsz = 4096 := by
  refine ⟨rfl, rfl, by decide +kernel, by decide +kernel, by decide +kernel, by decide +kernel, rfl, by decide +kernel, by decide +kernel, by decide +kernel, rfl⟩
/-- The member list 1, 0 at the start of the scratchpad: a set of group 0 alone. -/
theorem wit_TeamWideIssue_setdecl : let t : Team := { tArrH (.setdecl hdT 2 (.s 4)) 0xF000000000000 [] with scratch := [(0, 1)] }
    let v := rdvT (.setdecl hdT 2 (.s 4))
    let B : Nat → Byte := fun i => if i = 0 then 1 else 0
    (dev t).m.team? 0 = some t ∧ t.rdv? none = some v ∧ rdvReady t v = true ∧ ctxRuns (dev t).m t.ctx = true
      ∧ ∃ mb g, (wideMembers t v).head? = some mb ∧ t.group? mb.gno = some g ∧ Passes (.setdecl hdT 2 (.s 4)) t g 0
        ∧ (∀ i, i < 2 → ∃ loc, steer (dev t).m t g 0 (engVal g 0 0 (.s 4) + BitVec.ofNat 64 i) 1 = .ok loc
          ∧ Reads (dev t).m t loc (isStackAddr (engVal g 0 0 (.s 4) + BitVec.ofNat 64 i)) 1 ((B i).setWidth 64))
        ∧ (B 0).toNat = 1 ∧ [(B 1).toNat].Nodup ∧ ∀ x ∈ [(B 1).toNat], x < t.groups.length := by
  refine ⟨rfl, rfl, by decide +kernel, by decide +kernel, _, _, rfl, rfl, passes rfl (by decide +kernel), ?_, rfl, by decide, by decide +kernel⟩
  intro i hi
  interval_cases i
  · exact ⟨.sp 0 0 false, by decide +kernel, ⟨1, ⟨_, rfl, rfl, by decide +kernel⟩, by decide +kernel⟩⟩
  · exact ⟨.sp 0 1 false, by decide +kernel, ⟨1, ⟨_, rfl, rfl, by decide +kernel⟩, by decide +kernel⟩⟩

/-- A device whose tiles of core 0 are ts. -/
def devTiles (t : Team) (ts : List Tile) (ls : List Loop := []) : State :=
  { dev t with m := { (dev t).m with cores := (dev t).m.cores.modify 0 (fun k => { k with tiles := ts, loops := ls }) } }
/-- Tile 0 held as x says, tile 1 held by the group with INT32 type, the others free. -/
def tiles (x : Holder) : List Tile :=
  [{ Tile.initial with holder := x }, { Tile.initial with holder := .group 0 0, ty := .i32 }, Tile.initial, Tile.initial]
/-- A bit-parallel A operand and a bit-serial B operand of signed bytes, one row and one column. -/
def hA : BitVec 512 := shape [(1, 13), (2, 2), (3, 32), (4, 1), (10, 32), (11, 1), (15, 1)]
def hB : BitVec 512 := shape [(1, 13), (2, 2), (3, 32), (4, 1), (10, 32), (11, 1), (14, 8), (15, 2), (17, 1024)]
/-- One step, no GEN, no pairing: the control word of a loop is 2^48. -/
def gLoop : Group := withH (g4 0x1000000000000) [hA, hB]
def loop0 (c : DWord) : Loop :=
  { lid := 0, tid := 0, gno := 0, tile := 0, ha := hA, hb := hB, aTid := 0, bTid := 0, aSnap := [], bSnap := [], ctrl := c, step := 0, running := false
    planesDone := false }
theorem issuingTiles (t : Team) (g : Group) (ts : List Tile) (ls : List Loop) (ht : t.tid = 0 := by rfl) (hg : t.group? 0 = some g := by rfl)
    (hb : g.back = none := by rfl) (hl : g.lost = [] := by rfl) : Issuing (devTiles t ts ls) r0 t g :=
  ⟨rfl, by simp [devTiles, dev, r0, Mach.team?, ht], hg, hb, hl⟩
/-- The tile held by the group, by its engine, by another group and by nobody; a team with and without an engine; room for a
loop and none; a loop that passes its checks and one of no steps that does not. -/
theorem wit_TokensAndLoops : (∀ x : Holder, x = .group 0 0 ∨ x = .engine 0 0 ∨ x = .group 0 1 ∨ x = .nobody →
      Issuing (devTiles (teamOf gLoop) (tiles x)) r0 (teamOf gLoop) gLoop ∧ ((devTiles (teamOf gLoop) (tiles x)).m.tile 0 0).holder = x)
    ∧ Alone hdG ∧ Active hdG gLoop 0 ∧ gLoop.status = .ready ∧ ((devTiles (teamOf gLoop) (tiles .nobody)).m.core 0).saccs = []
    ∧ (teamOf gLoop).core < (devTiles (teamOf gLoop) (tiles .nobody)).m.cores.length ∧ (teamOf gLoop).works = [] ∧ (teamOf gLoop).acc = true
    ∧ ({ teamOf gLoop with acc := false } : Team).acc = false ∧ Passes (.mloop hdG 0 0 1 (.s 4)) (teamOf gLoop) gLoop 0
    ∧ readH gLoop 0 0 1 = hA ∧ readH gLoop 1 0 2 = hB ∧ engVal gLoop 0 0 (.s 4) = 0x1000000000000
    ∧ mloopFail (devTiles (teamOf gLoop) (tiles (.group 0 0))).m (teamOf gLoop) gLoop (loop0 0x1000000000000) = none
    ∧ mloopFail (devTiles (teamOf gLoop) (tiles (.group 0 0))).m (teamOf gLoop) gLoop (loop0 0) = some 0x1CC
    ∧ (loop0 0x1000000000000).pmode = 0
    ∧ (((devTiles (teamOf gLoop) (tiles (.group 0 0)) (List.replicate 4 (loop0 0))).m.core 0).loops.filter (fun y => !y.planesDone)).length = 4
    ∧ macqWaiters (devTiles (teamOf gLoop) (tiles (.group 0 0))).m 0 0 = [] ∧ tokenRival (devTiles (teamOf gLoop) (tiles .nobody)).m 0 0 = false
    ∧ tokenRival (devTiles (teamOf gLoop) (tiles .nobody)).m 0 1 = true
    ∧ (let m := (devTiles (teamOf { gLoop with status := .parked (.macq 0) }) (tiles .nobody)).m
       macqWaiters m 0 0 ≠ [] ∧ ∀ w ∈ macqWaiters m 0 0, w.1 ≠ { tid := 0, gno := 1 })
    ∧ loopOn (devTiles (teamOf gLoop) (tiles (.engine 0 0))).m 0 0 = false
    ∧ loopOn (devTiles (teamOf gLoop) (tiles (.engine 0 0)) [loop0 0]).m 0 0 = true := by
  refine ⟨?holder, alone.2, fun _ => by decide +kernel, rfl, ?before⟩
  case holder => rintro x (rfl | rfl | rfl | rfl) <;> exact ⟨issuingTiles _ _ _ _, by decide +kernel⟩
  and_intros <;> first | exact passes rfl (by decide +kernel) | decide +kernel

/-- A box of 32 by 2 FP32 elements at scratchpad byte 0. -/
def hTile : BitVec 512 := shape [(1, 3), (2, 2), (3, 32), (4, 2), (10, 32), (11, 2)]
/-- Sixteen columns of F32 from column 176, row 64. -/
def gTile : Group := withH (gS [(4, 0x030FB040), (5, 3712), (6, 0)]) [hTile]
theorem wit_TileData : let t := teamOf gTile
    let s := devTiles t (tiles (.group 0 0))
    Issuing s r0 t gTile ∧ Alone hdG ∧ Active hdG gTile 0 ∧ (s.m.core 0).saccs = [] ∧ t.core < s.m.cores.length ∧ t.works = [] ∧ t.acc = true
      ∧ (s.m.tile 0 0).holder = .group 0 0 ∧ (s.m.tile 0 0).ty = .f32 ∧ Sparse.wfFrom 0 (s.m.tile 0 0).els = true
      ∧ tileShapeFail t .f32 (Shape.of (readH gTile 0 0 1)) = none ∧ histOf hdG = none ∧ gTile.openCnt < 64
      ∧ Passes (.mldaReg hdG 0 (.v 16) (.s 4)) t gTile 0 ∧ Passes (.mdrainReg hdG 0 (.v 16) (.s 4)) t gTile 0
      ∧ regFormFail .f32 (engVal gTile 0 0 (.s 4)) = none
      ∧ Passes (.saccR hdG 0 (.s 5) (.a 1)) t gTile 0 ∧ Passes (.saccRc hdG 0 (.s 6) (.s 5) (.a 1)) t gTile 0
      ∧ (s.m.tile 0 1).holder = .group 0 0 ∧ (s.m.tile 0 1).ty = .i32 ∧ (engVal gTile 0 0 (.s 5)).toNat + 384 = t.spsz
      ∧ (engVal gTile 0 1 (.s 6)).toNat = 0 := by
  refine ⟨issuingTiles _ _ _ _, alone.2, fun _ => by decide +kernel, ?rest⟩
  and_intros <;> first | exact passes rfl (by decide +kernel) | decide +kernel
/-- A drain that counts into histogram 0, which the team has, and into histogram 1, which it has not. -/
theorem wit_TileData_counts : let t := teamOf gTile
    let s := devTiles t (tiles (.group 0 0))
    ∀ n ∈ [0, 1], let h : Hd := { hdG with mod := some { bare with ext := BitVec.ofNat 32 (8 + n) } }
      Issuing s r0 t gTile ∧ Alone h ∧ Active h gTile 0 ∧ histOf h = some n ∧ t.hists.length = 1 ∧ (t.hists.all fun q => q.ctr.length = 32)
        ∧ Passes (.mdrainReg h 0 (.v 16) (.s 4)) t gTile 0 := by
  intro t s n hn
  refine ⟨issuingTiles _ _ _ _, ?_⟩
  fin_cases hn <;> exact ⟨⟨.inr rfl, rfl⟩, fun _ => by decide +kernel, rfl, rfl, rfl, passes rfl (by decide +kernel)⟩
/-- Counter 32 is the histogram's own word, 33 does not exist. -/
theorem wit_TileData_hist : ∀ v : DWord, v = 31 ∨ v = 32 ∨ v = 33 → Issuing (dev (t4 v)) r0 (t4 v) (g4 v) ∧ Passes (.hrd hdG (.s 8) 0 (.s 4)) (t4 v) (g4 v) 0
    ∧ Passes (.hclr hdG 0 (.s 4)) (t4 v) (g4 v) 0 ∧ (t4 v).hists.length = 1 ∧ (engVal (g4 v) 0 0 (.s 4)).toNat = v.toNat := by
  rintro v (rfl | rfl | rfl) <;> exact ⟨issuing _ _, passes rfl (by decide +kernel), passes rfl (by decide +kernel), by decide +kernel, by decide +kernel⟩

/-- The supervisor's team. -/
def t1 (v : DWord) : Team := { t4 v with level := 1 }
/-- Values at the ends of the ranges of CTXB, QLIM, RVLIM, FPC, FQBASE, FQSIZE, FQHEAD and SVDONE, and a register that is read only. -/
theorem wit_SpecialRegisters : (∀ v, Issuing (dev (t1 v)) r0 (t1 v) (g4 v) ∧ Alone hdG ∧ Active hdG (g4 v) 0 ∧ (dev (t1 v)).m.ctx? (t1 v).ctx = some bareContext ∧ (dev (t1 v)).m.grid? (t1 v).gid = some (bareGrid 0))
    ∧ check hd (opSread hd (.v 3) 1) t0 g0 0 = none ∧ check hdG (opSread hdG (.s 8) 0x10) t0 g0 0 = none
    ∧ check hdG (opSread hdG (.s 8) 0x44) (t1 0) (g4 0) 0 = none ∧ t0.level = 0
    ∧ (∀ i ∈ [(0x40 : BitVec 8), 0x45], check hdG (opSread hdG (.s 7) i) t0 g0 0 = none)
    ∧ (∀ i ∈ [(0 : BitVec 8), 0x1B, 0x20, 0x2F, 0x40, 0x45], check hdG (opSwrite hdG i (.s 6)) t0 g0 0 = none) ∧ pendOf bareContext 5 = []
    ∧ ∀ i v, (i, v) ∈ [(0x13, 8), (0x13, 4), (0x14, 3), (0x14, 4), (0x15, 0xFFFF), (0x15, 0x10000), (0x17, 3), (0x41, 64), (0x41, 32), (0x42, 3), (0x42, 4),
        (0x42, 12), (0x42, 13), (0x42, 31), (0x17, 4), (0x42, 32), (0x43, 0xFFFF), (0x43, 0x10000), (0x45, 5), (0x45, 0x100000000), ((0 : BitVec 8), (9 : DWord))] →
      check hdG (opSwrite hdG i (.s 4)) (t1 v) (g4 v) 0 = none ∧ engVal (g4 v) 0 0 (.s 4) = v := by
  refine ⟨fun v => ⟨issuing _ _, alone.2, activeG4 v, rfl, rfl⟩, by decide +kernel, by decide +kernel, by decide +kernel, rfl,
    all_of (by decide +kernel), all_of (by decide +kernel), by decide, ?_⟩
  intro i v h
  exact all_of (p := fun x : BitVec 8 × DWord => check hdG (opSwrite hdG x.1 (.s 4)) (t1 x.2) (g4 x.2) 0 = none ∧ engVal (g4 x.2) 0 0 (.s 4) = x.2)
    (by decide +kernel) _ h

/-- A launch-queue table at physical address 0x10000 whose queue 0 has 16 slots at virtual address 4,096 and this TAIL; a kernel
descriptor at virtual address 0 in the home L2. -/
def kQ : Context := { bareContext with lqtab := 0x10000 }
def memQ (tail : Byte) : List Host.Cell := Memory.setBytes [] 0x10000 [0, 0x10, 0, 0, 0, 0, 0, 0, 4, 0, 0, 0, 0, 0, 0, 0, tail]
def descQ : List L2W := (List.range 16).map (fun i => { ctx := 0, va := 4 * i, val := if i = 4 then 0x01000040 else if i = 5 then 4096 else 0, d := true,
                                                         attr := { r := true, w := true, q := false, m := false, pt := false, efmt := 0 } })
/-- A record at scratchpad byte 0: a grid of one team of 32 lanes. -/
def recQ : List Host.Cell := Memory.setBytes [] 0 [0, 0, 0, 0, 0, 0, 0, 0, 0, 0, 0, 0, 0, 0, 0, 0, 1, 0, 0, 0, 1, 0, 1, 0, 32, 0, 1, 1]
def devQ (tail : Byte) : State :=
  let t : Team := { t4 0xF000000000000 with scratch := recQ }
  { dev t kQ with m := { (dev t kQ).m with mem := memQ tail, l2 := descQ, ctus := ctus0 { ctx := 0, page := 0, log := 16, leaf := 0x600000000000000F, leafPa := 0, ptrs := [] } } }
/-- Queue 15 and 16, aligned and misaligned addresses; a queue with room and a full one; a site range within the window. -/
theorem wit_LaunchAndSiteReset_checks : (∀ v, v = 0xF000000000000 ∨ v = 0xF000000000020 ∨ v = 0 ∨ v = 4 → Issuing (dev (t1 v)) r0 (t1 v) (g4 v) ∧ Active hdG (g4 v) 0
      ∧ check hdG (opLaunch hdG (.s 4) 15) (t1 v) (g4 v) 0 = none ∧ check hdG (opLaunch hdG (.s 4) 16) (t1 v) (g4 v) 0 = none
      ∧ check hdG (opSiterst hdG (.c 8) (.s 4)) (t1 v) (g4 v) 0 = none ∧ engVal (g4 v) 0 0 (.s 4) = v ∧ engVal (g4 v) 0 1 (.c 0) = 0
      ∧ Unheld (dev (t1 v)) (t1 v) (g4 v) (.launch hdG (.s 4) 15))
    ∧ t0.level = 0 ∧ resetSites s0.m t0 0 0 = (none, s0.m) := by
  refine ⟨?_, rfl, rfl⟩
  rintro v (rfl | rfl | rfl | rfl) <;>
    exact ⟨issuing _ _, activeG4 _, by decide +kernel, by decide +kernel, by decide +kernel, by decide +kernel, by decide +kernel, unheld⟩
theorem wit_LaunchAndSiteReset_queue : ∀ tail : Byte, tail = 15 ∨ tail = 16 →
    let s := devQ tail
    let t : Team := { t4 0xF000000000000 with scratch := recQ }
    let x := readWords16 (releaseBy (settle s.m r0) r0 0 .dev) t (g4 0xF000000000000) 0xF000000000000 16 []
    ∃ ws, x.1 = .ok ws ∧ x.2.ctx? 0 = some kQ
      ∧ recordOk s.fw x.2 kQ (LRec.of (ws.flatMap (fun w => leBytes 4 w.toNat))) = true ∧ (lqueue x.2 kQ 0).on = true
      ∧ (lqueue x.2 kQ 0).mode = 0 ∧ (lqueue x.2 kQ 0).full = decide (tail = 16) := by
  rintro tail (rfl | rfl) <;>
    exact ⟨(List.range 16).map (fun i => if i = 4 then 1 else if i = 5 then 0x10001 else if i = 6 then 0x01010020 else 0), by decide +kernel,
      by decide +kernel, by decide +kernel, by decide +kernel, by decide +kernel, by decide +kernel⟩
/-- A team of `g0` with one piece of work. -/
def tWork (k : WorkKind) : Team := { t0 with works := [{ wid := 0, gno := 0, kind := k, st := .run }] }
/-- The device of a team, with one page of 2 MiB at virtual and physical address 0 that all may read and write. -/
def devPage (t : Team) (k : Context := bareContext) : State :=
  { dev t k with m := { (dev t k).m with ctus := ctus0 { ctx := 0, page := 0, log := 21, leaf := 0xC000038000000000, leafPa := 0, ptrs := [] } } }
/-- That piece of work. -/
def work0 (k : WorkKind) : Work := { wid := 0, gno := 0, kind := k, st := .run }
/-- What the work clauses assume. -/
theorem working (k : WorkKind) : (devPage (tWork k)).m.team? 0 = some (tWork k)
    ∧ (tWork k).works.find? (fun y => y.wid == 0) = some (work0 k) ∧ Memory.wf (tWork k).scratch = true :=
  ⟨rfl, rfl, rfl⟩
/-- A copy of 16 bytes from byte 0 of the scratchpad to byte 64. -/
theorem wit_EngineEvents_copy : let t := tWork (.copy 0xF000000000040 0xF000000000000 16 16 none)
    t.aliases = [] ∧ ∀ i ∈ List.range 4,
      engLoc (devPage t).m t 0 0 (0xF000000000000 + BitVec.ofNat 64 (4 * i)) = .ok (.sp 0 (0 + 4 * i) false)
      ∧ engLoc (devPage t).m t 0 0 (0xF000000000040 + BitVec.ofNat 64 (4 * i)) = .ok (.sp 0 (64 + 4 * i) false) :=
  ⟨rfl, by decide +kernel⟩
/-- A chunk of 32 bytes of a dense matrix at address 0. -/
theorem wit_EngineEvents_bulk : let k : WorkKind := .bulk false [(0, hDense)] 0 1 4000 none [] 0
    let t := tWork k
    ctxRuns (devPage t).m t.ctx = true ∧ (work0 k).inOrder = false
      ∧ (loadLeft (work0 k) [(0, hDense)] 0 0).length = 32
      ∧ (engWords (devPage t).m (whoOf t 0) ((loadLeft (work0 k) [(0, hDense)] 0 0).filterMap (fun y => y.2.2.addr?)) []).1.toOption.isSome = true :=
  by and_intros <;> decide +kernel
/-- A chunk of four words for one receiver. -/
theorem wit_EngineEvents_mcast : let k : WorkKind := .mcast 0xF000000000000 16 64 [0] none none []
    let t := tWork k
    let x := readList (devPage t).m t (work0 k) 0 ((mcastLeft (work0 k) 64 16 0 0).map (fun p => 0xF000000000000 + BitVec.ofNat 64 (p - 64))) []
    mcastChunks 64 16 = 1 ∧ x.1 = [0, 0, 0, 0] ∧ x.2.1 = none ∧ x.2.2.teams = (devPage t).m.teams :=
  ⟨by decide, by decide +kernel, by decide +kernel, by decide +kernel⟩
/-- The last of two frames, of a fill and of an operation on two sources; address 4,095 lies in a destination of two frames, 4,096 does not. -/
theorem wit_EngineEvents_rows : let t := tWork (.row .xor 0 8192 16384 2 [0])
    rowHeld (devPage t).m t (work0 (.row .xor 0 8192 16384 2 [0])) 1 = false
      ∧ (∀ y ∈ t.works, y.gno = 0 → y.copyVas (devPage t).m t false true = []) ∧ frameFail (devPage t).m t 2048 [] = none ∧ frameFail (devPage t).m t 2048 [8192 + 2048, 16384 + 2048] = none
      ∧ paOf (devPage t).m t.ctx 2048 = some 2048 ∧ t.group? 0 = some g0 ∧ g0.status = .ready
      ∧ (devPage t).m.ctx? t.ctx = some bareContext ∧ (4095 : DWord).toNat < (0 : DWord).toNat + 2048 * 2
      ∧ ¬ (4096 : DWord).toNat < (0 : DWord).toNat + 2048 * 2 := by
  refine ⟨by decide +kernel, ?_, by decide +kernel, by decide +kernel, by decide +kernel, rfl, rfl, rfl, by decide, by decide⟩
  intro y hy _
  obtain rfl := List.mem_singleton.mp hy
  rfl
/-- A conversion of planes whose first word has shown, and a drain of which nothing has. -/
theorem wit_EngineEvents_put : (work0 (.put [(0, 1)])).kind = .put [(0, 1)] ∧ (work0 (.drain 0 64 [1, 2])).kind = .drain 0 64 [1, 2]
    ∧ (work0 (.drain 0 64 [1, 2])).did (0, 64) = false ∧ t0.group? 0 = some g0 ∧ g0.live = true := ⟨rfl, rfl, by decide +kernel, rfl, by decide +kernel⟩
/-- A loop of `gTile`, and its core. -/
def loopE : Loop := { lid := 0, tid := 0, gno := 0, tile := 0, ha := 0, hb := 0, aTid := 0, bTid := 0, aSnap := [], bSnap := [], ctrl := 0, step := 0, running := false, planesDone := false }
def coreW (l : Loop) : Core := { Core.initial with loops := [l] }
/-- A loop that waits, one that reads its planes, one that has read them; SACCs and no loop that runs. -/
theorem wit_EngineEvents_loops : (coreW loopE).loops.find? (fun y => !y.planesDone) = some loopE ∧ loopE.running = false
    ∧ (coreW { loopE with running := true }).loops.find? (fun y => y.running && !y.planesDone) = some { loopE with running := true }
    ∧ (coreW { loopE with running := true, planesDone := true }).loops.find? (fun y => y.running && y.planesDone)
        = some { loopE with running := true, planesDone := true }
    ∧ pairReady Mach.initial loopE = true ∧ pairReady { Mach.initial with cores := [coreW { loopE with pair := [0] }] } { loopE with pair := [0] } = true
    ∧ ∀ y ∈ (coreW loopE).loops, y.running = false := by
  refine ⟨rfl, rfl, rfl, rfl, by decide +kernel, by decide +kernel, ?_⟩
  intro y h
  cases h with
  | head => rfl
  | tail _ h => cases h
/-- A loop of one row and one column that reads a scratchpad as it stood, and a SACC, of a group that lives; a chunk that is the
first one left of a bulk transfer that was restarted. -/
def saccE : Sacc := { tid := 0, gno := 0, dst := 0, src := 1, rs := 0, cs := none, snap := [] }
theorem wit_EngineEvents_elements : let t := teamOf gLoop
    let s := devTiles t (tiles (.engine 0 0)) [{ loop0 0x1000000000000 with running := true, planesDone := true }]
    (∀ u, s.m.team? 0 = some u → u.scratch = []) ∧ s.m.group? r0 = some gLoop ∧ gLoop.live = true
      ∧ (Shape.of hA).dimAt 1 = 1 ∧ (Shape.of hB).dimAt 1 = 1 ∧ Sparse.wfFrom 0 (s.m.tile 0 0).els = true
      ∧ ({ Core.initial with saccs := [saccE] } : Core).saccs.head? = some saccE ∧ saccE.src ≠ saccE.dst
      ∧ (∀ i, i < 1 → i ∈ [0]) := by
  intro t s
  refine ⟨fun u hu => ?_, ?_⟩
  · obtain rfl : t = u := Option.some.inj hu
    rfl
  · and_intros <;> decide +kernel
/-- A group parked at a barrier, at a chunk map and for a token, RVLIM × 1,024 cycles ago; a rendezvous and a handshake as old. -/
def gPark (p : Park) : Group := { g0 with status := .parked p, waited := 16777216 }
def rdv0 : Rdv := { set := none, pc := 0, i := .nop hdT, arrived := [], elapsed := 16777216 }
theorem wit_WaitEvents : (∀ p, (dev (teamOf (gPark p))).m.team? 0 = some (teamOf (gPark p)) ∧ (teamOf (gPark p)).group? 0 = some (gPark p)
      ∧ (dev (teamOf (gPark p))).m.ctx? 0 = some bareContext)
    ∧ bareContext.rvlim ≠ 0 ∧ bareContext.rvlim.toNat * 1024 = 16777216
    ∧ (let t : Team := { t0 with rdvs := [rdv0] }
       t.rdv? none = some rdv0 ∧ rdvComplete t rdv0 = false ∧ bareContext.st = .running)
    ∧ pairingOf { (dev t0).m with pairings := [{ loop := loopE, elapsed := 16777216 }] } r0 = some { loop := loopE, elapsed := 16777216 }
    ∧ ({ g0 with outst := [.v 3] } : Group).outst.length = 1
    ∧ ({ g0 with outst := [.v 3] } : Group).reqs = [] ∧ ({ g0 with relPend := some (.dev, 0) } : Group).relPend = some (.dev, 0)
    ∧ (let s := dev (teamOf { g0 with relPend := some (.sys, 0) })
       relHeld s.m 0 = false ∧ relHeld (releaseBy s.m r0 0 .sys) 0 = false)
    ∧ (let t : Team := teamOf { g0 with status := .exited }
       groupSpent (dev t).m t { g0 with status := .exited } = true ∧ teamSpent (dev t).m t = true) := by
  refine ⟨fun p => ⟨rfl, rfl, rfl⟩, by decide, by decide, ⟨rfl, by decide +kernel, rfl⟩, rfl, rfl, rfl, rfl, ?_, ?_, ?_⟩ <;> decide +kernel
/-- A grid of one team that waits, one that has retired, and its first place. -/
def gridW : Grid := { bareGrid 1 with next := 0, waited := 2097152 }
def gridE : Grid := { bareGrid 1 with next := 1, retired := 1 }
def devGrid (g : Grid) : State := { State.reset with m := { Mach.initial with ctxs := [bareContext], grids := [g], nextGid := 2 } }
theorem wit_PlacementEvents : (devGrid gridE).m.grid? 1 = some gridE ∧ gridSpent (devGrid gridE).m gridE = true ∧ gridE.cplen = false
    ∧ (devGrid gridW).m.grid? 1 = some gridW ∧ gridW.waits = true ∧ gridW.aged = false ∧ 2097152 ≤ gridW.waited
    ∧ fitsAt (devGrid gridW).fw (devGrid gridW).m gridW 0 0 = true ∧ turnOf (devGrid gridW).fw (devGrid gridW).m gridW = true
    ∧ clusterCores gridW 0 0 = some [0] ∧ slicesOk (devGrid gridW).m 0 gridW.desc.valloc [7] = true
    ∧ gridW.ngroups * gridW.clsize = 1 := by
  refine ⟨rfl, ?_, rfl, rfl, ?_, rfl, ?_, ?_, ?_, ?_, ?_, ?_⟩ <;> decide +kernel
/-- A kernel descriptor at address 0 and a launch queue of 16 slots at 4,096, whose slot 0 holds a record of one team of 32 lanes
with a dependence on the word at 8,192, which holds 0. -/
def memRec (val : Byte) : List Host.Cell :=
  Memory.setBytes (Memory.setBytes (Memory.setBytes [] 0 [0, 0, 0, 0, 0, 0, 0, 0, 0, 0, 0, 0, 0, 0, 0, 0, 64, 0, 0, 1, 0, 16]) 4096 (recB val))
    0x10000 [0, 0x10, 0, 0, 0, 0, 0, 0, 4, 0, 0, 0, 0, 0, 0, 0, 1]
where
  recB (val : Byte) : List Byte := [0, 0, 0, 0, 0, 0, 0, 0, 0, 0, 0, 0, 0, 0, 0, 0, 1, 0, 0, 0, 1, 0, 1, 0, 32, 0, 1, 1, 4, 0, 0, 0,
    0, 0, 0, 0, 0, 0, 0, 0, 0, 0x20, 0, 0, 0, 0, 0, 0, val]
def devRec (val : Byte) : State :=
  { devPage t0 kQ with m := { (devPage t0 kQ).m with mem := memRec val } }
def isHead (x : Option (Context × LQueue × Option (List Byte))) (p : Context → List Byte → Bool) : Bool := match x with
  | some (k, _, some b) => p k b
  | _ => false
/-- Dependence values 0, which is met, and 1, which is not, of a record that is found; a record that is not. -/
theorem wit_LaunchAccept : (∀ val : Byte, val = 0 ∨ val = 1 → let s := devRec val
    isHead (headRecord s.fw s.m 0 0) (fun k b => let x := headFound s.fw s.m 0 k (some b)
      x.2.isSome && (LRec.of b).depen && (depMet x.1 0 (LRec.of b) == (val == 0))) = true)
    ∧ (headFound (devRec 0).fw (devRec 0).m 0 kQ (some [])).2 = none := by
  refine ⟨?_, by decide +kernel⟩
  rintro val (rfl | rfl) <;> decide +kernel
theorem wit_Doorbell : (0x10000 : DWord).extractLsb' 16 48 ≠ 0 ∧ (0xFFFF : DWord).extractLsb' 16 48 = 0 := by decide
/-- A core that drains for a CARVE and holds no team. -/
def coreDrain : Core := { Core.initial with draining := some 128 }
theorem wit_CarveChange : ∀ k : Core, k = coreDrain ∨ k = { coreDrain with failed := true } ∨ k = { coreDrain with failed := true, spare := some 24 } →
    let m : Mach := { Mach.initial with cores := [k] }
    (m.core 0).draining = some 128 ∧ coreTeams m 0 = [] ∧ m.core 0 = k := by
  rintro k (rfl | rfl | rfl) <;> exact ⟨rfl, rfl, rfl⟩
def coreL1 (w : L1W) : Core := { Core.initial with l1 := [w] }
/-- A dirty word in the L1 of core 0; a registered word; roll-calls of the first and of the last region; a rewrite; a held
write-back; a page of the host at 2^51; a word that the host may read and write. -/
theorem wit_MemoryEvents : (l1Find ((devL1 t0).m.core (24 * ((0 : BitVec 8).toNat / 64) + (0 : BitVec 8).toNat % 64)) 0 0 = some (own 0))
    ∧ (l1Find (coreL1 { own 0 with d := true }) 0 0 = some { own 0 with d := true })
    ∧ (let m : Mach := { Mach.initial with registry := [{ ctx := 0, region := 0, slice := sliceOf 0, words := [(0, 0)], grain := false }] }
       ownerOf m 0 0 = some 0 ∧ mirrorFind m ((0 : BitVec 8).toNat / 64 ^^^ 1) 0 0 = none)
    ∧ (∀ va ∈ [0, 0xF000000000000 - 4096], va < 0xF000000000000 ∧ inRoll Mach.initial 0 va = false
      ∧ inRoll { Mach.initial with rollCalls := [{ ctx := 0, va := regionBase va }] } 0 va = true)
    ∧ ({ Mach.initial with rewrites := [{ core := 0, ctx := 0, tid := 0, gno := 0, gid := 0, pc := 0, old := 0, new := 1 }] } : Mach).rewrites.length = 1
    ∧ tlbHit (dev t0).m 0 0 = none ∧ (dev t0).m.ctx? 0 = some bareContext
    ∧ heldReady (devPage t0).m { ctx := 0, va := 0, val := 1 } = true
    ∧ hostWord 0 0 = 0 ∧ hostWord (BitVec.allOnes 32) 31 = 2 ^ 39 - 4 ∧ (∀ pa ∈ [0, 4, 2 ^ 39 - 4], physLost (devPage t0).m pa = false)
    ∧ physLost { Mach.initial with memErr := [8] } 8 = true
    ∧ (∀ p ∈ [hostLine 0 0, hostLine (BitVec.allOnes 32) 31], targetOf p = some 0) ∧ State.reset.fw.lmode ≠ 2
    ∧ paOf { Mach.initial with ctus := modAt [] Mach.initial.ctus (ctuOf 0x8000000000000) (fun _ => [{ ctx := 0, page := 0x8000000000, log := 12, leaf := 0xE000000200000000, leafPa := 0, ptrs := [] }]) } 0 0x8000000000000
      = some 0x200000000000 := by
  refine ⟨?_, rfl, ⟨rfl, rfl⟩, ?_, rfl, rfl, rfl, ?_, ?_, ?_, ?_, ?_, ?_, ?_, ?_⟩ <;> decide +kernel
/-- A home that holds a code word of 8 bytes, whose rewrite waits, as it was fetched or as another; the code word of a page
of the program. -/
def codeL2 : List L2W := [0, 4].map (fun a => { ctx := 0, va := a, val := if a = 4 then 0x8C1C0801 else 0x000FC000, d := false,
                                                  attr := { r := true, w := false, q := true, m := false, pt := false, efmt := 0 } })
def rewriteE (w : DWord) : Rewrite := { core := 0, ctx := 0, tid := 0, gno := 0, gid := 0, pc := 0, old := w, new := 0x8C1C08010010C400 }
theorem wit_MemoryEvents_rewrite : ∀ w : DWord, w = 0x8C1C0801000FC000 ∨ w = 0x8C1C080100108400 →
    let m : Mach := { (devPage t0).m with l2 := codeL2 }
    rewriteOk (rewriteE w) = true ∧ (codeWord m 0 0).1 = some 0x8C1C0801000FC000 ∧ (codeWord m 0 0).2.registry = []
      ∧ (paOf (codeWord m 0 0).2 0 0).isSome = true := by
  rintro w (rfl | rfl) <;> and_intros <;> decide +kernel
/-- A page of 2 MiB of the host's memory, TIER 2, at virtual address 2^51, and a word of it in an L2, an L1 or an RDC. -/
def devHost : Mach :=
  { (dev t0).m with ctus := modAt [] Mach.initial.ctus (ctuOf 0x8000000000000) (fun _ =>
      [{ ctx := 0, page := 0x40000000, log := 21, leaf := 0xE000000200000000, leafPa := 0, ptrs := [] }]) }
def attrW : Attr := { r := true, w := true, q := false, m := false, pt := false, efmt := 0 }
theorem wit_MemoryEvents_snoop : let va := 0x8000000000000
    let p := hostLine 0 0
    paOf devHost 0 va = some p ∧ lossOf devHost p = none ∧ devHost.registry = [] ∧ Memory.wf devHost.mem = true
      ∧ (∀ j, (({ devHost with l2 := [{ ctx := 0, va := va, val := 7, d := true, attr := attrW }] } : Mach).core j).l1 = [])
      ∧ (∀ d, devHost.rdc.getD d [] = []) ∧ devHost.l2 = [] := by
  intro va p
  refine ⟨by decide +kernel, by decide +kernel, rfl, rfl, fun j => ?_, fun d => ?_, rfl⟩
  · show ((List.replicate 96 Core.initial).getD j Core.initial).l1 = []
    rw [List.getD_eq_getElem?_getD, List.getElem?_replicate]
    split <;> rfl
  · show (List.replicate 4 ([] : List RdcW)).getD d [] = []
    rw [List.getD_eq_getElem?_getD, List.getElem?_replicate]
    split <;> rfl
/-- Firmware with a context command that waits. -/
def fwCmd (op : DWord) : Firmware := { Firmware.initial with bootst := 0x100, ctxcmd := [op, 0, 0, 0, 0, 0, 4096, 0] }
/-- A device that holds no context, and the launch record of a supervisor's grid at 4,096. -/
def mCreate : Mach := { Mach.initial with mem := memRec 0, ctus := ctus0 { ctx := 0, page := 0, log := 21, leaf := 0xC000038000000000, leafPa := 0, ptrs := [] } }
/-- A saved context whose image is a header of 64 bytes with its digest, at 1 MiB. -/
def kImage : Context := { bareContext with st := .saved, savea := 1048576, imgSize := 64 }
def memImage : List Host.Cell := Memory.setBytes [] 1048576 (List.replicate 32 0 ++ sha3 (List.replicate 64 0))
def mImage : Mach := { (dev t0 kImage).m with mem := memImage, teams := [] }
/-- A context in each state, a team of it, a fatal record, a page request's record. -/
def kSt (x : CtxSt) : Context := { bareContext with st := x }
def pFatal (c : Cause) (wid : Option Nat) : Pending :=
  { seq := 0, cause := c, flags := 0, setn := 0, tid := 0, gno := 0, pc := 0, lmask := 1, addr := 0, detail := 0, aux := 0, npc := some 0, again := none, wid := wid
    add := none, acted := false }
def dump0 : Dump := { ctx := 0, primary := List.replicate 64 0, second := [], nsecall := 0 }
theorem wit_ContextEvents_commands : (∀ op ∈ [1, 2, 3, 4, 5], cmdPending (fwCmd (BitVec.ofNat 64 op)) op 0 = true)
    ∧ mCreate.ctx? 0 = none ∧ createFieldsOk (fwCmd 1) = true
    ∧ (let k := newContext mCreate (fwCmd 1) 0
       let m0 := (List.range 16).foldl (fun m q => lqTouch m k (BitVec.ofNat 4 q))
         (mscReads (if k.stktab = 0 then mCreate else mscReads mCreate k.stktab 64) k.svlr 64)
       let m' := { m0 with ctxs := m0.ctxs ++ [k] }
       let x := LRec.of (physBytes m0 k.svlr 64)
       recordOk (fwCmd 1) m' k x = true ∧ (descOf m' 0 x).isSome = true)
    ∧ recordReads mCreate ((fwCmd 1).ctxcmd.getD 6 0).toNat = true ∧ recordReads { mCreate with memErr := [4096] } 4096 = false
    ∧ (∀ x, (dev t0 (kSt x)).m.ctx? 0 = some (kSt x)) ∧ (dev t0).m.dumps = []
    ∧ teamQuiet (dev t0 (kSt .saving)).m t0 = true
    ∧ (finishSave { (dev t0 (kSt .saving)).m with teams := [] } 0).1 = true ∧ ctxTeams { (dev t0 (kSt .saving)).m with teams := [] } 0 = []
    ∧ (clusterMates (dev t0 (kSt .saving)).m t0).all (teamQuiet (dev t0 (kSt .saving)).m) = true
    ∧ holdsWrites (emptyContext (dev t0).m 0) 0 = false
    ∧ holdsWrites (emptyContext { (dev t0).m with heldWb := [{ ctx := 0, va := 0, val := 0 }] } 0) 0 = true
    ∧ mImage.ctx? 0 = some kImage ∧ imageIntact { mImage with mem := [] } kImage = false ∧ imageIntact mImage kImage = true ∧ (restoreContext State.reset.fw (imageRead mImage kImage) kImage []).isSome = true := by
  refine ⟨?_, rfl, ?_, ⟨?_, ?_⟩, ?_, ?_, fun x => by rfl, rfl, ?_, ?_, rfl, ?_, ?_, ?_, rfl, ?_, ?_⟩ <;> decide +kernel
theorem wit_ContextEvents_dumps : let k := { bareContext with pend := [pFatal 0x130 none] }
    let t : Team := { t0 with level := 1 }
    (dev t k).m.team? 0 = some t ∧ t.level = 1 ∧ (dev t k).m.ctx? 0 = some k ∧ k.st ≠ .dead ∧ fatalRec (dev t k).m 0 0x130 r0 = some (pFatal 0x130 none)
      ∧ (∀ ks : List Context, ks = [] ∨ ks = [bareContext] → let m := { Mach.initial with ctxs := ks, dumps := [dump0] }
        m.dumps = dump0 :: [] ∧ m.ctx? dump0.ctx = ks.head?)
      ∧ (∀ op : DWord, op = 3 ∨ op = 5 → cmdOp (fwCmd op) = op.toNat ∧ cmdCtx (fwCmd op) = dump0.ctx ∧ (fwCmd op).ctxcmd ≠ [])
      ∧ fatalRec { (dev t k).m with dumps := [dump0] } 0 0x130 r0 = some (pFatal 0x130 none) ∧ (pFatal 3 (some 0)).wid = some 0 ∧ (0xFFFF : DWord).extractLsb' 16 48 = 0 ∧ (0x10000 : DWord).extractLsb' 16 48 ≠ 0 := by
  refine ⟨rfl, rfl, rfl, by decide, rfl, ?_, ?_, rfl, rfl, by decide, by decide⟩
  · rintro ks (rfl | rfl) <;> exact ⟨rfl, rfl⟩
  · rintro op (rfl | rfl) <;> exact ⟨by decide, by decide, by decide⟩

/-- Link and target numbers at the ends of their ranges; throttling to the last step; a device that samples at cycle 0; the
firmware states that boot, attestation and cooling start from. -/
theorem wit_ManagementEvents : State.reset.fw.bootst = 0 ∧ (fwCmd 0).bootst.getLsbD 8 = true
    ∧ (∀ v ∈ [0, 8], (BitVec.ofNat 5 v).toNat ≤ 8 ∧ ∀ x ∈ State.reset.m.loss, x.1 ≠ (BitVec.ofNat 5 v).toNat)
    ∧ (∀ v ∈ [0, 11], (BitVec.ofNat 4 v).toNat < 12 ∧ (∀ x ∈ State.reset.m.loss, x.1 ≠ 9 + (BitVec.ofNat 4 v).toNat)
      ∧ State.reset.fw.links.getLsbD (BitVec.ofNat 4 v).toNat = true)
    ∧ (∃ x ∈ ({ Mach.initial with loss := [(8, 0x200)] } : Mach).loss, x.1 = (8 : BitVec 5).toNat)
    ∧ (2 : BitVec 2) ≠ 3 ∧ ({ Firmware.initial with spares := [[], [], [], []] } : Firmware).spares.getD (95 / 24) [] = []
    ∧ (State.reset.m.core 95).removed = false ∧ (State.reset.m.core 95).failed = false
    ∧ State.reset.fw.throttle + 29 < 30 ∧ ({ Firmware.initial with holdLaunch := true } : Firmware).holdLaunch = true
    ∧ ({ Firmware.initial with ftsrc := 1 } : Firmware).ftsrc.extractLsb' 0 2 ≠ 0
    ∧ (let fw : Firmware := { Firmware.initial with chambray := Firmware.initial.chambray.set 0 { Chambray.initial with sctl := 0x102E } }
       sampleOpen fw Mach.initial 95 7 = true) ∧ sliceSpent Mach.initial 95 7 = true := by
  refine ⟨rfl, ?_, ?_, ?_, ⟨_, List.mem_singleton.mpr rfl, rfl⟩, ?_, rfl, ?_, ?_, ?_, rfl, ?_, ?_, ?_⟩ <;> decide +kernel

/-- A group with a load outstanding at a host word; a core with a team and a spare, and one with neither; a command word with a
reserved bit set and one with none. -/
theorem wit_ManagementEvents_cores : (let q : Req := { i := .nop hd, pc := 0, ids := [.v 3], img := 0, lanes := [{ lane := 0, va := 0x8000000000000, size := 4, far := true }], late := false }
      let g : Group := { g0 with reqs := [q] }
      let e : TlbE := { ctx := 0, page := 0x8000000000, log := 12, leaf := 0xE000000200000000, leafPa := 0, ptrs := [] }
      let m : Mach := { (dev (teamOf g)).m with ctus := modAt [] Mach.initial.ctus (ctuOf 0x8000000000000) (fun _ => [e]) }
      m.team? 0 = some (teamOf g) ∧ (teamOf g).group? 0 = some g ∧ g.live = true ∧ m.ctx? 0 = some bareContext ∧ m.loss = []
        ∧ q.lanesOn m (0 : BitVec 5).toNat 0 ≠ [])
    ∧ coreTeams (dev t0).m 0 = [t0] ∧ coreTeams (dev t0).m 95 = [] ∧ ((dev t0).m.core 0).removed = false ∧ ((dev t0).m.core 0).failed = false
    ∧ (∀ sp : List Nat, sp = [] ∨ sp = [24, 25] → ({ Firmware.initial with spares := [sp, [], [], []] } : Firmware).spares.getD (0 / 24) [] = sp)
    ∧ (0x800002 : DWord).extractLsb' 23 41 ≠ 0 ∧ (0x800002 : DWord).extractLsb' 0 8 ≠ 1
    ∧ ((0x800001 : DWord).extractLsb' 23 41 ≠ 0 ∧ (0x800001 : DWord).extractLsb' 0 8 = 1 ∧ State.reset.fw.ctxcmd.head? = some 0
      ∧ cmdOp State.reset.fw = 0 ∧ cmdOp (fwCmd 1) = 1 ∧ cmdOp (fwCmd 5) = 5) := by
  refine ⟨⟨rfl, rfl, ?_, rfl, rfl, ?_⟩, rfl, ?_, ?_, ?_, ?_, ?_, ?_, ?_⟩
  case refine_6 => rintro sp (rfl | rfl) <;> rfl
  all_goals decide +kernel
/-- No watch register hits at the addresses of the witnesses, whatever the access. -/
theorem wit_Unwatched : ∀ x ∈ [((0xF000000000000 : DWord), 4, (⟨true, false⟩ : Made)), (0xF000000000000, 4, ⟨true, true⟩), (0xF000000000000, 64, ⟨true, false⟩),
    (0xF000000000000, 64, ⟨false, true⟩)], watchHit (dev (t4 x.1)).fw (dev (t4 x.1)).m (t4 x.1).ctx x.2.2 x.1 x.2.1 = false := all_of (by decide +kernel)
/-- The last byte of the last frame of two on two sources may meet row data; the byte after it may not, nor a fill. -/
theorem wit_EngineEvents_rowData : let m := (devPage t0).m
    rowDataAt m 0 (.row .and 0 8192 16384 2 [0]) 4095 = true ∧ rowDataAt m 0 (.row .and 0 8192 16384 2 [0]) 4096 = false
      ∧ rowDataAt m 0 (.row .and 0 8192 16384 2 [1]) 4095 = false := by decide +kernel
/-- Write-backs that wait and memory with an error: none; a loop whose context runs; a reset of a site range below the level-0
test. -/
theorem wit_EngineEvents_quiet : (devPage t0).m.heldWb = [] ∧ (devPage t0).m.memErr = [] ∧ loopRuns (dev t0).m loopE = true
    ∧ (t1 0).level ≠ 0 ∧ (g4 0).siteAt = none := by decide +kernel
/-- `pgreq` of a word of the global window, of a stack byte and of a scratchpad byte. -/
theorem wit_PageRequests_where : (0 : DWord).toNat < 0xF000000000000 ∧ isStackAddr 0xF200000000000 = true
    ∧ ¬ (0xF000000000000 : DWord).toNat < 0xF000000000000 ∧ isStackAddr 0xF000000000000 = false := by decide +kernel
/-- A rendezvous none of whose members may issue. -/
theorem wit_WaitEvents_members : let t : Team := { teamOf gArr with rdvs := [rdv0] }
    ∀ n ∈ liveMembers t none, ∀ q, t.group? n = some q → isCandidate (dev t).m t q = false := by
  intro t n _ q hq
  obtain rfl := only_group (t := t) rfl hq
  decide +kernel
/-- A group that issues `nop`, in a device with no event that waits; a device with no group. -/
theorem wit_StepRunsDecoded : (beginStep s0.m).agenda = [] ∧ (firstOf (promptEvents { s0 with m := beginStep s0.m })).isNone = true
    ∧ (slowEvent { s0 with m := beginStep s0.m }).isNone = true ∧ nextGroup (beginStep s0.m) = some r0
    ∧ decode 0x00DC000000000006 0 = .ok (.nop hd) ∧ ((0x00DC000000000006 : DWord).getLsbD 49 = false)
    ∧ nextGroup (beginStep State.reset.m) = none ∧ (firstOf (timeoutEvents { State.reset with m := beginStep State.reset.m })).isNone = true := by
  refine ⟨rfl, ?_, ?_, ?_, by decide +kernel, by decide, rfl, ?_⟩ <;> decide +kernel
theorem wit_StepRunsDecoded_fetch : ∀ w : DWord, w = 0x00DC000000000006 ∨ w = 0 →
    let s : State := { s0 with m := { s0.m with cores := s0.m.cores.modify 0 (fun k => { k with icache := [{ ctx := 0, va := 0, words := List.replicate 16 w, q := false, pt := false }] }) } }
    let m1 := traceSync s.fw (beginStep s.m) r0
    ∃ t g, m1.team? 0 = some t ∧ t.group? 0 = some g ∧ g.redo = none ∧ (fetchWord m1 t g.pc).1.toOption = some w
      ∧ ((instrOf m1 t g).1.toOption.isSome = decide (w ≠ 0)) := by
  rintro w (rfl | rfl) <;> exact ⟨_, _, rfl, rfl, by decide +kernel, by decide +kernel, by decide +kernel⟩
theorem wit_ProgramsNeverStop : (Instr.nop hd).parts.isSome = true ∧ Issuing s0 r0 t0 g0 := ⟨rfl, issuing t0 g0⟩
/-- A group that has `nop` to run again. -/
theorem wit_StepsGoOn : ∀ x ∈ (dev (teamOf { g0 with redo := some { i := .nop hd, left := 1, fin := 0, watch := [], back := none } })).m.teams, ∀ g ∈ x.groups,
    ∀ d, g.redo = some d → d.i.parts.isSome = true := by
  intro x hx g hg d hd
  rcases List.mem_singleton.mp hx with rfl
  rcases List.mem_singleton.mp hg with rfl
  cases hd; rfl
def isNext (o : Host.Outcome State Fault Refusal) : Bool := match o with
  | .next _ => true
  | _ => false
theorem next_of {o : Host.Outcome State Fault Refusal} (h : isNext o = true) : ∃ s', o = .next s' := by cases o <;> simp_all [isNext]
theorem legal_chambray : LegalChambray Chambray.initial := by
  refine ⟨?_, by decide, ?_, by decide, all_of (by decide +kernel)⟩
  · refine ⟨by decide, by decide, by decide, by decide, by decide⟩
  · refine ⟨by decide, by decide, by decide⟩
theorem wit_FirmwareLegalKept_reset : LegalFirmware State.reset.fw :=
  ⟨by decide, by decide, by decide, by decide, fun _ h => List.eq_of_mem_replicate h ▸ legal_chambray⟩
/-- The machine after reset is sound, and a step is taken from it. -/
theorem wit_InvariantKept : MachInv State.reset.m ∧ MachInv { Mach.initial with agenda := [.hostLinkTraining 2] } := by
  refine ⟨⟨rfl, ?_, all_of (by decide +kernel), ?_, ?_⟩, ⟨rfl, ?_, all_of (by decide +kernel), ?_, ?_⟩⟩ <;> intro x h <;> nomatch h
theorem wit_FirmwareLegalKept : ∃ s', step { State.reset with m := { Mach.initial with agenda := [.hostLinkTraining 2] } } = .next s' :=
  next_of (by decide +kernel)
/-! ### One step of an instruction: the values that the spec states -/

/-- A group whose v1 and v2 hold one value in every lane. -/
def gV (ty : BitVec 4) (a b : Word) : Group :=
  { g0 with regs := { g0.regs with v := (g0.regs.v.set 1 { lanes := List.replicate 32 a, tag := ty, u := true }).set 2 { lanes := List.replicate 32 b, tag := ty, u := true } } }
/-- Lane 0 of v3 after an instruction. -/
def v3 (ty : BitVec 4) (a b : Word) (i : Instr) : Option Word := laneAfter i (dev (teamOf (gV ty a b))) 3 0

/-- R257. -/
theorem test_mulhi : v3 1 (-2) 3 (.mulhi hd .i32 (.v 3) (.v 1) (.v 2)) = some (-1) ∧ v3 2 0xFFFFFFFF 2 (.mulhi hd .n32 (.v 3) (.v 1) (.v 2)) = some 1 := by decide +kernel
theorem test_abs_minimum : v3 1 0x80000000 0 (.abs hd .i32 (.v 3) (.v 1)) = some 0x80000000
    ∧ v3 1 0x80000000 0 (.abs { hd with mod := some { bare with sat := true } } .i32 (.v 3) (.v 1)) = some 0x7FFFFFFF := by decide +kernel
/-- R258. -/
theorem test_div_rem : v3 1 (-7) 2 (.rem hd .i32 (.v 3) (.v 1) (.v 2)) = some (-1) ∧ v3 1 (-7) 2 (.div hd .i32 (.v 3) (.v 1) (.v 2)) = some (-3) := by decide +kernel
theorem test_div_corners : v3 1 5 0 (.div hd .i32 (.v 3) (.v 1) (.v 2)) = some (-1) ∧ v3 1 5 0 (.rem hd .i32 (.v 3) (.v 1) (.v 2)) = some 5
    ∧ v3 1 0x80000000 (-1) (.div hd .i32 (.v 3) (.v 1) (.v 2)) = some 0x80000000 ∧ v3 1 0x80000000 (-1) (.rem hd .i32 (.v 3) (.v 1) (.v 2)) = some 0 := by decide +kernel
/-- R259: the last count is 33 modulo 32. -/
theorem test_shifts : v3 1 (-8) 1 (.shr hd .i32 (.v 3) (.v 1) (.v 2)) = some 0x7FFFFFFC ∧ v3 1 (-8) 1 (.sar hd .i32 (.v 3) (.v 1) (.v 2)) = some (-4)
    ∧ v3 1 3 33 (.shl hd .i32 (.v 3) (.v 1) (.v 2)) = some 6 := by decide +kernel
theorem test_andn_clz_brev : v3 2 0xFF 0x0F (.andn hd .n32 (.v 3) (.v 1) (.v 2)) = some 0xF0 ∧ v3 2 0 0 (.clz hd .n32 (.v 3) (.v 1)) = some 32
    ∧ v3 2 1 0 (.brev hd .n32 (.v 3) (.v 1)) = some 0x80000000 := by decide +kernel
/-- R260. -/
theorem test_bfe : v3 2 0xF80 0x507 (.bfe hd .n32 (.v 3) (.v 1) (.v 2)) = some 0x1F ∧ v3 1 0xF80 0x507 (.bfe hd .i32 (.v 3) (.v 1) (.v 2)) = some (-1) := by decide +kernel
/-- R289: element 0 rounds down to the largest finite number. -/
theorem test_fadd2 : v3 7 0x3C007BFF 0x3C003C00 (.fadd2 hd .f16 (.v 3) (.v 1) (.v 2)) = some 0x40007BFF := by decide +kernel
/-- R91, R280: 1 + 2^−24 is a tie and goes to even; 1 + 3 × 2^−24 is a tie and goes up. -/
theorem test_fadd_ties : v3 3 0x3F800000 0x33800000 (.fadd hd .f32 (.v 3) (.v 1) (.v 2)) = some 0x3F800000
    ∧ v3 3 0x3F800001 0x33800000 (.fadd hd .f32 (.v 3) (.v 1) (.v 2)) = some 0x3F800002 := by decide +kernel
/-- R94: infinity less infinity is the default NaN. -/
theorem test_invalid : v3 3 0x7F800000 0xFF800000 (.fadd hd .f32 (.v 3) (.v 1) (.v 2)) = some 0x7FC00000 := by decide +kernel

/-- The window example of R272. -/
theorem test_movxw : let g := withX (gV 1 0 9) (fun l => if l = 0 then 2 else 3)
    let d := (after (.movxw { hd with pred := 1 } .i32 (.v 40) (.v 2) (.x 0) (.c 4)) (dev (teamOf { g with regs := { g.regs with p := [0, 3, 0, 0, 0, 0, 0] } })))
    d.map (fun g => ((g.regs.vreg 42).lane 0, (g.regs.vreg 43).lane 1, (g.regs.vreg 42).tag, (g.regs.vreg 43).u, (g.regs.vreg 42).lane 1)) = some (9, 9, 1, false, 0) := by
  decide +kernel

/-- The group of the divergent region after R256, before its BRD, and what each step there leaves. -/
def gDiv : Group := { withV g0 1 (fun l => BitVec.ofNat 32 l) with pc := 0x2008, regs := { (withV g0 1 (fun l => BitVec.ofNat 32 l)).regs with p := [0, 0xFFFF, 0, 0, 0, 0, 0] } }
def eDiv : Entry := { j := 0x2040, res := 0x2030, pend := 0x0000FFFF, save := 0xFFFFFFFF }
theorem test_brd : (after (.brd { hd with pred := 1 } 5 7) (dev (teamOf gDiv))).map (fun g => (g.pc, g.amask, g.stack)) = some (0x2010, 0xFFFF0000, [eDiv]) := by decide +kernel
theorem test_exit : (after (.exit { hd with pred := 2 }) (dev (teamOf { gDiv with
      pc := 0x2020, amask := 0xFFFF0000, stack := [eDiv], regs := { gDiv.regs with p := [0, 0, 0x00200000, 0, 0, 0, 0] } }))).map
    (fun g => (g.pc, g.amask, g.stack.map (fun e => (e.pend, e.save)))) = some (0x2028, 0xFFDF0000, [(0x0000FFFF, 0xFFDFFFFF)]) := by decide +kernel
theorem test_join_pending : (after (.join hd) (dev (teamOf { gDiv with pc := 0x2028, amask := 0xFFDF0000, stack := [{ eDiv with save := 0xFFDFFFFF }] }))).map
    (fun g => (g.pc, g.amask, g.stack.map (fun e => e.pend))) = some (0x2030, 0x0000FFFF, [0]) := by decide +kernel
theorem test_join_pops : (after (.join hd) (dev (teamOf { gDiv with pc := 0x2038, amask := 0x0000FFFF, stack := [{ eDiv with pend := 0, save := 0xFFDFFFFF }] }))).map
    (fun g => (g.pc, g.amask, g.stack)) = some (0x2040, 0xFFDFFFFF, []) := by decide +kernel
theorem test_ballot : let g := { gDiv with amask := 0xFFDFFFFF, regs := { gDiv.regs with p := [0, 0, 0x00200000, 0, 0, 0, 0] } }
    (after (.ballot hd .b1 (.s 4) (.p 2)) (dev (teamOf g))).map (fun g => ((g.regs.sreg 4).val, (g.regs.sreg 4).tag)) = some (0, 6) := by decide +kernel
theorem test_xred : let g := withV { g0 with amask := 0xFFDFFFFF } 2 (fun l => if l < 16 then BitVec.ofNat 32 (15 - l) else BitVec.ofNat 32 (l - 16))
    (after (.xredAdd hd .i32 (.s 5) (.v 2)) (dev (teamOf g))).map (fun g => ((g.regs.sreg 5).val, (g.regs.sreg 5).tag)) = some (235, 1) := by decide +kernel

/-- R256, R389: the cause and N of a record, and a group that is SUSPENDED with its PC as it was. -/
theorem test_trap : (match exec (.trap hd 5) s0 with
    | .next s => (s.m.ctx? 0).map (fun k => (k.pend.map (fun p => (p.cause, p.npc)), (s.m.group? r0).map (fun g => (g.status, g.pc, g.retired))))
    | _ => none) = some ([(0x2C5, some 8)], some (.suspended, 0, 0)) := by decide +kernel
/-- The example of R64: VALLOC 40. -/
def t40 : Team := { t0 with valloc := 40 }
def failOf (i : Instr) : Option Cause := (opOf i).bind (fun x => check x.1 x.2 t40 g0 0)
theorem test_register_checks : failOf (.mov hd .n64 (.v 38) (.v 36)) = none ∧ failOf (.mov hd .n64 (.v 39) (.v 36)) = some 0x45
    ∧ failOf (.mov hd .n32 (.v 40) (.v 36)) = some 0x46 ∧ failOf (.mov hd .n64 (.v 41) (.v 36)) = some 0x45 := by decide +kernel
/-- R297, R112: a word stored to the scratchpad at offset 4 loads back from there; the highest lane wins. -/
theorem test_store : (match exec (.st hd .n32 (.v 1) (.v 2) 4 .scratch false .team) (dev (teamOf (withV (withV g0 1 (fun l => BitVec.ofNat 32 (256 + l))) 2 (fun _ => 0)))) with
    | .next s => (s.m.team? 0).map (fun t => (spWord t 4, spWord t 0))
    | _ => none) = some (256 + 31, 0) := by decide +kernel
theorem test_atomic : let t : Team := { t4 0xF000000000000 with scratch := [(0, 5)] }
    (match exec (.atmAdd hdG .n32 (.s 6) (.s 4) (.c 1) false .team) (dev t) with
    | .next s => (s.m.team? 0).map (fun t => (spWord t 0, (t.groups.map (fun g => (g.regs.sreg 6).val))))
    | _ => none) = some (6, [5]) := by decide +kernel

/-- SHA3-256 of no bytes, as FIPS 202's own examples give it (R435). -/
theorem test_digest : ofLe (sha3 []).reverse = 0xa7ffc6f8bf1ed76651c14756a061d662f580ff4de43b49fa82d80a4b80f8434a := by decide +kernel
/-- R416: VA bit 26 alone names CTU 1 of the home die, VA bit 19 alone CTU 1 of the I-die. -/
theorem test_ctu : ctuOf (2 ^ 26) % 32 = 1 ∧ ctuOf (2 ^ 51 + 2 ^ 19) = 129 := by decide +kernel

end Sys2Proof.Tests
end

section
/-! Statements about one instruction of a group: which operations are those of a program instruction, and what the
instructions of `regOnly` do over any members. -/
namespace Sys2Proof.Machine

/-! ### Program instructions -/

/-- A program instruction means what issuing its operation means. -/
theorem exec_of_opOf {i : Instr} {h : Hd} {op : Op} (e : opOf i = some (h, op)) (s : State) : exec i s = issue s h i op := by
  cases i <;> cases e <;> rfl

theorem unheld_of_regOnly {i : Instr} {h : Hd} {ids : List RegId} (e : regOnly i = some (h, ids)) (s : State) (t : Team) (g : Group) :
    Unheld s t g i := by
  refine heldRelease_none ?_ ?_ _ _ _ <;> cases i <;> cases e <;> rfl

/-! ### The shapes of register-only instructions -/

/-- What a function of the registers may change. -/
def RegFrame (ids : List RegId) (F : Regs → Regs) : Prop := ∀ r id, id ∉ ids → SameReg r (F r) id

/-- The two shapes of an operation that writes the registers `ids` of its members and nothing else: one that computes each
member's result from that member, and one that computes it from the lane space of all. -/
inductive WritesRegs (h : Hd) : Op → List RegId → Prop
  | each (chk : Team → Group → Nat → Option Cause) (ids : List RegId)
      (f : Firmware → Mach → Team → Group → Group → Member → Regs → Regs)
      (hf : ∀ fw m t lead g mb, RegFrame ids (f fw m t lead g mb)) : WritesRegs h { chk := chk, body := regBody h.scope ids f } ids
  | cross (ws : List Want) (d : Opnd) (wide : Bool) (tag : BitVec 4) (f : Cross → Nat → DWord) :
      WritesRegs h (crossOp h ws d wide tag f) (d.ids wide)

theorem putVal_regFrame (pr : Mask) (mb : Member) (d : Opnd) (wide : Bool) (tag : BitVec 4) (f : Nat → DWord) :
    RegFrame (d.ids wide) (putVal pr mb d wide tag f) := fun r id hid => putVal_frame pr mb d wide tag f r id hid

theorem RegFrame.comp {ids ids' : List RegId} {F G : Regs → Regs} (hF : RegFrame ids F) (hG : RegFrame ids' G) :
    RegFrame (ids ++ ids') (fun r => G (F r)) := fun r id hid => by
  rw [List.mem_append, not_or] at hid
  exact sameReg_trans (hF r id hid.1) (hG _ id hid.2)

theorem RegFrame.mono {ids ids' : List RegId} {F : Regs → Regs} (hF : RegFrame ids F) (hs : ids ⊆ ids') : RegFrame ids' F :=
  fun r id hid => hF r id (fun hm => hid (hs hm))

theorem setP_regFrame (a : Mask) (n : Nat) (v : Mask) : RegFrame (if n = 7 then [] else [.p n]) (fun r => r.setP a n v) := by
  intro r id hid
  refine setP_frame r a n v id ?_
  by_cases h7 : n = 7
  · exact .inl h7
  · exact .inr (by simpa [h7] using hid)

theorem valOp_writesRegs (h : Hd) (ws : List Want) (d : Opnd) (wide : Bool) (tag : BitVec 4) (f : Eval → Nat → DWord) :
    WritesRegs h (valOp h ws d wide tag f) (d.ids wide) := by
  refine .each _ _ _ ?_
  exact fun _ _ _ _ _ _ => putVal_regFrame _ _ _ _ _ _

theorem arith1_writesRegs (k : IOp) (h : Hd) (ty : Ty) (d a : Opnd) : WritesRegs h (arith1 k h ty d a) (d.ids ty.wide) := by
  unfold arith1; exact valOp_writesRegs ..
theorem arith2_writesRegs (k : IOp) (h : Hd) (ty : Ty) (d a b : Opnd) : WritesRegs h (arith2 k h ty d a b) (d.ids ty.wide) := by
  unfold arith2; exact valOp_writesRegs ..
theorem arith3_writesRegs (k : IOp) (h : Hd) (ty : Ty) (d a b c : Opnd) : WritesRegs h (arith3 k h ty d a b c) (d.ids ty.wide) := by
  unfold arith3; exact valOp_writesRegs ..
theorem arithI_writesRegs (k : IOp) (h : Hd) (ty : Ty) (d a : Opnd) (v : BitVec 20) : WritesRegs h (arithI k h ty d a v) (d.ids ty.wide) := by
  unfold arithI; exact valOp_writesRegs ..
theorem logic1_writesRegs (k : LOp) (h : Hd) (ty : Ty) (d a : Opnd) : WritesRegs h (logic1 k h ty d a) (d.ids ty.wide) := by
  unfold logic1; exact valOp_writesRegs ..
theorem logic2_writesRegs (k : LOp) (h : Hd) (ty : Ty) (d a b : Opnd) : WritesRegs h (logic2 k h ty d a b) (d.ids ty.wide) := by
  unfold logic2; exact valOp_writesRegs ..
theorem logic3_writesRegs (k : LOp) (h : Hd) (ty : Ty) (d a b c : Opnd) : WritesRegs h (logic3 k h ty d a b c) (d.ids ty.wide) := by
  unfold logic3; exact valOp_writesRegs ..
theorem logicC_writesRegs (k : LOp) (h : Hd) (ty : Ty) (d a c : Opnd) : WritesRegs h (logicC k h ty d a c) (d.ids ty.wide) := by
  unfold logicC; exact valOp_writesRegs ..
theorem logicI_writesRegs (k : LOp) (h : Hd) (ty : Ty) (d a : Opnd) (v : BitVec 20) : WritesRegs h (logicI k h ty d a v) (d.ids ty.wide) := by
  unfold logicI; exact valOp_writesRegs ..
theorem icmp2_writesRegs (k : Cond) (h : Hd) (ty : Ty) (d a b : Opnd) : WritesRegs h (icmp2 k h ty d a b) (d.ids false) := by
  unfold icmp2 predOp; exact valOp_writesRegs ..
theorem icmpI_writesRegs (k : Cond) (h : Hd) (ty : Ty) (d a : Opnd) (v : BitVec 20) : WritesRegs h (icmpI k h ty d a v) (d.ids false) := by
  unfold icmpI predOp; exact valOp_writesRegs ..
theorem selOp_writesRegs (h : Hd) (ty : Ty) (d a b c : Opnd) : WritesRegs h (selOp h ty d a b c) (d.ids ty.wide) := by
  unfold selOp; exact valOp_writesRegs ..
theorem pk16_writesRegs (k : IOp) (h : Hd) (ty : Ty) (d a b : Opnd) : WritesRegs h (pk16 k h ty d a b) (d.ids false) := by
  unfold pk16; exact valOp_writesRegs ..
theorem farith1_writesRegs (k : FKind) (h : Hd) (ty : Ty) (d a : Opnd) : WritesRegs h (farith1 k h ty d a) (d.ids ty.wide) := by
  unfold farith1; exact valOp_writesRegs ..
theorem farith2_writesRegs (k : FKind) (h : Hd) (ty : Ty) (d a b : Opnd) : WritesRegs h (farith2 k h ty d a b) (d.ids ty.wide) := by
  unfold farith2; exact valOp_writesRegs ..
theorem farith3_writesRegs (k : FKind) (h : Hd) (ty : Ty) (d a b c : Opnd) : WritesRegs h (farith3 k h ty d a b c) (d.ids ty.wide) := by
  unfold farith3; exact valOp_writesRegs ..
theorem fsetOp_writesRegs (k : FCond) (h : Hd) (ty : Ty) (d a b : Opnd) : WritesRegs h (fsetOp k h ty d a b) (d.ids false) := by
  unfold fsetOp predOp; exact valOp_writesRegs ..
theorem fclassOp_writesRegs (h : Hd) (ty : Ty) (d a : Opnd) : WritesRegs h (fclassOp h ty d a) (d.ids false) := by
  unfold fclassOp; exact valOp_writesRegs ..
theorem frintOp_writesRegs (h : Hd) (ty : Ty) (d a : Opnd) : WritesRegs h (frintOp h ty d a) (d.ids ty.wide) := by
  unfold frintOp; exact valOp_writesRegs ..
theorem shflOp_writesRegs (k : ShOp) (h : Hd) (ty : Ty) (d a b : Opnd) : WritesRegs h (shflOp k h ty d a b) (d.ids ty.wide) := by
  unfold shflOp; exact .cross _ _ _ _ _
theorem xredOp_writesRegs (k : XOp) (h : Hd) (ty : Ty) (d a : Opnd) : WritesRegs h (xredOp k h ty d a) (d.ids ty.wide) := by
  unfold xredOp; exact .cross _ _ _ _ _
theorem xscanOp_writesRegs (k : XOp) (h : Hd) (ty : Ty) (d a : Opnd) : WritesRegs h (xscanOp k h ty d a) (d.ids ty.wide) := by
  unfold xscanOp; exact .cross _ _ _ _ _
theorem bcastOp_writesRegs (h : Hd) (ty : Ty) (d a b : Opnd) : WritesRegs h (bcastOp h ty d a b) (d.ids ty.wide) := by
  unfold bcastOp; exact .cross _ _ _ _ _
theorem immOp_writesRegs (h : Hd) (ty : Ty) (d : Opnd) (v : BitVec 20) (sh : Nat) : WritesRegs h (immOp h ty d v sh) (d.ids ty.wide) := by
  unfold immOp; exact valOp_writesRegs ..
theorem addpcOp_writesRegs (h : Hd) (d : Opnd) (v : BitVec 20) : WritesRegs h (addpcOp h d v) (d.ids true) := by
  unfold addpcOp; exact valOp_writesRegs ..
theorem addloOp_writesRegs (h : Hd) (d a : Opnd) (v : BitVec 20) : WritesRegs h (addloOp h d a v) (d.ids true) := by
  unfold addloOp; exact valOp_writesRegs ..
theorem voteOp_writesRegs (k : Bool) (h : Hd) (d a : Opnd) : WritesRegs h (voteOp k h d a) (d.ids false) := by
  unfold voteOp; exact .cross _ _ _ _ _
theorem ballotOp_writesRegs (h : Hd) (d a : Opnd) : WritesRegs h (ballotOp h d a) (d.ids false) := by
  unfold ballotOp; exact .cross _ _ _ _ _
theorem cvtOp_writesRegs (h : Hd) (ty src : Ty) (d a b c : Opnd) : WritesRegs h (cvtOp h ty src d a b c) (d.ids ty.wide) := by
  unfold cvtOp valOp
  dsimp only
  refine .each _ _ _ ?_
  exact fun _ _ _ _ _ _ => putVal_regFrame _ _ _ _ _ _

theorem movOp_writesRegs (h : Hd) (ty : Ty) (d a : Opnd) :
    WritesRegs h (movOp h ty d a) (d.ids (ty != .b1 && ty.wide)) := by
  by_cases hty : ty = .b1
  · rw [movOp, if_pos hty, show (ty != .b1 && ty.wide) = false by simp [hty]]
    exact valOp_writesRegs _ _ _ _ _ _
  · rw [movOp, if_neg hty, show (ty != .b1 && ty.wide) = ty.wide by simp [hty]]
    exact valOp_writesRegs _ _ _ _ _ _

theorem cvtefOp_writesRegs (kb : Nat) (h : Hd) (ty : Ty) (d a b c : Opnd) : WritesRegs h (cvtefOp kb h ty d a b c) (d.ids false) := by
  refine .each _ _ _ ?_
  exact fun _ _ _ _ _ _ => putVal_regFrame _ _ _ _ _ _

/-- `maxd2` writes D, then its decisions: a pair of predicates, or C. -/
theorem maxd2Op_writesRegs (h : Hd) (ty : Ty) (d a b c : Opnd) : WritesRegs h (maxd2Op h ty d a b c)
    (d.ids false ++ c.ids false ++ (match predPair c with | some n => [.p (n + 1)] | none => [])) := by
  refine .each _ _ _ ?_
  intro fw m t lead g mb
  have hd : ∀ f, RegFrame (d.ids false) (putVal g.present mb d false ty.tag f) := fun f => putVal_regFrame _ _ _ _ _ _
  cases c with
  | p n =>
    refine (((hd _).comp (setP_regFrame _ _ _)).comp (setP_regFrame _ _ _)).mono ?_
    refine List.append_subset.mpr ⟨List.subset_append_left _ _, fun id hid => List.mem_append_right _ ?_⟩
    split at hid <;> simp_all [predPair]
  | _ => exact ((hd _).comp (putVal_regFrame _ _ _ _ _ _)).mono (by simp [predPair])

/-- Every instruction of `regOnly` is a program instruction of one of the two shapes. -/
theorem regOnly_writesRegs {i : Instr} {h : Hd} {ids : List RegId} (e : regOnly i = some (h, ids)) :
    ∃ op, opOf i = some (h, op) ∧ WritesRegs h op ids := by
  cases i
  case abs | neg => cases e; exact ⟨_, rfl, arith1_writesRegs ..⟩
  case add | sub | mul | mulhi | min | max | div | rem => cases e; exact ⟨_, rfl, arith2_writesRegs ..⟩
  case mad => cases e; exact ⟨_, rfl, arith3_writesRegs ..⟩
  case addImm | subImm | mulImm | mulhiImm | minImm | maxImm => cases e; exact ⟨_, rfl, arithI_writesRegs ..⟩
  case not | popc | clz | brev => cases e; exact ⟨_, rfl, logic1_writesRegs ..⟩
  case and | or | xor | andn | shl | shr | sar | rotl => cases e; exact ⟨_, rfl, logic2_writesRegs ..⟩
  case bfi => cases e; exact ⟨_, rfl, logic3_writesRegs ..⟩
  case bfe => cases e; exact ⟨_, rfl, logicC_writesRegs ..⟩
  case andImm | orImm | xorImm | andnImm | shlImm | shrImm | sarImm | rotlImm => cases e; exact ⟨_, rfl, logicI_writesRegs ..⟩
  case setEq | setNe | setLt | setLe | setGt | setGe => cases e; exact ⟨_, rfl, icmp2_writesRegs ..⟩
  case setEqImm | setNeImm | setLtImm | setLeImm | setGtImm | setGeImm => cases e; exact ⟨_, rfl, icmpI_writesRegs ..⟩
  case mov => cases e; exact ⟨_, rfl, movOp_writesRegs ..⟩
  case sel => cases e; exact ⟨_, rfl, selOp_writesRegs ..⟩
  case movi | movhi => cases e; exact ⟨_, rfl, immOp_writesRegs ..⟩
  case addpc => cases e; exact ⟨_, rfl, addpcOp_writesRegs ..⟩
  case addlo => cases e; exact ⟨_, rfl, addloOp_writesRegs ..⟩
  case add2 | sub2 | min2 | max2 => cases e; exact ⟨_, rfl, pk16_writesRegs ..⟩
  case maxd2 => cases e; exact ⟨_, rfl, maxd2Op_writesRegs ..⟩
  case frcp | fsqrt | frsqrt | fexp2 | flog2 => cases e; exact ⟨_, rfl, farith1_writesRegs ..⟩
  case fadd | fsub | fmul | fmin | fmax | fdiv | fadd2 | fsub2 | fmul2 | fmin2 | fmax2 => cases e; exact ⟨_, rfl, farith2_writesRegs ..⟩
  case fma | fma2 => cases e; exact ⟨_, rfl, farith3_writesRegs ..⟩
  case fsetEq | fsetNe | fsetLt | fsetLe | fsetGt | fsetGe | fsetUnord | fsetOrd => cases e; exact ⟨_, rfl, fsetOp_writesRegs ..⟩
  case fclass => cases e; exact ⟨_, rfl, fclassOp_writesRegs ..⟩
  case frint => cases e; exact ⟨_, rfl, frintOp_writesRegs ..⟩
  case cvt => cases e; exact ⟨_, rfl, cvtOp_writesRegs ..⟩
  case cvtef | cvtefX2 => cases e; exact ⟨_, rfl, cvtefOp_writesRegs ..⟩
  case shfl | shflUp | shflDn | shflXor => cases e; exact ⟨_, rfl, shflOp_writesRegs ..⟩
  case voteAny | voteAll => cases e; exact ⟨_, rfl, voteOp_writesRegs ..⟩
  case ballot => cases e; exact ⟨_, rfl, ballotOp_writesRegs ..⟩
  case bcast => cases e; exact ⟨_, rfl, bcastOp_writesRegs ..⟩
  case xredAdd | xredMin | xredMax | xredAnd | xredOr | xredXor => cases e; exact ⟨_, rfl, xredOp_writesRegs ..⟩
  case xscanAdd | xscanMax => cases e; exact ⟨_, rfl, xscanOp_writesRegs ..⟩
  all_goals cases e

/-- An operation that writes the registers of one group, in either shape, is one write of them. -/
theorem WritesRegs.body_one {s : State} {r : GRef} {t : Team} {g : Group} {h : Hd} {op : Op} {ids : List RegId}
    (hw : WritesRegs h op ids) (hi : Issuing s r t g) (ha : Alone h) :
    ∃ F : Regs → Regs, (∀ id, id ∉ ids → SameReg g.regs (F g.regs) id)
      ∧ op.body s.fw s.m t.tid [memberOf g h s.m.draw] = (s.m.modGroup r (fun x => x.produce ids F), .done) := by
  cases hw with
  | each chk ids f hf =>
    refine ⟨f s.fw s.m t g g (memberOf g h s.m.draw), fun id hid => hf _ _ _ _ _ _ g.regs id hid, ?_⟩
    dsimp only
    rw [regBody_one ha.1 hi.here (hi.member h), hi.ref]
  | cross ws d wide tag f => exact crossOp_body hi ha ws d wide tag f

/-- Settles O10: the operation is one write of the group's registers, so that the group retires with no more changed. -/
theorem aluCompletes : Obligations.AluCompletes := by
  intro i h ids s r t g hr hi ha hp
  obtain ⟨op, ho, hw⟩ := regOnly_writesRegs hr
  rw [exec_of_opOf ho]
  exact completes_of_regs hi ha (hp h op ho) (unheld_of_regOnly hr s t g) (hw.body_one hi ha)

/-! ### Reading a source -/

/-- A place of a list, or the default where the list has none. -/
theorem getD_mem_or_eq {α : Type} (l : List α) (n : Nat) (d : α) : l.getD n d ∈ l ∨ l.getD n d = d := by
  rw [List.getD_eq_getElem?_getD]
  cases hn : l[n]? with
  | none => exact .inr rfl
  | some x => exact .inl (List.mem_of_getElem? hn)

/-- A read takes the value that some image of the registers holds (R54). -/
theorem pickVal_mem {α : Type} [DecidableEq α] (g : Group) (f : Regs → α) (draw slot lane : Nat) :
    ∃ q ∈ g.old ++ [g.regs], pickVal g f draw slot lane = f q := by
  have hmem : pickVal g f draw slot lane = f g.regs ∨ pickVal g f draw slot lane ∈ g.old.map f := by
    unfold pickVal
    generalize hxs : (g.old.map f).filter (fun x => x ≠ f g.regs) = xs
    have hsub : ∀ x ∈ xs, x ∈ g.old.map f := fun x hx => (List.mem_filter.mp (hxs ▸ hx)).1
    cases xs with
    | nil => exact .inl rfl
    | cons y ys =>
      rcases getD_mem_or_eq (y :: ys ++ [f g.regs]) (Config.pick draw slot lane % ((y :: ys).length + 1)) (f g.regs) with hm | he
      · rcases List.mem_append.mp hm with hm | hm
        · exact .inr (hsub _ hm)
        · exact .inl (List.mem_singleton.mp hm)
      · exact .inl he
  rcases hmem with he | hm
  · exact ⟨g.regs, by simp, he⟩
  · obtain ⟨q, hq, he⟩ := List.mem_map.mp hm
    exact ⟨q, List.mem_append_left _ hq, he.symm⟩

/-- Without unseparated producers a read takes the register as it stands. -/
theorem pickVal_separated {α : Type} [DecidableEq α] {g : Group} (ho : g.old = []) (f : Regs → α) (draw slot lane : Nat) :
    pickVal g f draw slot lane = f g.regs := by
  simp [pickVal, ho]

/-- Settles O20: a read of a source is one or two reads of a lane, each the value of some image. -/
theorem sourceReading : Obligations.SourceReading := by
  intro g draw slot l ty
  refine ⟨fun ho => ⟨?_, ?_, ?_, ?_⟩, ?_, ?_, ?_, ?_, ?_, ?_⟩
  · intro n; simp only [srcVal, readVLane, pickVal_separated ho]
  · intro n; simp only [srcVal, readS, pickVal_separated ho]
  · intro n; simp only [srcVal, readXLane, pickVal_separated ho]
  · intro n; simp only [srcVal, readPBit, pickVal_separated ho]
  · intro n hty
    obtain ⟨q, hq, hv⟩ := pickVal_mem g (fun r => (r.vreg n.toNat).lane l) draw (2 * slot) l
    exact ⟨q, hq, by simp [srcVal, readVLane, hty, hv]⟩
  · intro n hty
    obtain ⟨q, hq, hlo⟩ := pickVal_mem g (fun r => (r.vreg n.toNat).lane l) draw (2 * slot) l
    obtain ⟨q', hq', hhi⟩ := pickVal_mem g (fun r => (r.vreg (n.toNat + 1)).lane l) draw (2 * slot + 1) l
    exact ⟨q, hq, q', hq', by simp [srcVal, readVLane, hty, hlo, hhi]⟩
  · intro n
    obtain ⟨q, hq, hv⟩ := pickVal_mem g (fun r => (r.sreg n.toNat).val) draw (2 * slot) 32
    exact ⟨q, hq, by simp [srcVal, readS, hv]⟩
  · intro n
    obtain ⟨q, hq, hv⟩ := pickVal_mem g (fun r => r.xlane n.toNat l) draw (2 * slot) l
    exact ⟨q, hq, by simp [srcVal, readXLane, hv]⟩
  · intro n
    obtain ⟨q, hq, hv⟩ := pickVal_mem g (fun r => (r.preg n.toNat).has l) draw (2 * slot) l
    exact ⟨q, hq, by simp [srcVal, readPBit, hv]⟩
  · intro n
    exact pickVal_mem g (fun r => r.hreg n) draw slot 32

end Sys2Proof.Machine
end

section
/-! Set-wide instructions: arrival at a rendezvous (R27, R30, R37 to R40) and its issue (R35, R36, R39). -/
namespace Sys2Proof.Machine

/-! ### Arrival -/

/-- An instruction at SET or TEAM scope arrives at the rendezvous of its set. -/
theorem issueOn_wide {fw : Firmware} {m : Mach} {h : Hd} {i : Instr} {op : Op} {t : Team} {g : Group}
    (hs : h.scope = .set ∨ h.scope = .team) (hu : heldRelease m t g i = none) (hb : g.back = none) :
    issueOn fw m h i op t g = arrive fw m h i t g := by
  rcases hs with hs | hs <;> simp [issueOn, hs, hu, hb]

section
variable (fw : Firmware) (m : Mach) (h : Hd) (i : Instr) (t : Team) (g : Group)

/-- A member of the set, or any group at TEAM scope, joins its rendezvous. -/
theorem arrive_member (hm : ∀ j, Hd.setKey h = some j → ∃ l, t.sets.getD j.toNat none = some l ∧ g.gno ∈ l) :
    arrive fw m h i t g = arrive.join fw m h i t g (Hd.setKey h) { tid := t.tid, gno := g.gno } (nextPc g.pc h) := by
  unfold Hd.setKey at hm ⊢
  unfold arrive
  by_cases hs : h.scope = .team
  · simp [hs]
  · obtain ⟨l, hl, hg⟩ := hm _ (if_neg hs)
    rw [if_neg hs]
    simp only [hl]
    rw [if_pos (by simpa using hg)]

theorem arrive_undeclared {j : BitVec 3} (hk : Hd.setKey h = some j) (hj : t.sets.getD j.toNat none = none) :
    arrive fw m h i t g = takeStop fw m t.tid (Stop.trap 0x182 g (nextPc g.pc h)) := by
  unfold Hd.setKey at hk
  unfold arrive
  rw [hk]
  simp only [hj]

theorem arrive_notMember {j : BitVec 3} {l : List Nat} (hk : Hd.setKey h = some j) (hj : t.sets.getD j.toNat none = some l)
    (hg : g.gno ∉ l) : arrive fw m h i t g = takeStop fw m t.tid (Stop.trap 0x183 g (nextPc g.pc h)) := by
  unfold Hd.setKey at hk
  unfold arrive
  rw [hk]
  simp only [hj]
  rw [if_neg (by simpa using hg)]

variable (k : Option (BitVec 3)) (r : GRef) (n : DWord)

theorem join_opens (hv : t.rdv? k = none) : arrive.join fw m h i t g k r n =
    ((m.modTeam t.tid (fun t => { t with rdvs := t.rdvs ++
      [{ set := k, pc := g.pc, i := i, arrived := [(g.gno, actOf g h m.draw)], elapsed := 0 }] })).modGroup r
        (fun g => g.park (.rendezvous k) h.w n m.cycle)).count t.ctx 0x10 1 := by
  unfold Team.rdv? at hv
  simp only [arrive.join, hv]

theorem join_joins {v : Rdv} (hv : t.rdv? k = some v) (hpc : v.pc = g.pc) : arrive.join fw m h i t g k r n =
    (m.modTeam t.tid (fun t => { t with rdvs := t.rdvs.map (fun w =>
      if w.set == k then { w with arrived := w.arrived ++ [(g.gno, actOf g h m.draw)] } else w) })).modGroup r
        (fun g => g.park (.rendezvous k) h.w n m.cycle) := by
  unfold Team.rdv? at hv
  simp only [arrive.join, hv, hpc, if_true]

theorem join_mismatch {v : Rdv} (hv : t.rdv? k = some v) (hpc : v.pc ≠ g.pc) : arrive.join fw m h i t g k r n =
    setFault fw m t.tid k { Stop.trap 0x180 g n with aux := v.pc } [] := by
  unfold Team.rdv? at hv
  simp only [arrive.join, hv, if_neg hpc]

end

/-- A change of a team but for its groups leaves every group as it is. -/
theorem group?_modTeam (m : Mach) (k : Nat) (f : Team → Team) (hf : ∀ t, (f t).tid = t.tid ∧ (f t).groups = t.groups) (q : GRef) :
    (m.modTeam k f).group? q = m.group? q := by
  simp only [Mach.group?, team?_modTeam _ _ _ _ (fun t => (hf t).1)]
  split
  · cases m.team? q.tid with
    | none => rfl
    | some t => simp only [Option.map_some, Option.bind_some, Team.group?, (hf t).2]
  · rfl

/-- The first entry of a set, after a change of all entries of that set. -/
theorem find?_rdv_map (l : List Rdv) (k : Option (BitVec 3)) (f : Rdv → Rdv) (hf : ∀ v, (f v).set = v.set) :
    (l.map (fun w => if w.set == k then f w else w)).find? (fun v => v.set == k) = (l.find? (fun v => v.set == k)).map f := by
  induction l with
  | nil => rfl
  | cons w ws ih =>
    have hk : ((if w.set == k then f w else w).set == k) = (w.set == k) := by split <;> simp [hf]
    rw [List.map_cons, List.find?_cons, List.find?_cons, hk, ih]
    cases hw : w.set == k <;> simp

/-- A group that parks as its team changes in something else than its groups. -/
theorem parks_modTeam {s : State} {r : GRef} {t : Team} {g : Group} (hi : Issuing s r t g) {f : Team → Team}
    (hf : ∀ t, (f t).tid = t.tid ∧ (f t).groups = t.groups) (p : Park) (w : Bool) (n : DWord) :
    let m' := (s.m.modTeam t.tid f).modGroup r (fun g => g.park p w n s.m.cycle)
    m'.team? r.tid = some ((f t).modGroup r.gno (fun g => g.park p w n s.m.cycle))
      ∧ ((f t).modGroup r.gno (fun g => g.park p w n s.m.cycle)).group? r.gno = some (g.park p w n s.m.cycle)
      ∧ (∀ q, q ≠ r → m'.group? q = s.m.group? q) := by
  refine ⟨?_, ?_, fun q hq => ?_⟩
  · simp [team?_modGroup, team?_modTeam _ _ _ _ (fun t => (hf t).1), hi.tid, hi.team]
  · have hg : (f t).group? r.gno = some g := by rw [← hi.group]; simp only [Team.group?, (hf t).2]
    rw [group?_modGroup _ _ _ _ (fun x => park_gno x w n p s.m.cycle), if_pos rfl, hg]; rfl
  · rw [modGroup_others _ r q _ (fun x => park_gno x w n p s.m.cycle) hq, group?_modTeam _ _ _ hf]

/-- Settles O36: an arrival joins, opens, or faults by the set and the open rendezvous of its team. -/
theorem arrivals : Obligations.Arrivals := by
  intro i h op s r t g ho hi hu hs k n member parks
  have he : exec i s = .next { s with m := arrive s.fw s.m h i t g } := by
    rw [exec_of_opOf ho, issue_next hi, issueOn_wide hs hu hi.back]
  refine ⟨fun hm hv => ?_, fun v hm hv hpc => ?_, fun v hm hv hpc => ?_, fun j hk hj => ?_, fun j l hk hj hg => ?_⟩
  · obtain ⟨ht, hg, hq⟩ := parks_modTeam hi (f := fun t => { t with rdvs := t.rdvs ++
      [{ set := k, pc := g.pc, i := i, arrived := [(g.gno, actOf g h s.m.draw)], elapsed := 0 }] })
      (fun _ => ⟨rfl, rfl⟩) (.rendezvous k) h.w n
    rw [arrive_member s.fw s.m h i t g hm, join_opens s.fw s.m h i t g k _ _ hv, hi.ref] at he
    refine ⟨_, _, _, he, rfl, (count_team? ..).trans ht, hg, rfl, rfl, rfl, rfl, rfl, rfl, rfl, rfl, ?_, ?_⟩
    · exact fun q hne => (count_group? ..).trans (hq q hne)
    · exact congrArg (fun m : Mach => { m with teams := s.m.teams }) (count_device ..)
  · obtain ⟨ht, hg, hq⟩ := parks_modTeam hi (f := fun t => { t with rdvs := t.rdvs.map (fun w =>
      if w.set == k then { w with arrived := w.arrived ++ [(g.gno, actOf g h s.m.draw)] } else w) })
      (fun _ => ⟨rfl, rfl⟩) (.rendezvous k) h.w n
    rw [arrive_member s.fw s.m h i t g hm, join_joins s.fw s.m h i t g k _ _ hv hpc, hi.ref] at he
    refine ⟨_, _, _, he, rfl, ht, hg, ?_, rfl, rfl, rfl, rfl, rfl, rfl, rfl, hq, rfl⟩
    have hf := find?_rdv_map t.rdvs k (fun w => { w with arrived := w.arrived ++ [(g.gno, actOf g h s.m.draw)] }) (fun _ => rfl)
    exact hf.trans (congrArg _ hv)
  · rw [he, arrive_member s.fw s.m h i t g hm, join_mismatch s.fw s.m h i t g k _ _ hv hpc]
  · rw [he, arrive_undeclared s.fw s.m h i t g hk hj]; rfl
  · rw [he, arrive_notMember s.fw s.m h i t g hk hj hg]; rfl

/-! ### What leaving PARKED keeps of a group (R39, R443) -/

section
variable (g : Group) (b : Bool)

@[simp] theorem halt_gno : (g.halt b).gno = g.gno := by unfold Group.halt; split <;> rfl
@[simp] theorem halt_pc : (g.halt b).pc = g.pc := by unfold Group.halt; split <;> rfl
@[simp] theorem halt_regs : (g.halt b).regs = g.regs := by unfold Group.halt; split <;> rfl
@[simp] theorem halt_retired : (g.halt b).retired = g.retired := by unfold Group.halt; split <;> rfl
@[simp] theorem halt_amask : (g.halt b).amask = g.amask := by unfold Group.halt; split <;> rfl
@[simp] theorem halt_stack : (g.halt b).stack = g.stack := by unfold Group.halt; split <;> rfl
@[simp] theorem unpark_gno : g.unpark.gno = g.gno := by unfold Group.unpark; dsimp only; split <;> simp
@[simp] theorem unpark_regs : g.unpark.regs = g.regs := by unfold Group.unpark; dsimp only; split <;> simp
@[simp] theorem unpark_amask : g.unpark.amask = g.amask := by unfold Group.unpark; dsimp only; split <;> simp
@[simp] theorem unpark_stack : g.unpark.stack = g.stack := by unfold Group.unpark; dsimp only; split <;> simp
theorem unpark_pc (hb : g.back = none) (hl : g.lost = []) : g.unpark.pc = g.npc := by
  unfold Group.unpark; dsimp only; split <;> exact retire_pc g g.wm g.npc hb hl
theorem unpark_retired : g.unpark.retired = g.retired + if g.waitsRetired then 0 else 1 := by
  unfold Group.unpark; dsimp only; split <;> rfl
/-- An instruction that waits at a rendezvous has not retired. -/
theorem waitsRetired_rendezvous {k : Option (BitVec 3)} (hs : g.status = .parked (.rendezvous k)) : g.waitsRetired = false := by
  simp [Group.waitsRetired, Group.waits, hs, Park.retired]

end

theorem unparkGroup_group? (m : Mach) (r q : GRef) (c : BitVec 12) : (unparkGroup m r c).group? q =
    if q = r then (m.group? q).map (fun g => g.unpark.halt (ctxRuns m c)) else m.group? q := by
  rw [unparkGroup, countFix_group?, mach_group?_modGroup _ _ _ _ (by simp)]

theorem unparkGroup_body (m : Mach) (r : GRef) (c : BitVec 12) (k : Nat) :
    ((unparkGroup m r c).team? k).map Team.body = (m.team? k).map Team.body := by
  rw [unparkGroup, countFix_team?, modGroup_body]

/-- Members that retire one after another, each once. -/
theorem unparkGroups_group? (tid : Nat) (c : BitVec 12) (ns : List Nat) (hd : ns.Nodup) (m : Mach) (q : GRef) :
    ∃ b, (ns.foldl (fun m n => unparkGroup m { tid := tid, gno := n } c) m).group? q =
      if q.tid = tid ∧ q.gno ∈ ns then (m.group? q).map (fun g => g.unpark.halt b) else m.group? q := by
  induction ns generalizing m with
  | nil => exact ⟨true, by simp⟩
  | cons n ns ih =>
    obtain ⟨hn, hd⟩ := List.nodup_cons.mp hd
    obtain ⟨b, hb⟩ := ih hd (unparkGroup m { tid := tid, gno := n } c)
    rw [List.foldl_cons, hb, unparkGroup_group?]
    by_cases hq : q = { tid := tid, gno := n }
    · subst hq; exact ⟨ctxRuns m c, by simp [hn]⟩
    · have hne : ¬ (q.tid = tid ∧ q.gno = n) := fun ⟨h1, h2⟩ => hq (by cases q; simp_all)
      refine ⟨b, ?_⟩
      rw [if_neg hq]
      congr 1
      rw [List.mem_cons, and_or_left, or_iff_right hne]

theorem unparkGroups_body (tid : Nat) (c : BitVec 12) (ns : List Nat) (m : Mach) (k : Nat) :
    ((ns.foldl (fun m n => unparkGroup m { tid := tid, gno := n } c) m).team? k).map Team.body = (m.team? k).map Team.body := by
  induction ns generalizing m with
  | nil => rfl
  | cons n ns ih => rw [List.foldl_cons, ih, unparkGroup_body]

/-- All of two machines that is neither a team nor a performance counter is the same. -/
def SameDevice (m m' : Mach) : Prop := { m' with teams := m.teams, parts := m.parts } = m

theorem SameDevice.trans {a b c : Mach} (h : SameDevice a b) (h' : SameDevice b c) : SameDevice a c := by
  unfold SameDevice at h h' ⊢
  calc { c with teams := a.teams, parts := a.parts }
      = { ({ c with teams := b.teams, parts := b.parts } : Mach) with teams := a.teams, parts := a.parts } := rfl
    _ = { b with teams := a.teams, parts := a.parts } := by rw [h']
    _ = a := h

theorem sameDevice_modTeam (m : Mach) (k : Nat) (f : Team → Team) : SameDevice m (m.modTeam k f) := rfl
theorem sameDevice_countFix (m : Mach) (c : BitVec 12) (k n : Nat) : SameDevice m (m.countFix c k n) := by
  unfold Mach.countFix; split <;> rfl
theorem sameDevice_unparkGroup (m : Mach) (r : GRef) (c : BitVec 12) : SameDevice m (unparkGroup m r c) :=
  (sameDevice_modTeam m r.tid _).trans (sameDevice_countFix ..)
theorem sameDevice_unparkGroups (tid : Nat) (c : BitVec 12) (ns : List Nat) (m : Mach) :
    SameDevice m (ns.foldl (fun m n => unparkGroup m { tid := tid, gno := n } c) m) := by
  induction ns generalizing m with
  | nil => rfl
  | cons n ns ih => exact (sameDevice_unparkGroup ..).trans (ih _)

/-! ### Register writes of several groups (R35) -/

/-- One write after another of the registers `ids`, each of a group of team tid with a number among ns. -/
inductive RegWrites (tid : Nat) (ids : List RegId) (ns : List Nat) (m : Mach) : Mach → Prop
  | refl : RegWrites tid ids ns m m
  | write {m' : Mach} {n : Nat} {F : Regs → Regs} (hm : RegWrites tid ids ns m m') (hn : n ∈ ns) (hF : RegFrame ids F) :
      RegWrites tid ids ns m (m'.modGroup { tid := tid, gno := n } (fun g => g.produce ids F))

/-- What such writes leave of a group. -/
structure Group.Wrote (ids : List RegId) (g g' : Group) : Prop where
  status : g'.status = g.status
  npc : g'.npc = g.npc
  amask : g'.amask = g.amask
  stack : g'.stack = g.stack
  retired : g'.retired = g.retired
  lost : g'.lost = g.lost
  back : g'.back = g.back
  regs : ∀ id, id ∉ ids → SameReg g.regs g'.regs id

theorem Group.Wrote.refl (ids : List RegId) (g : Group) : g.Wrote ids g :=
  ⟨rfl, rfl, rfl, rfl, rfl, rfl, rfl, fun id _ => by cases id <;> simp [SameReg]⟩

theorem Group.Wrote.produce {ids : List RegId} {g g' : Group} (h : g.Wrote ids g') {F : Regs → Regs} (hF : RegFrame ids F) :
    g.Wrote ids (g'.produce ids F) :=
  ⟨h.status, h.npc, h.amask, h.stack, h.retired, h.lost, h.back, fun id hid => sameReg_trans (h.regs id hid) (hF _ id hid)⟩

section
variable {tid : Nat} {ids : List RegId} {ns : List Nat} {m m' : Mach} (h : RegWrites tid ids ns m m')
include h

theorem RegWrites.device : SameDevice m m' := by
  induction h with
  | refl => rfl
  | write _ _ _ ih => exact ih.trans (sameDevice_modTeam ..)

theorem RegWrites.body (k : Nat) : (m'.team? k).map Team.body = (m.team? k).map Team.body := by
  induction h with
  | refl => rfl
  | write _ _ _ ih => rw [modGroup_body, ih]

theorem RegWrites.group {q : GRef} {g : Group} (hg : m.group? q = some g) : ∃ g', m'.group? q = some g' ∧ g.Wrote ids g' := by
  induction h with
  | refl => exact ⟨g, hg, .refl ids g⟩
  | write _ _ hF ih =>
    obtain ⟨g', hg', hw⟩ := ih
    rw [mach_group?_modGroup _ _ _ _ (fun x => produce_gno x ids _), hg']
    split
    · exact ⟨_, rfl, hw.produce hF⟩
    · exact ⟨g', rfl, hw⟩

theorem RegWrites.others {q : GRef} (hq : q.tid ≠ tid ∨ q.gno ∉ ns) : m'.group? q = m.group? q := by
  induction h with
  | refl => rfl
  | write _ hn _ ih =>
    rw [modGroup_others _ _ _ _ (fun x => produce_gno x ids _) (by rintro rfl; simp_all), ih]

end

theorem group?_gno {t : Team} {n : Nat} {g : Group} (h : t.group? n = some g) : g.gno = n := by
  simpa using List.find?_some h

/-- The groups of members carry the members' numbers. -/
theorem memberGroups_gno {t : Team} {ms : List Member} {x : Group × Member} (hx : x ∈ memberGroups t ms) :
    x.1.gno ∈ ms.map Member.gno := by
  obtain ⟨mb, hmb, hx⟩ := List.mem_filterMap.mp hx
  obtain ⟨g, hg, rfl⟩ := Option.map_eq_some_iff.mp hx
  exact List.mem_map.mpr ⟨mb, hmb, (group?_gno hg).symm⟩

/-- So do those of a lane space. -/
theorem spaceOf_gno {h : Hd} {t : Team} {ms : List Member} {x : Group × Member} (hx : some x ∈ spaceOf h t ms) :
    x.1.gno ∈ ms.map Member.gno := by
  unfold spaceOf at hx
  split at hx
  · exact memberGroups_gno (by simpa using hx)
  · exact memberGroups_gno (by simpa using hx)
  all_goals
    obtain ⟨n, _, hn⟩ := List.mem_map.mp hx
    exact memberGroups_gno (List.mem_of_find?_eq_some hn)

/-- Steps each of which writes the registers of one group, or nothing. -/
theorem RegWrites.foldl {α : Type} {tid : Nat} {ids : List RegId} {ns : List Nat} {m : Mach} (l : List α) (f : Mach → α → Mach)
    (hf : ∀ x ∈ l, ∀ m', RegWrites tid ids ns m m' → RegWrites tid ids ns m (f m' x)) {m0 : Mach} (h0 : RegWrites tid ids ns m m0) :
    RegWrites tid ids ns m (l.foldl f m0) := by
  induction l generalizing m0 with
  | nil => exact h0
  | cons x xs ih => exact ih (fun y hy => hf y (List.mem_cons_of_mem _ hy)) (hf x (List.mem_cons_self ..) _ h0)

/-- A register-only operation over any members writes registers of theirs, and is done. -/
theorem WritesRegs.body_many {h : Hd} {op : Op} {ids : List RegId} (hw : WritesRegs h op ids) (fw : Firmware) (m : Mach) (tid : Nat)
    (ms : List Member) : ∃ m', op.body fw m tid ms = (m', .done) ∧ RegWrites tid ids (ms.map Member.gno) m m' := by
  cases ht : m.team? tid with
  | none => cases hw <;> exact ⟨m, by simp [regBody, crossOp, ht], .refl⟩
  | some t =>
    cases hw with
    | each chk ids f hf =>
      simp only [regBody, ht]
      refine ⟨_, rfl, .foldl _ _ (fun x hx m' hm' => ?_) .refl⟩
      split
      · exact hm'.write (memberGroups_gno hx) (hf _ _ _ _ _ _)
      · exact hm'
    | cross ws d wide tag f =>
      simp only [crossOp, ht]
      refine ⟨_, rfl, .foldl _ _ (fun k _ m' hm' => ?_) .refl⟩
      split
      · exact hm'
      · next g mb hk =>
        split
        · rcases getD_mem_or_eq (spaceOf h t ms) k none with hm | hm
          · exact hm'.write (spaceOf_gno (hk ▸ hm)) (putVal_regFrame _ _ _ _ _ _)
          · rw [hm] at hk; cases hk
        · exact hm'

/-! ### Issue of a complete rendezvous -/

theorem wideMembers_gno {t : Team} {v : Rdv} {n : Nat} (hn : n ∈ (wideMembers t v).map Member.gno) : n ∈ liveMembers t v.set := by
  obtain ⟨mb, hmb, rfl⟩ := List.mem_map.mp hn
  obtain ⟨n, hlive, hg⟩ := List.mem_filterMap.mp hmb
  obtain ⟨g, _, rfl⟩ := Option.map_eq_some_iff.mp hg
  cases g.redo <;> exact hlive

theorem rdv?_set {t : Team} {k : Option (BitVec 3)} {v : Rdv} (h : t.rdv? k = some v) : v.set = k := by
  simpa using List.find?_some h

/-- The issue of a rendezvous whose checks pass. -/
theorem issueWide_passes {fw : Firmware} {m : Mach} {t : Team} {v : Rdv} {h : Hd} {op : Op} (ho : opOf v.i = some (h, op))
    (hne : wideMembers t v ≠ []) (hc : ∀ j x, t.group? j = some x → check h op t x m.draw = none) :
    issueWide fw m t v false = concludeWide fw t v (op.body fw m t.tid (wideMembers t v)) := by
  unfold issueWide
  simp only [ho]
  cases hm : wideMembers t v with
  | nil => exact absurd hm hne
  | cons mb ms =>
    cases hg : t.group? mb.gno with
    | none => simp [hg]
    | some g => simp [hg, hc _ _ hg]

/-- The rendezvous of a set closes. -/
def Team.closeRdv (k : Option (BitVec 3)) (t : Team) : Team := { t with rdvs := t.rdvs.filter (fun w => !(w.set == k)) }

theorem closeRdv_rdv? (k : Option (BitVec 3)) (t : Team) : (t.closeRdv k).rdv? k = none := by
  simp [Team.rdv?, Team.closeRdv, List.find?_filter]

theorem concludeWide_done (fw : Firmware) (m : Mach) (t : Team) (v : Rdv) : concludeWide fw t v (m, .done) =
    (liveMembers t v.set).foldl (fun m n => unparkGroup m { tid := t.tid, gno := n } t.ctx) (m.modTeam t.tid (Team.closeRdv v.set)) :=
  rfl

/-- A ready rendezvous of a context that runs issues. -/
theorem exec_rendezvousIssue {s : State} {tid : Nat} {k : Option (BitVec 3)} {t : Team} {v : Rdv} (ht : s.m.team? tid = some t)
    (hv : t.rdv? k = some v) (hr : rdvReady t v = true) (hc : ctxRuns s.m t.ctx = true) :
    exec (.rendezvousIssue tid k) s = .next { s with m := issueWide s.fw s.m t v false } := by
  show execRendezvousIssue tid k s = _
  simp [execRendezvousIssue, event, ht, hv, hr, hc]

/-- A live member of a ready rendezvous is parked there. -/
theorem rdvReady_parked {t : Team} {v : Rdv} (hr : rdvReady t v = true) {n : Nat} {g : Group} (hn : n ∈ liveMembers t v.set)
    (hg : t.group? n = some g) : g.status = .parked (.rendezvous v.set) := by
  have := List.all_eq_true.mp hr n hn
  simp only [hg, Bool.and_eq_true, beq_iff_eq] at this
  exact this.2

/-- A member whose registers were written leaves PARKED. -/
theorem Group.Wrote.unpark_halt {ids : List RegId} {g g' : Group} (h : g.Wrote ids g') {k : Option (BitVec 3)}
    (hs : g.status = .parked (.rendezvous k)) (hb : g.back = none) (hl : g.lost = []) (b : Bool) :
    (g'.unpark.halt b).pc = g.npc ∧ (g'.unpark.halt b).retired = g.retired + 1 ∧ (g'.unpark.halt b).amask = g.amask
      ∧ (g'.unpark.halt b).stack = g.stack ∧ ∀ id, id ∉ ids → SameReg g.regs (g'.unpark.halt b).regs id := by
  refine ⟨?_, ?_, by simp [h.amask], by simp [h.stack], by simpa using h.regs⟩
  · rw [halt_pc, unpark_pc g' (h.back.trans hb) (h.lost.trans hl), h.npc]
  · rw [halt_retired, unpark_retired, waitsRetired_rendezvous g' (h.status.trans hs), h.retired]; rfl

/-- Settles O37: the members' registers are written (`RegWrites`), the rendezvous closes, and each member leaves PARKED once. -/
theorem setWideIssue : Obligations.SetWideIssue := by
  intro tid k v h op ids s t n g ht hv hr hctx hro ho _ hc hn hnd hg hb hl
  obtain ⟨_, ho', hw⟩ := regOnly_writesRegs hro
  obtain ⟨-, rfl⟩ := Prod.mk.inj (Option.some.inj (ho.symm.trans ho'))
  obtain rfl := rdv?_set hv
  obtain rfl : t.tid = tid := by simpa using List.find?_some ht
  have hne : wideMembers t v ≠ [] := List.ne_nil_of_mem (List.mem_filterMap.mpr ⟨n, hn, by rw [hg]; rfl⟩)
  obtain ⟨m1, hbody, hm1⟩ := hw.body_many s.fw s.m t.tid (wideMembers t v)
  have he := exec_rendezvousIssue ht hv hr hctx
  rw [issueWide_passes ho hne hc, hbody, concludeWide_done] at he
  have hmach : s.m.group? { tid := t.tid, gno := n } = some g := by simp [Mach.group?, ht, hg]
  obtain ⟨g1, hg1, hwr⟩ := hm1.group hmach
  have hclose := group?_modTeam m1 t.tid (Team.closeRdv v.set) (fun _ => ⟨rfl, rfl⟩)
  have hall := unparkGroups_group? t.tid t.ctx (liveMembers t v.set) hnd (m1.modTeam t.tid (Team.closeRdv v.set))
  have hteam := unparkGroups_body t.tid t.ctx (liveMembers t v.set) (m1.modTeam t.tid (Team.closeRdv v.set)) t.tid
  have hdev := (hm1.device.trans (sameDevice_modTeam m1 t.tid (Team.closeRdv v.set))).trans
    (sameDevice_unparkGroups t.tid t.ctx (liveMembers t v.set) _)
  generalize (liveMembers t v.set).foldl _ _ = m3 at he hall hteam hdev
  obtain ⟨b, hb3⟩ := hall { tid := t.tid, gno := n }
  rw [if_pos ⟨rfl, hn⟩, hclose, hg1, Option.map_some] at hb3
  obtain ⟨t', ht', hg'⟩ := Option.bind_eq_some_iff.mp hb3
  obtain ⟨hpc, hret, hmask, hstack, hregs⟩ := hwr.unpark_halt (rdvReady_parked hr hn hg) hb hl b
  refine ⟨_, t', _, he, rfl, hdev, ht', ?_, hg', hpc, hret, hmask, hstack, hregs, fun q hq => ?_⟩
  · rw [ht', team?_modTeam m1 t.tid t.tid (Team.closeRdv v.set) (fun _ => rfl), if_pos rfl, Option.map_map] at hteam
    obtain ⟨t1, _, ht1⟩ := Option.map_eq_some_iff.mp hteam.symm
    have hrdvs : t'.rdvs = (t1.closeRdv v.set).rdvs := (congrArg Team.rdvs ht1).symm
    exact (congrArg _ hrdvs).trans (closeRdv_rdv? v.set t1)
  · obtain ⟨b, hb⟩ := hall q
    have hq' : ¬ (q.tid = t.tid ∧ q.gno ∈ liveMembers t v.set) := fun ⟨h1, h2⟩ => hq.elim (· h1) (· h2)
    rw [if_neg hq', hclose] at hb
    exact hb.trans (hm1.others (hq.imp_right (fun h1 h2 => h1 (wideMembers_gno h2))))

end Sys2Proof.Machine
end

section
/-! BKPT reads the debug table through the memory-side cache (R118, R458), which the statement about it leaves out. -/
namespace Sys2Proof.Machine

/-! ### A breakpoint of a context with a debug table -/

/-- The group at PC 0, as a launch leaves it. -/
def bkptGroup : Group := newGroup (bareGrid 0) 0 0 0 0 none
/-- Its team. -/
def bkptTeam : Team := newTeam (bareGrid 0) 0 0 0 0 [bkptGroup]
/-- Firmware has set a debug table for partition 0, at physical byte 64 (R445). -/
def bkptFirmware : Firmware :=
  { Firmware.initial with chambray := { Chambray.initial with dctb := 64 } :: List.replicate 7 Chambray.initial }
/-- A device whose one group issues, its context's fault queue of one slot being full; the memory-side caches are empty. -/
def bkptState : State :=
  { m := { Mach.initial with
      cur := some { tid := 0, gno := 0 }, ctxs := [{ bareContext with log2n := 0, fqhead := 0, fqtail := 1 }]
      grids := [bareGrid 0], teams := [bkptTeam], nextTid := 1, nextGid := 1 }
    fw := bkptFirmware }
/-- GROUP scope, no guard, no modifier word, no W. -/
def bkptHd : Hd := { w := false, scope := .group, pneg := false, pred := 7, mod := none, resv := false }
/-- The breakpoint as the statement has it taken. -/
def bkptStop : Stop :=
  { Stop.trap 0x280 bkptGroup (nextPc bkptGroup.pc bkptHd) with
    detail := (0 : BitVec 17).setWidth 32, nonstop := nonStop bkptState.fw bkptState.m bkptTeam.ctx }

/-- The memory-side caches after a step. -/
def mscAfter (o : Host.Outcome State Fault Refusal) : List (List MscLine) :=
  match o with
  | .next s => s.m.msc
  | _ => []

/-- The model's step leaves the line of the debug table in the memory-side cache of stack 0. -/
theorem bkpt_leaves_line : mscAfter (exec (.bkpt bkptHd 0) bkptState)
    = [{ seg := 0, valid := 2, dirty := 0 }] :: List.replicate 7 [] := by decide +kernel

/-- Taking the exception alone leaves the memory-side caches empty. -/
theorem bkptStop_leaves_empty : (takeStop bkptState.fw bkptState.m bkptTeam.tid bkptStop).msc = List.replicate 8 [] := by
  decide +kernel

/-- Refutes O33: `bkpt` reads its context's entry of the debug table, and with a table at physical byte 64 that read leaves a
sector valid in the memory-side cache, where the statement has the machine unchanged but for the exception. -/
theorem not_trapsAndHints : ¬ Obligations.TrapsAndHints := by
  intro hall
  have hi : Issuing bkptState { tid := 0, gno := 0 } bkptTeam bkptGroup := ⟨rfl, rfl, rfl, rfl, rfl⟩
  have hact : Active bkptHd bkptGroup bkptState.m.draw := fun _ => by decide +kernel
  obtain ⟨-, hbkpt⟩ := (hall bkptHd 0 0 0 (.c 0) _ _ _ _ hi ⟨.inr rfl, rfl⟩).1 hact
  have hmsc := (congrArg mscAfter hbkpt).symm.trans bkpt_leaves_line
  exact absurd (bkptStop_leaves_empty.symm.trans hmsc) (by decide)

end Sys2Proof.Machine
end

section
/-! What the memory hierarchy's own work leaves as it was (R114 to R135, R411 to R419): every function of Machine/Mem.lean
that reads, writes, fills, evicts, registers or releases words changes caches, registries, translations and memory, and counts. -/
namespace Sys2Proof.Machine

/-! ### Two frames -/

/-- A machine without its caches, registries, translations, memory, counters and cores. -/
def Mach.shell (m : Mach) : Mach :=
  { m with cores := [], rdc := [], mem := [], l2 := [], l2Err := [], memErr := [], registry := [], mirror := [], ctus := []
           msc := [], heldWb := [], poison := [], parts := [] }

/-- A core without its L1 and its RDC horizon. -/
def Core.shell (k : Core) : Core := { k with l1 := [], horizon := 0 }

/-- Only what stands beyond the cores changed: homes, RDCs, translation, memory, counters. -/
structure HomeKept (m m' : Mach) : Prop where
  shell : m'.shell = m.shell
  cores : m'.cores = m.cores

/-- Only the memory hierarchy and the counters changed: of a core its L1 and its horizon. -/
structure MemKept (m m' : Mach) : Prop where
  shell : m'.shell = m.shell
  core : ∀ i, (m'.core i).shell = (m.core i).shell

theorem HomeKept.refl (m : Mach) : HomeKept m m := ⟨rfl, rfl⟩
theorem HomeKept.trans {a b c : Mach} (h : HomeKept a b) (h' : HomeKept b c) : HomeKept a c :=
  ⟨h'.shell.trans h.shell, h'.cores.trans h.cores⟩
theorem HomeKept.mem {a b : Mach} (h : HomeKept a b) : MemKept a b :=
  ⟨h.shell, fun i => by simp only [Mach.core, h.cores]⟩
theorem MemKept.refl (m : Mach) : MemKept m m := ⟨rfl, fun _ => rfl⟩
theorem MemKept.trans {a b c : Mach} (h : MemKept a b) (h' : MemKept b c) : MemKept a c :=
  ⟨h'.shell.trans h.shell, fun i => (h'.core i).trans (h.core i)⟩

theorem HomeKept.ite {m a b : Mach} {p : Prop} [Decidable p] (ha : HomeKept m a) (hb : HomeKept m b) :
    HomeKept m (if p then a else b) := by split; exacts [ha, hb]
theorem MemKept.ite {m a b : Mach} {p : Prop} [Decidable p] (ha : MemKept m a) (hb : MemKept m b) :
    MemKept m (if p then a else b) := by split; exacts [ha, hb]

theorem HomeKept.foldl {α : Type} {f : Mach → α → Mach} (hf : ∀ m x, HomeKept m (f m x)) (l : List α) (m : Mach) :
    HomeKept m (l.foldl f m) := by
  induction l generalizing m with
  | nil => exact .refl m
  | cons x xs ih => exact (hf m x).trans (ih _)

theorem MemKept.foldl {α : Type} {f : Mach → α → Mach} (hf : ∀ m x, MemKept m (f m x)) (l : List α) (m : Mach) :
    MemKept m (l.foldl f m) := by
  induction l generalizing m with
  | nil => exact .refl m
  | cons x xs ih => exact (hf m x).trans (ih _)

section
variable {m m' : Mach} (h : MemKept m m')
include h

theorem MemKept.teams : m'.teams = m.teams := show m'.shell.teams = m.shell.teams by rw [h.shell]
theorem MemKept.ctxs : m'.ctxs = m.ctxs := show m'.shell.ctxs = m.shell.ctxs by rw [h.shell]
theorem MemKept.grids : m'.grids = m.grids := show m'.shell.grids = m.shell.grids by rw [h.shell]
theorem MemKept.pairings : m'.pairings = m.pairings := show m'.shell.pairings = m.shell.pairings by rw [h.shell]
theorem MemKept.team? (k : Nat) : m'.team? k = m.team? k := by simp only [Mach.team?, h.teams]
theorem MemKept.group? (r : GRef) : m'.group? r = m.group? r := by simp only [Mach.group?, h.team?]
theorem MemKept.ctx? (c : BitVec 12) : m'.ctx? c = m.ctx? c := by simp only [Mach.ctx?, h.ctxs]
theorem MemKept.grid? (g : Nat) : m'.grid? g = m.grid? g := by simp only [Mach.grid?, h.grids]

end

/-! ### Homes, translation and memory -/

/-- New contents of anything beyond the cores. -/
theorem homeKept_with (m : Mach) (rdc : List (List RdcW)) (mem : List Host.Cell) (l2 : List L2W) (l2Err : List (BitVec 12 × Nat))
    (memErr : List Nat) (registry : List RegEntry) (mirror : List MirrorW) (ctus : List (List TlbE)) (msc : List (List MscLine))
    (heldWb : List HeldWb) (poison : List (BitVec 12 × Nat)) (parts : List Part) :
    HomeKept m { m with rdc := rdc, mem := mem, l2 := l2, l2Err := l2Err, memErr := memErr, registry := registry, mirror := mirror
                        ctus := ctus, msc := msc, heldWb := heldWb, poison := poison, parts := parts } := ⟨rfl, rfl⟩

section
variable (m : Mach) (c : BitVec 12) (va : Nat)

theorem homeKept_count (code n : Nat) : HomeKept m (m.count c code n) := by unfold Mach.count; split <;> exact ⟨rfl, rfl⟩
theorem homeKept_countFix (j n : Nat) : HomeKept m (m.countFix c j n) := by unfold Mach.countFix; split <;> exact ⟨rfl, rfl⟩
theorem homeKept_mscTouch (pa : Nat) (w : Bool) : HomeKept m (mscTouch m pa w) := by unfold mscTouch; split <;> exact ⟨rfl, rfl⟩
theorem homeKept_mscReads (pa n : Nat) : HomeKept m (mscReads m pa n) := .foldl (fun _ _ => homeKept_mscTouch ..) _ m
theorem homeKept_dramWrite (pa : Nat) (v : Word) : HomeKept m (dramWrite m pa v) :=
  (homeKept_mscTouch m pa true).trans ⟨rfl, rfl⟩

theorem homeKept_findLeaf : HomeKept m (findLeaf m c va).2 := by
  unfold findLeaf
  split
  · exact .refl m
  · split
    · exact .refl m
    · next k _ =>
      have hw : HomeKept m ((walk (m.count c 0x0F 1) k.ptroot va).2.foldl (fun m a => if (tableRead m a).isSome then mscTouch m a false else m)
          (m.count c 0x0F 1)) :=
        (homeKept_count ..).trans (.foldl (fun m a => by split; exacts [homeKept_mscTouch .., .refl m]) _ _)
      dsimp only
      split
      · exact hw
      · split
        · exact hw
        · exact hw.trans ⟨rfl, rfl⟩

/-- A translation looks the leaf up, and checks it. -/
theorem homeKept_translate (level : BitVec 2) (k : Kind) : HomeKept m (translate m c level k va).2 := by
  have h := homeKept_findLeaf m c va
  unfold translate
  split <;> next heq =>
    rw [heq] at h
    dsimp only
    (repeat' split) <;> exact h

theorem homeKept_permitLine (level : BitVec 2) (k : Kind) (a : Attr) : HomeKept m (permitLine m c level k va a).2 := by
  have h := homeKept_translate m c va level k
  unfold permitLine
  split
  · exact .refl m
  · split <;> next heq => rw [heq] at h; exact h

theorem homeKept_writeBack (v : Word) : HomeKept m (writeBack m c va v) := by
  have h := homeKept_findLeaf m c va
  unfold writeBack
  split
  · next heq =>
    rw [heq] at h
    exact .ite (h.trans (homeKept_with ..)) ((h.trans (homeKept_with ..)).trans (homeKept_dramWrite ..))
  · next heq =>
    rw [heq] at h
    exact h.trans (homeKept_with ..)

theorem homeKept_l2Drop : HomeKept m (l2Drop m c va) := ⟨rfl, rfl⟩
theorem homeKept_unregister : HomeKept m (unregister m c va) := ⟨rfl, rfl⟩
theorem homeKept_mirrorDrop : HomeKept m (mirrorDrop m c va) := ⟨rfl, rfl⟩
theorem homeKept_dropPoison : HomeKept m (dropPoison m c va) := ⟨rfl, rfl⟩
theorem homeKept_addPoison : HomeKept m (addPoison m c va) := by unfold addPoison; split <;> exact ⟨rfl, rfl⟩
theorem homeKept_rdcDrop (die : Nat) : HomeKept m (rdcDrop m die c va) := ⟨rfl, rfl⟩
theorem homeKept_rdcPut (die : Nat) (w : RdcW) : HomeKept m (rdcPut m die w) := ⟨rfl, rfl⟩

theorem homeKept_l2Evict : HomeKept m (l2Evict m c va) := by
  unfold l2Evict
  split
  · exact .refl m
  · split
    · exact (homeKept_l2Drop m c va).trans (homeKept_writeBack ..)
    · exact homeKept_l2Drop m c va

theorem homeKept_l2Room : HomeKept m (l2Room m c va) := by
  unfold l2Room
  split
  · exact .refl m
  · exact .foldl (fun _ _ => homeKept_l2Evict ..) _ m

theorem homeKept_l2Put (w : L2W) : HomeKept m (l2Put m w) :=
  (homeKept_l2Room m w.ctx w.va).trans ((homeKept_l2Drop ..).trans (homeKept_with ..))

theorem homeKept_homeData (v : Word) (a : Attr) : HomeKept m (homeData m c va v a) := homeKept_l2Put m _

theorem homeKept_l2Fill (pa : Nat) (a : Attr) : HomeKept m (l2Fill m c va pa a) := by
  exact ((homeKept_l2Room m c va).trans (homeKept_with ..)).trans ((homeKept_mscTouch ..).trans (homeKept_mscTouch ..))

theorem homeKept_readHome (level : BitVec 2) (k : Kind) : HomeKept m (readHome m c level k va).2 := by
  have hperm := fun a => homeKept_permitLine m c va level k a
  have htr := homeKept_translate m c va level k
  have hcount := homeKept_count m c 0x05 1
  have htr' := hcount.trans (homeKept_translate (m.count c 0x05 1) c va level k)
  unfold readHome
  split
  · exact .refl m
  · split
    · split
      · split <;> next heq =>
          split at heq
          · have h := hperm ‹_›
            rw [heq] at h
            exact h
          · split at heq <;> next htr₁ =>
              rw [htr₁] at htr
              have hm : _ = _ := congrArg Prod.snd heq
              exact hm ▸ htr
      · exact homeKept_addPoison ..
    · split
      · next w _ =>
        have h := hperm w.attr
        split <;> rename_i heq <;> rw [heq] at h
        · exact h
        · split
          · exact h
          · exact h.trans (homeKept_count ..)
      · split <;> rename_i heq <;> rw [heq] at htr'
        · exact htr'
        · split
          · exact htr'.trans (homeKept_addPoison ..)
          · exact htr'.trans (homeKept_l2Fill ..)

theorem homeKept_homeWord : HomeKept m (homeWord m c va).2 := by
  have h := homeKept_readHome m c va 1 .site
  unfold homeWord
  split <;> next heq => rw [heq] at h; exact h

theorem homeKept_homeTouch (n : Nat) : HomeKept m (homeTouch m c va n) :=
  .foldl (fun m i => by split; exacts [.refl m, homeKept_homeWord ..]) _ m

theorem homeKept_hostLines (rng : Nat → Bool) : HomeKept m (hostLines m c rng) := .foldl (fun _ _ => homeKept_l2Evict ..) _ m

end
/-! ### Cores' caches, registries and releases -/

/-- A core takes new contents of its L1, or a new horizon. -/
theorem memKept_modCore (m : Mach) (core : Nat) {f : Core → Core} (hf : ∀ k, (f k).shell = k.shell) : MemKept m (m.modCore core f) where
  shell := rfl
  core i := by
    by_cases hi : i = core
    · rw [hi, modCore_core_same]
      exact hf _
    · rw [modCore_core_other (h := hi)]

section
variable (m : Mach) (c : BitVec 12) (va : Nat)

theorem memKept_ownerDrop (o : BitVec 8) : MemKept m (ownerDrop m o c va) :=
  .ite (memKept_modCore m _ fun _ => rfl) (.ite (homeKept_rdcDrop ..).mem (homeKept_mirrorDrop ..).mem)

theorem memKept_ownerClean (o : BitVec 8) : MemKept m (ownerClean m o c va) :=
  .ite (memKept_modCore m _ fun _ => rfl) (.ite (homeKept_with ..).mem (homeKept_mirrorDrop ..).mem)

theorem memKept_recallWord : MemKept m (recallWord m c va) := by
  unfold recallWord
  split
  · exact .refl m
  · split
    · exact (homeKept_homeData ..).mem.trans (((homeKept_unregister ..).trans (homeKept_mirrorDrop ..)).mem.trans
        ((memKept_ownerClean ..).trans (homeKept_count ..).mem))
    · exact ((homeKept_unregister ..).trans (homeKept_mirrorDrop ..)).mem.trans
        ((memKept_ownerClean ..).trans (homeKept_count ..).mem)

theorem memKept_recallEntry (e : RegEntry) : MemKept m (recallEntry m e) := .foldl (fun _ _ => memKept_recallWord ..) _ m

theorem memKept_regRoom (die slice : Nat) (grain : Bool) : MemKept m (regRoom m die slice grain) := by
  unfold regRoom
  refine .ite (.refl m) ?_
  split
  · exact memKept_recallEntry ..
  · exact .refl m

theorem memKept_regEnter (o : BitVec 8) : MemKept m (regEnter m c va o) := by
  unfold regEnter
  split
  · exact (MemKept.ite (memKept_regRoom ..) (.refl m)).trans (homeKept_with ..).mem
  · exact (memKept_regRoom ..).trans (homeKept_with ..).mem

theorem memKept_supersede : MemKept m (supersede m c va) := by
  unfold supersede
  split
  · exact .refl m
  · exact ((homeKept_mirrorDrop ..).trans (homeKept_unregister ..)).mem.trans ((memKept_ownerDrop ..).trans (homeKept_count ..).mem)

theorem memKept_rdcEvict (die : Nat) : MemKept m (rdcEvict m die c va) := by
  unfold rdcEvict
  split
  · exact .refl m
  · have hdrop := (homeKept_rdcDrop m c va die).mem
    refine .ite hdrop (.ite ?_ ?_)
    · exact hdrop.trans ((homeKept_unregister ..).trans ((homeKept_mirrorDrop ..).trans (homeKept_homeData ..))).mem
    · exact hdrop.trans ((memKept_supersede ..).trans (homeKept_homeData ..).mem)

theorem memKept_l1Evict (core : Nat) : MemKept m (l1Evict m core c va) := by
  unfold l1Evict
  split
  · exact .refl m
  · have hdrop := memKept_modCore m core (f := fun k => l1Drop k c va) fun _ => rfl
    refine .ite hdrop (.ite ?_ ?_)
    · exact hdrop.trans ((homeKept_unregister ..).trans ((homeKept_mirrorDrop ..).trans (homeKept_homeData ..))).mem
    · exact hdrop.trans ((memKept_rdcEvict ..).trans ((memKept_supersede ..).trans (homeKept_homeData ..).mem))

theorem memKept_rdcRoom (die : Nat) : MemKept m (rdcRoom m die c va) := by
  unfold rdcRoom
  split
  · exact .refl m
  · exact .foldl (fun _ _ => memKept_rdcEvict ..) _ m

theorem memKept_rdcFill (die : Nat) (w : RdcW) : MemKept m (rdcFill m die w) :=
  (memKept_rdcRoom m w.ctx w.va die).trans (homeKept_rdcPut ..).mem

theorem memKept_mirrorRoom (die : Nat) : MemKept m (mirrorRoom m die) := by
  unfold mirrorRoom
  refine .ite (.refl m) ?_
  split
  · exact (memKept_recallWord ..).trans (homeKept_mirrorDrop ..).mem
  · exact .refl m

theorem memKept_register (o : BitVec 8) (v : Word) (a : Attr) : MemKept m (register m o c va v a) := by
  unfold register
  extract_lets revoked entered buddy roomy mirrored filled
  have hrevoked : MemKept m revoked := by
    simp only [revoked]
    split
    · exact .ite (.refl m) ((memKept_ownerDrop ..).trans (homeKept_count ..).mem)
    · exact .refl m
  have hentered : MemKept m entered :=
    hrevoked.trans (((homeKept_mirrorDrop ..).trans (homeKept_dropPoison ..)).mem.trans (memKept_regEnter ..))
  have hmirrored : MemKept m mirrored :=
    .ite (hentered.trans ((memKept_mirrorRoom ..).trans (homeKept_with ..).mem)) hentered
  have hfilled : MemKept m filled := by
    simp only [filled]
    split
    · exact hmirrored
    · exact hmirrored.trans (homeKept_l2Put ..).mem
  exact hfilled.trans (homeKept_count ..).mem

theorem memKept_l1Put (core : Nat) (w : L1W) : MemKept m (m.modCore core (fun k => l1Put k w)) := memKept_modCore m core fun _ => rfl

theorem memKept_releaseDie (core : Nat) (w : L1W) : MemKept m (releaseDie m core w) :=
  .ite ((memKept_l1Put ..).trans (memKept_register ..)) ((memKept_l1Put ..).trans (memKept_rdcFill ..))

theorem memKept_releaseDev (die : Nat) (w : RdcW) : MemKept m (releaseDev m die w) :=
  (homeKept_rdcPut ..).mem.trans (memKept_register ..)

theorem memKept_writeThrough (v : Word) : MemKept m (writeThrough m c va v) := by
  unfold writeThrough
  extract_lets o written filled free
  have hfilled : MemKept m filled := by
    simp only [filled]
    split
    · exact ((homeKept_writeBack ..).trans (homeKept_l2Put ..)).mem
    · exact (homeKept_writeBack ..).mem
  have hfree : MemKept m free := hfilled.trans ((homeKept_mirrorDrop ..).trans (homeKept_unregister ..)).mem
  clear_value o
  split
  · exact hfree.trans (memKept_ownerClean ..)
  · exact hfree

theorem memKept_release (core : Nat) (sc : MScope) (rng : Nat → Bool) : MemKept m (release m core sc rng) := by
  unfold release
  refine .ite (.refl m) ?_
  extract_lets dirty die mine dev l1s throughL1 rs throughRdc hs
  have hdie : MemKept m die := .foldl (fun _ _ => memKept_releaseDie ..) _ m
  refine .ite hdie ?_
  have hdev : MemKept m dev := hdie.trans (.foldl (fun _ _ => memKept_releaseDev ..) _ _)
  refine .ite hdev ?_
  have hL1 : MemKept m throughL1 := hdev.trans (.foldl (fun _ _ => (memKept_writeThrough ..).trans (memKept_l1Put ..)) _ _)
  have hRdc : MemKept m throughRdc := hL1.trans (.foldl (fun _ _ => (memKept_writeThrough ..).trans (homeKept_rdcDrop ..).mem) _ _)
  exact hRdc.trans (.foldl (fun _ _ => memKept_writeThrough ..) _ _)

theorem memKept_acquire (core : Nat) (sc : MScope) (lmode : BitVec 2) : MemKept m (acquire m c core sc lmode) := by
  unfold acquire
  refine .ite (.refl m) ?_
  extract_lets dropped moved
  have hdropped : MemKept m dropped := memKept_modCore m core fun _ => rfl
  refine .ite hdropped ?_
  have hmoved : MemKept m moved := hdropped.trans (memKept_modCore _ core fun _ => rfl)
  exact .ite (hmoved.trans (homeKept_hostLines ..).mem) hmoved

theorem memKept_setPhysWord (pa : Nat) (v : Word) : MemKept m (setPhysWord m pa v) :=
  ((MemKept.foldl (fun _ _ => (memKept_ownerDrop ..).trans (homeKept_unregister ..).mem) _ m).trans
    (MemKept.foldl (fun _ _ => (homeKept_l2Drop ..).mem) _ _)).trans (homeKept_dramWrite ..).mem

theorem memKept_setPhysBytes (pa : Nat) (bs : List Byte) : MemKept m (setPhysBytes m pa bs) :=
  .foldl (fun _ _ => memKept_setPhysWord ..) _ m

theorem memKept_setHomeWord (v : Word) : MemKept m (setHomeWord m c va v) := by
  unfold setHomeWord
  extract_lets recalled
  split
  · exact memKept_recallWord ..
  · exact (memKept_recallWord ..).trans ((homeKept_dropPoison ..).trans (homeKept_homeData ..)).mem

theorem memKept_setHomeBytes (bs : List Byte) : MemKept m (setHomeBytes m c va bs) :=
  .foldl (fun _ _ => .ite (.refl _) (memKept_setHomeWord ..)) _ m

end
end Sys2Proof.Machine
end

section
/-! What trace records change (R446, R447, R453 to R455): the partition's ring in memory, the memory hierarchy that its writes go
through, and of a group what it keeps about its own trace. With trace off they change nothing. -/
namespace Sys2Proof.Machine

/-! ### The trace ring -/

theorem MemKept.modGroup {a b : Mach} (h : MemKept a b) (r : GRef) (f : Group → Group) : MemKept (a.modGroup r f) (b.modGroup r f) where
  shell := by
    have hshell : ∀ m : Mach, (m.modGroup r f).shell = m.shell.modGroup r f := fun _ => rfl
    rw [hshell, hshell, h.shell]
  core := h.core

theorem memKept_traceLost (fw : Firmware) (m : Mach) (c : BitVec 12) : MemKept m (traceLost fw m c) := by
  unfold traceLost
  split
  · exact .refl m
  · exact (homeKept_with ..).mem.trans (memKept_setPhysBytes ..)

theorem memKept_traceUnits (fw : Firmware) (m : Mach) (c : BitVec 12) (bytes : List Byte) : MemKept m (traceUnits fw m c bytes).2 := by
  unfold traceUnits
  split
  · exact .refl m
  · extract_lets ch p n units base read written p'
    have hread : MemKept m read := (homeKept_mscReads ..).mem
    have hwritten : MemKept m written := hread.trans (.foldl (fun _ _ => memKept_setPhysBytes ..) _ _)
    split
    · exact hread.trans (memKept_traceLost ..)
    · exact hwritten.trans ((homeKept_with ..).mem.trans (memKept_setPhysBytes ..))

/-! ### A group's records -/

/-- The group keeps something else about its trace. -/
def Group.traced (f : Group → TraceSt) (g : Group) : Group := { g with trace := f g }

/-- Only the memory hierarchy, the counters and what group r keeps about its trace changed. -/
def Traced (r : GRef) (m m' : Mach) : Prop := ∃ f, MemKept (m.modGroup r (Group.traced f)) m'

theorem modGroup_traced_trace (m : Mach) (r : GRef) : m.modGroup r (Group.traced Group.trace) = m := modGroup_id m r

theorem team_modGroup_modGroup (t : Team) (n : Nat) (f g : Group → Group) (hf : ∀ x, (f x).gno = x.gno) :
    (t.modGroup n f).modGroup n g = t.modGroup n (fun x => g (f x)) := by
  simp only [Team.modGroup, List.map_map]
  congr 1
  refine List.map_congr_left fun x _ => ?_
  by_cases hx : x.gno = n <;> simp [hx, hf]

theorem modGroup_modGroup (m : Mach) (r : GRef) (f g : Group → Group) (hf : ∀ x, (f x).gno = x.gno) :
    (m.modGroup r f).modGroup r g = m.modGroup r (fun x => g (f x)) := by
  simp only [Mach.modGroup, Mach.modTeam, List.map_map]
  congr 1
  refine List.map_congr_left fun t _ => ?_
  by_cases ht : t.tid = r.tid <;> simp [ht, team_modGroup_modGroup _ _ _ _ hf]

theorem MemKept.traced {m m' : Mach} (h : MemKept m m') (r : GRef) : Traced r m m' := ⟨Group.trace, by rwa [modGroup_traced_trace]⟩
theorem Traced.refl (r : GRef) (m : Mach) : Traced r m m := (MemKept.refl m).traced r
theorem traced_modGroup (m : Mach) (r : GRef) (f : Group → TraceSt) : Traced r m (m.modGroup r (fun g => { g with trace := f g })) :=
  ⟨f, .refl _⟩

theorem Traced.trans {r : GRef} {a b c : Mach} (h : Traced r a b) (h' : Traced r b c) : Traced r a c := by
  obtain ⟨f, h⟩ := h
  obtain ⟨f', h'⟩ := h'
  refine ⟨fun g => f' (g.traced f), MemKept.trans ?_ h'⟩
  have hboth := h.modGroup r (Group.traced f')
  rwa [modGroup_modGroup _ _ (Group.traced f) _ fun _ => rfl] at hboth

theorem traced_emitSync (fw : Firmware) (m : Mach) (t : Team) (g : Group) (reason : BitVec 8) :
    Traced (t.gref g) m (emitSync fw m t g reason) := by
  have h := memKept_traceUnits fw m t.ctx (syncBytes m t g reason)
  unfold emitSync
  split
  next heq =>
    rw [heq] at h
    exact (h.traced _).trans (traced_modGroup ..)

/-- The reference of a group that was found by it. -/
theorem gref_of_group? {m m' : Mach} {r : GRef} {t : Team} {g : Group} (ht : m.team? r.tid = some t) (hg : m'.group? r = some g) :
    t.gref g = r := by
  have htid := List.find?_some ht
  obtain ⟨t', _, hg⟩ := Option.bind_eq_some_iff.mp hg
  have hgno := List.find?_some hg
  cases r
  simp_all [Team.gref]

theorem traced_traceSync (fw : Firmware) (m : Mach) (r : GRef) : Traced r m (traceSync fw m r) := by
  unfold traceSync
  split
  · exact .refl r m
  · next t g heq =>
    obtain ⟨t', ht, heq⟩ := Option.bind_eq_some_iff.mp heq
    obtain ⟨g', hg, heq⟩ := Option.map_eq_some_iff.mp heq
    cases heq
    have hsync := fun reason => traced_emitSync fw m t g reason
    rw [gref_of_group? (m' := m) ht (by rw [Mach.group?, ht]; exact hg)] at hsync
    split
    · exact traced_modGroup ..
    · split
      · exact hsync _
      · split
        · exact hsync 0
        · split
          · exact hsync 1
          · exact .refl r m

theorem traced_traceGroup (fw : Firmware) (m : Mach) (r : GRef) (k : TrKind) (bytes : List Byte) : Traced r m (traceGroup fw m r k bytes) := by
  unfold traceGroup
  split
  · exact .refl r m
  · next t ht =>
    split
    · exact .refl r m
    · extract_lets synced owed
      have hsynced : Traced r m synced := traced_traceSync fw m r
      have howed : Traced r m owed := by
        simp only [owed]
        split
        · next g hg =>
          split
          · exact hsynced.trans (gref_of_group? ht hg ▸ traced_emitSync fw synced t g 4)
          · exact hsynced
        · exact hsynced
      have hrec := memKept_traceUnits fw owed t.ctx bytes
      split
      · exact howed.trans ((memKept_traceLost ..).traced r)
      · split
        next heq =>
          rw [heq] at hrec
          exact howed.trans ((hrec.traced r).trans (traced_modGroup ..))

theorem traced_traceBranch (fw : Firmware) (m : Mach) (t : Team) (g : Group) (r : GRef) (pc : DWord) (mask : Mask) :
    Traced r m (traceBranch fw m r t g pc mask) := traced_traceGroup ..

/-- With trace off a group's record is none. -/
theorem traceGroup_off {fw : Firmware} {m : Mach} {r : GRef} {t : Team} (ht : m.team? r.tid = some t) (hoff : traceOn fw m t.ctx = false)
    (k : TrKind) (bytes : List Byte) : traceGroup fw m r k bytes = m := by
  simp [traceGroup, ht, traces, hoff]

theorem traceBranch_off {fw : Firmware} {m : Mach} {r : GRef} {t : Team} (ht : m.team? r.tid = some t) (hoff : traceOn fw m t.ctx = false)
    (t' : Team) (g : Group) (pc : DWord) (mask : Mask) : traceBranch fw m r t' g pc mask = m := traceGroup_off ht hoff ..

section
variable {r : GRef} {m m' : Mach} (h : Traced r m m')
include h

theorem Traced.others {q : GRef} (hq : q ≠ r) : m'.group? q = m.group? q := by
  obtain ⟨f, h⟩ := h
  rw [h.group?]
  exact modGroup_others m r q _ (fun _ => rfl) hq

theorem Traced.group {g : Group} (hg : m.group? r = some g) : ∃ tr, m'.group? r = some { g with trace := tr } := by
  obtain ⟨f, h⟩ := h
  refine ⟨f g, ?_⟩
  rw [h.group?, mach_group?_modGroup m r r (Group.traced f) fun _ => rfl, hg]
  simp [Group.traced]

theorem Traced.ctxs : m'.ctxs = m.ctxs := h.elim fun _ h => h.ctxs
theorem Traced.grids : m'.grids = m.grids := h.elim fun _ h => h.grids
theorem Traced.pairings : m'.pairings = m.pairings := h.elim fun _ h => h.pairings

end
end Sys2Proof.Machine
end

section
/-! Divergence (R47, R48, R51): what BRD, JOIN and EXIT do to their group's mask, stack and PC, and that nothing else changes but
for their trace records. -/
namespace Sys2Proof.Machine

/-! ### Control transfers of one group -/

/-- An instruction with no check of its operands and no release runs its body for the issuing group. -/
theorem exec_unchecked {i : Instr} {h : Hd} {op : Op} {s : State} {r : GRef} {t : Team} {g : Group} (ho : opOf i = some (h, op))
    (hi : Issuing s r t g) (ha : Alone h) (hact : Active h g s.m.draw) (hchk : op.chk = noChk) (hrel : releaseOf i = none)
    (haft : afterRel i = false) :
    exec i s = .next { s with m := conclude s.fw h i t g (op.body s.fw s.m t.tid [memberOf g h s.m.draw]) } := by
  have hcheck : check h op t g s.m.draw = none := by simp [check, ha.2, hchk, noChk]
  rw [exec_of_opOf ho, issue_next hi, issueOn_alone ha hcheck (heldRelease_none hrel haft ..) hi.back,
    if_neg fun ⟨hs, hz⟩ => hact hs hz]

theorem groupBody_issuing {s : State} {r : GRef} {t : Team} {g : Group} (hi : Issuing s r t g) (h : Hd)
    (f : Firmware → Mach → Team → Group → Member → Mach × End) :
    groupBody f s.fw s.m t.tid [memberOf g h s.m.draw] = f s.fw s.m t g (memberOf g h s.m.draw) := by
  simp only [groupBody, hi.here, hi.member h]

theorem memberOf_act {g : Group} (hr : g.redo = none) (h : Hd) (draw : Nat) : (memberOf g h draw).act = actOf g h draw := by
  simp [memberOf, hr]

section
variable {s : State} {r : GRef} {t : Team} {g : Group} (hi : Issuing s r t g) (h : Hd) (i : Instr) (m : Mach)
include hi

theorem conclude_done : conclude s.fw h i t g (m, .done) = retireGroup m r t.ctx h.w (nextPc g.pc h) := by
  simp [conclude, hi.ref, hi.back]

theorem conclude_goto (pc : DWord) : conclude s.fw h i t g (m, .goto pc) = retireGroup m r t.ctx h.w pc := by
  simp [conclude, hi.ref]

theorem conclude_whole (c : Cause) :
    conclude s.fw h i t g (m, .fail (Fail.whole c)) = takeStop s.fw m t.tid (Stop.trap c g (nextPc g.pc h)) := by
  simp [conclude, Fail.whole, Stop.trap, hi.back]

end

/-! ### Going on with a mask and a stack -/

/-- The instruction completes: the group goes on at `pc` with this mask and this stack, every other group is as it was, and with
trace off nothing but the group changes. -/
def Flows (i : Instr) (s : State) (r : GRef) (t : Team) (pc : DWord) (mask : Mask) (st : List Entry) : Prop :=
  ∃ s' g', exec i s = .next s' ∧ Completed s s' r [] pc ∧ OthersKept s s' r ∧ (traceOn s.fw s.m t.ctx = false → OnlyGroup s s' r)
    ∧ s'.m.group? r = some g' ∧ g'.amask = mask ∧ g'.stack = st

/-- A trace record, a change of the group's mask and stack, and its retirement. -/
theorem flows_retire {i : Instr} {h : Hd} {s : State} {r : GRef} {t : Team} {g : Group} (hi : Issuing s r t g) {m : Mach} {f : Group → Group}
    {pc : DWord} {mask : Mask} {st : List Entry} (htr : Traced r s.m m) (hoff : traceOn s.fw s.m t.ctx = false → m = s.m)
    (hgno : ∀ x, (f x).gno = x.gno) (hf : ∀ tr, f { g with trace := tr } = { g with trace := tr, amask := mask, stack := st })
    (he : exec i s = .next { s with m := retireGroup (m.modGroup r f) r t.ctx h.w pc }) : Flows i s r t pc mask st := by
  obtain ⟨tr, hg⟩ := htr.group hi.mach
  have hgroup : (retireGroup (m.modGroup r f) r t.ctx h.w pc).group? r =
      some (({ g with trace := tr, amask := mask, stack := st } : Group).retire h.w pc) := by
    rw [retireGroup_group?, if_pos rfl, mach_group?_modGroup _ _ _ _ hgno, if_pos rfl, hg, Option.map_some, Option.map_some, hf]
  refine ⟨_, _, he, ⟨rfl, g, _, hi.mach, hgroup, retire_pc _ _ _ hi.back hi.lost, retire_retired _ _ _ hi.back, retire_present ..,
    fun id _ => ?_⟩, fun q hq => ?_, fun ho => ?_, hgroup, retire_amask .., retire_stack ..⟩
  · rw [retire_regs]
    cases id <;> simp [SameReg]
  · rw [retireGroup_group?, if_neg hq, modGroup_others _ _ _ _ hgno hq, htr.others hq]
  · rw [hoff ho]
    exact onlyGroup_retire hgno ..

theorem flows_done {i : Instr} {h : Hd} {s : State} {r : GRef} {t : Team} {g : Group} (hi : Issuing s r t g) {m : Mach}
    {pc : DWord} (htr : Traced r s.m m) (hoff : traceOn s.fw s.m t.ctx = false → m = s.m)
    (he : exec i s = .next { s with m := retireGroup m r t.ctx h.w pc }) : Flows i s r t pc g.amask g.stack :=
  flows_retire (h := h) (f := fun x => x) hi htr hoff (fun _ => rfl) (fun _ => rfl) (by rw [modGroup_id]; exact he)

section
variable {s : State} {r : GRef} {t : Team} {g : Group} (hi : Issuing s r t g) (p : Prop) [Decidable p] (pc : DWord) (mask : Mask)

/-- A BRANCH record that is made only where the transfer does more than go to N. -/
theorem traced_branch : Traced r s.m (if p then s.m else traceBranch s.fw s.m r t g pc mask) := by
  split
  · exact .refl ..
  · exact traced_traceBranch ..

include hi in
theorem branch_off (ho : traceOn s.fw s.m t.ctx = false) :
    (if p then s.m else traceBranch s.fw s.m r t g pc mask) = s.m := by
  split
  · rfl
  · exact traceBranch_off hi.team ho ..

end

theorem shiftLeft_three (x : DWord) : x <<< 3 = x * 8 := by
  rw [BitVec.shiftLeft_eq_mul_twoPow]
  rfl

/-- Settles O30: BRD's body has four ways to end, of which each is one clause. -/
theorem divergence : Obligations.Divergence := by
  intro h off j s r t g hi hs hr hredo taken nottaken n tg goes
  have ha : Alone h := ⟨.inl hs, hr⟩
  have hact : Active h g s.m.draw := fun hg => by simp [hs] at hg
  have hgref : t.gref g = r := hi.ref
  have hexec := exec_unchecked (i := .brd h off j) (op := opBrd h off j) rfl hi ha hact rfl rfl rfl
  simp only [opBrd, brdOp, groupBody_issuing hi, memberOf_act hredo, brTarget, joinPc, shiftLeft_three, hgref] at hexec
  refine ⟨fun h0 => ?_, fun h0 h1 => ?_, fun h0 h1 h2 => ?_, fun h0 h1 h2 => ?_⟩
  · rw [if_pos h0, conclude_done hi] at hexec
    exact flows_done hi (.refl ..) (fun _ => rfl) hexec
  · rw [if_neg h0, if_pos h1, transfer, hgref, conclude_goto hi] at hexec
    exact flows_done hi (traced_branch ..) (branch_off hi _ _ _) hexec
  · rw [if_neg h0, if_neg h1, if_pos h2, conclude_whole hi] at hexec
    exact hexec
  · rw [if_neg h0, if_neg h1, if_neg h2, conclude_done hi] at hexec
    exact flows_retire hi (traced_traceBranch ..) (traceBranch_off hi.team · ..) (by intro _; rfl) (by intro _; rfl) hexec

/-- What JOIN leaves of its top entry is what R48 says. -/
theorem joinEffect_pending {e : Entry} (hp : e.pend ≠ 0) (rest : List Entry) : joinEffect e rest = (e.pend, { e with pend := 0 } :: rest, e.res) :=
  if_pos hp
theorem joinEffect_last {e : Entry} (hp : e.pend = 0) (rest : List Entry) : joinEffect e rest = (e.save, rest, e.j) :=
  if_neg (not_not.mpr hp)

/-- Settles O31: JOIN takes the effect of the top entry, and traps with none. -/
theorem reconvergence : Obligations.Reconvergence := by
  intro h s r t g hi ha hact goes
  have hgref : t.gref g = r := hi.ref
  have hexec := exec_unchecked (i := .join h) (op := opJoin h) rfl hi ha hact rfl rfl rfl
  simp only [opJoin, joinOp, groupBody_issuing hi, hgref] at hexec
  refine ⟨fun hst => ?_, fun e rest hst => ?_⟩
  · rw [hst] at hexec
    rw [hexec, conclude_whole hi]
    rfl
  · rw [hst] at hexec
    dsimp only at hexec
    rw [conclude_goto hi] at hexec
    have hflows : Flows (.join h) s r t (joinEffect e rest).2.2 (joinEffect e rest).1 (joinEffect e rest).2.1 :=
      flows_retire hi (traced_branch ..) (branch_off hi _ _ _) (by intro _; rfl) (by intro _; rfl) hexec
    refine ⟨fun hp => ?_, fun hp => ?_⟩
    · rwa [joinEffect_pending hp] at hflows
    · rwa [joinEffect_last hp] at hflows

/-! ### EXIT -/

theorem exitJoin_active {mask : Mask} (hm : mask ≠ 0) (n : Nat) (st : List Entry) (pc : DWord) : exitJoin n (mask, st, pc) = (mask, st, pc) := by
  cases n with
  | zero => rfl
  | succ n => exact if_pos hm

theorem exitJoin_step (n : Nat) (e : Entry) (rest : List Entry) (pc : DWord) : exitJoin (n + 1) (0, e :: rest, pc) = exitJoin n (joinEffect e rest) := rfl

theorem exitJoin_none (n : Nat) (pc : DWord) : exitJoin n (0, [], pc) = (0, [], pc) := by
  cases n <;> rfl

/-- Entries that hold no lane are dropped, one in each step. -/
theorem exitJoin_drop {pre : List Entry} (hpre : ∀ x ∈ pre, x.pend = 0 ∧ x.save = 0) (n : Nat) (st : List Entry) (pc : DWord) :
    ∃ pc', exitJoin (pre.length + n) (0, pre ++ st, pc) = exitJoin n (0, st, pc') := by
  induction pre generalizing pc with
  | nil => exact ⟨pc, by simp⟩
  | cons e es ih =>
    obtain ⟨hpend, hsave⟩ := hpre e List.mem_cons_self
    obtain ⟨pc', he⟩ := ih (fun x hx => hpre x (List.mem_cons_of_mem _ hx)) e.j
    refine ⟨pc', ?_⟩
    rw [List.length_cons, Nat.add_right_comm, List.cons_append, exitJoin_step, joinEffect_last hpend, hsave, he]

/-! ### A group that has exited -/

/-- Every group of this reference has exited. -/
def Mach.Gone (m : Mach) (r : GRef) : Prop := ∀ t ∈ m.teams, t.tid = r.tid → ∀ g ∈ t.groups, g.gno = r.gno → g.status = .exited

/-- What is done for others leaves a group that has exited as it is. -/
def GoneKept (r : GRef) (m m' : Mach) : Prop := m.Gone r → m'.Gone r ∧ m'.group? r = m.group? r

theorem GoneKept.refl (r : GRef) (m : Mach) : GoneKept r m m := fun h => ⟨h, rfl⟩
theorem GoneKept.trans {r : GRef} {a b c : Mach} (h : GoneKept r a b) (h' : GoneKept r b c) : GoneKept r a c := fun ha =>
  ⟨(h' (h ha).1).1, (h' (h ha).1).2.trans (h ha).2⟩
theorem goneKept_of_teams {r : GRef} {m m' : Mach} (h : m'.teams = m.teams) : GoneKept r m m' := fun hm =>
  ⟨fun t ht => hm t (h ▸ ht), by simp only [Mach.group?, Mach.team?, h]⟩

/-- Each group of a machine after a change of group q is a group of before, or what the change made of it. -/
theorem mem_modGroup {m : Mach} {q : GRef} {f : Group → Group} (hf : ∀ g, (f g).gno = g.gno) {t : Team} (ht : t ∈ (m.modGroup q f).teams)
    {g : Group} (hg : g ∈ t.groups) : ∃ u ∈ m.teams, u.tid = t.tid ∧ ∃ x ∈ u.groups, x.gno = g.gno
      ∧ g = if t.tid = q.tid ∧ g.gno = q.gno then f x else x := by
  obtain ⟨u, hu, rfl⟩ := List.mem_map.mp ht
  by_cases hq : u.tid = q.tid
  · rw [if_pos (beq_iff_eq.mpr hq)] at hg ⊢
    obtain ⟨x, hx, rfl⟩ := List.mem_map.mp hg
    refine ⟨u, hu, rfl, x, hx, ?_⟩
    by_cases hn : x.gno = q.gno <;> simp [hn, hf, hq]
  · simp only [beq_iff_eq, hq, if_false] at hg ⊢
    exact ⟨u, hu, rfl, g, hg, rfl, by simp⟩

theorem gone_modGroup_ne {m : Mach} {r q : GRef} {f : Group → Group} (hf : ∀ g, (f g).gno = g.gno) (hq : q ≠ r) (h : m.Gone r) :
    (m.modGroup q f).Gone r := by
  intro t ht htid g hg hgno
  obtain ⟨u, hu, hut, x, hx, hxg, he⟩ := mem_modGroup hf ht hg
  have hne : ¬ (t.tid = q.tid ∧ g.gno = q.gno) := fun ⟨h1, h2⟩ => hq <| by
    rw [htid] at h1
    rw [hgno] at h2
    cases q
    simp only at h1 h2
    rw [← h1, ← h2]
  rw [if_neg hne] at he
  exact he ▸ h u hu (hut.trans htid) x hx (hxg.trans hgno)

theorem gone_modGroup_exited {m : Mach} {r : GRef} {f : Group → Group} (hf : ∀ g, (f g).gno = g.gno) (hx : ∀ g, (f g).status = .exited) :
    (m.modGroup r f).Gone r := by
  intro t ht htid g hg hgno
  obtain ⟨u, hu, hut, x, _, _, he⟩ := mem_modGroup hf ht hg
  rw [if_pos ⟨htid, hgno⟩] at he
  exact he ▸ hx x

theorem goneKept_unparkGroup {r q : GRef} (hq : q ≠ r) (m : Mach) (c : BitVec 12) : GoneKept r m (unparkGroup m q c) := fun h =>
  ⟨(goneKept_of_teams (countFix_teams ..) (gone_modGroup_ne (fun _ => by rw [halt_gno, unpark_gno]) hq h)).1, by rw [unparkGroup_group?, if_neg hq.symm]⟩

theorem firstWaiter_foldl_mem (w : GRef × Nat × BitVec 12) (ws : List (GRef × Nat × BitVec 12)) : ws.foldl firstWaiter w ∈ w :: ws := by
  induction ws generalizing w with
  | nil => exact List.mem_singleton.mpr rfl
  | cons x xs ih =>
    rcases List.mem_cons.mp (ih (firstWaiter w x)) with he | hm
    · rw [List.foldl_cons, he]
      unfold firstWaiter
      split <;> simp
    · exact List.mem_cons_of_mem _ (List.mem_cons_of_mem _ hm)

/-- A group that has exited waits for no token. -/
theorem macqWaiters_ne {m : Mach} {r : GRef} (h : m.Gone r) {core : Nat} {k : BitVec 2} {x : GRef × Nat × BitVec 12}
    (hx : x ∈ macqWaiters m core k) : x.1 ≠ r := by
  obtain ⟨t, ht, hx⟩ := List.mem_flatMap.mp hx
  obtain ⟨g, hg, rfl⟩ := List.mem_map.mp hx
  obtain ⟨hg, hw⟩ := List.mem_filter.mp hg
  rintro rfl
  have hex := h t (List.mem_filter.mp ht).1 rfl g hg rfl
  simp [Group.waits, hex] at hw

theorem goneKept_grantToken (r : GRef) (m : Mach) (core : Nat) (k : BitVec 2) : GoneKept r m (grantToken m core k) := fun h => by
  unfold grantToken
  split
  · exact GoneKept.refl r m h
  · split
    · exact GoneKept.refl r m h
    · next w ws hws =>
      extract_lets x
      have hx : x.1 ≠ r := macqWaiters_ne h (hws ▸ firstWaiter_foldl_mem w ws)
      split
      · exact GoneKept.refl r m h
      · exact GoneKept.trans (goneKept_of_teams (modCore_teams ..)) (goneKept_unparkGroup hx _ _) h

theorem goneKept_releaseTokens (r : GRef) (m : Mach) (core : Nat) (q : GRef) : GoneKept r m (releaseTokens m core q) := by
  unfold releaseTokens
  generalize ([0, 1, 2, 3] : List (BitVec 2)) = ks
  induction ks generalizing m with
  | nil => exact .refl r m
  | cons k ks ih =>
    refine GoneKept.trans ?_ (ih _)
    dsimp only
    split
    · exact (goneKept_of_teams (m' := m.modTile core k fun x => { x with holder := .nobody, inuse := false }) rfl).trans
        (goneKept_grantToken r _ core k)
    · exact .refl r m

/-- A group whose last lane has left: its instruction retired (R25, R51). -/
def Group.leave (g : Group) : Group :=
  { g with status := .exited, amask := 0, stack := [], redo := none, lost := [], retired := g.retired + 1 }

theorem exitGroup_group? {m : Mach} {r : GRef} {g : Group} (hg : m.group? r = some g) : (exitGroup m r).group? r = some g.leave := by
  obtain ⟨t, ht, _⟩ := Option.bind_eq_some_iff.mp hg
  have hgone : (m.modGroup r Group.leave).Gone r := gone_modGroup_exited (fun _ => rfl) fun _ => rfl
  have hexit : exitGroup m r = releaseTokens (m.modGroup r Group.leave) t.core r := by
    simp only [exitGroup, ht]
    rfl
  rw [hexit, (goneKept_releaseTokens r _ t.core r hgone).2, mach_group?_modGroup _ _ _ Group.leave fun _ => rfl, if_pos rfl, hg]
  rfl

/-! ### The clauses of EXIT -/

section
variable {h : Hd} {s : State} {r : GRef} {t : Team} {g : Group} (hi : Issuing s r t g) (hs : h.scope = .lane) (hr : h.resv = false)
  (hredo : g.redo = none) {st : List Entry}
  (hst : g.stack.map (fun e => { e with pend := e.pend &&& ~~~actOf g h s.m.draw, save := e.save &&& ~~~actOf g h s.m.draw }) = st)
  {mask : Mask} {st' : List Entry} {pc : DWord}
  (hx : exitJoin (2 * st.length + 1) (g.amask &&& ~~~actOf g h s.m.draw, st, nextPc g.pc h) = (mask, st', pc))
include hi hs hr hredo hst hx

/-- With lanes left once the joins are applied, the group goes on with them. -/
theorem exit_flows (hm : mask ≠ 0) : Flows (.exit h) s r t pc mask st' := by
  have hexec := exec_unchecked (i := .exit h) (op := opExit h) rfl hi ⟨.inl hs, hr⟩ (by simp [Active, hs]) rfl rfl rfl
  have hgref : t.gref g = r := hi.ref
  simp only [opExit, exitOp, groupBody_issuing hi, memberOf_act hredo, hgref, hst, hx] at hexec
  rw [if_neg hm, conclude_goto hi] at hexec
  exact flows_retire hi (traced_branch ..) (branch_off hi _ _ _) (by intro _; rfl) (by intro _; rfl) hexec

/-- With none left it exits. -/
theorem exit_leaves (hm : mask = 0) :
    ∃ s' tr, exec (.exit h) s = .next s' ∧ s'.m.group? r = some ({ g with trace := tr } : Group).leave := by
  have hexec := exec_unchecked (i := .exit h) (op := opExit h) rfl hi ⟨.inl hs, hr⟩ (by simp [Active, hs]) rfl rfl rfl
  have hgref : t.gref g = r := hi.ref
  simp only [opExit, exitOp, groupBody_issuing hi, memberOf_act hredo, hgref, hst, hx] at hexec
  rw [if_pos hm] at hexec
  obtain ⟨tr, htr⟩ := (traced_traceBranch s.fw s.m t g r g.pc 0).group hi.mach
  refine ⟨_, tr, hexec, ?_⟩
  rw [conclude, countFix_group?]
  exact exitGroup_group? htr

end

/-- Settles O32: the joins that EXIT applies drop the entries that hold no lane, up to the first that holds some. -/
theorem exits : Obligations.Exits := by
  intro h s r t g hi hs hr hredo out left st goes
  refine ⟨fun hl => ?_, fun pre e rest hl hst hpre => ?_, fun hl hall => ?_⟩
  · exact exit_flows hi hs hr hredo rfl (exitJoin_active hl ..) hl
  · obtain ⟨n, hn⟩ : ∃ n, 2 * st.length + 1 = pre.length + (n + 1) := ⟨2 * st.length - pre.length, by simp [hst]; omega⟩
    obtain ⟨pc', hdrop⟩ := exitJoin_drop hpre (n + 1) (e :: rest) (nextPc g.pc h)
    have hjoin : exitJoin (2 * st.length + 1) (left, st, nextPc g.pc h) = exitJoin n (joinEffect e rest) := by
      rw [hn, hl, hst, hdrop, exitJoin_step]
    refine ⟨fun hp => ?_, fun hp hsave => ?_⟩
    · rw [joinEffect_pending hp, exitJoin_active hp] at hjoin
      exact exit_flows hi hs hr hredo rfl hjoin hp
    · rw [joinEffect_last hp, exitJoin_active hsave] at hjoin
      exact exit_flows hi hs hr hredo rfl hjoin hsave
  · obtain ⟨n, hn⟩ : ∃ n, 2 * st.length + 1 = st.length + n := ⟨st.length + 1, by omega⟩
    obtain ⟨pc', hdrop⟩ := exitJoin_drop hall n [] (nextPc g.pc h)
    rw [List.append_nil, exitJoin_none, ← hn, ← hl] at hdrop
    obtain ⟨s', tr, hexec, hg⟩ := exit_leaves hi hs hr hredo rfl hdrop hl
    exact ⟨s', _, hexec, hg, rfl, rfl, rfl, rfl, rfl⟩

end Sys2Proof.Machine
end

section
/-! Fault records and exceptions (R388 to R390): what posting a record changes, which is the queue of its context, the memory that it
is written to and the trace of the group that it names; and what taking an exception leaves as it was. -/
namespace Sys2Proof.Machine

/-! ### Contexts -/

/-- Looking up a context after a change to context j. -/
theorem ctx?_modCtx (m : Mach) (j c : BitVec 12) (f : Context → Context) (hf : ∀ x, x.cid = j → (f x).cid = j) :
    (m.modCtx j f).ctx? c = if c = j then (m.ctx? c).map f else m.ctx? c := by
  have hkey : ((fun x : Context => x.cid == c) ∘ fun x => if x.cid == j then f x else x) = fun x => x.cid == c := by
    funext x
    simp only [Function.comp_apply, beq_iff_eq]
    split
    · next hx => rw [hf x hx, hx]
    · rfl
  simp only [Mach.ctx?, Mach.modCtx, List.find?_map, hkey]
  cases hx : m.ctxs.find? (fun x => x.cid == c) with
  | none => simp
  | some k =>
    have hk : k.cid = c := by simpa using List.find?_some hx
    simp only [Option.map_some, beq_iff_eq, hk]
    split <;> rfl

theorem ctx?_cid {m : Mach} {c : BitVec 12} {k : Context} (h : m.ctx? c = some k) : k.cid = c := by
  simpa using List.find?_some h

theorem ctx?_setCtx (m : Mach) (k : Context) (c : BitVec 12) :
    (m.setCtx k).ctx? c = if c = k.cid then (m.ctx? c).map (fun _ => k) else m.ctx? c :=
  ctx?_modCtx m k.cid c (fun _ => k) fun _ _ => rfl

theorem setCtx_group? (m : Mach) (k : Context) (r : GRef) : (m.setCtx k).group? r = m.group? r := rfl

/-- The changed group itself. -/
theorem group?_modGroup_same {m : Mach} {r : GRef} {g : Group} {f : Group → Group} (hf : ∀ g, (f g).gno = g.gno) (hg : m.group? r = some g) :
    (m.modGroup r f).group? r = some (f g) := by
  rw [mach_group?_modGroup _ _ _ _ hf, if_pos rfl, hg]
  rfl

/-! ### Posting a record -/

/-- The groups but for their traces, the teams' bodies, the grids, the handshakes and the pending records are as they were. -/
structure Posted (m m' : Mach) : Prop where
  group : ∀ q g, m.group? q = some g → ∃ tr, m'.group? q = some { g with trace := tr }
  body : ∀ k, (m'.team? k).map Team.body = (m.team? k).map Team.body
  grids : m'.grids = m.grids
  pairings : m'.pairings = m.pairings
  pend : ∀ c, (m'.ctx? c).map Context.pend = (m.ctx? c).map Context.pend

theorem Posted.refl (m : Mach) : Posted m m := ⟨fun _ g hg => ⟨g.trace, hg⟩, fun _ => rfl, rfl, rfl, fun _ => rfl⟩

theorem Posted.trans {a b c : Mach} (h : Posted a b) (h' : Posted b c) : Posted a c where
  group q g hg := by
    obtain ⟨_, hb⟩ := h.group q g hg
    obtain ⟨tr, hc⟩ := h'.group q _ hb
    exact ⟨tr, hc⟩
  body k := (h'.body k).trans (h.body k)
  grids := h'.grids.trans h.grids
  pairings := h'.pairings.trans h.pairings
  pend c := (h'.pend c).trans (h.pend c)

theorem Traced.posted {r : GRef} {m m' : Mach} (h : Traced r m m') : Posted m m' where
  group q g hg := by
    by_cases hq : q = r
    · subst hq
      exact h.group hg
    · exact ⟨g.trace, (h.others hq).trans hg⟩
  body k := by
    obtain ⟨f, h⟩ := h
    rw [h.team?, modGroup_body]
  grids := h.grids
  pairings := h.pairings
  pend c := by simp only [Mach.ctx?, h.ctxs]

theorem MemKept.posted {m m' : Mach} (h : MemKept m m') : Posted m m' := (h.traced { tid := 0, gno := 0 }).posted

theorem posted_setCtx {m : Mach} {c : BitVec 12} {k k' : Context} (hk : m.ctx? c = some k) (hc : k'.cid = k.cid) (hp : k'.pend = k.pend) :
    Posted m (m.setCtx k') where
  group q g hg := ⟨g.trace, hg⟩
  body _ := rfl
  grids := rfl
  pairings := rfl
  pend j := by
    rw [ctx?_setCtx, hc, ctx?_cid hk]
    split
    · next hj =>
      subst hj
      rw [hk]
      exact congrArg some hp
    · rfl

theorem posted_traceBare (fw : Firmware) (m : Mach) (c : BitVec 12) (k : TrKind) (bytes : List Byte) : Posted m (traceBare fw m c k bytes) := by
  unfold traceBare
  split
  · exact (memKept_traceUnits ..).posted
  · exact .refl m

theorem posted_traceFault (fw : Firmware) (m : Mach) (c : BitVec 12) (bytes : List Byte) : Posted m (traceFault fw m c bytes) := by
  unfold traceFault
  extract_lets body
  split
  · exact (traced_traceGroup ..).posted
  · exact posted_traceBare ..

theorem posted_fqWrite (fw : Firmware) (m : Mach) (c : BitVec 12) (bytes : List Byte) : Posted m (fqWrite fw m c bytes) := by
  unfold fqWrite
  split
  · exact .refl m
  · next k hk =>
    have hw := memKept_setHomeBytes m c (fqSlot k k.fqtail) bytes
    exact hw.posted.trans ((posted_setCtx ((hw.ctx? c).trans hk) (k' := { k with fqtail := k.fqtail + 1 }) rfl rfl).trans
      ((homeKept_count ..).mem.posted.trans (posted_traceFault ..)))

theorem posted_fqPost (fw : Firmware) (m : Mach) (c : BitVec 12) (bytes : List Byte) : Posted m (fqPost fw m c bytes) := by
  unfold fqPost
  split
  · exact .refl m
  · next k hk =>
    split
    · exact posted_setCtx hk rfl rfl
    · split
      · exact posted_setCtx hk rfl rfl
      · exact posted_fqWrite ..

theorem posted_takeSeq (m : Mach) (c : BitVec 12) : Posted m (takeSeq m c).2 := by
  unfold takeSeq
  split
  · exact .refl m
  · next k hk => exact posted_setCtx hk rfl rfl

theorem posted_postInfo (fw : Firmware) (m : Mach) (c : BitVec 12) (cause : Cause) (addr : DWord) (detail : BitVec 32) (rec0 : Rec → Rec) :
    Posted m (postInfo fw m c cause addr detail rec0) := (posted_takeSeq m c).trans (posted_fqPost ..)

/-! ### Taking an exception -/

/-- The teams' bodies, the grids and the handshakes are as they were. -/
structure Stopping (m m' : Mach) : Prop where
  body : ∀ k, (m'.team? k).map Team.body = (m.team? k).map Team.body
  grids : m'.grids = m.grids
  pairings : m'.pairings = m.pairings

theorem Stopping.refl (m : Mach) : Stopping m m := ⟨fun _ => rfl, rfl, rfl⟩
theorem Stopping.trans {a b c : Mach} (h : Stopping a b) (h' : Stopping b c) : Stopping a c :=
  ⟨fun k => (h'.body k).trans (h.body k), h'.grids.trans h.grids, h'.pairings.trans h.pairings⟩
theorem Posted.stopping {m m' : Mach} (h : Posted m m') : Stopping m m' := ⟨h.body, h.grids, h.pairings⟩
theorem stopping_modGroup (m : Mach) (r : GRef) (f : Group → Group) : Stopping m (m.modGroup r f) := ⟨modGroup_body m r f, rfl, rfl⟩
theorem stopping_setCtx (m : Mach) (k : Context) : Stopping m (m.setCtx k) := ⟨fun _ => rfl, rfl, rfl⟩

theorem stopping_stopOne (fw : Firmware) (x : Stop) (tid : Nat) (seq : BitVec 32) (m : Mach) (hit : Hit) :
    Stopping m (stopOne fw x tid seq m hit) := by
  unfold stopOne
  split
  · exact .refl m
  · split
    · exact .refl m
    · extract_lets rec0 stops pd halted waiting
      have hhalted : Stopping m halted := by
        simp only [halted]
        split
        · exact stopping_modGroup ..
        · exact .refl m
      have hwaiting : Stopping m waiting := by
        simp only [waiting]
        split
        · exact hhalted
        · exact hhalted.trans (stopping_setCtx ..)
      exact hwaiting.trans (posted_fqPost ..).stopping

theorem stopping_takeStop (fw : Firmware) (m : Mach) (tid : Nat) (x : Stop) : Stopping m (takeStop fw m tid x) := by
  have hone : ∀ (seq : BitVec 32) (l : List Hit) (m : Mach), Stopping m (l.foldl (fun m h => stopOne fw x tid seq m h) m) := by
    intro seq l
    induction l with
    | nil => exact .refl
    | cons h hs ih => exact fun m => (stopping_stopOne ..).trans (ih _)
  unfold takeStop
  split
  · exact .refl m
  · next t _ =>
    have hseq := (posted_takeSeq m t.ctx).stopping
    split
    next heq =>
      rw [heq] at hseq
      have hall := hseq.trans (hone ‹_› x.hits _)
      dsimp only
      split
      · exact hall
      · split
        · exact hall.trans ⟨fun _ => rfl, rfl, rfl⟩
        · exact hall

section
variable {fw : Firmware} {x : Stop} {r : GRef} {seq : BitVec 32} {m : Mach} {hit : Hit} {t : Team} {g : Group} {k : Context}
  (ht : m.team? r.tid = some t) (hg : t.group? r.gno = some g) (hk : m.ctx? t.ctx = some k) (hhit : hit.gno = r.gno)
  (hlive : g.live = true) (hx : (x.eng && x.replay) = false)
include ht hg hk hhit hlive hx

theorem stopOne_eq : stopOne fw x r.tid seq m hit =
    fqPost fw ((m.modGroup r (Group.stopped x (stopHere x m.cur r.tid g) hit)).setCtx
      { k with pend := k.pend ++ [pendingOf m x r.tid g seq hit (stopRec m t g x hit.lmask)] }) t.ctx ((stopRec m t g x hit.lmask).bytes seq) := by
  have hctx : ∀ f, (m.modGroup r f).ctx? t.ctx = some k := fun _ => hk
  simp only [stopOne, ht, hhit, hg, hx, hlive, Bool.not_false, Bool.and_self, if_true, hctx]

/-- A group that an exception stops: what becomes of the group, and its record, which waits for service. -/
theorem stopOne_group : ∃ tr k' p,
    (stopOne fw x r.tid seq m hit).group? r = some { Group.stopped x (stopHere x m.cur r.tid g) hit g with trace := tr }
      ∧ (stopOne fw x r.tid seq m hit).ctx? t.ctx = some k' ∧ k'.pend = k.pend ++ [p] ∧ p.cause = x.cause ∧ p.gno = r.gno := by
  rw [stopOne_eq ht hg hk hhit hlive hx]
  generalize hpd : pendingOf m x r.tid g seq hit (stopRec m t g x hit.lmask) = pd
  generalize hstopped : (m.modGroup r (Group.stopped x (stopHere x m.cur r.tid g) hit)).setCtx { k with pend := k.pend ++ [pd] } = stopped
  have hgroup : stopped.group? r = some (Group.stopped x (stopHere x m.cur r.tid g) hit g) := by
    have hfound : m.group? r = some g := by rw [Mach.group?, ht]; exact hg
    rw [← hstopped, setCtx_group?]
    exact group?_modGroup_same (f := Group.stopped x (stopHere x m.cur r.tid g) hit) (fun _ => rfl) hfound
  have hpend : (stopped.ctx? t.ctx).map Context.pend = some (k.pend ++ [pd]) := by
    rw [← hstopped, ctx?_setCtx, if_pos (ctx?_cid hk).symm]
    exact congrArg (Option.map Context.pend) (congrArg (Option.map fun _ => _) hk)
  have hpost := posted_fqPost fw stopped t.ctx ((stopRec m t g x hit.lmask).bytes seq)
  obtain ⟨tr, htr⟩ := hpost.group r _ hgroup
  obtain ⟨k', hk', hp⟩ := Option.map_eq_some_iff.mp ((hpost.pend t.ctx).trans hpend)
  exact ⟨tr, k', pd, htr, hk', hp, by rw [← hpd]; rfl, by rw [← hpd]; exact hhit⟩

end

/-- An exception with one record. -/
theorem takeStop_group {fw : Firmware} {x : Stop} {r : GRef} {m : Mach} {hit : Hit} {t : Team} {g : Group} {k : Context}
    (ht : m.team? r.tid = some t) (hg : t.group? r.gno = some g) (hk : m.ctx? t.ctx = some k) (hits : x.hits = [hit])
    (hhit : hit.gno = r.gno) (hlive : g.live = true) (hx : (x.eng && x.replay) = false) : ∃ tr k' p,
    (takeStop fw m r.tid x).group? r = some { Group.stopped x (stopHere x m.cur r.tid g) hit g with trace := tr }
      ∧ (takeStop fw m r.tid x).ctx? t.ctx = some k' ∧ k'.pend = k.pend ++ [p] ∧ p.cause = x.cause ∧ p.gno = r.gno := by
  have hk' : (m.setCtx { k with seq := k.seq + 1 }).ctx? t.ctx = some { k with seq := k.seq + 1 } := by
    rw [ctx?_setCtx, if_pos (ctx?_cid hk).symm, hk]
    rfl
  obtain ⟨tr, k', p, hgroup, hctx, hp⟩ := stopOne_group (fw := fw) (seq := k.seq) (m := m.setCtx { k with seq := k.seq + 1 }) ht hg hk' hhit hlive hx
  refine ⟨tr, k', p, ?_, ?_, hp⟩
  all_goals
    simp only [takeStop, ht, takeSeq, hk, hits, List.foldl_cons, List.foldl_nil]
    split
    · assumption
    · split <;> assumption

end Sys2Proof.Machine
end

section
/-! Time limits, ends and placement (R25, R26, R39 to R43, R52, R119, R224, R400 to R407, R475): what each event leaves of its group,
team, grid or core. -/
namespace Sys2Proof.Machine

/-! ### Events -/

theorem event_pending {s : State} {p : Bool} (hp : p = true) (f : Firmware → Mach → Mach) :
    event s p f = .next { s with m := f s.fw s.m } := if_pos hp

theorem goes_event {i : Instr} {s : State} {p : Bool} {f : Firmware → Mach → Mach} {P : State → Prop} (he : exec i s = event s p f)
    (hp : p = true) (hP : P { s with m := f s.fw s.m }) : Goes i s P := ⟨_, he.trans (event_pending hp f), hP⟩

/-! ### Time limits -/

theorem limitOf_some {m : Mach} {c : BitVec 12} {k : Context} (hk : m.ctx? c = some k) (hl : k.rvlim ≠ 0) :
    limitOf m c = some (k.rvlim.toNat * 1024) := by
  simp only [limitOf, hk, if_neg hl]

@[simp] theorem leaveWait_gno (g : Group) : g.leaveWait.gno = g.gno := by unfold Group.leaveWait; split <;> rfl

theorem leaveWait_parked {g : Group} {p : Park} (hs : g.status = .parked p) : g.leaveWait = { g with status := .ready } := by
  simp [Group.leaveWait, hs]

section
variable {fw : Firmware} {m : Mach} {r : GRef} {t : Team} {g : Group} {k : Context} (ht : m.team? r.tid = some t)
  (hg : t.group? r.gno = some g) (hk : m.ctx? t.ctx = some k)
include ht hg

theorem mach_group?_of_team : m.group? r = some g := by rw [Mach.group?, ht]; exact hg

include hk

/-- A parked group whose wait reaches its limit is suspended where it stands, with one record. -/
theorem timeOut_suspends {p : Park} (hs : g.status = .parked p) {c : Cause} (hc : isReplay c = false) :
    ∃ g' k' p', (timeOut fw m r c).group? r = some g' ∧ g'.status = .suspended ∧ g'.pc = g.pc ∧ g'.regs = g.regs ∧ g'.retired = g.retired
      ∧ (timeOut fw m r c).ctx? t.ctx = some k' ∧ k'.pend = k.pend ++ [p'] ∧ p'.cause = c ∧ p'.gno = g.gno := by
  have ht' : (m.modGroup r Group.leaveWait).team? r.tid = some (t.modGroup r.gno Group.leaveWait) := by
    rw [team?_modGroup, if_pos rfl, ht]
    rfl
  have hg' : (t.modGroup r.gno Group.leaveWait).group? r.gno = some g.leaveWait := by
    rw [group?_modGroup _ _ _ _ leaveWait_gno, if_pos rfl, hg]
    rfl
  have hgno : g.gno = r.gno := group?_gno hg
  have hlive : g.leaveWait.live = true := by rw [leaveWait_parked hs]; rfl
  have htime : timeOut fw m r c = takeStop fw (m.modGroup r Group.leaveWait) r.tid { Stop.trap c g g.npc with own := true } := by
    simp only [timeOut, mach_group?_of_team ht hg]
  obtain ⟨tr, k', p', hgroup, hctx, hpend, hcause, hno⟩ := takeStop_group (fw := fw) (x := { Stop.trap c g g.npc with own := true })
    ht' hg' hk rfl hgno hlive rfl
  rw [htime]
  refine ⟨_, k', p', hgroup, ?_, ?_, ?_, ?_, hctx, hpend, hcause, hno.trans hgno.symm⟩
  · simp [Group.stopped, leaveWait_parked hs, isStopped, stopStatus, Stop.trap, Stop.replay, hc]
  · rw [leaveWait_parked hs]; rfl
  · rw [leaveWait_parked hs]; rfl
  · rw [leaveWait_parked hs]; rfl

theorem waitedOut_parked {p : Park} (hs : g.status = .parked p) (hl : k.rvlim ≠ 0) (hw : k.rvlim.toNat * 1024 ≤ g.waited) {f : Park → Bool}
    (hf : f p = true) : waitedOut m r f = true := by
  simp [waitedOut, ht, mach_group?_of_team ht hg, hs, limitOf_some hk hl, hf, hw]

end

/-- A wait that has reached its limit, of the kind that the event ends. -/
theorem goes_timeOut {i : Instr} {s : State} {r : GRef} {t : Team} {g : Group} {k : Context} {p : Park} {f : Park → Bool} {c : Cause}
    (ht : s.m.team? r.tid = some t) (hg : t.group? r.gno = some g) (hk : s.m.ctx? t.ctx = some k) (hs : g.status = .parked p)
    (hl : k.rvlim ≠ 0) (hw : k.rvlim.toNat * 1024 ≤ g.waited)
    (he : exec i s = event s (waitedOut s.m r f) (fun fw m => timeOut fw m r c)) (hf : f p = true) (hc : isReplay c = false) :
    Goes i s (fun s' => s'.fw = s.fw ∧ ∃ g', s'.m.group? r = some g' ∧ g'.status = .suspended ∧ g'.pc = g.pc ∧ g'.regs = g.regs
      ∧ g'.retired = g.retired ∧ ∃ k' p', s'.m.ctx? t.ctx = some k' ∧ k'.pend = k.pend ++ [p'] ∧ p'.cause = c ∧ p'.gno = g.gno) := by
  obtain ⟨g', k', p', hgroup, hst, hpc, hregs, hret, hctx, hpend⟩ := timeOut_suspends (fw := s.fw) ht hg hk hs hc
  exact goes_event he (waitedOut_parked ht hg hk hs hl hw hf) ⟨rfl, g', hgroup, hst, hpc, hregs, hret, k', p', hctx, hpend⟩

/-! ### Handshakes and rendezvous -/

theorem stopping_pairFail (fw : Firmware) (c : Cause) (m : Mach) (l : Loop) : Stopping m (pairFail fw c m l) := by
  unfold pairFail
  extract_lets r
  split
  · exact .refl m
  · exact (stopping_modGroup ..).trans (stopping_takeStop ..)

theorem stopping_pairFails (fw : Firmware) (c : Cause) (ls : List Loop) (m : Mach) : Stopping m (ls.foldl (pairFail fw c) m) := by
  induction ls generalizing m with
  | nil => exact .refl m
  | cons l ls ih => exact (stopping_pairFail ..).trans (ih _)

/-- The handshakes of these loops end. -/
def Mach.dropPairings (m : Mach) (ls : List Loop) : Mach := { m with pairings := m.pairings.filter (fun q => !ls.contains q.loop) }

theorem goes_pairingTimeout {s : State} {r : GRef} {t : Team} {k : Context} {p : Pairing} (ht : s.m.team? r.tid = some t)
    (hk : s.m.ctx? t.ctx = some k) (hp : pairingOf s.m r = some p) (hl : k.rvlim ≠ 0) (he : k.rvlim.toNat * 1024 ≤ p.elapsed) :
    Goes (.pairingTimeout r) s (fun s' => ∀ q ∈ s'.m.pairings, q ∈ s.m.pairings ∧ q.loop ∉ pairingArrived s.m p) := by
  have hexec : exec (.pairingTimeout r) s =
      .next { s with m := (pairingArrived s.m p).foldl (pairFail s.fw 0x1D1) (s.m.dropPairings (pairingArrived s.m p)) } := by
    show execPairingTimeout r s = _
    simp only [execPairingTimeout, hp]
    exact event_pending (by simp [ht, limitOf_some hk hl, he]) _
  refine ⟨_, hexec, fun q hq => ?_⟩
  dsimp only at hq
  rw [(stopping_pairFails ..).pairings] at hq
  simpa [Mach.dropPairings] using hq

/-- A set-wide fault closes the rendezvous of its set. -/
theorem setFault_closes {fw : Firmware} {m : Mach} {tid : Nat} {t : Team} (ht : m.team? tid = some t) (k : Option (BitVec 3)) (x : Stop)
    (masks : List (Nat × Mask × Mask × Mask)) : ∃ t', (setFault fw m tid k x masks).team? tid = some t' ∧ t'.rdv? k = none := by
  have hclosed : (m.modTeam tid (Team.closeRdv k)).team? tid = some (t.closeRdv k) := by
    rw [team?_modTeam m tid tid (Team.closeRdv k) fun _ => rfl, if_pos rfl, ht]
    rfl
  have hbody : ((setFault fw m tid k x masks).team? tid).map Team.body = some (t.closeRdv k).body := by
    simp only [setFault, ht]
    exact ((stopping_takeStop ..).body tid).trans (congrArg (Option.map Team.body) hclosed)
  obtain ⟨t', ht', he⟩ := Option.map_eq_some_iff.mp hbody
  refine ⟨t', ht', ?_⟩
  have hrdv : t'.body.rdv? k = (t.closeRdv k).body.rdv? k := by rw [he]
  exact hrdv.trans (closeRdv_rdv? k t)

theorem goes_rendezvousTimeout {s : State} {tid : Nat} {t : Team} {k : Context} {j : Option (BitVec 3)} {v : Rdv}
    (ht : s.m.team? tid = some t) (hk : s.m.ctx? t.ctx = some k) (hv : t.rdv? j = some v) (hcomplete : rdvComplete t v = false)
    (hrun : k.st = .running) (hcand : ∀ n ∈ liveMembers t j, ∀ q, t.group? n = some q → isCandidate s.m t q = false)
    (hl : k.rvlim ≠ 0) (he : k.rvlim.toNat * 1024 ≤ v.elapsed) :
    Goes (.rendezvousTimeout tid j) s (fun s' => ∃ t', s'.m.team? tid = some t' ∧ t'.rdv? j = none) := by
  have hset : v.set = j := rdv?_set hv
  have htid : t.tid = tid := by simpa using List.find?_some ht
  have hlate : rdvLate s.m t v = true := by
    have hnone : (liveMembers t v.set).any (fun n => (t.group? n).any (isCandidate s.m t)) = false := by
      rw [List.any_eq_false, hset]
      intro n hn
      cases hq : t.group? n with
      | none => simp
      | some q => simp [hcand n hn q hq]
    simp [rdvLate, hcomplete, hnone, ctxRuns, hk, hrun, limitOf_some hk hl, he]
  have hexec : exec (.rendezvousTimeout tid j) s = .next { s with m := concludeWide s.fw t v (s.m, .fail (Fail.whole 0x181)) } := by
    show execRendezvousTimeout tid j s = _
    simp only [execRendezvousTimeout, ht, Option.bind_some, hv, Option.map_some]
    exact event_pending hlate _
  refine ⟨_, hexec, ?_⟩
  subst hset htid
  simp only [concludeWide, Fail.whole, Bool.or_self, Bool.false_eq_true, if_false]
  exact setFault_closes ht ..

/-! ### Ends of groups -/

@[simp] theorem popLost_outst (g : Group) : g.popLost.outst = g.outst := by unfold Group.popLost; split <;> rfl
@[simp] theorem halt_outst (g : Group) (b : Bool) : (g.halt b).outst = g.outst := by unfold Group.halt; split <;> rfl
@[simp] theorem lastReturn_gno (g : Group) : g.lastReturn.gno = g.gno := by unfold Group.lastReturn; split <;> simp
@[simp] theorem lastReturn_regs (g : Group) : g.lastReturn.regs = g.regs := by unfold Group.lastReturn; split <;> simp
@[simp] theorem lastReturn_outst (g : Group) : g.lastReturn.outst = g.outst := by unfold Group.lastReturn; split <;> simp
@[simp] theorem resultReturn_gno (g : Group) (i : Nat) : (g.resultReturn i).gno = g.gno := lastReturn_gno _
@[simp] theorem resultReturn_regs (g : Group) (i : Nat) : (g.resultReturn i).regs = g.regs := lastReturn_regs _
@[simp] theorem resultReturn_outst (g : Group) (i : Nat) : (g.resultReturn i).outst = g.outst.eraseIdx i := lastReturn_outst _

theorem group?_modAliases (m : Mach) (f : Team → List Alias → List Alias) (q : GRef) : (m.modAliases f).group? q = m.group? q := by
  have hteam : ∀ k, (m.modAliases f).team? k = (m.team? k).map (fun t => { t with aliases := f t t.aliases }) := fun k => by
    simp only [Mach.team?, Mach.modAliases, List.find?_map]
    rfl
  simp only [Mach.group?, hteam]
  cases m.team? q.tid <;> rfl

/-- A release by a group leaves of it all but its reductions, which are performed (R165). -/
theorem releaseBy_group? {m : Mach} {r : GRef} {g : Group} (hg : m.group? r = some g) (core : Nat) (sc : MScope) :
    (releaseBy m r core sc).group? r = some { g with reqs := g.reqs.filter (fun q => !q.ids.isEmpty) } := by
  rw [releaseBy, (memKept_release ..).group?]
  exact group?_modGroup_same (f := fun g => { g with reqs := g.reqs.filter (fun q => !q.ids.isEmpty) }) (fun _ => rfl)
    ((group?_modAliases ..).trans hg)

section
variable {s : State} {r : GRef} {t : Team} {g : Group} (ht : s.m.team? r.tid = some t) (hg : t.group? r.gno = some g)
include ht hg

/-- Where no load is outstanding, a result returns and nothing else. -/
theorem goes_registerResultReturn {i : Nat} (hi : i < g.outst.length) (hr : g.reqs = []) :
    Goes (.registerResultReturn r i) s (fun s' => s'.fw = s.fw ∧ ∃ g', s'.m.group? r = some g' ∧ g'.outst = g.outst.eraseIdx i
      ∧ g'.regs = g.regs) := by
  have hgr := mach_group?_of_team ht hg
  have hreturn : returnResult s.m r i = s.m.modGroup r
      (fun x => (({ x with reqs := reqReturn g.outst[i] x.reqs } : Group).resultReturn i).halt (ctxRuns s.m t.ctx)) := by
    simp [returnResult, ht, hgr, List.getElem?_eq_getElem hi, Group.reqFor, hr]
  have hgroup := group?_modGroup_same
    (f := fun x => (({ x with reqs := reqReturn g.outst[i] x.reqs } : Group).resultReturn i).halt (ctxRuns s.m t.ctx)) (by simp) hgr
  rw [← hreturn] at hgroup
  exact goes_event (.refl (execRegisterResultReturn r i s)) (by simp [hgr, hi]) ⟨rfl, _, hgroup, by simp, by simp⟩

theorem goes_groupResourcesFreed (hs : groupSpent s.m t g = true) :
    Goes (.groupResourcesFreed r) s (fun s' => s'.fw = s.fw ∧ ∃ g', s'.m.group? r = some g' ∧ g' = { g with freed := true }) := by
  have hgr := mach_group?_of_team ht hg
  refine goes_event (.refl (execGroupResourcesFreed r s)) (by simp [ht, hgr, hs]) ⟨rfl, _, ?_, rfl⟩
  exact group?_modGroup_same (f := fun g => { g with freed := true }) (fun _ => rfl) hgr

/-- A pending release that may run is performed. -/
theorem goes_releaseComplete {sc : MScope} {pc : DWord} (hp : g.relPend = some (sc, pc))
    (hsys : sc = .sys → relHeld s.m t.ctx = false ∧ relHeld (releaseBy s.m r t.core .sys) t.ctx = false) :
    Goes (.releaseComplete r) s (fun s' => s'.fw = s.fw ∧ ∃ g', s'.m.group? r = some g' ∧ g'.relPend = none ∧ g'.regs = g.regs) := by
  have hgr := mach_group?_of_team ht hg
  have hruns : releaseRuns s.m r = true := by
    by_cases hsc : sc = .sys
    · simp [releaseRuns, ht, hgr, hp, (hsys hsc).1]
    · simp [releaseRuns, ht, hgr, hp, hsc]
  have hfree : ¬ (sc = .sys ∧ relHeld (releaseBy s.m r t.core sc) t.ctx = true) := by
    rintro ⟨rfl, hheld⟩
    simp [(hsys rfl).2] at hheld
  have hsettle : settle s.m r = (releaseBy s.m r t.core sc).modGroup r (fun g => { g with relPend := none }) := by
    simp only [settle, ht, hg, hp, if_neg hfree]
  have hgroup := group?_modGroup_same (f := fun g => { g with relPend := none }) (fun _ => rfl) (releaseBy_group? hgr t.core sc)
  rw [← hsettle] at hgroup
  exact goes_event (.refl (execReleaseComplete r s)) hruns ⟨rfl, _, hgroup, rfl, rfl⟩

end

/-! ### Ends of teams and grids -/

theorem grid?_gid {m : Mach} {gid : Nat} {g : Grid} (h : m.grid? gid = some g) : g.gid = gid := by
  simpa using List.find?_some h

theorem setGrid_grid? {m : Mach} {gid : Nat} {g g' : Grid} (h : m.grid? gid = some g) (hg' : g'.gid = g.gid) :
    (m.setGrid g').grid? gid = some g' := by
  have hgid : g'.gid = gid := hg'.trans (grid?_gid h)
  have hkey : ((fun x : Grid => x.gid == gid) ∘ fun x => if x.gid == g'.gid then g' else x) = fun x => x.gid == gid := by
    funext x
    simp only [Function.comp_apply, hgid]
    split <;> simp_all
  simp only [Mach.grid?, Mach.setGrid, List.find?_map, hkey] at h ⊢
  rw [h, Option.map_some, hg', beq_self_eq_true, if_pos rfl]

theorem returnBlocks_grids (m : Mach) (t : Team) : (returnBlocks m t).grids = m.grids := by
  unfold returnBlocks
  generalize t.groups = gs
  induction gs generalizing m with
  | nil => rfl
  | cons g gs ih =>
    rw [List.foldl_cons, ih]
    split <;> rfl

theorem pubAll_grids (r : Group → GRef) (sc : MScope) (gs : List Group) (m : Mach) :
    (gs.foldl (fun m g => pubAliases m (r g) sc) m).grids = m.grids := by
  induction gs generalizing m with
  | nil => rfl
  | cons g gs ih => rw [List.foldl_cons, ih]; rfl

theorem dropTeam_team? (m : Mach) (t : Team) : (dropTeam m t).team? t.tid = none := by simp [dropTeam, Mach.team?]

/-- The team is gone, and its grid has one more that retired. -/
theorem retireTeam_spec (m : Mach) (t : Team) : (retireTeam m t).team? t.tid = none ∧ ∀ gr, m.grid? t.gid = some gr →
    (retireTeam m t).grid? t.gid = some { gr with retired := gr.retired + 1 } := by
  unfold retireTeam
  extract_lets published left
  have hgrids : left.grids = m.grids := by
    have hdrop : left.grids = (returnBlocks (release published t.core .sys fun _ => true) t).grids := rfl
    rw [hdrop, returnBlocks_grids, (memKept_release ..).grids, pubAll_grids]
  have hgone : left.team? t.tid = none := dropTeam_team? ..
  have hgrid : ∀ j, left.grid? j = m.grid? j := fun j => by simp only [Mach.grid?, hgrids]
  refine ⟨?_, fun gr hgr => ?_⟩
  · split
    · exact hgone
    · exact hgone
  · rw [← hgrid] at hgr
    simp only [hgr]
    exact setGrid_grid? hgr rfl

theorem goes_teamRetire {s : State} {tid : Nat} {t : Team} (ht : s.m.team? tid = some t) (hs : teamSpent s.m t = true) :
    Goes (.teamRetire tid) s (fun s' => s'.m.team? tid = none ∧ ∀ gr, s.m.grid? t.gid = some gr →
      ∃ gr', s'.m.grid? t.gid = some gr' ∧ gr'.retired = gr.retired + 1) := by
  have htid : t.tid = tid := by simpa using List.find?_some ht
  obtain ⟨hgone, hgrid⟩ := retireTeam_spec s.m t
  rw [htid] at hgone
  refine goes_event (.refl (execTeamRetire tid s)) (by simp [ht, hs]) ?_
  simp only [ht]
  exact ⟨hgone, fun gr hgr => ⟨_, hgrid gr hgr, rfl⟩⟩

section
variable {s : State} {gid : Nat} {g : Grid} (hg : s.m.grid? gid = some g)
include hg

/-- With no completion word to add to, a grid that is spent goes. -/
theorem goes_gridCompletion (hs : gridSpent s.m g = true) (hc : g.cplen = false) :
    Goes (.gridCompletion gid) s (fun s' => s'.m.grid? gid = none ∧ s'.m.mem = s.m.mem) := by
  have hadd : gridAdd s.fw s.m gid = { s.m with grids := s.m.grids.filter (fun x => x.gid != gid) } := by
    simp [gridAdd, hg, hc]
  refine goes_event (.refl (execGridCompletion gid s)) (by simp [hg, hs]) ?_
  rw [hadd]
  refine ⟨?_, rfl⟩
  simp [Mach.grid?]

theorem goes_priorityAging (hw : g.waits = true) (ha : g.aged = false) (ht : 2097152 ≤ g.waited) :
    Goes (.priorityAging gid) s (fun s' => s'.m.grid? gid = some { g with aged := true }) := by
  refine goes_event (.refl (execPriorityAging gid s)) (by simp [hg, hw, ha, ht]) ?_
  simp only [hg]
  exact setGrid_grid? hg rfl

end

end Sys2Proof.Machine
end

section
/-! Acceptance and placement (R400 to R407, R475): grids as records are accepted and teams are placed, and a core whose drain
ends. -/
namespace Sys2Proof.Machine

/-! ### What placing a team leaves of the grids -/

theorem foldl_grids {α : Type} {f : Mach → α → Mach} (hf : ∀ m x, (f m x).grids = m.grids) (l : List α) (m : Mach) :
    (l.foldl f m).grids = m.grids := by
  induction l generalizing m with
  | nil => rfl
  | cons x xs ih => rw [List.foldl_cons, ih, hf]

theorem memKept_l1Evicts (core : Nat) (l : List L1W) (m : Mach) : MemKept m (l.foldl (fun m w => l1Evict m core w.ctx w.va) m) :=
  .foldl (fun _ _ => memKept_l1Evict ..) l m

theorem setCarve_grids (m : Mach) (core carve : Nat) : (setCarve m core carve).grids = m.grids := (memKept_l1Evicts ..).grids

theorem orderAliases_grids (m : Mach) (r : GRef) (sc : MScope) : (orderAliases m r sc).grids = m.grids := rfl

theorem syncCreated_grids (fw : Firmware) (m : Mach) (tid : Nat) : (syncCreated fw m tid).grids = m.grids := by
  unfold syncCreated
  split
  · rfl
  · split
    · exact foldl_grids (fun m g => (traced_emitSync ..).grids) _ m
    · rfl

theorem placeTeam_grids (fw : Firmware) (m : Mach) (g : Grid) (index core clteam : Nat) (sl : List Nat) :
    (placeTeam fw m g index core clteam sl).grids = m.grids := by
  unfold placeTeam
  split
  · rfl
  · extract_lets carved p bs gs pooled tid acquired placed
    have hcarved : carved.grids = m.grids := by
      simp only [carved]
      split
      · rfl
      · exact setCarve_grids ..
    have hplaced : placed.grids = m.grids := (memKept_acquire pooled g.ctx core .dev 0).grids.trans hcarved
    rw [syncCreated_grids, foldl_grids fun _ _ => orderAliases_grids .., hplaced]

/-- The grid counts its placed teams; others that wait have been passed. -/
theorem placeNext_grid? {m : Mach} {gid : Nat} {g : Grid} (hg : m.grid? gid = some g) (fw : Firmware) (die : Nat) (cs sl : List Nat) :
    (placeNext fw m g die cs sl).grid? gid = some { g with next := g.next + g.clsize } := by
  unfold placeNext
  extract_lets placed counted
  have hplaced : placed.grid? gid = some g := by
    simp only [Mach.grid?, placed]
    rw [foldl_grids fun _ _ => placeTeam_grids ..]
    exact hg
  have hcounted : counted.grid? gid = some { g with next := g.next + g.clsize } := setGrid_grid? hplaced rfl
  have hgid : g.gid = gid := grid?_gid hg
  have hkey : ((fun x : Grid => x.gid == gid) ∘ fun x => if x.gid != g.gid && x.waits then { x with passed := true } else x) =
      fun x => x.gid == gid := by
    funext x
    simp only [Function.comp_apply]
    split <;> rfl
  simp only [Mach.grid?, List.find?_map, hkey] at hcounted ⊢
  rw [hcounted]
  simp

theorem goes_teamPlace {s : State} {gid : Nat} {g : Grid} (hg : s.m.grid? gid = some g) {die corner : Nat} {slices cs : List Nat}
    (hw : g.waits = true) (hfits : fitsAt s.fw s.m g die corner = true) (hturn : turnOf s.fw s.m g = true)
    (hcs : clusterCores g die corner = some cs) (hlen : slices.length = g.ngroups * g.clsize)
    (hslices : ∀ x ∈ cs.zipIdx, slicesOk s.m x.1 g.desc.valloc ((slices.drop (x.2 * g.ngroups)).take g.ngroups) = true) :
    Goes (.teamPlace gid die corner slices) s (fun s' => ∃ g', s'.m.grid? gid = some g' ∧ g'.next = g.next + g.clsize) := by
  have hall : (cs.zipIdx).all (fun x => slicesOk s.m x.1 g.desc.valloc ((slices.drop (x.2 * g.ngroups)).take g.ngroups)) = true :=
    List.all_eq_true.mpr hslices
  have hexec : exec (.teamPlace gid die corner slices) s = .next { s with m := placeNext s.fw s.m g die cs slices } := by
    show execTeamPlace gid die corner slices s = _
    simp only [execTeamPlace, hg, Option.bind_some, hcs, Option.map_some]
    exact event_pending (by simp only [Option.any_some, hw, hfits, hturn, hlen, hcs, hall, beq_self_eq_true, Bool.and_self]) _
  exact ⟨_, hexec, _, placeNext_grid? hg .., rfl⟩

/-! ### Acceptance -/

theorem homeKept_deviceLoad (m : Mach) (c : BitVec 12) (va : Nat) : HomeKept m (deviceLoad m c va).2 := homeKept_readHome ..

theorem homeKept_deviceAcquire (fw : Firmware) (m : Mach) (c : BitVec 12) : HomeKept m (deviceAcquire fw m c) :=
  .ite (homeKept_hostLines ..) (.refl m)

theorem homeKept_readDep (fw : Firmware) (m : Mach) (c : BitVec 12) (r : LRec) : HomeKept m (readDep fw m c r) :=
  .ite ((homeKept_deviceAcquire ..).trans (homeKept_deviceLoad ..)) (.refl m)

theorem homeKept_descTouch (m : Mach) (c : BitVec 12) (r : LRec) : HomeKept m (descTouch m c r) := by
  unfold descTouch
  extract_lets touched
  have htouched : HomeKept m touched := homeKept_homeTouch ..
  split
  · exact htouched
  · exact htouched.trans (.foldl (fun _ _ => .ite (.refl _) (homeKept_homeTouch ..)) _ _)

theorem homeKept_lqTouch (m : Mach) (k : Context) (q : BitVec 4) : HomeKept m (lqTouch m k q) := homeKept_mscReads ..

theorem homeKept_recordTouch (m : Mach) (k : Context) (q : BitVec 4) (x : LQueue) (r : LRec) : HomeKept m (recordTouch m k q x r) :=
  (homeKept_lqTouch ..).trans ((homeKept_homeTouch ..).trans (homeKept_descTouch ..))

theorem memKept_appendRecord (m : Mach) (k : Context) (q : BitVec 4) (b : List Byte) : MemKept m (appendRecord m k q b) :=
  (homeKept_lqTouch ..).mem.trans ((memKept_setHomeBytes ..).trans (memKept_setPhysBytes ..))

theorem unparkGroup_grids (m : Mach) (r : GRef) (c : BitVec 12) : (unparkGroup m r c).grids = m.grids := (homeKept_countFix ..).mem.grids

theorem wakeLaunch_grids (m : Mach) (c : BitVec 12) (q : BitVec 4) : (wakeLaunch m c q).grids = m.grids := by
  unfold wakeLaunch
  split
  · rfl
  · split
    · rfl
    · split
      · rfl
      · extract_lets x
        exact (unparkGroup_grids ..).trans (memKept_appendRecord ..).grids

theorem advanceHead_grids (m : Mach) (k : Context) (q : BitVec 4) (x : LQueue) : (advanceHead m k q x).grids = m.grids :=
  (wakeLaunch_grids ..).trans (memKept_setPhysBytes ..).grids

theorem traceLaunch_grids (fw : Firmware) (m : Mach) (c : BitVec 12) (serial : BitVec 32) (q : BitVec 4) (r : LRec) :
    (traceLaunch fw m c serial q r).grids = m.grids := (posted_traceBare ..).grids

/-- The grid that a record adds. -/
theorem addGrid_grids {m : Mach} {c : BitVec 12} {k : Context} (hk : m.ctx? c = some k) (r : LRec) (d : KDesc) (level : BitVec 2) :
    ∃ g : Grid, (addGrid m c r d level).grids = m.grids ++ [g] ∧ g.ctx = c ∧ g.desc = d ∧ g.serial = k.serial ∧ g.dimX = r.gx ∧ g.dimY = r.gy
      ∧ g.dimZ = r.gz ∧ g.next = 0 ∧ g.level = level := by
  simp only [addGrid, hk]
  exact ⟨_, rfl, rfl, rfl, rfl, rfl, rfl, rfl, rfl, rfl⟩

/-- The context whose record a front end may look at. -/
theorem headRecord_ctx? {fw : Firmware} {m : Mach} {c : BitVec 12} {q : BitVec 4} {k : Context} {x : LQueue} {b : Option (List Byte)}
    (h : headRecord fw m c q = some (k, x, b)) : m.ctx? c = some k := by
  unfold headRecord at h
  split at h
  · cases h
  · next k' hk =>
    obtain ⟨_, h⟩ := Option.ite_none_right_eq_some.mp h
    exact hk.trans (congrArg some (Prod.mk.inj (Option.some.inj h)).1)

/-- What the front end finds at HEAD it finds with the grids and contexts as they were. -/
theorem homeKept_headFound (fw : Firmware) (m : Mach) (c : BitVec 12) (k : Context) (b : Option (List Byte)) :
    HomeKept m (headFound fw m c k b).1 := homeKept_readDep ..

section
variable {s : State} {c : BitVec 12} {q : BitVec 4} {k : Context} {x : LQueue} {b : List Byte}
  (hh : headRecord s.fw s.m c q = some (k, x, some b))
include hh

theorem exec_launchAccept (hp : (headFound s.fw s.m c k (some b)).2 = none ∨ depMet (headFound s.fw s.m c k (some b)).1 c (LRec.of b) = true) :
    exec (.launchAccept c q) s = .next { s with m := acceptHead s.fw s.m c q k x (some b) } := by
  show execLaunchAccept c q s = _
  simp only [execLaunchAccept, hh]
  refine event_pending ?_ _
  rcases hp with hp | hp <;> simp [hp]

/-- A record that is not well formed makes no grid. -/
theorem goes_launchAccept_none (hf : (headFound s.fw s.m c k (some b)).2 = none) :
    Goes (.launchAccept c q) s (fun s' => s'.m.grids = s.m.grids) := by
  have hkept := homeKept_headFound s.fw s.m c k (some b)
  refine ⟨_, exec_launchAccept hh (.inl hf), ?_⟩
  generalize hfound : headFound s.fw s.m c k (some b) = found at hkept hf
  obtain ⟨m, _⟩ := found
  subst hf
  simp only [acceptHead, hfound]
  rw [advanceHead_grids, (posted_postInfo ..).grids, (homeKept_recordTouch ..).mem.grids, hkept.mem.grids]

/-- A well-formed record that its dependence word accepts makes the grid that it describes. -/
theorem goes_launchAccept_some {d : KDesc} (hf : (headFound s.fw s.m c k (some b)).2 = some d)
    (hd : depMet (headFound s.fw s.m c k (some b)).1 c (LRec.of b) = true) :
    Goes (.launchAccept c q) s (fun s' => ∃ g : Grid, s'.m.grids = s.m.grids ++ [g] ∧ g.ctx = c ∧ g.desc = d ∧ g.serial = k.serial
      ∧ g.dimX = (LRec.of b).gx ∧ g.dimY = (LRec.of b).gy ∧ g.dimZ = (LRec.of b).gz ∧ g.next = 0 ∧ g.level = 0) := by
  have hkept := homeKept_headFound s.fw s.m c k (some b)
  have hexec := exec_launchAccept hh (.inr hd)
  generalize hfound : headFound s.fw s.m c k (some b) = found at hkept hf
  obtain ⟨m, _⟩ := found
  subst hf
  have htouched := (hkept.trans (homeKept_recordTouch m k q x (LRec.of b))).mem
  obtain ⟨g, hgrids, hg⟩ := addGrid_grids ((htouched.ctx? c).trans (headRecord_ctx? hh)) (LRec.of b) d 0
  refine ⟨_, hexec, g, ?_, hg⟩
  simp only [acceptHead, hfound, Option.getD_some]
  rw [advanceHead_grids, traceLaunch_grids, hgrids, htouched.grids]

/-- The front end reads the dependence word of a held record again. -/
theorem goes_dependenceRead (hdep : (LRec.of b).depen = true) (hf : (headFound s.fw s.m c k (some b)).2 ≠ none)
    (hd : depMet (headFound s.fw s.m c k (some b)).1 c (LRec.of b) = false) :
    Goes (.dependenceRead c q) s (fun s' => s'.m.grids = s.m.grids ∧ s'.fw = s.fw) := by
  have hexec : exec (.dependenceRead c q) s = .next { s with m := readDep s.fw s.m c (LRec.of b) } := by
    show execDependenceRead c q s = _
    simp only [execDependenceRead, hh]
    exact event_pending (by simp [hdep, hd, Option.isSome_iff_ne_none, hf]) _
  exact ⟨_, hexec, (homeKept_readDep ..).mem.grids, rfl⟩

end

/-! ### Doorbells -/

theorem mscTouch_mem (m : Mach) (pa : Nat) (w : Bool) : (mscTouch m pa w).mem = m.mem := by unfold mscTouch; split <;> rfl

theorem lqTouch_mem (m : Mach) (k : Context) (q : BitVec 4) : (lqTouch m k q).mem = m.mem := by
  unfold lqTouch mscReads
  generalize List.range _ = l
  induction l generalizing m with
  | nil => rfl
  | cons i is ih => rw [List.foldl_cons, ih, mscTouch_mem]

/-- A doorbell of no context's queue is ignored. -/
theorem exec_doorbell_ignored (s : State) {v : DWord} (hv : v.extractLsb' 16 48 ≠ 0) : exec (.doorbell v) s = .next s := by
  show execDoorbell v s = _
  simp only [execDoorbell, event, if_pos hv, if_true]

/-- A doorbell reads the entry of its queue. -/
theorem goes_doorbell (s : State) (v : DWord) : Goes (.doorbell v) s (fun s' => s'.fw = s.fw ∧ s'.m.grids = s.m.grids
    ∧ (s.fw.lmode ≠ 2 → s'.m.mem = s.m.mem)) := by
  refine goes_event (.refl (execDoorbell v s)) rfl ⟨rfl, ?_⟩
  dsimp only
  split
  · exact ⟨rfl, fun _ => rfl⟩
  · split
    · exact ⟨rfl, fun _ => rfl⟩
    · next k _ =>
      split
      · refine ⟨((homeKept_deviceAcquire ..).trans (homeKept_lqTouch ..)).mem.grids, fun hl => (lqTouch_mem ..).trans ?_⟩
        rw [deviceAcquire, if_neg hl]
      · exact ⟨rfl, fun _ => rfl⟩

/-! ### A core whose drain ends -/

section
variable (i : Nat)

/-- The L1 of core i holds no more than it did. -/
def L1Kept (m m' : Mach) : Prop := (m'.core i).l1 ⊆ (m.core i).l1

theorem L1Kept.refl (m : Mach) : L1Kept i m m := fun _ h => h
theorem L1Kept.trans {i : Nat} {a b c : Mach} (h : L1Kept i a b) (h' : L1Kept i b c) : L1Kept i a c := fun _ hx => h (h' hx)
theorem HomeKept.l1Kept {m m' : Mach} (h : HomeKept m m') : L1Kept i m m' := fun _ hx => by
  simpa only [Mach.core, h.cores] using hx

variable (m : Mach) (c : BitVec 12) (va : Nat)

theorem mem_l1Drop {k : Core} {w : L1W} : w ∈ (l1Drop k c va).l1 ↔ w ∈ k.l1 ∧ ¬ (w.ctx = c ∧ w.va = va) := by
  simp [l1Drop, imp_iff_not_or]

theorem l1Kept_l1Drop (core : Nat) : L1Kept i m (m.modCore core (fun k => l1Drop k c va)) := by
  intro w hw
  by_cases hi : i = core
  · subst hi
    rw [modCore_core_same] at hw
    exact ((mem_l1Drop c va).mp hw).1
  · rwa [modCore_core_other (h := hi)] at hw

theorem l1Kept_ownerDrop (o : BitVec 8) : L1Kept i m (ownerDrop m o c va) := by
  unfold ownerDrop
  extract_lets die u
  split
  · exact l1Kept_l1Drop ..
  · split
    · exact (homeKept_rdcDrop ..).l1Kept i
    · exact (homeKept_mirrorDrop ..).l1Kept i

theorem l1Kept_supersede : L1Kept i m (supersede m c va) := by
  unfold supersede
  split
  · exact .refl i m
  · exact (((homeKept_mirrorDrop ..).trans (homeKept_unregister ..)).l1Kept i).trans
      ((l1Kept_ownerDrop ..).trans ((homeKept_count ..).l1Kept i))

theorem l1Kept_rdcEvict (die : Nat) : L1Kept i m (rdcEvict m die c va) := by
  unfold rdcEvict
  split
  · exact .refl i m
  · extract_lets dropped
    have hdropped : HomeKept m dropped := homeKept_rdcDrop ..
    split
    · exact hdropped.l1Kept i
    · split
      · exact (hdropped.trans ((homeKept_unregister ..).trans ((homeKept_mirrorDrop ..).trans (homeKept_homeData ..)))).l1Kept i
      · exact (hdropped.l1Kept i).trans ((l1Kept_supersede ..).trans ((homeKept_homeData ..).l1Kept i))

/-- An evicted word is gone from its L1. -/
theorem mem_l1_of_l1Evict (core : Nat) (w : L1W) (hw : w ∈ ((l1Evict m core c va).core core).l1) :
    w ∈ (m.core core).l1 ∧ ¬ (w.ctx = c ∧ w.va = va) := by
  unfold l1Evict at hw
  split at hw
  · next hnone => exact ⟨hw, fun ⟨h1, h2⟩ => by simpa [h1, h2] using List.find?_eq_none.mp hnone w hw⟩
  · next e _ =>
    have hdrop : ∀ x, x ∈ ((m.modCore core (fun k => l1Drop k c va)).core core).l1 → x ∈ (m.core core).l1 ∧ ¬ (x.ctx = c ∧ x.va = va) := fun x hx => by
      rw [modCore_core_same] at hx
      exact (mem_l1Drop c va).mp hx
    refine hdrop w ?_
    generalize m.modCore core (fun k => l1Drop k c va) = dropped at hw
    dsimp only at hw
    split at hw
    · exact hw
    · split at hw
      · exact (((homeKept_unregister ..).trans ((homeKept_mirrorDrop ..).trans (homeKept_homeData ..))).l1Kept core) hw
      · exact ((l1Kept_rdcEvict core dropped c va _).trans ((l1Kept_supersede core _ c va).trans ((homeKept_homeData ..).l1Kept core))) hw

end

theorem l1Evicts_l1 (core : Nat) (l : List L1W) (m : Mach) (w : L1W)
    (hw : w ∈ ((l.foldl (fun m w => l1Evict m core w.ctx w.va) m).core core).l1) : w ∈ (m.core core).l1 ∧ w ∉ l := by
  induction l generalizing m with
  | nil => exact ⟨hw, by simp⟩
  | cons x xs ih =>
    obtain ⟨hm, hxs⟩ := ih _ hw
    obtain ⟨hmem, hne⟩ := mem_l1_of_l1Evict m x.ctx x.va core w hm
    exact ⟨hmem, fun hin => by
      rcases List.mem_cons.mp hin with rfl | hin
      · exact hne ⟨rfl, rfl⟩
      · exact hxs hin⟩

theorem Core.eq_of_shell {a b : Core} (h : a.shell = b.shell) : a = { b with l1 := a.l1, horizon := a.horizon } := by
  cases a
  cases b
  simp_all [Core.shell]

/-- A core that takes a CARVE has an empty L1, and is as it was but for its horizon. -/
theorem setCarve_core (m : Mach) (core carve : Nat) :
    ∃ n, (setCarve m core carve).core core = { m.core core with carve := carve, l1 := [], horizon := n } := by
  have hkept := (memKept_l1Evicts core (m.core core).l1 m).core core
  have hgone := l1Evicts_l1 core (m.core core).l1 m
  rw [setCarve, modCore_core_same]
  generalize ((m.core core).l1.foldl (fun m w => l1Evict m core w.ctx w.va) m).core core = k at hkept hgone
  have hl1 : k.l1 = [] := List.eq_nil_iff_forall_not_mem.mpr fun w hw => (hgone w hw).2 (hgone w hw).1
  refine ⟨k.horizon, ?_⟩
  rw [Core.eq_of_shell hkept, hl1]

section
variable (fw : Firmware) (core : Nat) {k : Core}

theorem leaveCore_sound (hf : k.failed = false) : leaveCore fw core k = (fw, { k with draining := none }) := by
  simp [leaveCore, hf]

theorem leaveCore_spare (hf : k.failed = true) {p : Nat} (hs : k.spare = some p) : leaveCore fw core k =
    ({ fw with coremap := fw.coremap.set core (BitVec.ofNat 64 p) }, { k with draining := none, failed := false, spare := none, icache := [] }) := by
  simp [leaveCore, hf, hs]

theorem leaveCore_removed (hf : k.failed = true) (hs : k.spare = none) : leaveCore fw core k =
    ({ fw with ncore := fw.ncore - 1 }, { k with draining := none, failed := false, removed := true, icache := [] }) := by
  simp [leaveCore, hf, hs]

end

theorem goes_carveChange {s : State} {core v : Nat} (hd : (s.m.core core).draining = some v) (he : coreTeams s.m core = []) :
    Goes (.carveChange core) s (fun s' => (s'.m.core core).draining = none ∧ (s'.m.core core).failed = false
        ∧ (s'.m.core core).carve = v ∧ (s'.m.core core).l1 = []
        ∧ ((s.m.core core).failed = false → s'.fw = s.fw ∧ (s'.m.core core).removed = (s.m.core core).removed)
        ∧ ((s.m.core core).failed = true → ∀ p, (s.m.core core).spare = some p → (s'.m.core core).removed = (s.m.core core).removed
          ∧ s'.fw = { s.fw with coremap := s.fw.coremap.set core (BitVec.ofNat 64 p) })
        ∧ ((s.m.core core).failed = true → (s.m.core core).spare = none → (s'.m.core core).removed = true
          ∧ s'.fw = { s.fw with ncore := s.fw.ncore - 1 })) := by
  have hexec : exec (.carveChange core) s = .next { m := (carveChange s.fw s.m core).2, fw := (carveChange s.fw s.m core).1 } := by
    show execCarveChange core s = _
    exact if_pos (by simp [hd, he])
  obtain ⟨n, hcore⟩ := setCarve_core s.m core v
  refine ⟨_, hexec, ?_⟩
  dsimp only
  simp only [carveChange, hd, Option.getD_some, modCore_core_same]
  generalize (setCarve s.m core v).core core = k at hcore
  generalize s.m.core core = k₀ at hcore
  cases hf : k₀.failed with
  | false =>
    rw [leaveCore_sound s.fw core (by rw [hcore]; exact hf)]
    simp [hcore, hf]
  | true =>
    cases hs : k₀.spare with
    | some p =>
      rw [leaveCore_spare s.fw core (by rw [hcore]; exact hf) (by rw [hcore]; exact hs)]
      simp [hcore]
    | none =>
      rw [leaveCore_removed s.fw core (by rw [hcore]; exact hf) (by rw [hcore]; exact hs)]
      simp [hcore]

/-! ### The obligation -/

/-- Settles O57: each event's clause is what that event leaves. -/
theorem waitAndPlacementEvents : Obligations.WaitAndPlacementEvents := by
  refine ⟨fun s r t g k ht hg hk => ⟨?_, ?_, ?_, ?_, ?_, ?_, ?_⟩, fun s gid g hg => ⟨?_, ?_, ?_⟩, fun s c q k x b hh => ⟨?_, ?_, ?_⟩,
    fun s v => ⟨?_, ?_⟩, fun s core v hd he => goes_carveChange hd he⟩
  · rintro i c p hs hl hw (⟨rfl, rfl, b, o, rfl⟩ | ⟨rfl, rfl, o, n, rfl⟩ | ⟨rfl, rfl, q, rfl⟩)
    · exact goes_timeOut ht hg hk hs hl hw (.refl (execBarrierTimeout r s)) rfl rfl
    · exact goes_timeOut ht hg hk hs hl hw (.refl (execChunkWaitTimeout r s)) rfl rfl
    · exact goes_timeOut ht hg hk hs hl hw (.refl (execTokenTimeout r s)) rfl rfl
  · exact fun p hp hl he => goes_pairingTimeout ht hk hp hl he
  · exact fun j v hv hcomplete hrun hcand hl he => goes_rendezvousTimeout ht hk hv hcomplete hrun hcand hl he
  · exact fun i hi hr => goes_registerResultReturn ht hg hi hr
  · exact fun sc pc hp hsys => goes_releaseComplete ht hg hp hsys
  · exact fun hs => goes_groupResourcesFreed ht hg hs
  · exact fun hs => goes_teamRetire ht hs
  · exact fun hs hc => goes_gridCompletion hg hs hc
  · exact fun hw ha ht => goes_priorityAging hg hw ha ht
  · exact fun die corner slices cs hw hfits hturn hcs hlen hslices => goes_teamPlace hg hw hfits hturn hcs hlen hslices
  · exact goes_launchAccept_none hh
  · exact fun d hf hd => goes_launchAccept_some hh hf hd
  · exact goes_dependenceRead hh
  · exact exec_doorbell_ignored s
  · exact fun _ => goes_doorbell s v

end Sys2Proof.Machine
end

section
/-! An instruction of one group whose checks pass, by how its body ends: it retires, it parks, or it traps. -/
namespace Sys2Proof.Machine

/-! ### Parking -/

/-- The group parks, an instruction that has retired being counted (R443). -/
def Group.parkOn (g : Group) (p : Park) (w : Bool) (npc : DWord) (now : Nat) : Group :=
  ({ g with retired := g.retired + (if p.retired then 1 else 0), rw := g.rw + (if p.retired then 1 else 0) } : Group).park p w npc now

theorem parkGroup_group? (m : Mach) (r q : GRef) (c : BitVec 12) (p : Park) (w : Bool) (pc : DWord) :
    (parkGroup m r c p w pc).group? q = if q = r then (m.group? q).map (fun g => g.parkOn p w pc m.cycle) else m.group? q := by
  rw [parkGroup, countFix_group?]
  exact mach_group?_modGroup m r q (fun g => g.parkOn p w pc m.cycle) fun _ => rfl

theorem conclude_park {s : State} {r : GRef} {t : Team} {g : Group} (hi : Issuing s r t g) (h : Hd) (i : Instr) (m : Mach) (p : Park) :
    conclude s.fw h i t g (m, .park p) = parkGroup m r t.ctx p h.w (nextPc g.pc h) := by
  simp [conclude, hi.ref, hi.back]

/-! ### Running -/

/-- Program instruction i is issued by group r alone, its checks pass, and its body runs. -/
structure Runs (i : Instr) (h : Hd) (op : Op) (s : State) (r : GRef) (t : Team) (g : Group) : Prop where
  means : opOf i = some (h, op)
  issuing : Issuing s r t g
  alone : Alone h
  active : Active h g s.m.draw
  checked : check h op t g s.m.draw = none
  unheld : Unheld s t g i

section
variable {i : Instr} {h : Hd} {op : Op} {s : State} {r : GRef} {t : Team} {g : Group}

/-- One with no check of its operands and no release. -/
theorem Runs.of_noChk (ho : opOf i = some (h, op)) (hi : Issuing s r t g) (ha : Alone h) (hact : Active h g s.m.draw)
    (hchk : op.chk = noChk) (hrel : releaseOf i = none) (haft : afterRel i = false) : Runs i h op s r t g :=
  ⟨ho, hi, ha, hact, by simp [check, ha.2, hchk, noChk], heldRelease_none hrel haft ..⟩

/-- One that passes its checks and makes no release. -/
theorem Runs.of_passes (ho : opOf i = some (h, op)) (hi : Issuing s r t g) (ha : Alone h) (hact : Active h g s.m.draw)
    (hp : Passes i t g s.m.draw) (hrel : releaseOf i = none) (haft : afterRel i = false) : Runs i h op s r t g :=
  ⟨ho, hi, ha, hact, hp h op ho, heldRelease_none hrel haft ..⟩

variable (hr : Runs i h op s r t g)
include hr

theorem Runs.exec :
    exec i s = .next { s with m := conclude s.fw h i t g (op.body s.fw s.m t.tid [memberOf g h s.m.draw]) } := by
  rw [exec_of_opOf hr.means, issue_next hr.issuing, issueOn_alone hr.alone hr.checked hr.unheld hr.issuing.back,
    if_neg fun ⟨hs, hz⟩ => hr.active hs hz]

/-- A trap of the whole instruction. -/
theorem Runs.traps {c : Cause} (hb : op.body s.fw s.m t.tid [memberOf g h s.m.draw] = (s.m, .fail (Fail.whole c))) :
    Machine.exec i s = .next (stopped s t (Stop.trap c g (nextPc g.pc h))) := by
  rw [hr.exec, hb, conclude_whole hr.issuing]
  rfl

variable {m : Mach} (hg : m.group? r = some g)
include hg

/-- A body that leaves its own group as it is, and is done. -/
theorem Runs.completes {P : State → Prop} (hb : op.body s.fw s.m t.tid [memberOf g h s.m.draw] = (m, .done))
    (hP : P { s with m := retireGroup m r t.ctx h.w (nextPc g.pc h) }) : Completes i h s r g [] (fun s' _ => P s') := by
  have hi := hr.issuing
  have he := hr.exec
  rw [hb, conclude_done hi] at he
  have hgroup : (retireGroup m r t.ctx h.w (nextPc g.pc h)).group? r = some (g.retire h.w (nextPc g.pc h)) := by
    rw [retireGroup_group?, if_pos rfl, hg, Option.map_some]
  refine ⟨_, _, he, ⟨rfl, g, _, hi.mach, hgroup, retire_pc _ _ _ hi.back hi.lost, retire_retired _ _ _ hi.back, retire_present ..,
    fun id _ => ?_⟩, fun a b ha hb => ?_, hgroup, hP⟩
  · rw [retire_regs]
    cases id <;> simp [SameReg]
  · obtain rfl := Option.some.inj (ha.symm.trans hi.mach)
    obtain rfl := Option.some.inj (hb.symm.trans hgroup)
    exact ⟨retire_amask .., retire_stack ..⟩

/-- A body that leaves every group as it is, and parks its own. -/
theorem Runs.parks {p : Park} {P : State → Prop} (hb : op.body s.fw s.m t.tid [memberOf g h s.m.draw] = (m, .park p))
    (hq : ∀ q, q ≠ r → m.group? q = s.m.group? q) (hP : P { s with m := parkGroup m r t.ctx p h.w (nextPc g.pc h) }) :
    Parks i h s r g p P := by
  have he := hr.exec
  rw [hb, conclude_park hr.issuing] at he
  have hgroup : (parkGroup m r t.ctx p h.w (nextPc g.pc h)).group? r = some (g.parkOn p h.w (nextPc g.pc h) m.cycle) := by
    rw [parkGroup_group?, if_pos rfl, hg, Option.map_some]
  refine ⟨_, _, he, rfl, hgroup, rfl, rfl, rfl, rfl, rfl, rfl, rfl, fun q hne => ?_, hP⟩
  rw [parkGroup_group?, if_neg hne, hq q hne]

end
end Sys2Proof.Machine
end

section
/-! Tokens and loops of tiles (R76, R77, R212 to R218, R347, R348): what macq, mrel, mzero, mwait and mloop do. -/
namespace Sys2Proof.Machine

/-! ### Tiles -/

section
variable (m : Mach) (core : Nat) (k j : BitVec 2) (f : Tile → Tile) (r : GRef)

@[simp] theorem modTile_tile : (m.modTile core k f).tile core k = f (m.tile core k) := by
  simp only [Mach.modTile, Mach.tile, modCore_core_same, modAt_getD_same]

theorem modTile_tile_other (h : j ≠ k) : (m.modTile core k f).tile core j = m.tile core j := by
  have hn : j.toNat ≠ k.toNat := fun e => h (BitVec.eq_of_toNat_eq e)
  simp only [Mach.modTile, Mach.tile, modCore_core_same, modAt_getD_other _ _ _ _ _ hn]

@[simp] theorem modTile_group? : (m.modTile core k f).group? r = m.group? r := rfl
@[simp] theorem modTile_mem : (m.modTile core k f).mem = m.mem := rfl
@[simp] theorem modTile_loops : ((m.modTile core k f).core core).loops = (m.core core).loops := by
  simp only [Mach.modTile, modCore_core_same]
@[simp] theorem macqWaiters_modTile : macqWaiters (m.modTile core k f) core j = macqWaiters m core j := rfl

end

/-! ### Retiring and parking leave the device -/

theorem SameDevice.cores {m m' : Mach} (h : SameDevice m m') : m'.cores = m.cores := by
  unfold SameDevice at h
  calc m'.cores = ({ m' with teams := m.teams, parts := m.parts } : Mach).cores := rfl
    _ = m.cores := by rw [h]
theorem SameDevice.mem {m m' : Mach} (h : SameDevice m m') : m'.mem = m.mem := by
  unfold SameDevice at h
  calc m'.mem = ({ m' with teams := m.teams, parts := m.parts } : Mach).mem := rfl
    _ = m.mem := by rw [h]
theorem SameDevice.core {m m' : Mach} (h : SameDevice m m') (n : Nat) : m'.core n = m.core n := by simp only [Mach.core, h.cores]
theorem SameDevice.tile {m m' : Mach} (h : SameDevice m m') (n : Nat) (k : BitVec 2) : m'.tile n k = m.tile n k := by
  simp only [Mach.tile, h.core]

theorem sameDevice_retireGroup (m : Mach) (r : GRef) (c : BitVec 12) (w : Bool) (pc : DWord) :
    SameDevice m (retireGroup m r c w pc) := (sameDevice_modTeam m r.tid _).trans (sameDevice_countFix ..)
theorem sameDevice_parkGroup (m : Mach) (r : GRef) (c : BitVec 12) (p : Park) (w : Bool) (pc : DWord) :
    SameDevice m (parkGroup m r c p w pc) := (sameDevice_modTeam m r.tid _).trans (sameDevice_countFix ..)

/-- Tile k of a core is y; every other group, the memory and the core's other tiles are as they were. -/
def LeavesTile (s : State) (r : GRef) (core : Nat) (k : BitVec 2) (y : Tile) (s' : State) : Prop :=
  s'.m.tile core k = y ∧ OthersKept s s' r ∧ s'.m.mem = s.m.mem ∧ ∀ j, j ≠ k → s'.m.tile core j = s.m.tile core j

theorem leavesTile_retire (s : State) (r : GRef) (core : Nat) (k : BitVec 2) (f : Tile → Tile) (c : BitVec 12) (w : Bool) (pc : DWord) :
    LeavesTile s r core k (f (s.m.tile core k)) { s with m := retireGroup (s.m.modTile core k f) r c w pc } := by
  have hd := sameDevice_retireGroup (s.m.modTile core k f) r c w pc
  refine ⟨(hd.tile ..).trans (modTile_tile ..), fun q hq => ?_, hd.mem, fun j hj => (hd.tile ..).trans (modTile_tile_other _ _ _ _ _ hj)⟩
  rw [retireGroup_group?, if_neg hq, modTile_group?]

theorem leavesTile_retire0 (s : State) (r : GRef) (core : Nat) (k : BitVec 2) (c : BitVec 12) (w : Bool) (pc : DWord) :
    LeavesTile s r core k (s.m.tile core k) { s with m := retireGroup s.m r c w pc } := by
  have hd := sameDevice_retireGroup s.m r c w pc
  refine ⟨hd.tile .., fun q hq => ?_, hd.mem, fun j _ => hd.tile ..⟩
  rw [retireGroup_group?, if_neg hq]

section
variable {i : Instr} {h : Hd} {op : Op} {s : State} {r : GRef} {t : Team} {g : Group} (hr : Runs i h op s r t g) (k : BitVec 2)
include hr

/-- A body that changes one tile. -/
theorem Runs.setsTile (f : Tile → Tile) (hb : op.body s.fw s.m t.tid [memberOf g h s.m.draw] = (s.m.modTile t.core k f, .done)) :
    Completes i h s r g [] (fun s' _ => LeavesTile s r t.core k (f (s.m.tile t.core k)) s') :=
  hr.completes (m := s.m.modTile t.core k f) hr.issuing.mach hb (leavesTile_retire ..)

/-- A body that changes nothing. -/
theorem Runs.keepsTile (hb : op.body s.fw s.m t.tid [memberOf g h s.m.draw] = (s.m, .done)) :
    Completes i h s r g [] (fun s' _ => LeavesTile s r t.core k (s.m.tile t.core k) s') :=
  hr.completes hr.issuing.mach hb (leavesTile_retire0 ..)

end

/-! ### Tokens -/

theorem grantToken_none {m : Mach} {core : Nat} {k : BitVec 2} (h : macqWaiters m core k = []) : grantToken m core k = m := by
  simp only [grantToken, h, ite_self]

/-- A token goes to a waiter, and no other group changes. -/
theorem grantToken_group? {m : Mach} {core : Nat} {k : BitVec 2} {r : GRef} (h : ∀ w ∈ macqWaiters m core k, w.1 ≠ r) :
    (grantToken m core k).group? r = m.group? r := by
  unfold grantToken
  split
  · rfl
  · split
    · rfl
    · next w ws hws =>
      extract_lets x
      have hx : x.1 ≠ r := h x (hws ▸ firstWaiter_foldl_mem w ws)
      split
      · rfl
      · rw [unparkGroup_group?, if_neg hx.symm, modTile_group?]

/-- With no SACC and no drain of the group under way, its earlier tile instructions are done. -/
theorem flushTile_idle {m : Mach} {t : Team} (hs : (m.core t.core).saccs = [])
    (hw : ∀ w ∈ t.works, ∀ k o bs, w.kind = .drain k o bs → w.st ≠ .run) (g : Group) : flushTile m t g = m := by
  have hflush : flushSaccs m t.core = m := by simp [flushSaccs, hs]
  simp only [flushTile, hflush]
  rw [List.filter_eq_nil_iff.mpr fun w hmem => ?_]
  · rfl
  · split
    · next hk => simp [hw w hmem _ _ _ hk]
    · simp

/-! ### Loops -/

theorem placeLoop_full {m : Mach} {core : Nat} (h : 4 ≤ placesHeld m core) (l : Loop) : placeLoop m core l = (m, .park (.engine l)) :=
  if_neg (Nat.not_lt.mpr h)

theorem placeLoop_free {m : Mach} {core : Nat} (h : placesHeld m core < 4) (l : Loop) : placeLoop m core l = (queueLoop m l, .done) :=
  if_pos h

theorem queueLoop_eq {m : Mach} {l : Loop} {t : Team} (h : m.team? l.tid = some t) :
    queueLoop m l = (m.modCore t.core fun k => { k with loops := k.loops ++ [l] }).modTile t.core l.tile
      fun x => { x with holder := .engine l.tid l.gno } := by
  simp only [queueLoop, h]

/-- The loop that an mloop asks for, before its snapshots. -/
def loopOf (s : State) (t : Team) (g : Group) (k : BitVec 2) (ha hb : BitVec 4) (a : Opnd) : Loop :=
  { lid := s.m.nextWid, tid := t.tid, gno := g.gno, tile := k, ha := readH g ha.toNat s.m.draw 1
    hb := readH g hb.toNat s.m.draw 2, aTid := t.tid, bTid := t.tid, aSnap := [], bSnap := []
    ctrl := engVal g s.m.draw 0 a, step := 0, running := false, planesDone := false }

/-- An unpaired mloop whose checks pass places its loop, with snapshots of the team's scratchpad. -/
theorem mloop_body {h : Hd} {k : BitVec 2} {s : State} {r : GRef} {t : Team} {g : Group} (hi : Issuing s r t g)
    (hs : (s.m.core t.core).saccs = []) (hw : ∀ w ∈ t.works, ∀ k o bs, w.kind = .drain k o bs → w.st ≠ .run)
    {sa sb : BitVec 4} {a : Opnd} (hf : mloopFail s.m t g (loopOf s t g k sa sb a) = none)
    (hp : (loopOf s t g k sa sb a).pmode = 0) :
    (opMloop h k sa sb a).body s.fw s.m t.tid [memberOf g h s.m.draw] = placeLoop { s.m with nextWid := s.m.nextWid + 1 } t.core
      { loopOf s t g k sa sb a with aSnap := t.scratch, bSnap := t.scratch } := by
  have hteam : ({ s.m with nextWid := s.m.nextWid + 1 } : Mach).team? t.tid = some t := hi.here
  have hflush := flushTile_idle (m := { s.m with nextWid := s.m.nextWid + 1 }) hs hw g
  simp only [opMloop, mloopOp, groupBody_issuing hi]
  simp only [loopOf] at hf hp
  rw [hf]
  simp only [hflush, hteam, Option.map_some, Option.getD_some, loopOf]
  exact if_pos hp

/-! ### The instructions -/

section
variable {h : Hd} {k : BitVec 2} {s : State} {r : GRef} {t : Team} {g : Group} (hi : Issuing s r t g) (ha : Alone h)
  (hact : Active h g s.m.draw)
include hi ha hact

/-- A tile instruction of a team without ACC traps. -/
theorem noAcc_traps (hacc : t.acc = false) {i : Instr} (h' : i = .macq h k ∨ i = .mrel h k ∨ i = .mzeroF32 h k ∨ i = .mzeroI32 h k
    ∨ i = .mzeroI32s h k ∨ i = .mwait h k) : exec i s = .next (stopped s t (Stop.trap 0x1C3 g (nextPc g.pc h))) := by
  have hholds : holds s.m t g k = false := by simp [holds, hacc]
  have heng : engineFor s.m t g k = false := by simp [engineFor, hacc]
  rcases h' with rfl | rfl | rfl | rfl | rfl | rfl
  · exact (Runs.of_noChk rfl hi ha hact rfl rfl rfl).traps (by simp [opMacq, macqOp, groupBody_issuing hi, hacc])
  · exact (Runs.of_noChk rfl hi ha hact rfl rfl rfl).traps (by simp [opMrel, mrelOp, groupBody_issuing hi, hholds])
  · exact (Runs.of_noChk rfl hi ha hact rfl rfl rfl).traps (by simp [opMzeroF32, mzeroOp, groupBody_issuing hi, hholds])
  · exact (Runs.of_noChk rfl hi ha hact rfl rfl rfl).traps (by simp [opMzeroI32, mzeroOp, groupBody_issuing hi, hholds])
  · exact (Runs.of_noChk rfl hi ha hact rfl rfl rfl).traps (by simp [opMzeroI32s, mzeroOp, groupBody_issuing hi, hholds])
  · exact (Runs.of_noChk rfl hi ha hact rfl rfl rfl).traps (by simp [opMwait, mwaitOp, groupBody_issuing hi, hholds, heng])

/-- macq: a token held is had, one at the engine is a fault, a free one is taken, and for another's the group parks. -/
theorem macq_gives (hacc : t.acc = true) (x : Tile) (hx : s.m.tile t.core k = x) :
    (x.holder = .group t.tid g.gno → Completes (.macq h k) h s r g [] (fun s' _ => LeavesTile s r t.core k x s'))
      ∧ (x.holder = .engine t.tid g.gno → exec (.macq h k) s = .next (stopped s t (Stop.trap 0x1CD g (nextPc g.pc h))))
      ∧ (x.holder = .nobody → macqWaiters s.m t.core k = [] → tokenRival s.m t.core g.gno = false →
        Completes (.macq h k) h s r g [] (fun s' _ => LeavesTile s r t.core k { x with holder := .group t.tid g.gno, inuse := true } s'))
      ∧ ((x.holder = .nobody ∧ (macqWaiters s.m t.core k ≠ [] ∨ tokenRival s.m t.core g.gno = true))
          ∨ (x.holder ≠ .group t.tid g.gno ∧ x.holder ≠ .engine t.tid g.gno ∧ x.holder ≠ .nobody) →
        Parks (.macq h k) h s r g (.macq k) (fun s' => DeviceKept s s')) := by
  subst hx
  have hr : Runs (.macq h k) h (opMacq h k) s r t g := Runs.of_noChk rfl hi ha hact rfl rfl rfl
  refine ⟨fun hx => ?_, fun hx => ?_, fun hx hw ht => ?_, fun hx => ?_⟩
  · exact hr.keepsTile k (by simp [opMacq, macqOp, groupBody_issuing hi, holds, hacc, hx])
  · exact hr.traps (by simp [opMacq, macqOp, groupBody_issuing hi, holds, engineFor, hacc, hx])
  · exact hr.setsTile k (fun y => { y with holder := .group t.tid g.gno, inuse := true })
      (by simp [opMacq, macqOp, groupBody_issuing hi, holds, engineFor, hacc, hx, hw, ht])
  · refine hr.parks hi.mach ?_ (fun _ _ => rfl) (sameDevice_parkGroup ..)
    rcases hx with ⟨hx, hw | hw⟩ | ⟨hm, hb, hx⟩
    · simp [opMacq, macqOp, groupBody_issuing hi, holds, engineFor, hacc, hx, hw]
    · simp [opMacq, macqOp, groupBody_issuing hi, holds, engineFor, hacc, hx, hw]
    · simp [opMacq, macqOp, groupBody_issuing hi, holds, engineFor, hacc, hx, hm, hb]

/-- mwait: a token held is had, and one at the engine comes back when no loop is on the tile. -/
theorem mwait_gives (hacc : t.acc = true) (x : Tile) (hx : s.m.tile t.core k = x) :
    (x.holder = .group t.tid g.gno → Completes (.mwait h k) h s r g [] (fun s' _ => LeavesTile s r t.core k x s'))
      ∧ (x.holder = .engine t.tid g.gno → loopOn s.m t.core k = true → Parks (.mwait h k) h s r g (.mwait k) (fun s' => DeviceKept s s'))
      ∧ (x.holder = .engine t.tid g.gno → loopOn s.m t.core k = false →
        Completes (.mwait h k) h s r g [] (fun s' _ => LeavesTile s r t.core k { x with holder := .group t.tid g.gno } s'))
      ∧ (x.holder ≠ .group t.tid g.gno → x.holder ≠ .engine t.tid g.gno →
        exec (.mwait h k) s = .next (stopped s t (Stop.trap 0x1C3 g (nextPc g.pc h)))) := by
  subst hx
  have hr : Runs (.mwait h k) h (opMwait h k) s r t g := Runs.of_noChk rfl hi ha hact rfl rfl rfl
  refine ⟨fun hx => ?_, fun hx hl => ?_, fun hx hl => ?_, fun hm hb => ?_⟩
  · exact hr.keepsTile k (by simp [opMwait, mwaitOp, groupBody_issuing hi, holds, engineFor, hacc, hx])
  · exact hr.parks hi.mach (by simp [opMwait, mwaitOp, groupBody_issuing hi, engineFor, hacc, hx, hl]) (fun _ _ => rfl)
      (sameDevice_parkGroup ..)
  · exact hr.setsTile k (fun y => { y with holder := .group t.tid g.gno })
      (by simp [opMwait, mwaitOp, groupBody_issuing hi, engineFor, hacc, hx, hl])
  · exact hr.traps (by simp [opMwait, mwaitOp, groupBody_issuing hi, holds, engineFor, hm, hb])

/-- mrel and mzero without the token trap. -/
theorem notMine_traps (hx : (s.m.tile t.core k).holder ≠ .group t.tid g.gno) {i : Instr}
    (h' : i = .mrel h k ∨ i = .mzeroF32 h k ∨ i = .mzeroI32 h k ∨ i = .mzeroI32s h k) :
    exec i s = .next (stopped s t (Stop.trap 0x1C3 g (nextPc g.pc h))) := by
  have hholds : holds s.m t g k = false := by simp [holds, hx]
  rcases h' with rfl | rfl | rfl | rfl
  · exact (Runs.of_noChk rfl hi ha hact rfl rfl rfl).traps (by simp [opMrel, mrelOp, groupBody_issuing hi, hholds])
  · exact (Runs.of_noChk rfl hi ha hact rfl rfl rfl).traps (by simp [opMzeroF32, mzeroOp, groupBody_issuing hi, hholds])
  · exact (Runs.of_noChk rfl hi ha hact rfl rfl rfl).traps (by simp [opMzeroI32, mzeroOp, groupBody_issuing hi, hholds])
  · exact (Runs.of_noChk rfl hi ha hact rfl rfl rfl).traps (by simp [opMzeroI32s, mzeroOp, groupBody_issuing hi, hholds])

section
variable (hs : (s.m.core t.core).saccs = []) (hw : ∀ w ∈ t.works, ∀ k o bs, w.kind = .drain k o bs → w.st ≠ .run)
include hs hw

/-- mrel gives up a token held: to the waiter that takes it, and to nobody when none waits. -/
theorem mrel_completes (hacc : t.acc = true) (hx : (s.m.tile t.core k).holder = .group t.tid g.gno)
    (hq : ∀ w ∈ macqWaiters s.m t.core k, w.1 ≠ r) :
    Completes (.mrel h k) h s r g [] (fun s' _ => macqWaiters s.m t.core k = [] →
      LeavesTile s r t.core k { s.m.tile t.core k with holder := .nobody, inuse := false } s') := by
  have hr : Runs (.mrel h k) h (opMrel h k) s r t g := Runs.of_noChk rfl hi ha hact rfl rfl rfl
  refine hr.completes (m := releaseToken s.m t.core k) ?_ ?_ fun hnone => ?_
  · rw [releaseToken, grantToken_group? (by simpa using hq), modTile_group?]
    exact hi.mach
  · simp [opMrel, mrelOp, groupBody_issuing hi, holds, hacc, hx, flushTile_idle hs hw]
  · rw [releaseToken, grantToken_none (by simpa using hnone)]
    exact leavesTile_retire s r t.core k (fun y => { y with holder := .nobody, inuse := false }) ..

/-- mzero sets the type of a tile held, and its elements to 0. -/
theorem mzero_completes (hacc : t.acc = true) (hx : (s.m.tile t.core k).holder = .group t.tid g.gno) {i : Instr} {ty : TTy}
    (h' : (i = .mzeroF32 h k ∧ ty = .f32) ∨ (i = .mzeroI32 h k ∧ ty = .i32) ∨ (i = .mzeroI32s h k ∧ ty = .i32s)) :
    Completes i h s r g [] (fun s' _ =>
      LeavesTile s r t.core k { s.m.tile t.core k with ty := ty, els := [], dirty := false } s') := by
  have hr : Runs i h (mzeroOp ty k) s r t g := by
    rcases h' with ⟨rfl, rfl⟩ | ⟨rfl, rfl⟩ | ⟨rfl, rfl⟩ <;> exact Runs.of_noChk rfl hi ha hact rfl rfl rfl
  refine hr.setsTile k (fun y => { y with ty := ty, els := [], dirty := false }) ?_
  simp [mzeroOp, groupBody_issuing hi, holds, hacc, hx, flushTile_idle hs hw]

/-- mloop: a loop that its checks refuse traps, one with a place is queued, and one without a place parks the group. -/
theorem mloop_gives {sa sb : BitVec 4} {a : Opnd} (hpass : Passes (.mloop h k sa sb a) t g s.m.draw) (l : Loop)
    (hl : loopOf s t g k sa sb a = l) :
    (∀ c, mloopFail s.m t g l = some c → exec (.mloop h k sa sb a) s = .next (stopped s t (Stop.trap c g (nextPc g.pc h))))
      ∧ (mloopFail s.m t g l = none → l.pmode = 0 → placesHeld s.m t.core < 4 →
        Completes (.mloop h k sa sb a) h s r g [] (fun s' _ => OthersKept s s' r
          ∧ (s'.m.core t.core).loops = (s.m.core t.core).loops ++ [{ l with aSnap := t.scratch, bSnap := t.scratch }]
          ∧ s'.m.tile t.core k = { s.m.tile t.core k with holder := .engine t.tid g.gno }))
      ∧ (mloopFail s.m t g l = none → l.pmode = 0 → 4 ≤ placesHeld s.m t.core →
        Parks (.mloop h k sa sb a) h s r g (.engine { l with aSnap := t.scratch, bSnap := t.scratch })
          (fun s' => s'.m.tile t.core k = s.m.tile t.core k)) := by
  subst hl
  have hr : Runs (.mloop h k sa sb a) h (opMloop h k sa sb a) s r t g := Runs.of_passes rfl hi ha hact hpass rfl rfl
  refine ⟨fun c hf => hr.traps ?_, fun hf hp hn => ?_, fun hf hp hn => ?_⟩
  · simp only [opMloop, mloopOp, groupBody_issuing hi]
    simp only [loopOf] at hf
    rw [hf]
  · have hb := mloop_body hi hs hw (h := h) hf hp
    rw [placeLoop_free (m := { s.m with nextWid := s.m.nextWid + 1 }) hn, queueLoop_eq (t := t) hi.here] at hb
    refine hr.completes (by exact hi.mach) hb ⟨fun q hq => ?_, ?_, ?_⟩
    · rw [retireGroup_group?, if_neg hq]
      rfl
    · refine (congrArg Core.loops ((sameDevice_retireGroup ..).core _)).trans ?_
      rw [modTile_loops, modCore_core_same]
      rfl
    · refine ((sameDevice_retireGroup ..).tile ..).trans ?_
      refine (modTile_tile ..).trans ?_
      simp only [Mach.tile, modCore_core_same]
      rfl
  · have hb := mloop_body hi hs hw (h := h) hf hp
    rw [placeLoop_full (m := { s.m with nextWid := s.m.nextWid + 1 }) hn] at hb
    exact hr.parks (by exact hi.mach) hb (fun _ _ => rfl) ((sameDevice_parkGroup ..).tile ..)

end

end

/-- Settles O52, one instruction at a time: each runs its body on the machine as it stands (`Runs`), and the body is one branch of its
definition. -/
theorem tokensAndLoops : Obligations.TokensAndLoops := by
  unfold Obligations.TokensAndLoops
  intro h k s r t g hi ha hact _ _ hs _ hw x traps mine busy done leaves
  refine ⟨fun hacc i h' => noAcc_traps hi ha hact hacc h', fun hacc => ?_, fun sa sb a hp => mloop_gives hi ha hact hs hw hp _ rfl⟩
  obtain ⟨hmine, hbusy, hfree, hpark⟩ := macq_gives hi ha hact hacc x rfl
  obtain ⟨wmine, wpark, wback, wtrap⟩ := mwait_gives hi ha hact hacc x rfl
  refine ⟨hmine, hbusy, hfree, fun hx hq => hpark (.inl ⟨hx, hq⟩), fun hm hb hx => hpark (.inr ⟨hm, hb, hx⟩), fun hm hq => ?_,
    fun hm i ty h' => mzero_completes hi ha hact hs hw hacc hm h', wmine, wpark, wback, fun hm => ⟨?_, ?_, ?_, ?_, wtrap hm⟩⟩
  · exact mrel_completes hi ha hact hs hw hacc hm hq
  · exact notMine_traps hi ha hact hm (.inl rfl)
  · exact notMine_traps hi ha hact hm (.inr (.inl rfl))
  · exact notMine_traps hi ha hact hm (.inr (.inr (.inl rfl)))
  · exact notMine_traps hi ha hact hm (.inr (.inr (.inr rfl)))

end Sys2Proof.Machine
end

section
/-! Tags and uniform bits of results (R66, R67), and predicate p7 (R60). -/
namespace Sys2Proof.Machine

/-! ### Lanes of a mask -/

theorem mem_lanesOf {m : Mask} {l : Nat} : l ∈ lanesOf m ↔ l < 32 ∧ m.has l = true := by simp [lanesOf]

theorem mask_eq_iff {a b : Mask} : a = b ↔ ∀ l, l < 32 → a.has l = b.has l :=
  ⟨fun h _ _ => by rw [h], fun h => BitVec.eq_of_getLsbD_eq h⟩

theorem lanesOf_ne_nil {m : Mask} (h : m ≠ 0) : lanesOf m ≠ [] := fun hn =>
  h (mask_eq_iff.mpr fun l hl => by
    have : ¬ l ∈ lanesOf m := by simp [hn]
    simpa [mem_lanesOf, hl, Mask.has] using this)

/-- All of one mask's lanes are another's. -/
theorem mask_and_eq_iff {p w : Mask} : (p &&& w == p) = true ↔ ∀ l, l < 32 → p.has l = true → w.has l = true := by
  rw [beq_iff_eq, mask_eq_iff]
  refine forall_congr' fun l => forall_congr' fun _ => ?_
  simp [Mask.has]

/-- U is 1 exactly when every present lane was written and all present lanes hold one value (R67). -/
theorem uOf_iff {present tot : Mask} (hp : present ≠ 0) (lanes : List Word) : uOf present tot lanes = true ↔
    (∀ l, l < 32 → present.has l = true → tot.has l = true)
      ∧ ∀ l k, l < 32 → k < 32 → present.has l = true → present.has k = true → lanes.getD l 0 = lanes.getD k 0 := by
  rw [uOf, Bool.and_eq_true, mask_and_eq_iff]
  refine and_congr_right fun _ => ?_
  obtain ⟨a, ls, hls⟩ := List.exists_cons_of_ne_nil (lanesOf_ne_nil hp)
  have hmem : ∀ l, l < 32 → present.has l = true → l = a ∨ l ∈ ls := fun l hl hh =>
    List.mem_cons.mp (hls ▸ mem_lanesOf.mpr ⟨hl, hh⟩)
  have hpres : ∀ l, l = a ∨ l ∈ ls → l < 32 ∧ present.has l = true := fun l hl => mem_lanesOf.mp (hls ▸ List.mem_cons.mpr hl)
  obtain ⟨ha, hah⟩ := hpres a (.inl rfl)
  simp only [hls, List.all_eq_true, beq_iff_eq]
  constructor
  · intro h l k hl hk hlp hkp
    have heq : ∀ x, x < 32 → present.has x = true → lanes.getD x 0 = lanes.getD a 0 := fun x hx hxp => by
      rcases hmem x hx hxp with rfl | hm
      · rfl
      · exact h x hm
    rw [heq l hl hlp, heq k hk hkp]
  · intro h x hx
    obtain ⟨hx32, hxp⟩ := hpres x (.inr hx)
    exact h x a hx32 ha hxp hah

/-! ### Registers written -/

section
variable (r : Regs) (pr act tot : Mask) (n : Nat) (tag : BitVec 4)

theorem setV_tag (f : Nat → Word) : ((r.setV pr act tot n tag f).vreg n).tag = tag := by
  simp only [Regs.setV, Regs.vreg, putAt_getD_same]
theorem setV_u (f : Nat → Word) : ((r.setV pr act tot n tag f).vreg n).u = uOf pr tot ((r.setV pr act tot n tag f).vreg n).lanes := by
  simp only [Regs.setV, Regs.vreg, putAt_getD_same]

theorem setVPair_vreg_hi (f : Nat → DWord) : ((r.setVPair pr act tot n tag f).vreg (n + 1)).tag = tag
    ∧ ((r.setVPair pr act tot n tag f).vreg (n + 1)).u = (uOf pr tot ((r.setVPair pr act tot n tag f).vreg n).lanes
      && uOf pr tot ((r.setVPair pr act tot n tag f).vreg (n + 1)).lanes) := by
  simp only [Regs.setVPair, Regs.vreg, putAt_getD_same, putAt_getD_other _ _ _ _ _ (Nat.ne_of_lt n.lt_succ_self), and_self]
theorem setVPair_vreg_lo (f : Nat → DWord) : ((r.setVPair pr act tot n tag f).vreg n).tag = tag
    ∧ ((r.setVPair pr act tot n tag f).vreg n).u = ((r.setVPair pr act tot n tag f).vreg (n + 1)).u := by
  simp only [Regs.setVPair, Regs.vreg, putAt_getD_same, putAt_getD_other _ _ _ _ _ (Nat.ne_of_lt n.lt_succ_self), and_self]

end

/-- Two 64-bit values of a pair are one when both their halves are. -/
theorem append_eq_append {a b c d : Word} : a ++ b = c ++ d ↔ b = d ∧ a = c := by
  constructor
  · intro h
    have hlo := congrArg (BitVec.extractLsb' 0 32) h
    have hhi := congrArg (BitVec.extractLsb' 32 32) h
    simp only [BitVec.extractLsb'_append_eq_right, BitVec.extractLsb'_append_eq_left] at hlo hhi
    exact ⟨hlo, hhi⟩
  · rintro ⟨rfl, rfl⟩
    rfl

/-- What an integer or logic result leaves in its register: the type's tag, and U as R67 defines it. -/
def TaggedBy (q : Regs) (present act : Mask) (d : Opnd) (wide : Bool) (tag : BitVec 4) : Prop :=
  (∀ n, d = .s n → (q.sreg n.toNat).tag = tag)
    ∧ ∀ n, d = .v n → (q.vreg n.toNat).tag = tag
      ∧ (wide = true → (q.vreg (n.toNat + 1)).tag = tag ∧ (q.vreg (n.toNat + 1)).u = (q.vreg n.toNat).u
        ∧ ((q.vreg n.toNat).u = true ↔ (∀ l, l < 32 → present.has l = true → act.has l = true)
          ∧ ∀ l k, l < 32 → k < 32 → present.has l = true → present.has k = true → holding q true d l = holding q true d k))
      ∧ (wide = false → ((q.vreg n.toNat).u = true ↔ (∀ l, l < 32 → present.has l = true → act.has l = true)
        ∧ ∀ l k, l < 32 → k < 32 → present.has l = true → present.has k = true → (q.vreg n.toNat).lane l = (q.vreg n.toNat).lane k))

theorem putVal_tagged {present : Mask} (hp : present ≠ 0) {mb : Member} (d : Opnd) (wide : Bool) (tag : BitVec 4) (f : Nat → DWord)
    (r : Regs) : TaggedBy (putVal present mb d wide tag f r) present mb.tot d wide tag := by
  refine ⟨?_, ?_⟩
  · rintro n rfl
    simp only [putVal, Regs.setS, Regs.sreg, putAt_getD_same]
  rintro n rfl
  cases wide with
  | false =>
    refine ⟨setV_tag .., fun hw => Bool.noConfusion hw, fun _ => ?_⟩
    rw [show putVal present mb (.v n) false tag f r = r.setV present mb.act mb.tot n.toNat tag (fun l => (f l).setWidth 32) from rfl,
      setV_u]
    exact uOf_iff hp _
  | true =>
    obtain ⟨hlt, hlu⟩ := setVPair_vreg_lo r present mb.act mb.tot n.toNat tag f
    obtain ⟨hht, hhu⟩ := setVPair_vreg_hi r present mb.act mb.tot n.toNat tag f
    refine ⟨hlt, fun _ => ⟨hht, hlu.symm, ?_⟩, fun hw => Bool.noConfusion hw⟩
    rw [show putVal present mb (.v n) true tag f r = r.setVPair present mb.act mb.tot n.toNat tag f from rfl, hlu, hhu,
      Bool.and_eq_true, uOf_iff hp, uOf_iff hp, ← and_and_left]
    generalize r.setVPair present mb.act mb.tot n.toNat tag f = q
    have hpair : ∀ l k, holding q true (.v n) l = holding q true (.v n) k ↔
        (q.vreg n.toNat).lanes.getD l 0 = (q.vreg n.toNat).lanes.getD k 0
          ∧ (q.vreg (n.toNat + 1)).lanes.getD l 0 = (q.vreg (n.toNat + 1)).lanes.getD k 0 := fun l k => append_eq_append
    simp only [hpair]
    exact and_congr_right fun _ => ⟨fun ⟨hl, hh⟩ l k a b c d => ⟨hl l k a b c d, hh l k a b c d⟩,
      fun h => ⟨fun l k a b c d => (h l k a b c d).1, fun l k a b c d => (h l k a b c d).2⟩⟩

/-- An operation that writes one destination of a type, with the type's tag. -/
def WritesTyped (h : Hd) (ty : Ty) (d : Opnd) (op : Op) : Prop := ∃ ws F, op = valOp h ws d ty.wide ty.tag F

section
variable (h : Hd) (ty : Ty) (d a b c : Opnd) (v : BitVec 20)

theorem arith1_writesTyped (k : IOp) : WritesTyped h ty d (arith1 k h ty d a) := ⟨_, _, rfl⟩
theorem arith2_writesTyped (k : IOp) : WritesTyped h ty d (arith2 k h ty d a b) := ⟨_, _, rfl⟩
theorem arith3_writesTyped (k : IOp) : WritesTyped h ty d (arith3 k h ty d a b c) := ⟨_, _, rfl⟩
theorem arithI_writesTyped (k : IOp) : WritesTyped h ty d (arithI k h ty d a v) := ⟨_, _, rfl⟩
theorem logic1_writesTyped (k : LOp) : WritesTyped h ty d (logic1 k h ty d a) := ⟨_, _, rfl⟩
theorem logic2_writesTyped (k : LOp) : WritesTyped h ty d (logic2 k h ty d a b) := ⟨_, _, rfl⟩
theorem logicI_writesTyped (k : LOp) : WritesTyped h ty d (logicI k h ty d a v) := ⟨_, _, rfl⟩

end

theorem arithSpec_writesTyped {i : Instr} {h : Hd} {ty : Ty} {d : Opnd} {xs : List Src} {sat : Bool} {f : Nat → List Int → Int}
    (e : arithSpec i = some (h, ty, d, xs, sat, f)) :
    regOnly i = some (h, d.ids ty.wide) ∧ ∃ op, opOf i = some (h, op) ∧ WritesTyped h ty d op := by
  cases i
  case abs | neg => cases e; exact ⟨rfl, _, rfl, arith1_writesTyped ..⟩
  case add | sub | mul | mulhi | min | max => cases e; exact ⟨rfl, _, rfl, arith2_writesTyped ..⟩
  case mad => cases e; exact ⟨rfl, _, rfl, arith3_writesTyped ..⟩
  case addImm | subImm | mulImm | mulhiImm | minImm | maxImm => cases e; exact ⟨rfl, _, rfl, arithI_writesTyped ..⟩
  all_goals cases e

theorem logicSpec_writesTyped {i : Instr} {h : Hd} {ty : Ty} {d : Opnd} {xs : List Src} {f : Nat → List Nat → Nat → Bool}
    (e : logicSpec i = some (h, ty, d, xs, f)) :
    regOnly i = some (h, d.ids ty.wide) ∧ ∃ op, opOf i = some (h, op) ∧ WritesTyped h ty d op := by
  cases i
  case not | brev => cases e; exact ⟨rfl, _, rfl, logic1_writesTyped ..⟩
  case and | or | xor | andn | shl | shr | sar | rotl => cases e; exact ⟨rfl, _, rfl, logic2_writesTyped ..⟩
  case andImm | orImm | xorImm | andnImm | shlImm | shrImm | sarImm | rotlImm => cases e; exact ⟨rfl, _, rfl, logicI_writesTyped ..⟩
  all_goals cases e

/-- A body that is one write of the group's registers leaves them written. -/
theorem Runs.produces {i : Instr} {h : Hd} {op : Op} {s : State} {r : GRef} {t : Team} {g : Group} (hr : Runs i h op s r t g)
    {ids : List RegId} {F : Regs → Regs}
    (hb : op.body s.fw s.m t.tid [memberOf g h s.m.draw] = (s.m.modGroup r (fun x => x.produce ids F), .done)) :
    ∃ s' g', Machine.exec i s = .next s' ∧ s'.m.group? r = some g' ∧ g'.regs = F g.regs := by
  have he := hr.exec
  rw [hb, conclude_done hr.issuing] at he
  refine ⟨_, (g.produce ids F).retire h.w (nextPc g.pc h), he, ?_, by simp⟩
  simp [retireGroup_group?, mach_group?_modGroup _ _ _ (fun x : Group => x.produce ids F) fun _ => rfl, hr.issuing.mach]

/-- Settles O22: the result is one `putVal`, which sets the tag and U of its register together with its lanes. -/
theorem tagsAndUniform : Obligations.TagsAndUniform := by
  unfold Obligations.TagsAndUniform
  intro i h ty d s r t g hspec hi ha hpass hact hredo hpres
  obtain ⟨honly, _, ho, ws, F, rfl⟩ : regOnly i = some (h, d.ids ty.wide) ∧ ∃ op, opOf i = some (h, op) ∧ WritesTyped h ty d op := by
    rcases hspec with ⟨_, _, _, e⟩ | ⟨_, _, e⟩
    · exact arithSpec_writesTyped e
    · exact logicSpec_writesTyped e
  have hr : Runs i h (valOp h ws d ty.wide ty.tag F) s r t g :=
    ⟨ho, hi, ha, fun _ => hact, hpass _ _ ho, unheld_of_regOnly honly ..⟩
  obtain ⟨s', g', he, hg', hregs⟩ := hr.produces (by
    dsimp only [valOp]
    rw [regBody_one ha.1 hi.here (hi.member h), hi.ref])
  have htag := putVal_tagged hpres (mb := memberOf g h s.m.draw) d ty.wide ty.tag
    (F { fw := s.fw, m := s.m, t := t, lead := g, g := g }) g.regs
  have htot : (memberOf g h s.m.draw).tot = actOf g h s.m.draw := by simp [memberOf, hredo]
  rw [htot, ← hregs] at htag
  exact ⟨s', g', he, hg', htag⟩

/-! ### Predicate p7 -/

theorem preg_seven (q : Regs) : q.preg 7 = Mask.all := if_pos rfl
theorem setP_seven (q : Regs) (act v : Mask) : q.setP act 7 v = q := if_pos rfl

/-- A write of another predicate: the lanes of act take the new value, and the others keep theirs. -/
theorem setP_has (q : Regs) (act v : Mask) {n l : Nat} (hn : n ≠ 7) (hl : l < 32) :
    ((q.setP act n v).preg n).has l = if act.has l then v.has l else (q.preg n).has l := by
  have hreg : (q.setP act n v).preg n = (q.preg n &&& ~~~act) ||| (v &&& act) := by
    rw [Regs.setP, if_neg hn, Regs.preg, if_neg hn, putAt_getD_same]
  rw [hreg]
  simp only [Mask.has, BitVec.getLsbD_or, BitVec.getLsbD_and, BitVec.getLsbD_not, hl, decide_true, Bool.true_and]
  cases act.getLsbD l <;> simp

/-- A compare into p7 writes no register. -/
theorem regOnly_compare_seven {i : Instr} {h : Hd} {ty : Ty} {a b : Src} {p : Int → Int → Bool}
    (e : compareSpec i = some (h, ty, .p 7, a, b, p)) : regOnly i = some (h, []) := by
  cases i
  case setEq | setNe | setLt | setLe | setGt | setGe | setEqImm | setNeImm | setLtImm | setLeImm | setGtImm | setGeImm =>
    cases e
    rfl
  all_goals cases e

/-- Settles O21: p7 is no register of its own, and a compare into it is a register instruction with no destination. -/
theorem predicateSeven : Obligations.PredicateSeven := by
  unfold Obligations.PredicateSeven
  refine ⟨fun q act v => ⟨preg_seven q, setP_seven q act v⟩, fun q act v n l hn hl => setP_has q act v (Nat.ne_of_lt hn) hl, ?_⟩
  intro i h ty a b p s r t g hspec hi ha hpass
  exact aluCompletes i h [] s r t g (regOnly_compare_seven hspec) hi ha hpass

end Sys2Proof.Machine
end

section
/-! The state after reset (R79, R445, R467, R472). -/
namespace Sys2Proof.Machine

/-! ### One of each kind -/

theorem core_of_reset {k : Core} (h : k ∈ State.reset.m.cores) : k = Core.initial := List.eq_of_mem_replicate h
theorem part_of_reset {x : Part} (h : x ∈ State.reset.m.parts) : x = Part.initial := List.eq_of_mem_replicate h
theorem chambray_of_reset {b : Chambray} (h : b ∈ State.reset.fw.chambray) : b = Chambray.initial := List.eq_of_mem_replicate h
theorem tile_of_initial {x : Tile} (h : x ∈ Core.initial.tiles) : x = Tile.initial := List.eq_of_mem_replicate h
theorem wctl_of_initial {w : DWord} (h : w ∈ Chambray.initial.wctl) : w = 2 := List.eq_of_mem_replicate h

/-- The defaults of R445 are in the ranges that R445 gives. -/
theorem legalChambray_initial : LegalChambray Chambray.initial where
  left := by decide
  right := by
    refine ⟨by decide, by decide, by decide, fun w hw => ?_⟩
    rw [wctl_of_initial hw]
    decide

theorem legalFirmware_reset : LegalFirmware State.reset.fw := by
  refine ⟨by decide, by decide, by decide, by decide, fun b hb => ?_⟩
  rw [chambray_of_reset hb]
  exact legalChambray_initial

/-- With no team and no context, soundness is that of the memory and of the tiles, which are empty. -/
theorem machInv_reset : MachInv State.reset.m where
  mem := rfl
  teams _ h := absurd h List.not_mem_nil
  tiles c hc k hk := by
    rw [core_of_reset hc] at hk
    rw [tile_of_initial hk]
    rfl
  saved _ h := absurd h List.not_mem_nil
  pend _ h := absurd h List.not_mem_nil

/-- Each of the four dies has 24 cores in use and two spare positions (R472). -/
theorem coremap_reset {n : Nat} (hn : n < 96) : State.reset.fw.coremap[n]? = some (BitVec.ofNat 64 (26 * (n / 24) + n % 24)) := by
  have hmap : State.reset.fw.coremap = (List.range 96).map (fun n => BitVec.ofNat 64 (26 * (n / 24) + n % 24)) := rfl
  rw [hmap, List.getElem?_map, List.getElem?_range hn, Option.map_some]

/-- Settles O9: every register is read off the definition of the reset state, and the lists of cores, tiles, counters and slices
each repeat one initial value. -/
theorem resetState : Obligations.ResetState := by
  refine ⟨legalFirmware_reset, machInv_reset, rfl, rfl, rfl, rfl, rfl, rfl, rfl, List.length_replicate, fun k hk => ?_,
    ⟨rfl, rfl, rfl, rfl, rfl, fun x hx => ?_⟩,
    ⟨rfl, rfl, rfl, rfl, rfl, rfl, rfl, rfl, rfl, rfl, rfl, rfl, rfl, fun n hn => coremap_reset hn⟩, fun b hb => ?_⟩
  · rw [core_of_reset hk]
    refine ⟨rfl, rfl, rfl, rfl, rfl, rfl, rfl, rfl, fun x hx => ?_⟩
    rw [tile_of_initial hx]
    exact ⟨rfl, rfl, rfl, rfl, rfl⟩
  · rw [part_of_reset hx]
    rfl
  · rw [chambray_of_reset hb]
    refine ⟨by decide, by decide, by decide, fun w hw => ?_⟩
    rw [wctl_of_initial hw]
    decide

end Sys2Proof.Machine
end

section
/-! Lanes that an instruction executed again leaves to later ones (R55, R429), which the statement about SHLD leaves out. -/
namespace Sys2Proof.Machine

/-! ### A load of a shape register that is executed again -/

/-- A group executing a SHLD of h0 again, h0 having been written after it: h0 is 1, and s0 names the start of its scratchpad. -/
def redoGroup : Group :=
  { bkptGroup with
    regs := (bkptGroup.regs.setS 0 0 0xF000000000000).setH 0 1
    redo := some { i := .shld bkptHd 0 (.s 0), left := Mask.all, fin := 0, watch := [], back := none, keep := [(.h 0, 1)] } }
/-- Its team, whose scratchpad is 0. -/
def redoTeam : Team := { bkptTeam with groups := [redoGroup] }
/-- A device whose one group it is, and issues. -/
def redoState : State := { bkptState with m := { bkptState.m with teams := [redoTeam] } }

/-- Register h0 of the group after a step. -/
def hZeroAfter (o : Host.Outcome State Fault Refusal) : Option (BitVec 512) :=
  match o with
  | .next s => (s.m.group? { tid := 0, gno := 0 }).map (fun g => g.regs.hreg 0)
  | _ => none

/-- The model keeps what h0 holds. -/
theorem shld_keeps_hZero : hZeroAfter (exec (.shld bkptHd 0 (.s 0)) redoState) = some 1 := by decide +kernel

/-- The 64 bytes that s0 names are in the team's own scratchpad. -/
theorem steer_redo : ∀ i < 16, steer redoState.m redoTeam redoGroup 0
    (engVal redoGroup redoState.m.draw 0 (.s 0) + BitVec.ofNat 64 (4 * i)) 4 = .ok (.sp 0 (4 * i) false) := by decide +kernel

/-- Memory that nothing has written reads as 0. -/
theorem word_nil (a : Nat) : Memory.word [] a = 0 := by
  have hget : ∀ b, Memory.get [] b = 0 := fun _ => rfl
  simp only [Memory.word, Sparse.from, hget]
  decide

/-- They are 0. -/
theorem reads_redo (o : Nat) (stack : Bool) : Reads redoState.m redoTeam (.sp 0 o false) stack 4 ((0 : Word).setWidth 64) := by
  rw [Reads, if_neg (by decide)]
  have hword : spWord redoTeam (o - o % 4) = 0 := word_nil _
  exact ⟨0, ⟨redoTeam, rfl, rfl, hword.symm⟩, by simp⟩

/-- Refutes O50: SHLD executed again does not write a register that later instructions have written, and the statement has the new
value in it, with no premise on what the group executes again: here h0, kept for a later instruction, stays 1 where the 64 bytes
read are 0. -/
theorem not_shapeRegisters : ¬ Obligations.ShapeRegisters := by
  intro hall
  have hi : Issuing redoState { tid := 0, gno := 0 } redoTeam redoGroup := ⟨rfl, rfl, rfl, rfl, rfl⟩
  have hact : Active bkptHd redoGroup redoState.m.draw := fun _ => by decide +kernel
  have hpass : Passes (.shld bkptHd 0 (.s 0)) redoTeam redoGroup redoState.m.draw := by
    intro h op e
    cases e
    decide +kernel
  have hwatch : watchHit redoState.fw redoState.m redoTeam.ctx ⟨true, false⟩ (engVal redoGroup redoState.m.draw 0 (.s 0)) 64 = false := by
    decide +kernel
  obtain ⟨hshld, -⟩ := hall bkptHd 0 0 (.s 0) (.s 0) redoState _ redoTeam redoGroup hi ⟨.inr rfl, rfl⟩ hact
  obtain ⟨-, hread⟩ := hshld (fun _ => 0) hpass
  obtain ⟨-, hdone⟩ := hread (by decide +kernel) fun i hlt => ⟨_, steer_redo i hlt, reads_redo ..⟩
  obtain ⟨s', g', he, -, -, hg', -, hval⟩ := hdone (by decide +kernel) hwatch
  have hmodel := shld_keeps_hZero
  rw [he, hZeroAfter, hg', Option.map_some, Option.some.injEq] at hmodel
  exact absurd (hmodel.symm.trans hval) (by decide +kernel)

end Sys2Proof.Machine
end

section
/-! The die of a team (R81): the statement about special registers takes any team for its own, whatever die it names. -/
namespace Sys2Proof.Machine

/-! ### A team whose die is not its core's -/

/-- A team on core 0, of die 0, that names die 1. -/
def strayTeam : Team := { bkptTeam with die := 1 }
/-- A device whose one group is that team's, and issues. -/
def strayState : State := { bkptState with m := { bkptState.m with teams := [strayTeam] } }

/-- The model's register of the die reads the team's own field. -/
theorem sregVal_die_stray : sregVal strayState.fw strayState.m strayTeam bkptGroup 0x0D 0 = 1 := rfl

/-- The statement's is the die of the team's core. -/
theorem specialReg_die_stray {q : Grid} {k : Context} {v : DWord} (h : SpecialReg strayState strayTeam bkptGroup q k 0x0D 0 v) :
    v = 0 := h

/-- Refutes O54: register 0x0D reads the die that the team records, and the statement has it that of the team's core, with no premise
that the two agree, as `newTeam` makes them: on core 0 a team that records die 1 reads 1 for 0. -/
theorem not_specialRegisters : ¬ Obligations.SpecialRegisters := by
  intro hall
  have hi : Issuing strayState { tid := 0, gno := 0 } strayTeam bkptGroup := ⟨rfl, rfl, rfl, rfl, rfl⟩
  have hact : Active bkptHd bkptGroup strayState.m.draw := fun _ => by decide +kernel
  obtain ⟨hvalues, -⟩ := hall bkptHd (.s 0) (.s 0) 0 strayState _ strayTeam bkptGroup _ hi ⟨.inr rfl, rfl⟩ hact rfl
  have hdie := specialReg_die_stray (hvalues (bareGrid 0) rfl 0x0D 0)
  rw [sregVal_die_stray] at hdie
  exact absurd hdie (by decide)

end Sys2Proof.Machine
end

section
/-! An instruction executed again over no lane (R46), and registers that a drain executed again leaves to later instructions (R55):
what the statements about generic arithmetic and about tile data leave out. -/
namespace Sys2Proof.Machine

/-! ### Generic arithmetic executed again over no lane -/

/-- The sum of two inline constants 1, into s0. -/
def idleSum : Instr := .gadd bkptHd (.s 0) (.c 1) (.c 1) 0x7E0
/-- A group that executes it again with no lane left. -/
def idleGroup : Group := { bkptGroup with redo := some { i := idleSum, left := 0, fin := 0, watch := [], back := none } }
/-- Its team. -/
def idleTeam : Team := { bkptTeam with groups := [idleGroup] }
/-- A device whose one group it is, and issues. -/
def idleState : State := { bkptState with m := { bkptState.m with teams := [idleTeam] } }

/-- The tag of register s0 of the group after a step. -/
def sZeroTag (o : Host.Outcome State Fault Refusal) : Option (BitVec 4) :=
  match o with
  | .next s => (s.m.group? { tid := 0, gno := 0 }).map (fun g => (g.regs.sreg 0).tag)
  | _ => none

/-- The model writes nothing: s0 keeps its tag N64. -/
theorem idleSum_keeps_tag : sZeroTag (exec idleSum idleState) = some 6 := by decide +kernel

/-- Two I32 constants have the common format I32. -/
theorem idleSum_commonTag : commonTag ([Opnd.c 1, .c 1].mapIdx (fun k o => (srcTag idleGroup idleState.m k o).1)) = 1 := by decide +kernel

/-- Refutes O44: a generic instruction executed again over no lane writes nothing, and the statement has the common format in its
s register, with no premise on what the group executes again: here s0 keeps the tag N64 where the sum of two I32 constants would
leave I32. -/
theorem not_genericArithmetic : ¬ Obligations.GenericArithmetic := by
  rintro ⟨-, hall⟩
  have hi : Issuing idleState { tid := 0, gno := 0 } idleTeam idleGroup := ⟨rfl, rfl, rfl, rfl, rfl⟩
  have hact : Active bkptHd idleGroup idleState.m.draw := fun _ => by decide +kernel
  have hpass : Passes idleSum idleTeam idleGroup idleState.m.draw := by
    intro h op e
    cases e
    decide +kernel
  have hpairs : ∀ k o, [Opnd.c 1, .c 1][k]? = some o → oddPair o (srcTag idleGroup idleState.m k o).1 = false := by
    intro k o ho
    rcases List.mem_pair.mp (List.mem_of_getElem? ho) with rfl | rfl <;> rfl
  obtain ⟨F, ⟨s', g', he, -, -, -, -, -, hg', -, -, htag⟩, -⟩ := (hall idleState _ idleTeam idleGroup hi).1 idleSum bkptHd (.s 0)
    [.c 1, .c 1] _ rfl ⟨.inr rfl, rfl⟩ hact hpass hpairs (by rw [idleSum_commonTag]; decide +kernel)
  have hmodel := idleSum_keeps_tag
  rw [he, sZeroTag, hg', Option.map_some, Option.some.injEq] at hmodel
  exact absurd (hmodel.symm.trans ((htag 0 rfl).trans idleSum_commonTag)) (by decide)

/-! ### A drain to registers executed again -/

/-- A drain of one column of tile 0, in F32, to v0; s0 holds the form's word. -/
def againDrain : Instr := .mdrainReg bkptHd 0 (.v 0) (.s 0)
/-- A group that executes it again, all lanes of v0 having been written after it. -/
def againGroup : Group :=
  { bkptGroup with
    regs := bkptGroup.regs.setS 0 6 0x3000000
    redo := some { i := againDrain, left := Mask.all, fin := 0, watch := [], back := none, keep := [(.v 0, Mask.all)] } }
/-- Its team, which has tiles. -/
def againTeam : Team := { bkptTeam with acc := true, groups := [againGroup] }
/-- Tile 0, which the group holds: its first element is 1. -/
def againTile : Tile := { Tile.initial with holder := .group 0 0, els := [(0, 1)] }
/-- A device whose one group it is, and issues. -/
def againState : State :=
  { bkptState with m := { bkptState.m with teams := [againTeam], cores := [{ Core.initial with tiles := [againTile] }] } }

/-- Lane 0 of register v0 of the group after a step. -/
def vZeroLane (o : Host.Outcome State Fault Refusal) : Option Word :=
  match o with
  | .next s => (s.m.group? { tid := 0, gno := 0 }).map (fun g => (g.regs.vreg 0).lane 0)
  | _ => none

/-- The model keeps what v0 holds. -/
theorem againDrain_keeps_vZero : vZeroLane (exec againDrain againState) = some 0 := by decide +kernel

/-- Refutes O53: a drain to registers executed again does not write lanes that later instructions have written, and the statement
has the drained elements there, with no premise on what the group executes again: here v0, kept for a later instruction, stays 0
where the tile's element is 1. -/
theorem not_tileData : ¬ Obligations.TileData := by
  intro hall
  have hi : Issuing againState { tid := 0, gno := 0 } againTeam againGroup := ⟨rfl, rfl, rfl, rfl, rfl⟩
  have hact : Active bkptHd againGroup againState.m.draw := fun _ => by decide +kernel
  have hpass : Passes againDrain againTeam againGroup againState.m.draw := by
    intro h op e
    cases e
    decide +kernel
  obtain ⟨-, hholds, -⟩ := hall bkptHd 0 againState _ againTeam againGroup hi ⟨.inr rfl, rfl⟩ hact rfl rfl (by decide) (by simp [againTeam, bkptTeam, newTeam])
  obtain ⟨-, -, -, hdrain, -⟩ := hholds rfl rfl (by decide +kernel)
  obtain ⟨s', g', he, -, -, hg', -, hval⟩ := hdrain 0 (.s 0) hpass (by decide +kernel) rfl
  have hlane := hval 0 0 (by decide +kernel) (by decide)
  have hmodel := againDrain_keeps_vZero
  rw [show exec againDrain againState = _ from he, vZeroLane, hg', Option.map_some, Option.some.injEq] at hmodel
  rw [if_pos (by decide +kernel)] at hlane
  exact absurd (hmodel.symm.trans hlane) (by decide +kernel)

end Sys2Proof.Machine
end

section
/-! The magnitudes of a float format as a grid of rationals (R87, R91): each power-of-two interval is cut into steps of one unit, and
rounding is told by the place of a magnitude on the grid of half units. -/
namespace Sys2Proof.Machine

/-! ### The grid -/

section
variable (K : Type) [Field K] [LinearOrder K] [IsStrictOrderedRing K]

/-- Point n of the grid whose least step is 2^q and whose steps double every 2^p points from the second interval on. -/
def grid (p : Nat) (q : Int) (n : Nat) : K :=
  ((n % 2 ^ p + if n < 2 ^ p then 0 else 2 ^ p : Nat) : K) * 2 ^ (q + ((n / 2 ^ p - 1 : Nat) : Int))

variable {K} {p k u : Nat} {q : Int}

/-- A point by its significand k and the number u of doublings. -/
theorem grid_enc (hk : u = 0 ∨ 2 ^ p ≤ k) (hk' : k ≤ 2 ^ (p + 1)) : grid K p q (k + u * 2 ^ p) = k * 2 ^ (q + (u : Int)) := by
  have hp : 0 < 2 ^ p := Nat.two_pow_pos p
  rw [pow_succ] at hk'
  rcases lt_or_ge k (2 ^ p) with hlt | hge
  · obtain rfl : u = 0 := by omega
    simp [grid, hlt, Nat.mod_eq_of_lt hlt, Nat.div_eq_of_lt hlt]
  · obtain ⟨j, rfl⟩ := Nat.exists_eq_add_of_le hge
    have hn : 2 ^ p + j + u * 2 ^ p = j + (u + 1) * 2 ^ p := by ring
    have hnot : ¬ j + (u + 1) * 2 ^ p < 2 ^ p := by rw [add_mul]; omega
    rcases lt_or_ge j (2 ^ p) with hj | hj
    · rw [hn, grid, if_neg hnot, Nat.add_mul_mod_self_right, Nat.mod_eq_of_lt hj, Nat.add_mul_div_right _ _ hp,
        Nat.div_eq_of_lt hj, Nat.zero_add, Nat.add_sub_cancel, Nat.add_comm j]
    · obtain rfl : j = 2 ^ p := by omega
      have hn' : 2 ^ p + (u + 1) * 2 ^ p = 0 + (u + 2) * 2 ^ p := by ring
      rw [hn, hn', grid, if_neg (by rw [← hn']; omega), Nat.add_mul_mod_self_right, Nat.zero_mod, Nat.add_mul_div_right _ _ hp,
        Nat.zero_div, Nat.zero_add, Nat.zero_add, show u + 2 - 1 = u + 1 by omega]
      push_cast
      rw [← add_assoc, zpow_add_one₀ two_ne_zero]
      ring

/-- Every point has a significand. -/
theorem exists_enc (p n : Nat) : ∃ k u, n = k + u * 2 ^ p ∧ (u = 0 ∨ 2 ^ p ≤ k) ∧ k < 2 ^ (p + 1) := by
  have hp : 0 < 2 ^ p := Nat.two_pow_pos p
  have hmod := Nat.mod_lt n hp
  have hdiv := Nat.mod_add_div n (2 ^ p)
  rcases Nat.eq_zero_or_pos (n / 2 ^ p) with h0 | hpos
  · exact ⟨n % 2 ^ p, 0, by rw [h0] at hdiv; omega, .inl rfl, by rw [pow_succ]; omega⟩
  · obtain ⟨w, hw⟩ := Nat.exists_eq_add_of_le hpos
    refine ⟨n % 2 ^ p + 2 ^ p, w, ?_, .inr (by omega), by rw [pow_succ]; omega⟩
    rw [hw] at hdiv
    linarith [hdiv, mul_comm (2 ^ p) w, show 2 ^ p * (Nat.succ 0 + w) = 2 ^ p + 2 ^ p * w by ring]

theorem two_zpow_pos (e : Int) : (0 : K) < 2 ^ e := zpow_pos two_pos e

theorem grid_zero : grid K p q 0 = 0 := by simp [grid]

/-- A step of the grid is at least its least unit. -/
theorem grid_succ_le (n : Nat) : grid K p q n + 2 ^ q ≤ grid K p q (n + 1) := by
  obtain ⟨k, u, rfl, hk, hk'⟩ := exists_enc p n
  rw [show k + u * 2 ^ p + 1 = (k + 1) + u * 2 ^ p by ring, grid_enc hk hk'.le, grid_enc (by omega) (by omega)]
  have hle : (2 : K) ^ q ≤ 2 ^ (q + (u : Int)) := zpow_le_zpow_right₀ one_le_two (by omega)
  push_cast
  linarith

theorem grid_strictMono : StrictMono (grid K p q) :=
  strictMono_nat_of_lt_succ (fun n => by linarith [grid_succ_le (K := K) (p := p) (q := q) n, two_zpow_pos (K := K) q])

theorem grid_nonneg (n : Nat) : 0 ≤ grid K p q n := by
  rw [← grid_zero (K := K) (p := p) (q := q)]
  exact grid_strictMono.monotone (Nat.zero_le n)

theorem grid_ge (n : Nat) : (n : K) * 2 ^ q ≤ grid K p q n := by
  induction n with
  | zero => simp [grid_zero]
  | succ n ih => push_cast; linarith [grid_succ_le (K := K) (p := p) (q := q) n]

/-- Every second point of the grid of half units is a point of the grid. -/
theorem grid_two_mul (n : Nat) : grid K (p + 1) (q - 1) (2 * n) = grid K p q n := by
  obtain ⟨k, u, rfl, hk, hk'⟩ := exists_enc p n
  rw [grid_enc hk hk'.le, show 2 * (k + u * 2 ^ p) = 2 * k + u * 2 ^ (p + 1) by ring,
    grid_enc (by rw [pow_succ]; omega) (by rw [pow_succ]; omega), show q + (u : Int) = q - 1 + u + 1 by ring, zpow_add_one₀ two_ne_zero]
  push_cast
  ring

/-- The others lie in the middle of two points. -/
theorem grid_two_mul_add_one (n : Nat) :
    2 * grid K (p + 1) (q - 1) (2 * n + 1) = grid K p q n + grid K p q (n + 1) := by
  obtain ⟨k, u, rfl, hk, hk'⟩ := exists_enc p n
  rw [grid_enc hk hk'.le, show k + u * 2 ^ p + 1 = (k + 1) + u * 2 ^ p by ring, grid_enc (by omega) (by omega),
    show 2 * (k + u * 2 ^ p) + 1 = (2 * k + 1) + u * 2 ^ (p + 1) by ring,
    grid_enc (by rw [pow_succ]; omega) (by rw [pow_succ]; omega), show q + (u : Int) = q - 1 + u + 1 by ring, zpow_add_one₀ two_ne_zero]
  push_cast
  ring

/-! ### Places on the grid -/

/-- x is point i of the grid, or lies strictly between it and the next. -/
def AtGrid (p : Nat) (q : Int) (i : Nat) (ex : Bool) (x : K) : Prop :=
  if ex then x = grid K p q i else grid K p q i < x ∧ x < grid K p q (i + 1)

omit [IsStrictOrderedRing K] in
theorem AtGrid.le {i : Nat} {ex : Bool} {x : K} (h : AtGrid p q i ex x) : grid K p q i ≤ x := by
  cases ex with
  | true => exact (show x = _ from h).ge
  | false => exact h.1.le

theorem AtGrid.lt {i : Nat} {ex : Bool} {x : K} (h : AtGrid p q i ex x) : x < grid K p q (i + 1) := by
  cases ex with
  | true => exact (show x = _ from h) ▸ grid_strictMono (Nat.lt_succ_self i)
  | false => exact h.2

/-- A magnitude has one place. -/
theorem AtGrid.unique {i j : Nat} {ex ey : Bool} {x : K} (h : AtGrid p q i ex x) (h' : AtGrid p q j ey x) : i = j ∧ ex = ey := by
  have hij : i < j + 1 := (grid_strictMono (K := K) (p := p) (q := q)).lt_iff_lt.mp (h.le.trans_lt h'.lt)
  have hji : j < i + 1 := (grid_strictMono (K := K) (p := p) (q := q)).lt_iff_lt.mp (h'.le.trans_lt h.lt)
  obtain rfl : i = j := by omega
  refine ⟨rfl, ?_⟩
  cases ex <;> cases ey
  · rfl
  · exact absurd (show x = _ from h') h.1.ne'
  · exact absurd (show x = _ from h) h'.1.ne'
  · rfl

theorem exists_atGrid [Archimedean K] {x : K} (hx : 0 ≤ x) : ∃ i ex, AtGrid p q i ex x := by
  have hex : ∃ n, x < grid K p q (n + 1) := by
    obtain ⟨n, hn⟩ := exists_nat_gt (x / 2 ^ q)
    refine ⟨n, ((div_lt_iff₀ (two_zpow_pos q)).mp hn).trans_le ((grid_ge n).trans (grid_strictMono.monotone (Nat.le_succ n)))⟩
  classical
  have hlt := Nat.find_spec hex
  have hle : grid K p q (Nat.find hex) ≤ x := by
    cases hn : Nat.find hex with
    | zero => rw [grid_zero]; exact hx
    | succ n => exact not_lt.mp (Nat.find_min hex (m := n) (by omega))
  rcases hle.eq_or_lt with he | hl
  · exact ⟨_, true, he.symm⟩
  · exact ⟨_, false, hl, hlt⟩

end

end Sys2Proof.Machine
end

section
/-! One rounding (R91, R92): `roundBits` reads the place of a magnitude on the grid of half units of its format, and nothing else. -/
namespace Sys2Proof.Machine

/-! ### Bit lengths -/

theorem bitLen_pos {m : Nat} (hm : m ≠ 0) : 0 < bitLen m := by simp [bitLen, hm]

theorem two_pow_bitLen_le {m : Nat} (hm : m ≠ 0) : 2 ^ (bitLen m - 1) ≤ m := by
  simpa [bitLen, hm] using Nat.log2_self_le hm

theorem lt_two_pow_bitLen (m : Nat) : m < 2 ^ bitLen m := by
  rcases eq_or_ne m 0 with rfl | hm
  · simp
  · simpa [bitLen, hm] using Nat.lt_log2_self (n := m)

/-! ### The unit of a magnitude -/

/-- The unit in which m × 2^e is rounded: p bits below its leading bit, or the least unit of the format. -/
def unitExp (p : Nat) (q0 : Int) (m : Nat) (e : Int) : Int := max (e + (bitLen m : Int) - 1 - p) q0

/-- Whole units of 2^(e + sh) in m × 2^e; the rest, of `unitDen sh` parts of a unit. -/
def unitQuot (m : Nat) (sh : Int) : Nat := if sh ≤ 0 then m * 2 ^ (-sh).toNat else m / 2 ^ sh.toNat
def unitRem (m : Nat) (sh : Int) : Nat := if sh ≤ 0 then 0 else m % 2 ^ sh.toNat
def unitDen (sh : Int) : Nat := if sh ≤ 0 then 1 else 2 ^ sh.toNat

theorem unitDen_pos (sh : Int) : 0 < unitDen sh := by
  unfold unitDen
  split
  · exact Nat.one_pos
  · exact Nat.two_pow_pos _

theorem unitRem_lt (m : Nat) (sh : Int) : unitRem m sh < unitDen sh := by
  unfold unitRem unitDen
  split
  · exact Nat.one_pos
  · exact Nat.mod_lt _ (Nat.two_pow_pos _)

theorem zpow_toNat {K : Type} [Field K] {n : Int} (h : 0 ≤ n) : (2 : K) ^ n = ((2 ^ n.toNat : Nat) : K) := by
  conv_lhs => rw [← Int.toNat_of_nonneg h]
  push_cast
  exact zpow_natCast 2 _

section
variable {K : Type} [Field K] [LinearOrder K] [IsStrictOrderedRing K]

/-- A magnitude in units and parts of a unit. -/
theorem unit_decomp (m : Nat) (e q : Int) :
    (m : K) * 2 ^ e * unitDen (q - e) = ((unitQuot m (q - e) * unitDen (q - e) + unitRem m (q - e) : Nat) : K) * 2 ^ q := by
  unfold unitQuot unitRem unitDen
  rcases le_or_gt (q - e) 0 with h | h
  · rw [if_pos h, if_pos h, if_pos h]
    have he : (2 : K) ^ e = ((2 ^ (-(q - e)).toNat : Nat) : K) * 2 ^ q := by
      rw [← zpow_toNat (by omega), ← zpow_add₀ two_ne_zero]
      congr 1
      ring
    rw [he]
    push_cast
    ring
  · rw [if_neg (by omega), if_neg (by omega), if_neg (by omega), Nat.mul_comm (m / _), Nat.div_add_mod]
    have hq : (2 : K) ^ q = 2 ^ e * ((2 ^ (q - e).toNat : Nat) : K) := by
      rw [← zpow_toNat h.le, ← zpow_add₀ two_ne_zero]
      congr 1
      ring
    rw [hq]
    ring

theorem unitQuot_lt {p m : Nat} {sh : Int} (hsh : (bitLen m : Int) - 1 - p ≤ sh) : unitQuot m sh < 2 ^ (p + 1) := by
  have hlt := lt_two_pow_bitLen m
  unfold unitQuot
  split
  · next h0 =>
    calc m * 2 ^ (-sh).toNat < 2 ^ bitLen m * 2 ^ (-sh).toNat := Nat.mul_lt_mul_of_pos_right hlt (Nat.two_pow_pos _)
      _ = 2 ^ (bitLen m + (-sh).toNat) := (Nat.pow_add ..).symm
      _ ≤ 2 ^ (p + 1) := Nat.pow_le_pow_right (by omega) (by omega)
  · next h0 =>
    rw [Nat.div_lt_iff_lt_mul (Nat.two_pow_pos _), ← Nat.pow_add]
    exact hlt.trans_le (Nat.pow_le_pow_right (by omega) (by omega))

theorem le_unitQuot {p m : Nat} (hm : m ≠ 0) : 2 ^ p ≤ unitQuot m ((bitLen m : Int) - 1 - p) := by
  have hle := two_pow_bitLen_le hm
  have hpos := bitLen_pos hm
  unfold unitQuot
  split
  · next h0 =>
    calc 2 ^ p = 2 ^ (bitLen m - 1) * 2 ^ (-((bitLen m : Int) - 1 - p)).toNat := by rw [← Nat.pow_add]; congr 1; omega
      _ ≤ _ := Nat.mul_le_mul_right _ hle
  · next h0 =>
    rw [Nat.le_div_iff_mul_le (Nat.two_pow_pos _), ← Nat.pow_add]
    exact (Nat.pow_le_pow_right (by omega) (by omega)).trans hle

/-- The whole units of a magnitude are a significand of the grid. -/
theorem unitQuot_bounds (p : Nat) (q0 : Int) {m : Nat} (hm : m ≠ 0) (e : Int) :
    ((unitExp p q0 m e - q0).toNat = 0 ∨ 2 ^ p ≤ unitQuot m (unitExp p q0 m e - e)) ∧ unitQuot m (unitExp p q0 m e - e) < 2 ^ (p + 1) := by
  refine ⟨?_, unitQuot_lt (by unfold unitExp; omega)⟩
  rcases le_or_gt (e + (bitLen m : Int) - 1 - p) q0 with h | h
  · exact .inl (by rw [unitExp, max_eq_right h]; omega)
  · right
    rw [unitExp, max_eq_left h.le, show e + (bitLen m : Int) - 1 - p - e = (bitLen m : Int) - 1 - p by ring]
    exact le_unitQuot hm

/-- The place of a magnitude on the grid of half units: its whole units, and where the rest lies beside the middle of a unit. -/
theorem atGrid_half (p : Nat) (q0 : Int) {m : Nat} (hm : m ≠ 0) (e : Int) :
    let sh := unitExp p q0 m e - e
    AtGrid (p + 1) (q0 - 1) (2 * (unitQuot m sh + (unitExp p q0 m e - q0).toNat * 2 ^ p) + if unitDen sh ≤ 2 * unitRem m sh then 1 else 0)
      (unitRem m sh == 0 || 2 * unitRem m sh == unitDen sh) ((m : K) * 2 ^ e) := by
  obtain ⟨hk, hk'⟩ := unitQuot_bounds p q0 hm e
  have hdec := unit_decomp (K := K) m e (unitExp p q0 m e)
  have hrem := unitRem_lt m (unitExp p q0 m e - e)
  have hden : (0 : K) < unitDen (unitExp p q0 m e - e) := by exact_mod_cast unitDen_pos _
  have hq0 : q0 ≤ unitExp p q0 m e := le_max_right _ _
  have hq : (2 : K) ^ unitExp p q0 m e = 2 ^ (q0 + ((unitExp p q0 m e - q0).toNat : Int)) := by congr 1; omega
  dsimp only
  generalize unitExp p q0 m e - q0 = w at *
  generalize unitExp p q0 m e - e = sh at *
  generalize unitQuot m sh = k at *
  generalize unitRem m sh = rem at *
  generalize unitDen sh = d at *
  have hz := two_zpow_pos (K := K) (q0 + (w.toNat : Int))
  rw [hq] at hdec
  generalize hN : k + w.toNat * 2 ^ p = N at *
  have h0 : grid K (p + 1) (q0 - 1) (2 * N) = (k : K) * 2 ^ (q0 + (w.toNat : Int)) := by
    rw [grid_two_mul, ← hN, grid_enc hk hk'.le]
  have h2 : grid K (p + 1) (q0 - 1) (2 * N + 1 + 1) = ((k + 1 : Nat) : K) * 2 ^ (q0 + (w.toNat : Int)) := by
    rw [show 2 * N + 1 + 1 = 2 * (N + 1) by ring, grid_two_mul, ← hN, show k + w.toNat * 2 ^ p + 1 = (k + 1) + w.toNat * 2 ^ p by ring]
    exact grid_enc (by omega) (by omega)
  have h1 : 2 * grid K (p + 1) (q0 - 1) (2 * N + 1) = ((2 * k + 1 : Nat) : K) * 2 ^ (q0 + (w.toNat : Int)) := by
    rw [grid_two_mul_add_one, ← grid_two_mul, ← grid_two_mul (n := N + 1), show 2 * (N + 1) = 2 * N + 1 + 1 by ring, h0, h2]
    push_cast
    ring
  generalize (2 : K) ^ (q0 + (w.toNat : Int)) = z at *
  have hremd : (rem : K) < d := by exact_mod_cast hrem
  push_cast at hdec h1 h2
  have hle : ∀ {a b : K}, a * d < b * d → a < b := fun h => lt_of_mul_lt_mul_right h hden.le
  rcases Nat.lt_trichotomy (2 * rem) d with hlt | heq | hgt
  · rw [if_neg (by omega)]
    have hltK : 2 * (rem : K) < d := by exact_mod_cast hlt
    rcases Nat.eq_zero_or_pos rem with rfl | hpos
    · rw [show ((0 : Nat) == 0 || 2 * 0 == d) = true from rfl]
      show _ = grid K (p + 1) (q0 - 1) (2 * N)
      rw [h0]
      apply mul_right_cancel₀ hden.ne'
      rw [hdec]
      push_cast
      ring
    · rw [show (rem == 0 || 2 * rem == d) = false by simp; omega]
      have hposK : (0 : K) < rem := by exact_mod_cast hpos
      constructor
      · show grid K (p + 1) (q0 - 1) (2 * N) < _
        rw [h0]
        apply hle
        rw [hdec]
        nlinarith [mul_pos hposK hz]
      · apply hle
        rw [hdec]
        nlinarith [mul_lt_mul_of_pos_right hltK hz, congrArg (· * (d : K)) h1]
  · rw [if_pos (by omega), show (rem == 0 || 2 * rem == d) = true by simp [heq]]
    show _ = _
    have heqK : 2 * (rem : K) = d := by exact_mod_cast heq
    apply mul_right_cancel₀ (mul_ne_zero two_ne_zero hden.ne')
    linear_combination 2 * hdec - (d : K) * h1 + z * heqK
  · rw [if_pos (by omega), show (rem == 0 || 2 * rem == d) = false by simp; omega]
    have hgtK : (d : K) < 2 * rem := by exact_mod_cast hgt
    constructor
    · apply hle
      rw [hdec]
      nlinarith [mul_lt_mul_of_pos_right hgtK hz, congrArg (· * (d : K)) h1]
    · rw [h2]
      apply hle
      rw [hdec]
      nlinarith [mul_lt_mul_of_pos_right hremd hz]

end

/-! ### Rounding a place -/

/-- The places of magnitudes on a format's grid of half units. -/
abbrev AtHalf {K : Type} [Field K] [LinearOrder K] (f : Fmt) (i : Nat) (ex : Bool) (x : K) : Prop :=
  AtGrid (f.fbits + 1) (f.emin - f.fbits - 1) i ex x

/-- A magnitude at a place moves up to the next value (R91). -/
def roundsUp (r : Rnd) (neg : Bool) (i : Nat) (ex : Bool) : Bool :=
  match r with
  | .rne => i % 2 == 1 && (!ex || i / 2 % 2 == 1)
  | .rz => false
  | .ru => !neg && !(i % 2 == 0 && ex)
  | .rd => neg && !(i % 2 == 0 && ex)

/-- The magnitude that a place rounds to, as an encoding without sign. -/
def roundMag (r : Rnd) (neg : Bool) (i : Nat) (ex : Bool) : Nat := i / 2 + (roundsUp r neg i ex).toNat

/-- A rounded magnitude with its sign; one above the largest overflows (R92). -/
def encMag (f : Fmt) (r : Rnd) (neg : Bool) (mag : Nat) : Nat :=
  if maxFinite f < mag then overflowBits f r neg else signBit f neg + mag

/-- The value that a place of the grid rounds to. -/
def roundAt (f : Fmt) (r : Rnd) (neg : Bool) (i : Nat) (ex : Bool) : Nat := encMag f r neg (roundMag r neg i ex)

/-- The magnitude of a significand k, one bit longer where the rounding carried, as an encoding. -/
theorem mag_of_significand {p u k bias : Nat} {q0 : Int} (hq0 : q0 = 1 - bias - p) (hk : u = 0 ∨ 2 ^ p ≤ k) (hk' : k ≤ 2 ^ (p + 1)) :
    (let carry := k == 2 ^ (p + 1)
     let k := if carry then 2 ^ p else k
     let q := if carry then q0 + u + 1 else q0 + u
     if k < 2 ^ p then k else (q + p + bias).toNat * 2 ^ p + (k - 2 ^ p)) = k + u * 2 ^ p := by
  have hp : 0 < 2 ^ p := Nat.two_pow_pos p
  simp only [beq_iff_eq]
  by_cases hc : k = 2 ^ (p + 1)
  · rw [if_pos hc, if_pos hc, if_neg (lt_irrefl _), show (q0 + u + 1 + p + bias).toNat = u + 2 by omega, hc, pow_succ]
    simp
    ring
  · rw [if_neg hc, if_neg hc]
    split
    · obtain rfl : u = 0 := by omega
      simp
    · rw [show (q0 + u + p + bias).toNat = u + 1 by omega, add_mul]
      omega

theorem two_pow_mod_two {p : Nat} (hp : p ≠ 0) (u : Nat) : u * 2 ^ p % 2 = 0 := by
  obtain ⟨n, rfl⟩ := Nat.exists_eq_succ_of_ne_zero hp
  rw [pow_succ, ← mul_assoc, Nat.mul_mod_left]

theorem fbits_ne_zero (f : Fmt) : f.fbits ≠ 0 := by cases f <;> decide

/-- The half unit's place tells what the rest of a magnitude tells. -/
theorem roundsUp_unit (r : Rnd) (neg : Bool) {k w rem d : Nat} (hw : w % 2 = 0) (hrem : rem < d) :
    roundsUp r neg (2 * (k + w) + if d ≤ 2 * rem then 1 else 0) (rem == 0 || 2 * rem == d) = (match r with
      | .rne => decide (2 * rem > d) || (2 * rem == d && k % 2 == 1)
      | .rz => false
      | .ru => !neg && rem != 0
      | .rd => neg && rem != 0) := by
  have hexact : ((2 * (k + w) + if d ≤ 2 * rem then 1 else 0) % 2 == 0 && (rem == 0 || 2 * rem == d)) = (rem == 0) := by
    rw [Bool.eq_iff_iff]
    simp only [Bool.and_eq_true, Bool.or_eq_true, beq_iff_eq]
    split <;> omega
  cases r with
  | rne =>
    rw [Bool.eq_iff_iff]
    simp only [roundsUp, Bool.and_eq_true, Bool.or_eq_true, Bool.not_eq_true', Bool.or_eq_false_iff, beq_iff_eq, beq_eq_false_iff_ne,
      decide_eq_true_eq]
    split <;> omega
  | rz => rfl
  | ru => simp only [roundsUp, hexact, bne]
  | rd => simp only [roundsUp, hexact, bne]

/-- A magnitude that is not 0 rounds by its place on the grid of half units. -/
theorem roundBits_exact (f : Fmt) (r : Rnd) (neg : Bool) {m : Nat} (hm : m ≠ 0) (e : Int) :
    let q := unitExp f.fbits (f.emin - f.fbits) m e
    roundBits f r neg m e false = roundAt f r neg
      (2 * (unitQuot m (q - e) + (q - (f.emin - f.fbits)).toNat * 2 ^ f.fbits) + if unitDen (q - e) ≤ 2 * unitRem m (q - e) then 1 else 0)
      (unitRem m (q - e) == 0 || 2 * unitRem m (q - e) == unitDen (q - e)) := by
  obtain ⟨hk, hk'⟩ := unitQuot_bounds f.fbits (f.emin - f.fbits) hm e
  have hle : f.emin - f.fbits ≤ unitExp f.fbits (f.emin - f.fbits) m e := le_max_right _ _
  dsimp only
  rw [roundAt, roundMag, roundsUp_unit r neg (two_pow_mod_two (fbits_ne_zero f) _) (unitRem_lt _ _)]
  have hmag := fun (up : Bool) => mag_of_significand (p := f.fbits) (bias := f.bias) (q0 := f.emin - f.fbits)
    (u := (unitExp f.fbits (f.emin - f.fbits) m e - (f.emin - f.fbits)).toNat)
    (k := unitQuot m (unitExp f.fbits (f.emin - f.fbits) m e - e) + up.toNat) rfl (by omega) (by cases up <;> simp <;> omega)
  rw [show f.emin - f.fbits + ((unitExp f.fbits (f.emin - f.fbits) m e - (f.emin - f.fbits)).toNat : Int)
    = unitExp f.fbits (f.emin - f.fbits) m e by omega] at hmag
  have hhalf : ∀ (N : Nat) (c : Prop) [Decidable c], (2 * N + if c then 1 else 0) / 2 = N := by intro N c _; split <;> omega
  rw [hhalf, add_right_comm, ← hmag]
  have htoNat : ∀ (k : Nat) (c : Bool), (if c then k + 1 else k) = k + c.toNat := by intro k c; cases c <;> rfl
  unfold roundBits
  simp only [Bool.false_eq_true, if_false, htoNat]
  rfl

section
variable {K : Type} [Field K] [LinearOrder K] [IsStrictOrderedRing K]

/-- A magnitude rounds by its place, however it is written. -/
theorem roundBits_of_atHalf {f : Fmt} {m : Nat} (hm : m ≠ 0) {e : Int} {i : Nat} {ex : Bool} {x : K} (hx : (m : K) * 2 ^ e = x)
    (h : AtHalf f i ex x) (r : Rnd) (neg : Bool) : roundBits f r neg m e false = roundAt f r neg i ex := by
  subst hx
  obtain ⟨hi, hex⟩ := h.unique (atGrid_half f.fbits (f.emin - f.fbits) hm e)
  rw [roundBits_exact f r neg hm e, hi, hex]

/-- Between two numbers of units there is no point of the grid, where the numbers have more bits than a significand. -/
theorem atGrid_between {p m : Nat} (hm : 2 ^ p ≤ m) (q0 e : Int) :
    ∃ i, ∀ x : K, (m : K) * 2 ^ e < x → x < ((m + 1 : Nat) : K) * 2 ^ e → AtGrid p q0 i false x := by
  have hm0 : m ≠ 0 := (lt_of_lt_of_le (Nat.two_pow_pos p) hm).ne'
  obtain ⟨hk, hk'⟩ := unitQuot_bounds p q0 hm0 e
  have hp : p < bitLen m := (Nat.pow_lt_pow_iff_right (by omega)).mp (hm.trans_lt (lt_two_pow_bitLen m))
  have hq0 : q0 ≤ unitExp p q0 m e := le_max_right _ _
  have hsh : 0 ≤ unitExp p q0 m e - e := by
    have := le_max_left (e + (bitLen m : Int) - 1 - p) q0
    unfold unitExp
    omega
  refine ⟨unitQuot m (unitExp p q0 m e - e) + (unitExp p q0 m e - q0).toNat * 2 ^ p, fun x hlo hhi => ?_⟩
  have hscale : (2 : K) ^ (q0 + ((unitExp p q0 m e - q0).toNat : Int)) = ((2 ^ (unitExp p q0 m e - e).toNat : Nat) : K) * 2 ^ e := by
    rw [show q0 + ((unitExp p q0 m e - q0).toNat : Int) = (unitExp p q0 m e - e) + e by omega, zpow_add₀ two_ne_zero, zpow_toNat hsh]
  have hpoint : ∀ k : Nat, ((unitExp p q0 m e - q0).toNat = 0 ∨ 2 ^ p ≤ k) → k ≤ 2 ^ (p + 1) →
      grid K p q0 (k + (unitExp p q0 m e - q0).toNat * 2 ^ p) = ((k * 2 ^ (unitExp p q0 m e - e).toNat : Nat) : K) * 2 ^ e := by
    intro k h1 h2
    rw [grid_enc h1 h2, hscale]
    push_cast
    ring
  have hquot : ∀ sh : Int, 0 ≤ sh → unitQuot m sh * 2 ^ sh.toNat ≤ m ∧ m + 1 ≤ (unitQuot m sh + 1) * 2 ^ sh.toNat := by
    intro sh hsh
    unfold unitQuot
    rcases hsh.eq_or_lt with rfl | hpos
    · simp
    · rw [if_neg (by omega), add_mul, one_mul]
      have := Nat.div_add_mod m (2 ^ sh.toNat)
      have := Nat.mod_lt m (Nat.two_pow_pos sh.toNat)
      rw [Nat.mul_comm]
      omega
  obtain ⟨hlow, hhigh⟩ := hquot _ hsh
  have hlowK : ((unitQuot m (unitExp p q0 m e - e) * 2 ^ (unitExp p q0 m e - e).toNat : Nat) : K) ≤ (m : K) := by exact_mod_cast hlow
  have hhighK : ((m + 1 : Nat) : K) ≤ (((unitQuot m (unitExp p q0 m e - e) + 1) * 2 ^ (unitExp p q0 m e - e).toNat : Nat) : K) := by
    exact_mod_cast hhigh
  constructor
  · rw [hpoint _ hk hk'.le]
    exact (mul_le_mul_of_nonneg_right hlowK (two_zpow_pos e).le).trans_lt hlo
  · rw [add_right_comm, hpoint _ (by omega) hk']
    exact hhi.trans_le (mul_le_mul_of_nonneg_right hhighK (two_zpow_pos e).le)

/-- With `sticky`, any magnitude between m and m + 1 units rounds alike. -/
theorem roundBits_sticky {f : Fmt} {m : Nat} (hm : 2 ^ (f.fbits + 1) ≤ m) (e : Int) :
    ∃ i, (∀ x : K, (m : K) * 2 ^ e < x → x < ((m + 1 : Nat) : K) * 2 ^ e → AtHalf f i false x)
      ∧ ∀ r neg, roundBits f r neg m e true = roundAt f r neg i false := by
  obtain ⟨i, hi⟩ := atGrid_between (K := K) hm (f.emin - f.fbits - 1) e
  refine ⟨i, hi, fun r neg => ?_⟩
  have hz := two_zpow_pos (K := K) (e - 1)
  have he : (2 : K) ^ e = 2 ^ (e - 1) * 2 := by rw [← zpow_add_one₀ two_ne_zero]; congr 1; ring
  have hmid := hi (((2 * m + 1 : Nat) : K) * 2 ^ (e - 1)) (by rw [he]; push_cast; nlinarith) (by rw [he]; push_cast; nlinarith)
  exact roundBits_of_atHalf (by omega) rfl hmid r neg

end

end Sys2Proof.Machine
end

section
/-! Encodings of the float formats (R87 to R90) by sign and magnitude. -/
namespace Sys2Proof.Machine

/-- The sign as a factor. -/
def sgn (n : Bool) : ℚ := if n then -1 else 1

/-- The value of a magnitude's encoding. -/
abbrev magVal (K : Type) [Field K] [LinearOrder K] (f : Fmt) (M : Nat) : K := grid K f.fbits (f.emin - f.fbits) M

/-- The finite value with a sign and the encoding of its magnitude. -/
def FV.ofMag (f : Fmt) (n : Bool) (M : Nat) : FV :=
  if M = 0 then .zero n
  else .fin n (M % 2 ^ f.fbits + if M < 2 ^ f.fbits then 0 else 2 ^ f.fbits) (f.emin - f.fbits + ((M / 2 ^ f.fbits - 1 : Nat) : Int))

theorem ofMag_rat (f : Fmt) (n : Bool) (M : Nat) : (FV.ofMag f n M).rat = some (sgn n * magVal ℚ f M) := by
  unfold FV.ofMag
  split
  · next h => simp [FV.rat, h, magVal, grid_zero]
  · simp only [FV.rat, magVal, grid, sgn, Option.some.injEq]
    ring

theorem ofMag_num (f : Fmt) (n : Bool) (M : Nat) :
    (FV.ofMag f n M).num = some (((sgn n * magVal ℚ f M : ℚ) : WithTop ℚ) : WithBot (WithTop ℚ)) := by
  have h := ofMag_rat f n M
  revert h
  unfold FV.ofMag
  split <;> simp only [FV.rat, FV.num, Option.some.injEq] <;> intro h <;> rw [h]

/-! ### Fields of an encoding -/

/-- The magnitude of an encoding, and its sign. -/
def magOf (f : Fmt) (b : Nat) : Nat := b % 2 ^ (f.ebits + f.fbits)
def negOf (f : Fmt) (b : Nat) : Bool := b / 2 ^ (f.ebits + f.fbits) % 2 == 1

theorem magOf_lt (f : Fmt) (b : Nat) : magOf f b < 2 ^ (f.ebits + f.fbits) := Nat.mod_lt _ (Nat.two_pow_pos _)

theorem magOf_signBit_add {f : Fmt} {M : Nat} (h : M < 2 ^ (f.ebits + f.fbits)) (n : Bool) : magOf f (signBit f n + M) = M := by
  unfold magOf signBit
  cases n
  · simpa using Nat.mod_eq_of_lt h
  · simpa using Nat.mod_eq_of_lt h

theorem negOf_signBit_add {f : Fmt} {M : Nat} (h : M < 2 ^ (f.ebits + f.fbits)) (n : Bool) : negOf f (signBit f n + M) = n := by
  unfold negOf signBit
  cases n
  · simp [Nat.div_eq_of_lt h]
  · simp [Nat.add_div_left _ (Nat.two_pow_pos _), Nat.div_eq_of_lt h]

/-- An encoding of the format's width is its sign and its magnitude. -/
theorem signBit_add_magOf {f : Fmt} {b : Nat} (h : b < 2 ^ f.width) : signBit f (negOf f b) + magOf f b = b := by
  have hdm := Nat.div_add_mod b (2 ^ (f.ebits + f.fbits))
  have hlt : b / 2 ^ (f.ebits + f.fbits) < 2 := by
    rw [Nat.div_lt_iff_lt_mul (Nat.two_pow_pos _)]
    rwa [Fmt.width, add_assoc, pow_add, pow_one] at h
  unfold signBit negOf magOf
  generalize b / 2 ^ (f.ebits + f.fbits) = q at *
  have : q = 0 ∨ q = 1 := by omega
  rcases this with rfl | rfl <;> simp <;> omega

theorem frac_magOf (f : Fmt) (b : Nat) : magOf f b % 2 ^ f.fbits = b % 2 ^ f.fbits :=
  Nat.mod_mod_of_dvd _ (Nat.pow_dvd_pow 2 (Nat.le_add_left _ _))

theorem exp_magOf (f : Fmt) (b : Nat) : magOf f b / 2 ^ f.fbits = b / 2 ^ f.fbits % 2 ^ f.ebits := by
  rw [magOf, Nat.add_comm, Nat.pow_add, Nat.mod_mul_right_div_self]

theorem maxFinite_lt (f : Fmt) : maxFinite f < 2 ^ (f.ebits + f.fbits) := by cases f <;> decide

/-- The infinity's encoding follows that of the largest finite value. -/
theorem maxFinite_succ {f : Fmt} (hf : f ≠ .e4) : maxFinite f + 1 = f.emask * 2 ^ f.fbits := by
  cases f
  case e4 => exact absurd rfl hf
  all_goals rfl

theorem exp_lt_emask {f : Fmt} {M : Nat} (hf : f ≠ .e4) : M ≤ maxFinite f ↔ M / 2 ^ f.fbits < f.emask := by
  rw [Nat.div_lt_iff_lt_mul (Nat.two_pow_pos _), ← maxFinite_succ hf]
  omega

/-- A finite encoding decodes to its magnitude with its sign. -/
theorem dec_of_le {f : Fmt} {b : Nat} (h : magOf f b ≤ maxFinite f) : FV.dec f b = FV.ofMag f (negOf f b) (magOf f b) := by
  have hp : 0 < 2 ^ f.fbits := Nat.two_pow_pos _
  unfold FV.dec FV.ofMag
  rw [← frac_magOf, ← exp_magOf, ← negOf]
  generalize hM : magOf f b = M at *
  have hdm := Nat.div_add_mod M (2 ^ f.fbits)
  have hsub : (M / 2 ^ f.fbits = 0) ↔ M < 2 ^ f.fbits := by rw [Nat.div_eq_zero_iff]; omega
  have hzero : M = 0 ↔ M / 2 ^ f.fbits = 0 ∧ M % 2 ^ f.fbits = 0 := by
    constructor
    · rintro rfl; simp
    · rintro ⟨h1, h2⟩; rw [h1, h2] at hdm; omega
  dsimp only
  rw [if_neg, if_neg]
  · by_cases h0 : M / 2 ^ f.fbits = 0
    · rw [if_pos h0, if_pos (hsub.mp h0), h0]
      by_cases hr : M % 2 ^ f.fbits = 0
      · rw [if_pos hr, if_pos (hzero.mpr ⟨h0, hr⟩)]
      · rw [if_neg hr, if_neg (fun e => hr (hzero.mp e).2)]
        simp
    · rw [if_neg h0, if_neg (fun e => h0 (hzero.mp e).1), if_neg (fun e => h0 (hsub.mpr e))]
      obtain ⟨k, hk⟩ := Nat.exists_eq_succ_of_ne_zero h0
      rw [hk, Fmt.emin]
      congr 1
      push_cast
      omega
  · rintro ⟨hf, he⟩
    have := (exp_lt_emask hf).mp h
    omega
  · rintro ⟨rfl, he, hr⟩
    rw [he, hr] at hdm
    have : maxFinite .e4 = 0x7E := rfl
    simp [Fmt.fbits] at hdm
    omega

/-- An encoding above the largest finite value is an infinity or a NaN. -/
theorem dec_of_gt {f : Fmt} {b : Nat} (h : maxFinite f < magOf f b) :
    (f ≠ .e4 ∧ magOf f b = f.emask * 2 ^ f.fbits ∧ FV.dec f b = .inf (negOf f b)) ∨ ∃ fr, FV.dec f b = .nan (negOf f b) fr := by
  have hlt := magOf_lt f b
  have hdm := Nat.div_add_mod (magOf f b) (2 ^ f.fbits)
  unfold FV.dec
  rw [← frac_magOf, ← exp_magOf, ← negOf]
  generalize magOf f b = M at *
  dsimp only
  by_cases hf : f = .e4
  · subst hf
    have : M = 0x7F := by
      have : maxFinite .e4 = 0x7E := rfl
      have : (2 : Nat) ^ (Fmt.ebits .e4 + Fmt.fbits .e4) = 0x80 := rfl
      omega
    subst this
    exact .inr ⟨_, rfl⟩
  · have he : M / 2 ^ f.fbits = f.emask := by
      have hge := mt (exp_lt_emask (M := M) hf).mpr (by omega)
      have : M / 2 ^ f.fbits < 2 ^ f.ebits := by
        rwa [Nat.div_lt_iff_lt_mul (Nat.two_pow_pos _), ← Nat.pow_add]
      unfold Fmt.emask at hge ⊢
      omega
    rw [if_neg (fun e => hf e.1), if_pos ⟨hf, he⟩]
    by_cases hr : M % 2 ^ f.fbits = 0
    · rw [if_pos hr]
      refine .inl ⟨hf, ?_, rfl⟩
      rw [he, hr] at hdm
      rw [← hdm, Nat.add_zero, Nat.mul_comm]
    · rw [if_neg hr]
      exact .inr ⟨_, rfl⟩

theorem dec_signBit_add {f : Fmt} {M : Nat} (h : M ≤ maxFinite f) (n : Bool) : FV.dec f (signBit f n + M) = FV.ofMag f n M := by
  have hlt := lt_of_le_of_lt h (maxFinite_lt f)
  rw [dec_of_le (by rwa [magOf_signBit_add hlt]), magOf_signBit_add hlt, negOf_signBit_add hlt]

theorem infMag_lt {f : Fmt} : f.emask * 2 ^ f.fbits < 2 ^ (f.ebits + f.fbits) := by cases f <;> decide

theorem dec_infBits {f : Fmt} (hf : f ≠ .e4) (n : Bool) : FV.dec f (infBits f n) = .inf n := by
  have hb : infBits f n = signBit f n + f.emask * 2 ^ f.fbits := by simp [infBits, hf]
  have hmag : magOf f (infBits f n) = f.emask * 2 ^ f.fbits := by rw [hb, magOf_signBit_add infMag_lt]
  have hneg : negOf f (infBits f n) = n := by rw [hb, negOf_signBit_add infMag_lt]
  unfold FV.dec
  rw [← frac_magOf, ← exp_magOf, ← negOf, hmag, hneg]
  simp [hf]

/-- A value that has a rational is one of the finite encodings. -/
theorem exists_of_rat {f : Fmt} {b : Nat} {z : ℚ} (h : (FV.dec f b).rat = some z) :
    ∃ n M, M ≤ maxFinite f ∧ FV.dec f b = FV.ofMag f n M ∧ z = sgn n * magVal ℚ f M := by
  rcases le_or_gt (magOf f b) (maxFinite f) with hle | hgt
  · rw [dec_of_le hle, ofMag_rat] at h
    exact ⟨_, _, hle, dec_of_le hle, (Option.some.inj h).symm⟩
  · rcases dec_of_gt hgt with ⟨-, -, hd⟩ | ⟨fr, hd⟩ <;> simp [hd, FV.rat] at h

/-- A value that is no NaN is one of the finite encodings or an infinity. -/
theorem exists_of_num {f : Fmt} {b : Nat} {z : WithBot (WithTop ℚ)} (h : (FV.dec f b).num = some z) :
    (∃ n M, M ≤ maxFinite f ∧ FV.dec f b = FV.ofMag f n M ∧ z = (((sgn n * magVal ℚ f M : ℚ) : WithTop ℚ) : WithBot (WithTop ℚ)))
      ∨ f ≠ .e4 ∧ ∃ n, FV.dec f b = .inf n ∧ z = if n then ⊥ else ((⊤ : WithTop ℚ) : WithBot (WithTop ℚ)) := by
  rcases le_or_gt (magOf f b) (maxFinite f) with hle | hgt
  · rw [dec_of_le hle, ofMag_num] at h
    exact .inl ⟨_, _, hle, dec_of_le hle, (Option.some.inj h).symm⟩
  · rcases dec_of_gt hgt with ⟨hf, -, hd⟩ | ⟨fr, hd⟩
    · refine .inr ⟨hf, negOf f b, hd, ?_⟩
      rw [hd] at h
      cases hn : negOf f b <;> rw [hn] at h <;> exact (Option.some.inj h).symm
    · simp [hd, FV.num] at h

end Sys2Proof.Machine
end

section
/-! Rounding is correct (R91, R92): what a place of the grid rounds to, against every value of the format. -/
namespace Sys2Proof.Machine

/-! ### Magnitudes below, above and nearest -/

section
variable {K : Type} [Field K] [LinearOrder K] [IsStrictOrderedRing K] {f : Fmt} {i : Nat} {ex : Bool} {x : K}

theorem magVal_strictMono : StrictMono (magVal K f) := grid_strictMono

theorem magVal_le_iff {M N : Nat} : magVal K f M ≤ magVal K f N ↔ M ≤ N := magVal_strictMono.le_iff_le
theorem magVal_zero : magVal K f 0 = 0 := grid_zero
theorem magVal_nonneg (M : Nat) : 0 ≤ magVal K f M := grid_nonneg M

/-- A place lies from the magnitude of its half on, below the next. -/
theorem AtHalf.bounds (h : AtHalf f i ex x) : magVal K f (i / 2) ≤ x ∧ x < magVal K f (i / 2 + 1) := by
  have hmono := (grid_strictMono (K := K) (p := f.fbits + 1) (q := f.emin - f.fbits - 1)).monotone
  constructor
  · rw [magVal, ← grid_two_mul]
    exact (hmono (by omega)).trans h.le
  · rw [magVal, ← grid_two_mul]
    exact h.lt.trans_le (hmono (by omega))

/-- A place is a magnitude of the format just where it is an even point. -/
theorem AtHalf.eq_iff (h : AtHalf f i ex x) : x = magVal K f (i / 2) ↔ i % 2 = 0 ∧ ex = true := by
  constructor
  · intro he
    have h' : AtHalf f (2 * (i / 2)) true x := by
      show x = _
      rw [grid_two_mul]
      exact he
    obtain ⟨hi, hx⟩ := h.unique h'
    exact ⟨by omega, hx⟩
  · rintro ⟨hi, rfl⟩
    have h' : x = grid K (f.fbits + 1) (f.emin - f.fbits - 1) i := h
    rw [h', magVal, ← grid_two_mul (K := K) (p := f.fbits) (i / 2), show 2 * (i / 2) = i by omega]

theorem AtHalf.le_half (h : AtHalf f i ex x) {M : Nat} (hM : magVal K f M ≤ x) : M ≤ i / 2 :=
  Nat.lt_succ_iff.mp (magVal_strictMono.lt_iff_lt.mp (hM.trans_lt h.bounds.2))

/-- The least magnitude not below a place. -/
theorem AtHalf.above (h : AtHalf f i ex x) : x ≤ magVal K f (i / 2 + (!(i % 2 == 0 && ex)).toNat)
    ∧ ∀ M, x ≤ magVal K f M → i / 2 + (!(i % 2 == 0 && ex)).toNat ≤ M := by
  have hiff := h.eq_iff
  by_cases hc : i % 2 = 0 ∧ ex = true
  · rw [show (i % 2 == 0 && ex) = true by simpa using hc]
    refine ⟨(hiff.mpr hc).le, fun M hM => ?_⟩
    rw [hiff.mpr hc] at hM
    exact magVal_le_iff.mp hM
  · rw [show (i % 2 == 0 && ex) = false by simpa using hc]
    refine ⟨h.bounds.2.le, fun M hM => Nat.succ_le_of_lt ((magVal_strictMono (K := K) (f := f)).lt_iff_lt.mp ?_)⟩
    exact (lt_of_le_of_ne h.bounds.1 (fun e => hc (hiff.mp e.symm))).trans_le hM

/-- Which of its two neighbours a place rounds to: the nearer, the even one in the middle. -/
theorem AtHalf.nearest (h : AtHalf f i ex x) (neg : Bool) :
    (roundMag .rne neg i ex = i / 2 ∧ 2 * x ≤ magVal K f (i / 2) + magVal K f (i / 2 + 1)
        ∧ (2 * x = magVal K f (i / 2) + magVal K f (i / 2 + 1) → i / 2 % 2 = 0))
      ∨ (roundMag .rne neg i ex = i / 2 + 1 ∧ magVal K f (i / 2) + magVal K f (i / 2 + 1) ≤ 2 * x
        ∧ (2 * x = magVal K f (i / 2) + magVal K f (i / 2 + 1) → i / 2 % 2 = 1)) := by
  have hmid := grid_two_mul_add_one (K := K) (p := f.fbits) (q := f.emin - f.fbits) (i / 2)
  have hhalf : 2 * x = magVal K f (i / 2) + magVal K f (i / 2 + 1) ↔ i % 2 = 1 ∧ ex = true := by
    rw [← hmid, mul_right_inj' two_ne_zero]
    constructor
    · intro he
      obtain ⟨hi, hx⟩ := h.unique (show AtHalf f (2 * (i / 2) + 1) true x from he)
      exact ⟨by omega, hx⟩
    · rintro ⟨hi, rfl⟩
      rw [show x = _ from h]
      congr 1
      omega
  have hodd : i % 2 = 1 → magVal K f (i / 2) + magVal K f (i / 2 + 1) ≤ 2 * x := by
    intro hi
    rw [← hmid, show 2 * (i / 2) + 1 = i by omega]
    exact mul_le_mul_of_nonneg_left h.le zero_le_two
  have heven : i % 2 = 0 → 2 * x ≤ magVal K f (i / 2) + magVal K f (i / 2 + 1) := by
    intro hi
    rw [← hmid, show 2 * (i / 2) + 1 = i + 1 by omega]
    exact mul_le_mul_of_nonneg_left h.lt.le zero_le_two
  rw [hhalf, roundMag, roundsUp]
  rcases Nat.mod_two_eq_zero_or_one i with hi | hi
  · exact .inl ⟨by simp [hi], heven hi, by omega⟩
  · cases ex with
    | false => exact .inr ⟨by simp [hi], hodd hi, by simp⟩
    | true =>
      rcases Nat.mod_two_eq_zero_or_one (i / 2) with hn | hn
      · exact .inl ⟨by simp [hn], (hhalf.mpr ⟨hi, rfl⟩).le, fun _ => hn⟩
      · exact .inr ⟨by simp [hi, hn], hodd hi, fun _ => hn⟩

/-- No magnitude is nearer to a place than the one it rounds to. -/
theorem AtHalf.dist_le (h : AtHalf f i ex x) (neg : Bool) (M : Nat) :
    |magVal K f (roundMag .rne neg i ex) - x| ≤ |magVal K f M - x|
      ∧ (|magVal K f (roundMag .rne neg i ex) - x| = |magVal K f M - x| →
        M = roundMag .rne neg i ex ∨ roundMag .rne neg i ex % 2 = 0) := by
  obtain ⟨hlo, hhi⟩ := h.bounds
  have hM : M ≤ i / 2 ∧ magVal K f M ≤ magVal K f (i / 2) ∨ i / 2 + 1 ≤ M ∧ magVal K f (i / 2 + 1) ≤ magVal K f M := by
    rcases le_or_gt M (i / 2) with hle | hgt
    · exact .inl ⟨hle, magVal_le_iff.mpr hle⟩
    · exact .inr ⟨hgt, magVal_le_iff.mpr hgt⟩
  have hinj : ∀ {N : Nat}, magVal K f M = magVal K f N → M = N := fun e => magVal_strictMono.injective e
  rcases h.nearest neg with ⟨hr, hx, htie⟩ | ⟨hr, hx, htie⟩ <;> rw [hr]
  · rw [abs_of_nonpos (by linarith)]
    rcases hM with ⟨-, hM⟩ | ⟨-, hM⟩
    · rw [abs_of_nonpos (by linarith)]
      exact ⟨by linarith, fun e => .inl (hinj (by linarith))⟩
    · rw [abs_of_nonneg (by linarith)]
      exact ⟨by linarith, fun e => .inr (htie (by linarith))⟩
  · rw [abs_of_nonneg (by linarith)]
    rcases hM with ⟨-, hM⟩ | ⟨-, hM⟩
    · rw [abs_of_nonpos (by linarith)]
      refine ⟨by linarith, fun e => .inr ?_⟩
      have := htie (by linarith)
      omega
    · rw [abs_of_nonneg (by linarith)]
      exact ⟨by linarith, fun e => .inl (hinj (by linarith))⟩

end

/-! ### Rounded results -/

section
variable {f : Fmt} {r : Rnd} {neg : Bool} {i : Nat} {ex : Bool} {x : ℚ}

theorem dec_roundAt_le (h : roundMag r neg i ex ≤ maxFinite f) : FV.dec f (roundAt f r neg i ex) = FV.ofMag f neg (roundMag r neg i ex) := by
  rw [roundAt, encMag, if_neg (by omega), dec_signBit_add h]

/-- An overflow toward zero stays at the largest finite value. -/
theorem overflowBits_toward (h : r = .rz ∨ (r = .ru ∧ neg = true) ∨ r = .rd ∧ neg = false) :
    overflowBits f r neg = signBit f neg + maxFinite f := by
  unfold overflowBits
  split
  · rfl
  · rcases h with rfl | ⟨rfl, rfl⟩ | ⟨rfl, rfl⟩ <;> rfl

theorem overflowBits_away (hf : f ≠ .e4) (h : r = .rne ∨ (r = .ru ∧ neg = false) ∨ r = .rd ∧ neg = true) :
    overflowBits f r neg = infBits f neg := by
  unfold overflowBits infBits
  rw [if_neg hf, if_neg hf]
  rcases h with rfl | ⟨rfl, rfl⟩ | ⟨rfl, rfl⟩ <;> rfl

/-- Rounding toward zero gives the largest magnitude not above the exact one. -/
theorem dec_roundAt_toward (h : AtHalf f i ex x) (hr : r = .rz ∨ (r = .ru ∧ neg = true) ∨ r = .rd ∧ neg = false) :
    ∃ A, A ≤ maxFinite f ∧ FV.dec f (roundAt f r neg i ex) = FV.ofMag f neg A ∧ magVal ℚ f A ≤ x
      ∧ ∀ M, M ≤ maxFinite f → magVal ℚ f M ≤ x → M ≤ A := by
  have hmag : roundMag r neg i ex = i / 2 := by
    rcases hr with rfl | ⟨rfl, rfl⟩ | ⟨rfl, rfl⟩ <;> simp [roundMag, roundsUp]
  rcases le_or_gt (i / 2) (maxFinite f) with hle | hgt
  · exact ⟨i / 2, hle, by rw [dec_roundAt_le (by omega), hmag], h.bounds.1, fun M _ hM => h.le_half hM⟩
  · refine ⟨maxFinite f, le_rfl, ?_, (magVal_le_iff.mpr hgt.le).trans h.bounds.1, fun M hM _ => hM⟩
    rw [roundAt, encMag, if_pos (by omega), overflowBits_toward hr, dec_signBit_add le_rfl]

/-- Rounding away from zero gives the least magnitude not below the exact one, or the infinity above every finite value. -/
theorem dec_roundAt_away (h : AtHalf f i ex x) (hf : f ≠ .e4 ∨ x ≤ magVal ℚ f (maxFinite f))
    (hr : (r = .ru ∧ neg = false) ∨ r = .rd ∧ neg = true) :
    (∃ A, A ≤ maxFinite f ∧ FV.dec f (roundAt f r neg i ex) = FV.ofMag f neg A ∧ x ≤ magVal ℚ f A ∧ ∀ M, x ≤ magVal ℚ f M → A ≤ M)
      ∨ f ≠ .e4 ∧ FV.dec f (roundAt f r neg i ex) = .inf neg ∧ magVal ℚ f (maxFinite f) < x := by
  have hmag : roundMag r neg i ex = i / 2 + (!(i % 2 == 0 && ex)).toNat := by
    rcases hr with ⟨rfl, rfl⟩ | ⟨rfl, rfl⟩ <;> simp [roundMag, roundsUp]
  obtain ⟨hx, hleast⟩ := h.above
  rw [← hmag] at hx hleast
  rcases le_or_gt (roundMag r neg i ex) (maxFinite f) with hle | hgt
  · exact .inl ⟨_, hle, dec_roundAt_le hle, hx, hleast⟩
  · have hlt : magVal ℚ f (maxFinite f) < x := not_le.mp (fun hxle => absurd (hleast _ hxle) (by omega))
    have hf' : f ≠ .e4 := hf.resolve_right (not_le.mpr hlt)
    refine .inr ⟨hf', ?_, hlt⟩
    rw [roundAt, encMag, if_pos hgt, overflowBits_away hf' (.inr hr), dec_infBits hf']

theorem sgn_mul_le (n : Bool) {y : ℚ} (hy : 0 ≤ y) : sgn n * y ≤ y := by cases n <;> simp [sgn]; linarith
theorem neg_le_sgn_mul (n : Bool) {y : ℚ} (hy : 0 ≤ y) : -y ≤ sgn n * y := by cases n <;> simp [sgn]; linarith

/-- Rounding up gives the least value not below the exact one, or the positive infinity above every finite value. -/
theorem roundAt_up (h : AtHalf f i ex x) (hx : 0 < x) (hf : f ≠ .e4 ∨ x ≤ magVal ℚ f (maxFinite f)) (neg : Bool) :
    (∃ y, (FV.dec f (roundAt f .ru neg i ex)).rat = some y ∧ sgn neg * x ≤ y
        ∧ ∀ b z, (FV.dec f b).rat = some z → sgn neg * x ≤ z → y ≤ z)
      ∨ f ≠ .e4 ∧ FV.dec f (roundAt f .ru neg i ex) = .inf false ∧ ∀ b z, (FV.dec f b).rat = some z → z < sgn neg * x := by
  cases neg with
  | true =>
    obtain ⟨A, -, hd, hA, hmax⟩ := dec_roundAt_toward (neg := true) h (.inr (.inl ⟨rfl, rfl⟩))
    refine .inl ⟨_, by rw [hd, ofMag_rat], by simp only [sgn, if_true]; linarith, fun b z hz hle => ?_⟩
    obtain ⟨n, M, hM, -, rfl⟩ := exists_of_rat hz
    cases n with
    | true =>
      have := (magVal_le_iff (K := ℚ) (f := f)).mpr (hmax M hM (by simp only [sgn, if_true] at hle; linarith))
      simp only [sgn, if_true]
      linarith
    | false =>
      have h1 := magVal_nonneg (K := ℚ) (f := f) M
      have h2 := magVal_nonneg (K := ℚ) (f := f) A
      simp only [sgn, if_true, Bool.false_eq_true, if_false]
      linarith
  | false =>
    simp only [show ∀ y, sgn false * y = y from fun y => by simp [sgn]]
    rcases dec_roundAt_away (neg := false) h hf (.inl ⟨rfl, rfl⟩) with ⟨A, -, hd, hA, hmin⟩ | ⟨hf', hd, hgt⟩
    · refine .inl ⟨_, by rw [hd, ofMag_rat], by simp [sgn, hA], fun b z hz hle => ?_⟩
      obtain ⟨n, M, hM, -, rfl⟩ := exists_of_rat hz
      have := (magVal_le_iff (K := ℚ) (f := f)).mpr (hmin M (hle.trans (sgn_mul_le n (magVal_nonneg M))))
      cases n with
      | true =>
        have h1 := magVal_nonneg (K := ℚ) (f := f) M
        simp only [sgn, if_true] at hle
        linarith
      | false => simpa [sgn] using this
    · refine .inr ⟨hf', hd, fun b z hz => ?_⟩
      obtain ⟨n, M, hM, -, rfl⟩ := exists_of_rat hz
      exact ((sgn_mul_le n (magVal_nonneg M)).trans (magVal_le_iff.mpr hM)).trans_lt hgt

/-- Rounding down gives the greatest value not above the exact one, or the negative infinity below every finite value. -/
theorem roundAt_down (h : AtHalf f i ex x) (hx : 0 < x) (hf : f ≠ .e4 ∨ x ≤ magVal ℚ f (maxFinite f)) (neg : Bool) :
    (∃ y, (FV.dec f (roundAt f .rd neg i ex)).rat = some y ∧ y ≤ sgn neg * x
        ∧ ∀ b z, (FV.dec f b).rat = some z → z ≤ sgn neg * x → z ≤ y)
      ∨ f ≠ .e4 ∧ FV.dec f (roundAt f .rd neg i ex) = .inf true ∧ ∀ b z, (FV.dec f b).rat = some z → sgn neg * x < z := by
  cases neg with
  | false =>
    simp only [show ∀ y, sgn false * y = y from fun y => by simp [sgn]]
    obtain ⟨A, -, hd, hA, hmax⟩ := dec_roundAt_toward (neg := false) h (.inr (.inr ⟨rfl, rfl⟩))
    refine .inl ⟨_, by rw [hd, ofMag_rat], by simp [sgn, hA], fun b z hz hle => ?_⟩
    obtain ⟨n, M, hM, -, rfl⟩ := exists_of_rat hz
    cases n with
    | true =>
      have h1 := magVal_nonneg (K := ℚ) (f := f) M
      have h2 := magVal_nonneg (K := ℚ) (f := f) A
      simp only [sgn, if_true, Bool.false_eq_true, if_false]
      linarith
    | false =>
      have := (magVal_le_iff (K := ℚ) (f := f)).mpr (hmax M hM (by simpa [sgn] using hle))
      simpa [sgn] using this
  | true =>
    have hneg : ∀ y, sgn true * y = -y := fun y => by simp [sgn]
    simp only [hneg]
    rcases dec_roundAt_away (neg := true) h hf (.inr ⟨rfl, rfl⟩) with ⟨A, -, hd, hA, hmin⟩ | ⟨hf', hd, hgt⟩
    · refine .inl ⟨_, by rw [hd, ofMag_rat], by rw [hneg]; linarith, fun b z hz hle => ?_⟩
      obtain ⟨n, M, hM, -, rfl⟩ := exists_of_rat hz
      have hM0 := magVal_nonneg (K := ℚ) (f := f) M
      have hge := neg_le_sgn_mul n hM0
      have := (magVal_le_iff (K := ℚ) (f := f)).mpr (hmin M (by linarith))
      cases n with
      | false =>
        simp only [sgn, Bool.false_eq_true, if_false] at hle
        linarith
      | true => rw [hneg, hneg]; linarith
    · refine .inr ⟨hf', hd, fun b z hz => ?_⟩
      obtain ⟨n, M, hM, -, rfl⟩ := exists_of_rat hz
      have h1 := neg_le_sgn_mul n (magVal_nonneg (K := ℚ) (f := f) M)
      have h2 := (magVal_le_iff (K := ℚ) (f := f)).mpr hM
      linarith

theorem signBit_mod_two (f : Fmt) (n : Bool) : signBit f n % 2 = 0 := by cases f <;> cases n <;> rfl

/-- Rounding to nearest gives a value at the least distance, with an even encoding where two are as near. -/
theorem roundAt_near (h : AtHalf f i ex x) (hx : 0 < x) (neg : Bool) (hle : roundMag .rne neg i ex ≤ maxFinite f) {b : Nat} {z : ℚ}
    (hz : (FV.dec f b).rat = some z) :
    |sgn neg * magVal ℚ f (roundMag .rne neg i ex) - sgn neg * x| ≤ |z - sgn neg * x|
      ∧ (|sgn neg * magVal ℚ f (roundMag .rne neg i ex) - sgn neg * x| = |z - sgn neg * x| →
        z = sgn neg * magVal ℚ f (roundMag .rne neg i ex) ∨ roundAt f .rne neg i ex % 2 = 0) := by
  have hb : roundAt f .rne neg i ex % 2 = roundMag .rne neg i ex % 2 := by
    rw [roundAt, encMag, if_neg (by omega), Nat.add_mod, signBit_mod_two]
    omega
  have hs : ∀ a : ℚ, |sgn neg * a - sgn neg * x| = |a - x| := by
    intro a
    rw [← mul_sub, abs_mul, show |sgn neg| = 1 by cases neg <;> simp [sgn], one_mul]
  obtain ⟨n, M, hM, -, rfl⟩ := exists_of_rat hz
  rw [hb, hs]
  obtain ⟨hd, htie⟩ := h.dist_le neg M
  by_cases hn : n = neg
  · subst hn
    rw [hs]
    exact ⟨hd, fun e => (htie e).imp_left (fun e => by rw [e])⟩
  · have hM0 := magVal_nonneg (K := ℚ) (f := f) M
    obtain ⟨hd0, htie0⟩ := h.dist_le neg 0
    rw [magVal_zero, zero_sub, abs_neg, abs_of_pos hx] at hd0 htie0
    have hfar : |sgn n * magVal ℚ f M - sgn neg * x| = magVal ℚ f M + x := by
      have hpos : 0 ≤ magVal ℚ f M + x := by linarith
      cases n <;> cases neg
      · exact absurd rfl hn
      · rw [← abs_of_nonneg hpos]; congr 1; simp [sgn]
      · rw [← abs_of_nonneg hpos, ← abs_neg]; congr 1; simp [sgn]; ring
      · exact absurd rfl hn
    rw [hfar]
    refine ⟨hd0.trans (by linarith), fun e => ?_⟩
    have hzero : magVal ℚ f M = 0 := by linarith
    rcases htie0 (by linarith) with h0 | h0
    · left
      rw [← h0, magVal_zero, hzero, mul_zero, mul_zero]
    · exact .inr h0

/-- Rounding to nearest overflows from the middle of the last step on. -/
theorem maxFinite_lt_roundMag_iff (hf : f ≠ .e4) (h : AtHalf f i ex x) (neg : Bool) :
    maxFinite f < roundMag .rne neg i ex ↔ (2 - 1 / 2 ^ (f.fbits + 1) : ℚ) * 2 ^ (f.emask - 1 - f.bias) ≤ x := by
  have hmask : ∃ w, f.emask = w + 2 ∧ f.bias ≤ w := by
    cases f
    case e4 => exact absurd rfl hf
    all_goals exact ⟨_, rfl, by decide⟩
  obtain ⟨w, hw, hbias⟩ := hmask
  have hsucc := maxFinite_succ hf
  have hp : 0 < 2 ^ f.fbits := Nat.two_pow_pos _
  have hmid : grid ℚ (f.fbits + 1) (f.emin - f.fbits - 1) (2 * maxFinite f + 1)
      = (2 - 1 / 2 ^ (f.fbits + 1) : ℚ) * 2 ^ (f.emask - 1 - f.bias) := by
    have hplace : 2 * maxFinite f + 1 = (2 ^ (f.fbits + 2) - 1) + w * 2 ^ (f.fbits + 1) := by
      rw [hw, add_mul] at hsucc
      rw [pow_add 2 f.fbits 2, pow_succ 2 f.fbits, show w * (2 ^ f.fbits * 2) = w * 2 ^ f.fbits * 2 by ring]
      omega
    rw [hplace, grid_enc (.inr (by rw [pow_succ, pow_add 2 f.fbits 2]; omega)) (by rw [pow_add 2 (f.fbits + 1) 1]; omega),
      Nat.cast_sub Nat.one_le_two_pow]
    have hexp : f.emin - f.fbits - 1 + (w : Int) = ((f.emask - 1 - f.bias : Nat) : Int) - ((f.fbits + 1 : Nat) : Int) := by
      rw [Fmt.emin, hw]
      omega
    rw [hexp, zpow_sub₀ two_ne_zero, zpow_natCast, zpow_natCast]
    have h2 : (2 : ℚ) ^ (f.fbits + 1) ≠ 0 := pow_ne_zero _ two_ne_zero
    push_cast
    field_simp
    ring
  have hodd : maxFinite f % 2 = 1 := by
    cases f
    case e4 => exact absurd rfl hf
    all_goals rfl
  have hplace : maxFinite f < roundMag .rne neg i ex ↔ 2 * maxFinite f + 1 ≤ i := by
    simp only [roundMag, roundsUp]
    rcases lt_trichotomy i (2 * maxFinite f + 1) with hlt | rfl | hgt
    · have hup : (i % 2 == 1 && (!ex || i / 2 % 2 == 1)).toNat ≤ i % 2 := by
        rcases Nat.mod_two_eq_zero_or_one i with h2 | h2 <;> simp [h2, Bool.toNat_le]
      omega
    · have h1 : (2 * maxFinite f + 1) % 2 = 1 := by omega
      have h2 : (2 * maxFinite f + 1) / 2 = maxFinite f := by omega
      simp [h1, h2, hodd]
    · omega
  rw [hplace, ← hmid]
  constructor
  · exact fun hle => ((grid_strictMono (K := ℚ)).monotone hle).trans h.le
  · exact fun hle => Nat.lt_succ_iff.mp ((grid_strictMono (K := ℚ)).lt_iff_lt.mp (hle.trans_lt h.lt))

end

/-! ### The obligation -/

theorem ratNum_le_iff {a b : ℚ} :
    ((a : WithTop ℚ) : WithBot (WithTop ℚ)) ≤ ((b : WithTop ℚ) : WithBot (WithTop ℚ)) ↔ a ≤ b := by
  rw [WithBot.coe_le_coe, WithTop.coe_le_coe]

/-- The values not below a rational, infinities among them: the least, where it is finite. -/
theorem num_up_of_rat {f : Fmt} {b : Nat} {v : ℚ}
    (h : (∃ y, (FV.dec f b).rat = some y ∧ v ≤ y ∧ ∀ c z, (FV.dec f c).rat = some z → v ≤ z → y ≤ z)
      ∨ f ≠ .e4 ∧ FV.dec f b = .inf false ∧ ∀ c z, (FV.dec f c).rat = some z → z < v) :
    ∃ y, (FV.dec f b).num = some y ∧ ((v : WithTop ℚ) : WithBot (WithTop ℚ)) ≤ y
      ∧ ∀ c z, (FV.dec f c).num = some z → ((v : WithTop ℚ) : WithBot (WithTop ℚ)) ≤ z → y ≤ z := by
  have hfin : ∀ {c : Nat} {z : WithBot (WithTop ℚ)}, (FV.dec f c).num = some z → ((v : WithTop ℚ) : WithBot (WithTop ℚ)) ≤ z →
      z = ((⊤ : WithTop ℚ) : WithBot (WithTop ℚ)) ∨ ∃ q : ℚ, z = ((q : WithTop ℚ) : WithBot (WithTop ℚ)) ∧ (FV.dec f c).rat = some q ∧ v ≤ q := by
    intro c z hz hle
    rcases exists_of_num hz with ⟨n, M, -, hd, rfl⟩ | ⟨-, n, -, rfl⟩
    · exact .inr ⟨_, rfl, by rw [hd, ofMag_rat], ratNum_le_iff.mp hle⟩
    · cases n with
      | true => simp at hle
      | false => exact .inl rfl
  rcases h with ⟨y, hy, hvy, hmin⟩ | ⟨-, hd, hgt⟩
  · obtain ⟨n, M, -, hd, rfl⟩ := exists_of_rat hy
    refine ⟨_, by rw [hd, ofMag_num], ratNum_le_iff.mpr hvy, fun c z hz hle => ?_⟩
    rcases hfin hz hle with rfl | ⟨q, rfl, hq, hvq⟩
    · simp
    · exact ratNum_le_iff.mpr (hmin c q hq hvq)
  · refine ⟨_, by rw [hd]; rfl, by simp, fun c z hz hle => ?_⟩
    rcases hfin hz hle with rfl | ⟨q, rfl, hq, hvq⟩
    · exact le_rfl
    · exact absurd (hgt c q hq) (not_lt.mpr hvq)

/-- The values not above a rational, infinities among them: the greatest, where it is finite. -/
theorem num_down_of_rat {f : Fmt} {b : Nat} {v : ℚ}
    (h : (∃ y, (FV.dec f b).rat = some y ∧ y ≤ v ∧ ∀ c z, (FV.dec f c).rat = some z → z ≤ v → z ≤ y)
      ∨ f ≠ .e4 ∧ FV.dec f b = .inf true ∧ ∀ c z, (FV.dec f c).rat = some z → v < z) :
    ∃ y, (FV.dec f b).num = some y ∧ y ≤ ((v : WithTop ℚ) : WithBot (WithTop ℚ))
      ∧ ∀ c z, (FV.dec f c).num = some z → z ≤ ((v : WithTop ℚ) : WithBot (WithTop ℚ)) → z ≤ y := by
  have hfin : ∀ {c : Nat} {z : WithBot (WithTop ℚ)}, (FV.dec f c).num = some z → z ≤ ((v : WithTop ℚ) : WithBot (WithTop ℚ)) →
      z = ⊥ ∨ ∃ q : ℚ, z = ((q : WithTop ℚ) : WithBot (WithTop ℚ)) ∧ (FV.dec f c).rat = some q ∧ q ≤ v := by
    intro c z hz hle
    rcases exists_of_num hz with ⟨n, M, -, hd, rfl⟩ | ⟨-, n, -, rfl⟩
    · exact .inr ⟨_, rfl, by rw [hd, ofMag_rat], ratNum_le_iff.mp hle⟩
    · cases n with
      | true => exact .inl rfl
      | false => simp at hle
  rcases h with ⟨y, hy, hvy, hmax⟩ | ⟨-, hd, hgt⟩
  · obtain ⟨n, M, -, hd, rfl⟩ := exists_of_rat hy
    refine ⟨_, by rw [hd, ofMag_num], ratNum_le_iff.mpr hvy, fun c z hz hle => ?_⟩
    rcases hfin hz hle with rfl | ⟨q, rfl, hq, hvq⟩
    · simp
    · exact ratNum_le_iff.mpr (hmax c q hq hvq)
  · refine ⟨_, by rw [hd]; rfl, by simp, fun c z hz hle => ?_⟩
    rcases hfin hz hle with rfl | ⟨q, rfl, hq, hvq⟩
    · exact le_rfl
    · exact absurd (hgt c q hq) (not_lt.mpr hvq)

theorem magVal_maxFinite_e4 : magVal ℚ .e4 (maxFinite .e4) = 448 := by
  norm_num [magVal, grid, maxFinite, Fmt.fbits, Fmt.emin, Fmt.bias]

/-- Settles O25: a magnitude has a place on the grid of half units of its format, which each mode rounds to a neighbour. -/
theorem roundingCorrect : Obligations.RoundingCorrect := by
  intro f neg m e hm
  obtain ⟨i, ex, h⟩ : ∃ i ex, AtHalf f i ex ((m : ℚ) * 2 ^ e) := ⟨_, _, atGrid_half f.fbits _ hm e⟩
  have hround : ∀ r, roundBits f r neg m e false = roundAt f r neg i ex := fun r => roundBits_of_atHalf hm rfl h r neg
  have hx : (0 : ℚ) < (m : ℚ) * 2 ^ e := mul_pos (by exact_mod_cast Nat.pos_of_ne_zero hm) (two_zpow_pos e)
  have hv : (if neg then -1 else 1) * (m : ℚ) * 2 ^ e = sgn neg * ((m : ℚ) * 2 ^ e) := by rw [sgn, mul_assoc]
  have habs : |sgn neg * ((m : ℚ) * 2 ^ e)| = (m : ℚ) * 2 ^ e := by
    rw [abs_mul, show |sgn neg| = 1 by cases neg <;> simp [sgn], one_mul, abs_of_pos hx]
  simp only [hround, hv, habs]
  generalize (m : ℚ) * 2 ^ e = x at *
  refine ⟨?_, fun hf => ⟨?_, ?_, ?_, ?_, ?_⟩, ?_⟩
  · obtain ⟨A, hA, hd, hle, hmax⟩ := dec_roundAt_toward (neg := neg) h (.inl rfl)
    have hA0 := magVal_nonneg (K := ℚ) (f := f) A
    have hsgn : ∀ n, |sgn n| = 1 := fun n => by cases n <;> simp [sgn]
    refine ⟨_, by rw [hd, ofMag_rat], by rwa [abs_mul, hsgn, one_mul, abs_of_nonneg hA0], ?_, fun b z _ hz hzx => ?_⟩
    · rw [mul_mul_mul_comm, show sgn neg * sgn neg = 1 by cases neg <;> simp [sgn], one_mul]
      exact mul_nonneg hA0 hx.le
    · obtain ⟨n, M, hM, -, rfl⟩ := exists_of_rat hz
      rw [abs_mul, hsgn, one_mul, abs_of_nonneg (magVal_nonneg M)] at hzx ⊢
      rw [abs_mul, hsgn, one_mul, abs_of_nonneg hA0]
      exact magVal_le_iff.mpr (hmax M hM hzx)
  · obtain ⟨y, hy, hle, hmin⟩ := num_up_of_rat (roundAt_up h hx (.inl hf) neg)
    exact ⟨y, hy, hle, fun b z _ => hmin b z⟩
  · obtain ⟨y, hy, hle, hmax⟩ := num_down_of_rat (roundAt_down h hx (.inl hf) neg)
    exact ⟨y, hy, hle, fun b z _ => hmax b z⟩
  · intro y hy b z _ hz
    rcases le_or_gt (roundMag .rne neg i ex) (maxFinite f) with hle | hgt
    · rw [dec_roundAt_le hle, ofMag_rat, Option.some.injEq] at hy
      subst hy
      exact roundAt_near h hx neg hle hz
    · rw [roundAt, encMag, if_pos hgt, overflowBits_away hf (.inl rfl), dec_infBits hf] at hy
      cases hy
  · rw [← maxFinite_lt_roundMag_iff hf h neg]
    rcases le_or_gt (roundMag .rne neg i ex) (maxFinite f) with hle | hgt
    · simp [dec_roundAt_le hle, ofMag_rat, not_lt.mpr hle]
    · rw [roundAt, encMag, if_pos hgt, overflowBits_away hf (.inl rfl), dec_infBits hf]
      exact iff_of_true rfl hgt
  · intro hnone
    rcases le_or_gt (roundMag .rne neg i ex) (maxFinite f) with hle | hgt
    · simp [dec_roundAt_le hle, ofMag_rat] at hnone
    · rw [roundAt, encMag, if_pos hgt, overflowBits_away hf (.inl rfl), dec_infBits hf]
  · rintro rfl
    refine ⟨fun hle => ?_, fun hgt r => ?_⟩
    · rw [← magVal_maxFinite_e4] at hle
      have hup := (roundAt_up h hx (.inr hle) neg).resolve_right (fun hc => hc.1 rfl)
      have hdown := (roundAt_down h hx (.inr hle) neg).resolve_right (fun hc => hc.1 rfl)
      obtain ⟨y, hy, hxy, hmin⟩ := hup
      obtain ⟨y', hy', hxy', hmax⟩ := hdown
      have hM : roundMag .rne neg i ex ≤ maxFinite .e4 := by
        have habove := h.above.2 _ hle
        have hup : (roundsUp .rne neg i ex).toNat ≤ (!(i % 2 == 0 && ex)).toNat := by
          rcases Nat.mod_two_eq_zero_or_one i with hi | hi <;> simp [roundsUp, hi, Bool.toNat_le]
        unfold roundMag
        omega
      refine ⟨⟨y, hy, hxy, fun b z _ => hmin b z⟩, ⟨y', hy', hxy', fun b z _ => hmax b z⟩, _, ?_, fun b z _ hz => roundAt_near h hx neg hM hz⟩
      rw [dec_roundAt_le hM, ofMag_rat]
    · rw [← magVal_maxFinite_e4] at hgt
      have hN : maxFinite .e4 ≤ i / 2 := h.le_half hgt.le
      have henc : ∀ M, maxFinite .e4 ≤ M → encMag .e4 r neg M = signBit .e4 neg + 0x7E := by
        intro M hM
        unfold encMag
        split
        · rfl
        · rw [show M = maxFinite .e4 by omega]; rfl
      exact henc _ (hN.trans (Nat.le_add_right _ _))

end Sys2Proof.Machine
end

section
/-! Exact results before rounding (R281, R282): what a sum, a product and a fused product of decoded values are, and how they leave. -/
namespace Sys2Proof.Machine

/-! ### Values -/

@[simp] theorem sgn_true : sgn true = -1 := rfl
@[simp] theorem sgn_false : sgn false = 1 := rfl
theorem sgn_ne_zero (n : Bool) : sgn n ≠ 0 := by cases n <;> simp
theorem abs_sgn (n : Bool) : |sgn n| = 1 := by cases n <;> simp
theorem sgn_bne (n k : Bool) : sgn (n != k) = sgn n * sgn k := by cases n <;> cases k <;> simp

theorem rat_zero (n : Bool) : (FV.zero n).rat = some 0 := rfl
theorem rat_fin (n : Bool) (m : Nat) (e : Int) : (FV.fin n m e).rat = some (sgn n * (m : ℚ) * 2 ^ e) := rfl
theorem num_eq_none {x : FV} : x.num = none ↔ ∃ n fr, x = .nan n fr := by
  rcases x with ⟨n, fr⟩ | n | n | ⟨n, m, e⟩
  · simp [FV.num]
  · cases n <;> simp [FV.num]
  · simp [FV.num]
  · simp [FV.num]

theorem num_ne_none_of_rat {x : FV} {q : ℚ} (h : x.rat = some q) : x.num ≠ none := by
  rw [Ne, num_eq_none]
  rintro ⟨n, fr, rfl⟩
  cases h

/-! ### NaN sources (R94) -/

theorem firstNan_nan {f : Fmt} {pre rest : List FV} {n : Bool} {fr : Nat} (h : ∀ y ∈ pre, y.num ≠ none) :
    firstNan f (pre ++ .nan n fr :: rest) = some (nanBits f n fr) := by
  induction pre with
  | nil => rfl
  | cons y ys ih =>
    have hy := h y (List.mem_cons_self ..)
    rw [firstNan, List.cons_append, List.findSome?_cons]
    rcases y with ⟨n', fr'⟩ | _ | _ | _
    · exact absurd rfl hy
    all_goals exact ih (fun z hz => h z (List.mem_cons_of_mem _ hz))

theorem firstNan_none {f : Fmt} {xs : List FV} (h : ∀ y ∈ xs, y.num ≠ none) : firstNan f xs = none := by
  rw [firstNan, List.findSome?_eq_none_iff]
  intro y hy
  have := h y hy
  rcases y with ⟨n', fr'⟩ | _ | _ | _
  · exact absurd rfl this
  all_goals rfl

/-! ### Exact results -/

/-- The bits of an exact result that is no real to round: a NaN, an infinity or a zero. -/
def Ex.special (f : Fmt) : Ex → Option Nat
  | .nan b => some b
  | .inf n => some (infBits f n)
  | .zero n => some (signBit f n)
  | .fin _ _ _ _ | .iv _ _ _ _ => none

/-- The exact result is a rational that is not 0. -/
def Ex.IsReal (x : Ex) (q : ℚ) : Prop := ∃ n m e, x = .fin n m e false ∧ m ≠ 0 ∧ q = sgn n * (m : ℚ) * 2 ^ e

theorem finishEx_special {f : Fmt} {x : Ex} {b : Nat} (c : Ctl) (h : x.special f = some b) : finishEx f c x = limited f c b := by
  cases x <;> cases h <;> rfl

theorem finishEx_fin (f : Fmt) (c : Ctl) (n : Bool) (m : Nat) (e : Int) (st : Bool) :
    finishEx f c (.fin n m e st) = limited f c (flush f c.ftz (roundBits f c.rnd n m (e + c.scale) st)) := rfl

/-- A rational result is its magnitude scaled and rounded, with its sign. -/
theorem finishEx_isReal {f : Fmt} {x : Ex} {q : ℚ} (c : Ctl) (h : x.IsReal q) : ∃ (m : Nat) (e : Int), m ≠ 0 ∧ |q| = (m : ℚ) * 2 ^ e
    ∧ finishEx f c x = limited f c (flush f c.ftz (roundBits f c.rnd (decide (q < 0)) m (e + c.scale) false)) := by
  obtain ⟨n, m, e, rfl, hm, rfl⟩ := h
  have hpos : (0 : ℚ) < (m : ℚ) * 2 ^ e := mul_pos (by exact_mod_cast Nat.pos_of_ne_zero hm) (two_zpow_pos e)
  refine ⟨m, e, hm, by rw [mul_assoc, abs_mul, abs_sgn, one_mul, abs_of_pos hpos], ?_⟩
  have hneg : decide (sgn n * (m : ℚ) * 2 ^ e < 0) = n := by
    rw [mul_assoc]
    cases n <;> simp <;> linarith
  rw [hneg, finishEx_fin]

theorem isReal_fin {n : Bool} {m : Nat} {e : Int} (h : sgn n * (m : ℚ) * 2 ^ e ≠ 0) :
    (Ex.fin n m e false).IsReal (sgn n * (m : ℚ) * 2 ^ e) :=
  ⟨n, m, e, rfl, fun hm => h (by simp [hm]), rfl⟩

/-! ### Sums -/

theorem atExp_value {e0 e : Int} (h : e0 ≤ e) (n : Bool) (m : Nat) : (atExp n m e e0 : ℚ) * 2 ^ e0 = sgn n * (m : ℚ) * 2 ^ e := by
  have hz : (2 : ℚ) ^ e = ((2 ^ (e - e0).toNat : Nat) : ℚ) * 2 ^ e0 := by
    rw [← zpow_toNat (by omega), ← zpow_add₀ two_ne_zero]
    congr 1
    ring
  rw [hz]
  unfold atExp
  cases n <;> simp <;> ring

theorem isReal_ofInt {s e0 : Int} (hs : s ≠ 0) : (Ex.fin (decide (s < 0)) s.natAbs e0 false).IsReal ((s : ℚ) * 2 ^ e0) := by
  refine ⟨_, _, _, rfl, by omega, ?_⟩
  congr 1
  rcases lt_or_gt_of_ne hs with h | h
  · rw [decide_eq_true h, Nat.cast_natAbs, abs_of_neg h]
    simp
  · rw [decide_eq_false (by omega), Nat.cast_natAbs, abs_of_pos h]
    simp

/-- The exact sum of two finite values. -/
theorem exAdd_fin {f : Fmt} {r : Rnd} (n k : Bool) (m p : Nat) (e d : Int) :
    exAdd f r (.fin n m e) (.fin k p d) = if atExp n m e (min e d) + atExp k p d (min e d) = 0 then .zero (r = .rd)
      else .fin (decide (atExp n m e (min e d) + atExp k p d (min e d) < 0)) (atExp n m e (min e d) + atExp k p d (min e d)).natAbs
        (min e d) false := rfl

theorem exAdd_fin_value (n k : Bool) (m p : Nat) (e d : Int) :
    ((atExp n m e (min e d) + atExp k p d (min e d) : Int) : ℚ) * 2 ^ min e d = sgn n * (m : ℚ) * 2 ^ e + sgn k * (p : ℚ) * 2 ^ d := by
  push_cast
  rw [add_mul, atExp_value (min_le_left ..), atExp_value (min_le_right ..)]

theorem exAdd_fin_eq_zero (n k : Bool) (m p : Nat) (e d : Int) :
    atExp n m e (min e d) + atExp k p d (min e d) = 0 ↔ sgn n * (m : ℚ) * 2 ^ e + sgn k * (p : ℚ) * 2 ^ d = 0 := by
  rw [← exAdd_fin_value, mul_eq_zero, or_iff_left (two_zpow_pos _).ne']
  exact_mod_cast Iff.rfl

/-- The sums that R282 gives. -/
theorem exAdd_special {f : Fmt} {r : Rnd} {x y : FV} {b : Nat} (h : sumSpecial f (r == .rd) x y = some b) :
    (exAdd f r x y).special f = some b := by
  have hrd : (decide (r = .rd)) = (r == .rd) := by cases r <;> rfl
  rcases x with ⟨n, fr⟩ | n | n | ⟨n, m, e⟩ <;> rcases y with ⟨k, fk⟩ | k | k | ⟨k, p, d⟩ <;> simp only [sumSpecial, reduceCtorEq] at h
  case inf.inf =>
    rw [← h]
    show (if n = k then Ex.inf n else .nan (defaultNan f)).special f = _
    split <;> rfl
  case zero.zero =>
    rw [← h]
    show some (signBit f (if n = k then n else decide (r = .rd))) = _
    rw [hrd]
  case fin.fin =>
    change (if sgn n * (m : ℚ) * 2 ^ e + sgn k * (p : ℚ) * 2 ^ d = 0 then some (signBit f (r == .rd)) else none) = some b at h
    by_cases hz : sgn n * (m : ℚ) * 2 ^ e + sgn k * (p : ℚ) * 2 ^ d = 0
    · rw [if_pos hz] at h
      rw [exAdd_fin, if_pos ((exAdd_fin_eq_zero ..).mpr hz), ← h, hrd]
      rfl
    · rw [if_neg hz] at h
      cases h
  all_goals exact h

/-- The exact sum of two rationals, not 0. -/
theorem exAdd_isReal {f : Fmt} {r : Rnd} {x y : FV} {p q : ℚ} (hx : x.rat = some p) (hy : y.rat = some q) (hs : p + q ≠ 0) :
    (exAdd f r x y).IsReal (p + q) := by
  rcases x with ⟨n, fr⟩ | n | n | ⟨n, m, e⟩ <;> rcases y with ⟨k, fk⟩ | k | k | ⟨k, l, d⟩ <;> cases hx <;> cases hy
  case zero.zero => exact absurd (add_zero 0) hs
  case zero.fin => rw [zero_add] at hs ⊢; exact isReal_fin hs
  case fin.zero => rw [add_zero] at hs ⊢; exact isReal_fin hs
  case fin.fin =>
    rw [exAdd_fin, if_neg (fun h => hs ((exAdd_fin_eq_zero ..).mp h))]
    have := isReal_ofInt (e0 := min e d) (fun h => hs ((exAdd_fin_eq_zero n k m l e d).mp h))
    rwa [exAdd_fin_value] at this

theorem neg_num {x : FV} : x.neg.num = none ↔ x.num = none := by
  rw [num_eq_none, num_eq_none]
  cases x <;> simp [FV.neg]

theorem neg_rat {x : FV} {q : ℚ} (h : x.rat = some q) : x.neg.rat = some (-q) := by
  rcases x with ⟨n, fr⟩ | n | n | ⟨n, m, e⟩ <;> simp only [FV.rat, reduceCtorEq, Option.some.injEq] at h
  · subst h; simp [FV.neg, FV.rat]
  · subst h; cases n <;> simp [FV.neg, FV.rat]

/-! ### Products -/

theorem exMul_special {f : Fmt} {x y : FV} {b : Nat} (h : productSpecial f x y = some b) : (exMul f x y).special f = some b := by
  rcases x with ⟨n, fr⟩ | n | n | ⟨n, m, e⟩ <;> rcases y with ⟨k, fk⟩ | k | k | ⟨k, l, d⟩ <;> simp only [productSpecial, reduceCtorEq] at h
  all_goals exact h

theorem exMul_fin {f : Fmt} (n k : Bool) (m p : Nat) (e d : Int) :
    exMul f (.fin n m e) (.fin k p d) = .fin (n != k) (m * p) (e + d) false := rfl

theorem mul_value (n k : Bool) (m p : Nat) (e d : Int) :
    sgn (n != k) * ((m * p : Nat) : ℚ) * 2 ^ (e + d) = sgn n * (m : ℚ) * 2 ^ e * (sgn k * (p : ℚ) * 2 ^ d) := by
  rw [sgn_bne, zpow_add₀ two_ne_zero]
  push_cast
  ring

theorem exMul_isReal {f : Fmt} {x y : FV} {p q : ℚ} (hx : x.rat = some p) (hy : y.rat = some q) (hs : p * q ≠ 0) :
    (exMul f x y).IsReal (p * q) := by
  rcases x with ⟨n, fr⟩ | n | n | ⟨n, m, e⟩ <;> rcases y with ⟨k, fk⟩ | k | k | ⟨k, l, d⟩ <;> cases hx <;> cases hy
  case zero.zero => exact absurd (mul_zero 0) hs
  case zero.fin => exact absurd (zero_mul _) hs
  case fin.zero => exact absurd (mul_zero _) hs
  case fin.fin =>
    have hv := mul_value n k m l e d
    rw [exMul_fin]
    refine ⟨_, _, _, rfl, ?_, hv.symm⟩
    rintro h0
    rw [h0] at hv
    exact hs (hv ▸ by simp)

/-! ### Fused products -/

/-- A product that is no NaN, as the first source of a sum. -/
theorem exFma_of_product {f : Fmt} {r : Rnd} {x y z : FV} (hn : ∀ w ∈ [x, y, z], w.num ≠ none) (hp : ∀ b, exMul f x y ≠ .nan b) :
    exFma f r x y z = exAdd f r (exMul f x y).toFV z := by
  unfold exFma
  rw [firstNan_none hn]
  dsimp only
  split
  · next b hb => exact absurd hb (hp b)
  · rfl

theorem exFma_special {f : Fmt} {r : Rnd} {x y z : FV} {b : Nat} (hn : ∀ w ∈ [x, y, z], w.num ≠ none)
    (h : fusedSpecial f (r == .rd) x y z = some b) : (exFma f r x y z).special f = some b := by
  have hz : ∀ n fr, z ≠ .nan n fr := by
    rintro n fr rfl
    exact hn (.nan n fr) (by simp) rfl
  have hinvalid : exMul f x y = .nan (defaultNan f) → defaultNan f = b → (exFma f r x y z).special f = some b := by
    rintro hm rfl
    unfold exFma
    rw [firstNan_none hn, hm]
    rfl
  rcases x with ⟨n, fr⟩ | n | n | ⟨n, m, e⟩ <;> rcases y with ⟨k, fk⟩ | k | k | ⟨k, l, d⟩ <;> simp only [fusedSpecial, reduceCtorEq] at h
  case inf.zero => cases z <;> first | exact absurd rfl (hz _ _) | exact hinvalid rfl (Option.some.inj h)
  case zero.inf => cases z <;> first | exact absurd rfl (hz _ _) | exact hinvalid rfl (Option.some.inj h)
  all_goals
    rw [exFma_of_product hn (by intro b h; cases h)]
    exact exAdd_special h

theorem exFma_isReal {f : Fmt} {r : Rnd} {x y z : FV} {p q t : ℚ} (hx : x.rat = some p) (hy : y.rat = some q) (hz : z.rat = some t)
    (hs : p * q + t ≠ 0) : (exFma f r x y z).IsReal (p * q + t) := by
  have hn : ∀ w ∈ [x, y, z], w.num ≠ none := by
    simp [num_ne_none_of_rat hx, num_ne_none_of_rat hy, num_ne_none_of_rat hz]
  have hprod : (∀ b, exMul f x y ≠ .nan b) ∧ (exMul f x y).toFV.rat = some (p * q) := by
    rcases x with ⟨n, fr⟩ | n | n | ⟨n, m, e⟩ <;> rcases y with ⟨k, fk⟩ | k | k | ⟨k, l, d⟩ <;> cases hx <;> cases hy
    case fin.fin => exact ⟨(fun _ => nofun), congrArg some (mul_value n k m l e d)⟩
    all_goals exact ⟨(fun _ => nofun), by simp [exMul, firstNan, Ex.toFV, FV.rat]⟩
  rw [exFma_of_product hn hprod.1]
  exact exAdd_isReal hprod.2 hz hs

end Sys2Proof.Machine
end

section
/-! Sums, products and fused products of an instruction (R280 to R282). -/
namespace Sys2Proof.Machine

/-! ### Float instructions -/

section
variable {i : Instr} {h : Hd} {k : FKind} {ty : Ty} {d a b c : Opnd} {s : State} {r : GRef} {t : Team} {g : Group}

/-- A float instruction of one source gives its function of each element. -/
theorem yields_farith1 (ho : opOf i = some (h, farith1 k h ty d a)) (hreg : regOnly i = some (h, d.ids ty.wide)) (hi : Issuing s r t g)
    (ha : Alone h) (hp : Passes i t g s.m.draw) (hact : Active h g s.m.draw) :
    Yields i h s r g d ty.wide (fun l => elements ty (fun j => fElem k (Ty.fmtD ty) h (ctlOf h (fpcOf s.m t.ctx))
      (elem ty.ew j (srcVal g g s.m.draw 0 ty a l)) (elem ty.ew j 0) (elem ty.ew j 0))) :=
  yields_valOp hi ha hact (hp _ _ ho) (unheld_of_regOnly hreg ..) (exec_of_opOf ho s) rfl

/-- A float instruction of two sources gives its function of each element. -/
theorem yields_farith2 (ho : opOf i = some (h, farith2 k h ty d a b)) (hreg : regOnly i = some (h, d.ids ty.wide)) (hi : Issuing s r t g)
    (ha : Alone h) (hp : Passes i t g s.m.draw) (hact : Active h g s.m.draw) :
    Yields i h s r g d ty.wide (fun l => elements ty (fun j => fElem k (Ty.fmtD ty) h (ctlOf h (fpcOf s.m t.ctx))
      (elem ty.ew j (srcVal g g s.m.draw 0 ty a l)) (elem ty.ew j (srcVal g g s.m.draw 1 ty b l)) (elem ty.ew j 0))) :=
  yields_valOp hi ha hact (hp _ _ ho) (unheld_of_regOnly hreg ..) (exec_of_opOf ho s) rfl

/-- A float instruction of three sources gives its function of each element. -/
theorem yields_farith3 (ho : opOf i = some (h, farith3 k h ty d a b c)) (hreg : regOnly i = some (h, d.ids ty.wide)) (hi : Issuing s r t g)
    (ha : Alone h) (hp : Passes i t g s.m.draw) (hact : Active h g s.m.draw) :
    Yields i h s r g d ty.wide (fun l => elements ty (fun j => fElem k (Ty.fmtD ty) h (ctlOf h (fpcOf s.m t.ctx))
      (elem ty.ew j (srcVal g g s.m.draw 0 ty a l)) (elem ty.ew j (srcVal g g s.m.draw 1 ty b l))
      (elem ty.ew j (srcVal g g s.m.draw 2 ty c l)))) :=
  yields_valOp hi ha hact (hp _ _ ho) (unheld_of_regOnly hreg ..) (exec_of_opOf ho s) rfl

end

/-! ### What an instruction of `floatSpec` computes -/

/-- x is the exact result of instruction i on the values xs: the first NaN, what R282 gives, or the rational. -/
structure Means (i : Instr) (ex : List ℚ → ℚ) (f : Fmt) (r : Rnd) (xs : List FV) (x : Ex) : Prop where
  nan : ∀ b, firstNan f xs = some b → x = .nan b
  special : ∀ b, floatSpecial i f (r == .rd) xs = some b → x.special f = some b
  real : ∀ qs, xs.map FV.rat = qs.map some → ex qs ≠ 0 → x.IsReal (ex qs)

theorem firstNan_eq_none {f : Fmt} {xs : List FV} : firstNan f xs = none ↔ ∀ y ∈ xs, y.num ≠ none := by
  refine ⟨fun h y hy hn => ?_, firstNan_none⟩
  obtain ⟨n, fr, rfl⟩ := num_eq_none.mp hn
  have := List.findSome?_eq_none_iff.mp h _ hy
  cases this

theorem firstNan_of_rats {f : Fmt} {xs : List FV} {qs : List ℚ} (h : xs.map FV.rat = qs.map some) : firstNan f xs = none := by
  refine firstNan_none fun y hy => ?_
  have hm : y.rat ∈ qs.map some := h ▸ List.mem_map_of_mem hy
  obtain ⟨q, -, hq⟩ := List.mem_map.mp hm
  exact num_ne_none_of_rat hq.symm

theorem rats_two {x y : FV} {qs : List ℚ} (h : [x, y].map FV.rat = qs.map some) : ∃ p q, qs = [p, q] ∧ x.rat = some p ∧ y.rat = some q := by
  obtain ⟨p, ps, rfl, hp, h⟩ := List.map_eq_cons_iff.mp h.symm
  obtain ⟨q, qs, rfl, hq, h⟩ := List.map_eq_cons_iff.mp h
  obtain rfl := List.map_eq_nil_iff.mp h
  exact ⟨p, q, rfl, hp.symm, hq.symm⟩

theorem rats_three {x y z : FV} {qs : List ℚ} (h : [x, y, z].map FV.rat = qs.map some) :
    ∃ p q t, qs = [p, q, t] ∧ x.rat = some p ∧ y.rat = some q ∧ z.rat = some t := by
  obtain ⟨p, ps, rfl, hp, h⟩ := List.map_eq_cons_iff.mp h.symm
  obtain ⟨q, t, rfl, hy, hz⟩ := rats_two h.symm
  exact ⟨p, q, t, rfl, hp.symm, hy, hz⟩

section
variable {i : Instr} {ex : List ℚ → ℚ} {f : Fmt} {r : Rnd} {x y z : FV}

theorem exAdd_nan {n : Nat} (h : firstNan f [x, y] = some n) : exAdd f r x y = .nan n := by unfold exAdd; rw [h]
theorem exMul_nan {n : Nat} (h : firstNan f [x, y] = some n) : exMul f x y = .nan n := by unfold exMul; rw [h]
theorem exFma_nan {n : Nat} (h : firstNan f [x, y, z] = some n) : exFma f r x y z = .nan n := by unfold exFma; rw [h]

/-- The difference, with the sign of a NaN kept (R94). -/
def exSub (f : Fmt) (r : Rnd) (x y : FV) : Ex :=
  match firstNan f [x, y] with
  | some n => .nan n
  | none => exAdd f r x y.neg

theorem exSub_nan {n : Nat} (h : firstNan f [x, y] = some n) : exSub f r x y = .nan n := by rw [exSub, h]
theorem exSub_of_none (h : firstNan f [x, y] = none) : exSub f r x y = exAdd f r x y.neg := by rw [exSub, h]

/-- A special sum has no NaN source. -/
theorem sumSpecial_num {down : Bool} {b : Nat} (h : sumSpecial f down x y = some b) : x.num ≠ none ∧ y.num ≠ none := by
  simp only [Ne, num_eq_none]
  constructor <;> rintro ⟨n, fr, rfl⟩
  · cases h
  · cases x <;> cases h

theorem firstNan_of_sumSpecial {down : Bool} {b : Nat} (h : sumSpecial f down x y.neg = some b) : firstNan f [x, y] = none := by
  obtain ⟨hx, hy⟩ := sumSpecial_num h
  exact firstNan_none (by simp [hx, mt neg_num.mpr hy])

/-- A special fused product has no NaN source. -/
theorem fusedSpecial_num {down : Bool} {b : Nat} (h : fusedSpecial f down x y z = some b) : ∀ w ∈ [x, y, z], w.num ≠ none := by
  have hxy : x.num ≠ none ∧ y.num ≠ none := by
    simp only [Ne, num_eq_none]
    constructor <;> rintro ⟨n, fr, rfl⟩
    · cases h
    · cases x <;> cases h
  have hz : z.num ≠ none := by
    rw [Ne, num_eq_none]
    rintro ⟨n, fr, rfl⟩
    cases x <;> cases y <;> cases h
  simp [hxy, hz]

theorem means_add (hs : floatSpecial i f (r == .rd) [x, y] = sumSpecial f (r == .rd) x y) (he : ∀ p q, ex [p, q] = p + q) :
    Means i ex f r [x, y] (exAdd f r x y) where
  nan _ := exAdd_nan
  special _ hb := exAdd_special (hs ▸ hb)
  real qs hq hne := by
    obtain ⟨p, q, rfl, hx, hy⟩ := rats_two hq
    rw [he] at hne ⊢
    exact exAdd_isReal hx hy hne

theorem means_sub (hs : floatSpecial i f (r == .rd) [x, y] = sumSpecial f (r == .rd) x y.neg) (he : ∀ p q, ex [p, q] = p - q) :
    Means i ex f r [x, y] (exSub f r x y) where
  nan _ := exSub_nan
  special _ hb := exSub_of_none (firstNan_of_sumSpecial (hs ▸ hb)) ▸ exAdd_special (hs ▸ hb)
  real qs hq hne := by
    rw [exSub_of_none (firstNan_of_rats hq)]
    obtain ⟨p, q, rfl, hx, hy⟩ := rats_two hq
    rw [he, sub_eq_add_neg] at hne ⊢
    exact exAdd_isReal hx (neg_rat hy) hne

theorem means_mul (hs : floatSpecial i f (r == .rd) [x, y] = productSpecial f x y) (he : ∀ p q, ex [p, q] = p * q) :
    Means i ex f r [x, y] (exMul f x y) where
  nan _ := exMul_nan
  special _ hb := exMul_special (hs ▸ hb)
  real qs hq hne := by
    obtain ⟨p, q, rfl, hx, hy⟩ := rats_two hq
    rw [he] at hne ⊢
    exact exMul_isReal hx hy hne

theorem means_fma (hs : floatSpecial i f (r == .rd) [x, y, z] = fusedSpecial f (r == .rd) x y z) (he : ∀ p q t, ex [p, q, t] = p * q + t) :
    Means i ex f r [x, y, z] (exFma f r x y z) where
  nan _ := exFma_nan
  special _ hb := exFma_special (fusedSpecial_num (hs ▸ hb)) (hs ▸ hb)
  real qs hq hne := by
    obtain ⟨p, q, t, rfl, hx, hy, hz⟩ := rats_three hq
    rw [he] at hne ⊢
    exact exFma_isReal hx hy hz hne

end

/-- An instruction of `floatSpec` rounds the exact result of its sources. -/
theorem floatSpec_means {i : Instr} {h : Hd} {ty : Ty} {d : Opnd} {xs : List Opnd} {ex : List ℚ → ℚ} {s : State} {r : GRef} {t : Team}
    {g : Group} (e : floatSpec i = some (h, ty, d, xs, ex)) (hi : Issuing s r t g) (ha : Alone h) (hp : Passes i t g s.m.draw)
    (hact : Active h g s.m.draw) :
    ∃ x : Nat → Nat → Ex,
      Yields i h s r g d ty.wide (fun l => elements ty (fun k => finishEx (Ty.fmtD ty) (ctlOf h (fpcOf s.m t.ctx)) (x l k)))
        ∧ ∀ l k, Means i ex (Ty.fmtD ty) (ctlOf h (fpcOf s.m t.ctx)).rnd
          (xs.mapIdx (fun j o => FV.dec (Ty.fmtD ty) (floatSrc h ty (ctlOf h (fpcOf s.m t.ctx)) g s.m.draw j o l k))) (x l k) := by
  cases i
  case fadd | fadd2 =>
    cases e
    exact ⟨_, yields_farith2 (k := .round .add) rfl rfl hi ha hp hact, fun _ _ => means_add rfl fun _ _ => rfl⟩
  case fsub | fsub2 =>
    cases e
    exact ⟨_, yields_farith2 (k := .round .sub) rfl rfl hi ha hp hact, fun _ _ => means_sub rfl fun _ _ => rfl⟩
  case fmul | fmul2 =>
    cases e
    exact ⟨_, yields_farith2 (k := .round .mul) rfl rfl hi ha hp hact, fun _ _ => means_mul rfl fun _ _ => rfl⟩
  case fma | fma2 =>
    cases e
    exact ⟨_, yields_farith3 (k := .round .fma) rfl rfl hi ha hp hact, fun _ _ => means_fma rfl fun _ _ _ => rfl⟩
  all_goals cases e

/-- Settles O24: each instruction rounds the exact result of its sources (`Means`), which is a NaN, what R282 gives, or a rational. -/
theorem floatArithmetic : Obligations.FloatArithmetic := by
  unfold Obligations.FloatArithmetic
  intro i h ty d xs ex s r t g e hi ha hp hact f c src post
  obtain ⟨x, hy, hm⟩ := floatSpec_means e hi ha hp hact
  refine ⟨_, hy, fun l k => ⟨fun n fr pre rest hsrc hpre => ?_, fun b hb => ?_, fun qs hqs hne => ?_⟩⟩
  · have hfirst : firstNan f (src l k) = some (nanBits f n fr) := hsrc ▸ firstNan_nan hpre
    exact finishEx_special c (by rw [(hm l k).nan _ hfirst]; rfl)
  · exact finishEx_special c ((hm l k).special b hb)
  · exact finishEx_isReal c ((hm l k).real qs hqs hne)

end Sys2Proof.Machine
end

section
/-! Reals rounded once (R91, R281): `RoundsTo` by the place of the magnitude, and what `finishEx` leaves of an exact or a sticky result. -/
namespace Sys2Proof.Machine

section
variable {f : Fmt} {r : Rnd}

/-- A point of the grid of half units is a whole number of units of a power of two. -/
theorem AtHalf.dyadic {i : Nat} {x : ℝ} (h : AtHalf f i true x) : ∃ (m : Nat) (e : Int), x = m * 2 ^ e :=
  ⟨_, _, (show x = _ from h)⟩

/-- Strictly between two points of the grid the rounding of a magnitude does not change. -/
theorem AtHalf.nbhd {i : Nat} {x : ℝ} (h : AtHalf f i false x) : ∃ ε : ℝ, 0 < ε ∧ ∀ y, |x - y| < ε → AtHalf f i false y := by
  obtain ⟨hl, hr⟩ := h
  refine ⟨min (x - grid ℝ (f.fbits + 1) (f.emin - f.fbits - 1) i) (grid ℝ (f.fbits + 1) (f.emin - f.fbits - 1) (i + 1) - x),
    lt_min (by linarith) (by linarith), fun y hy => ?_⟩
  obtain ⟨h1, h2⟩ := lt_min_iff.mp hy
  rw [abs_lt] at h1 h2
  exact ⟨by linarith, by linarith⟩

/-- A real rounds by the place of its magnitude. -/
theorem roundsTo_of_atHalf {v : ℝ} {i : Nat} {ex : Bool} (h : AtHalf f i ex |v|) {n : Bool} (hn : n = true ↔ v < 0) :
    RoundsTo f r v (roundAt f r n i ex) := by
  refine ⟨n, hn, fun m e hm he => (roundBits_of_atHalf hm he.symm h r n).symm, fun hirr => ?_⟩
  cases ex with
  | true =>
    obtain ⟨m, e, he⟩ := AtHalf.dyadic h
    exact absurd he (hirr m e)
  | false =>
    obtain ⟨ε, hε, hy⟩ := AtHalf.nbhd h
    exact ⟨ε, hε, fun m e hm he => (roundBits_of_atHalf hm rfl (hy _ he) r n).symm⟩

/-- A magnitude that is a whole number of units rounds as `roundBits` rounds it. -/
theorem roundsTo_exact {v : ℝ} {m : Nat} {e : Int} (hm : m ≠ 0) (hv : |v| = m * 2 ^ e) {n : Bool} (hn : n = true ↔ v < 0) :
    RoundsTo f r v (roundBits f r n m e false) := by
  obtain ⟨i, ex, h⟩ := exists_atGrid (p := f.fbits + 1) (q := f.emin - f.fbits - 1) (abs_nonneg v)
  rw [roundBits_of_atHalf hm hv.symm h]
  exact roundsTo_of_atHalf h hn

/-- A magnitude between two numbers of units rounds as `roundBits` rounds the lower with `sticky`. -/
theorem roundsTo_sticky {v : ℝ} {m : Nat} {e : Int} (hm : 2 ^ (f.fbits + 1) ≤ m) (hlo : m * (2 : ℝ) ^ e < |v|)
    (hhi : |v| < ((m + 1 : Nat) : ℝ) * 2 ^ e) {n : Bool} (hn : n = true ↔ v < 0) : RoundsTo f r v (roundBits f r n m e true) := by
  obtain ⟨i, hi, hb⟩ := roundBits_sticky (K := ℝ) hm e
  rw [hb]
  exact roundsTo_of_atHalf (hi _ hlo hhi) hn

/-- m units of 2^e, and more where st: the exact result of an operation. -/
def Truncates (m : Nat) (e : Int) (st : Bool) (x : ℝ) : Prop :=
  if st then m * (2 : ℝ) ^ e < x ∧ x < ((m + 1 : Nat) : ℝ) * 2 ^ e else x = m * 2 ^ e

theorem Truncates.scale {m : Nat} {e : Int} {st : Bool} {x : ℝ} (h : Truncates m e st x) (k : Int) : Truncates m (e + k) st (x * 2 ^ k) := by
  have hk := two_zpow_pos (K := ℝ) k
  cases st with
  | false =>
    show _ = _
    rw [show x = _ from h, zpow_add₀ two_ne_zero, mul_assoc]
  | true =>
    obtain ⟨h1, h2⟩ := h
    constructor <;> rw [zpow_add₀ two_ne_zero, ← mul_assoc] <;> exact mul_lt_mul_of_pos_right ‹_› hk

theorem roundsTo_truncates {v : ℝ} {m : Nat} {e : Int} {st : Bool} (hm : m ≠ 0) (hst : st = true → 2 ^ (f.fbits + 1) ≤ m)
    (h : Truncates m e st |v|) {n : Bool} (hn : n = true ↔ v < 0) : RoundsTo f r v (roundBits f r n m e st) := by
  cases st with
  | false => exact roundsTo_exact hm h hn
  | true => exact roundsTo_sticky (hst rfl) h.1 h.2 hn

theorem scaled_neg_iff {v : ℝ} (k : Int) : v * 2 ^ k < 0 ↔ v < 0 := by
  have := two_zpow_pos (K := ℝ) k
  constructor <;> intro h
  · by_contra hv
    nlinarith
  · nlinarith

theorem abs_scaled (v : ℝ) (k : Int) : |v * 2 ^ k| = |v| * 2 ^ k := by rw [abs_mul, abs_of_pos (two_zpow_pos (K := ℝ) k)]

/-- A result that truncates the real v leaves as v rounded once. -/
theorem leaves_fin {v : ℝ} {m : Nat} {e : Int} {st n : Bool} (c : Ctl) (hm : m ≠ 0) (hst : st = true → 2 ^ (f.fbits + 1) ≤ m)
    (h : Truncates m e st |v|) (hn : n = true ↔ v < 0) : Leaves f c (RoundsTo f c.rnd) v (finishEx f c (.fin n m e st)) :=
  ⟨_, roundsTo_truncates hm hst (by rw [abs_scaled]; exact h.scale c.scale) (by rw [scaled_neg_iff]; exact hn), finishEx_fin ..⟩

/-- A rational result leaves as itself rounded once. -/
theorem leaves_isReal {x : Ex} {q : ℚ} (c : Ctl) (h : x.IsReal q) : Leaves f c (RoundsTo f c.rnd) (q : ℝ) (finishEx f c x) := by
  obtain ⟨n, m, e, rfl, hm, rfl⟩ := h
  have hpos : (0 : ℝ) < m * 2 ^ e := mul_pos (by exact_mod_cast Nat.pos_of_ne_zero hm) (two_zpow_pos e)
  refine leaves_fin c hm (fun hf => nomatch hf) ?_ ?_
  · show _ = _
    cases n <;> push_cast [sgn_true, sgn_false] <;> simp [abs_of_pos, hpos]
  · cases n <;> push_cast [sgn_true, sgn_false]
    · simpa using hpos.le
    · simpa using hpos

end

/-! ### Sums with neither scale nor limits -/

/-- A finite value has a significand that is not 0. -/
def FV.Proper : FV → Prop
  | .fin _ m _ => m ≠ 0
  | _ => True

theorem ofMag_proper (f : Fmt) (n : Bool) (M : Nat) : (FV.ofMag f n M).Proper := by
  unfold FV.ofMag
  split
  · trivial
  · show _ + _ ≠ 0
    split
    · next h0 hlt => rw [Nat.mod_eq_of_lt hlt]; exact h0
    · have := Nat.two_pow_pos f.fbits
      omega

theorem dec_proper (f : Fmt) (b : Nat) : (FV.dec f b).Proper := by
  rcases le_or_gt (magOf f b) (maxFinite f) with h | h
  · rw [dec_of_le h]
    exact ofMag_proper ..
  · rcases dec_of_gt h with ⟨-, -, h⟩ | ⟨fr, h⟩ <;> rw [h] <;> trivial

theorem FV.Proper.neg {x : FV} (h : x.Proper) : x.neg.Proper := by cases x <;> exact h

theorem sgn_mul_ne_zero {n : Bool} {m : Nat} {e : Int} (hm : m ≠ 0) : sgn n * (m : ℚ) * 2 ^ e ≠ 0 :=
  mul_ne_zero (mul_ne_zero (sgn_ne_zero n) (by exact_mod_cast hm)) (two_zpow_pos e).ne'

/-- A sum that R282 does not give is a rational that is not 0. -/
theorem sum_of_not_special {f : Fmt} {down : Bool} {x y : FV} (hx : x.Proper) (hy : y.Proper) (hxn : x.num ≠ none) (hyn : y.num ≠ none)
    (h : sumSpecial f down x y = none) : ∃ p q, x.rat = some p ∧ y.rat = some q ∧ p + q ≠ 0 := by
  rcases x with ⟨n, fr⟩ | n | n | ⟨n, m, e⟩ <;> rcases y with ⟨k, fk⟩ | k | k | ⟨k, l, d⟩ <;> simp only [sumSpecial, reduceCtorEq] at h
  case zero.fin => exact ⟨_, _, rfl, rfl, by rw [zero_add]; exact sgn_mul_ne_zero hy⟩
  case fin.zero => exact ⟨_, _, rfl, rfl, by rw [add_zero]; exact sgn_mul_ne_zero hx⟩
  case fin.fin =>
    refine ⟨_, _, rfl, rfl, fun (h0 : sgn n * (m : ℚ) * 2 ^ e + sgn k * (l : ℚ) * 2 ^ d = 0) => ?_⟩
    change (if sgn n * (m : ℚ) * 2 ^ e + sgn k * (l : ℚ) * 2 ^ d = 0 then some (signBit f down) else none) = none at h
    rw [if_pos h0] at h
    cases h
  all_goals first | exact absurd rfl hxn | exact absurd rfl hyn

/-- The control of a combination inside a reduction or a block: nothing but the rounding and FTZ. -/
structure Ctl.Plain (c : Ctl) : Prop where
  scale : c.scale = 0
  sat : c.sat = false
  clamp : c.clamp = false

theorem limited_of_plain {f : Fmt} {c : Ctl} (h : c.Plain) (b : Nat) : limited f c b = b := by
  unfold limited clampBits satBits
  rw [h.sat, h.clamp]
  cases FV.dec f b <;> rfl

theorem leaves_plain {f : Fmt} {c : Ctl} (h : c.Plain) {rounds : ℝ → Nat → Prop} {v : ℝ} {b : Nat} (hl : Leaves f c rounds v b) :
    ∃ x, rounds v x ∧ b = flush f c.ftz x := by
  obtain ⟨x, hx, hb⟩ := hl
  rw [h.scale, zpow_zero, mul_one] at hx
  exact ⟨x, hx, hb.trans (limited_of_plain h _)⟩

/-- What `SumGives` says of two values that are no NaN. -/
theorem sumGives_iff {f : Fmt} {r : Rnd} {ftz : Bool} {x y : FV} {b : Nat} (hx : x.num ≠ none) (hy : y.num ≠ none) :
    SumGives f r ftz x y b ↔ match sumSpecial f (r == .rd) x y with
      | some z => b = z
      | none => ∃ p q c, x.rat = some p ∧ y.rat = some q ∧ RoundsTo f r ((p + q : ℚ) : ℝ) c ∧ b = flush f ftz c := by
  cases x with
  | nan n fr => exact absurd rfl hx
  | _ => cases y with
    | nan n fr => exact absurd rfl hy
    | _ => rfl

/-- A sum with neither scale nor limits (R282). -/
theorem sumGives_exAdd {f : Fmt} {c : Ctl} (h : c.Plain) {x y : FV} (hx : x.Proper) (hy : y.Proper) :
    SumGives f c.rnd c.ftz x y (finishEx f c (exAdd f c.rnd x y)) := by
  have hnan : ∀ b, firstNan f [x, y] = some b → finishEx f c (exAdd f c.rnd x y) = b := fun b hb => by
    rw [finishEx_special c (b := b) (by rw [exAdd_nan hb]; rfl), limited_of_plain h]
  by_cases hxn : x.num = none
  · obtain ⟨n, fr, rfl⟩ := num_eq_none.mp hxn
    exact hnan _ rfl
  by_cases hyn : y.num = none
  · obtain ⟨n, fr, rfl⟩ := num_eq_none.mp hyn
    have := hnan _ (firstNan_nan (pre := [x]) (rest := []) (by simpa using hxn))
    cases x with
    | nan n fr => exact absurd rfl hxn
    | _ => exact this
  rw [sumGives_iff hxn hyn]
  cases hs : sumSpecial f (c.rnd == .rd) x y with
  | some z => exact (finishEx_special c (exAdd_special hs)).trans (limited_of_plain h z)
  | none =>
    obtain ⟨p, q, hp, hq, hne⟩ := sum_of_not_special hx hy hxn hyn hs
    obtain ⟨b, hb, he⟩ := leaves_plain h (leaves_isReal (f := f) c (exAdd_isReal (f := f) (r := c.rnd) hp hq hne))
    exact ⟨p, q, b, hp, hq, hb, he⟩

end Sys2Proof.Machine
end

section
/-! Minimum and maximum (R283): the order of encodings by `ordKey` is that of their values, with −0 below +0. -/
namespace Sys2Proof.Machine

section
variable {f : Fmt} {a b : Nat}

theorem ordKey_eq (f : Fmt) (b : Nat) : ordKey f b = if negOf f b then -(magOf f b : Int) - 1 else magOf f b := by
  unfold ordKey negOf magOf
  simp only [beq_iff_eq]

/-- An encoding that is no NaN is a finite one or an infinity. -/
theorem dec_of_num (h : (FV.dec f b).num ≠ none) :
    (magOf f b ≤ maxFinite f ∧ FV.dec f b = FV.ofMag f (negOf f b) (magOf f b))
      ∨ magOf f b = maxFinite f + 1 ∧ FV.dec f b = .inf (negOf f b) := by
  rcases le_or_gt (magOf f b) (maxFinite f) with hle | hgt
  · exact .inl ⟨hle, dec_of_le hle⟩
  · rcases dec_of_gt hgt with ⟨hf, hm, hd⟩ | ⟨fr, hd⟩
    · exact .inr ⟨hm.trans (maxFinite_succ hf).symm, hd⟩
    · exact absurd (by rw [hd]; rfl) h

theorem num_inf (n : Bool) : (FV.inf n).num = some (if n then ⊥ else ((⊤ : WithTop ℚ) : WithBot (WithTop ℚ))) := by cases n <;> rfl

/-- The order of the encodings is that of the values. -/
theorem num_le_of_ordKey_le (ha : (FV.dec f a).num ≠ none) (hb : (FV.dec f b).num ≠ none) (h : ordKey f a ≤ ordKey f b) :
    FRel .le (FV.dec f a).num (FV.dec f b).num := by
  rw [ordKey_eq, ordKey_eq] at h
  rcases dec_of_num ha with ⟨ha, hda⟩ | ⟨ha, hda⟩ <;> rcases dec_of_num hb with ⟨hb, hdb⟩ | ⟨hb, hdb⟩ <;> rw [hda, hdb]
  · refine ⟨_, _, ofMag_num .., ofMag_num .., ratNum_le_iff.mpr ?_⟩
    have hna := magVal_nonneg (K := ℚ) (f := f) (magOf f a)
    have hnb := magVal_nonneg (K := ℚ) (f := f) (magOf f b)
    cases hsa : negOf f a <;> cases hsb : negOf f b <;> simp only [hsa, hsb, Bool.false_eq_true, if_true, if_false] at h <;>
      simp only [sgn_true, sgn_false, one_mul, neg_one_mul]
    · exact magVal_le_iff.mpr (by omega)
    · omega
    · linarith
    · exact neg_le_neg (magVal_le_iff.mpr (by omega))
  · refine ⟨_, _, ofMag_num .., num_inf _, ?_⟩
    cases hsb : negOf f b
    · exact WithBot.coe_le_coe.mpr le_top
    · rw [hsb] at h
      simp only [if_true] at h
      split at h <;> omega
  · refine ⟨_, _, num_inf _, ofMag_num .., ?_⟩
    cases hsa : negOf f a
    · rw [hsa] at h
      simp only [Bool.false_eq_true, if_false] at h
      split at h <;> omega
    · exact bot_le
  · refine ⟨_, _, num_inf _, num_inf _, ?_⟩
    cases hsa : negOf f a <;> cases hsb : negOf f b
    · exact le_refl _
    · simp only [hsa, hsb, Bool.false_eq_true, if_true, if_false] at h
      omega
    · exact bot_le
    · exact le_refl _

/-- An encoding with the value 0 is a zero with its sign. -/
theorem dec_of_num_zero {n : Bool} (h : (FV.dec f b).num = (FV.zero n).num) : FV.dec f b = .zero (negOf f b) ∧ magOf f b = 0 := by
  have hnum : (FV.dec f b).num ≠ none := by rw [h]; exact Option.some_ne_none _
  rcases dec_of_num hnum with ⟨-, hd⟩ | ⟨-, hd⟩
  · rw [hd] at h ⊢
    unfold FV.ofMag at h ⊢
    split
    · next h0 => exact ⟨rfl, h0⟩
    · next h0 =>
      rw [if_neg h0] at h
      have hz := (ofMag_proper f (negOf f b) (magOf f b))
      rw [FV.ofMag, if_neg h0] at hz
      exact absurd (WithTop.coe_inj.mp (WithBot.coe_inj.mp (Option.some.inj h))) (sgn_mul_ne_zero hz)
  · rw [hd] at h
    cases hn : negOf f b <;> rw [hn] at h <;> cases h

theorem zero_of_dec {n : Bool} (h : FV.dec f b = .zero n) : negOf f b = n ∧ magOf f b = 0 := by
  obtain ⟨hd, hm⟩ := dec_of_num_zero (n := n) (congrArg FV.num h)
  rw [h] at hd
  exact ⟨(FV.zero.inj hd).symm, hm⟩

/-- At or below −0 the only zero is −0. -/
theorem dec_negZero_of_le (ha : FV.dec f a = .zero true) (h : ordKey f b ≤ ordKey f a) (hb : (FV.dec f b).num = (FV.zero true).num) :
    FV.dec f b = .zero true := by
  obtain ⟨hna, hma⟩ := zero_of_dec ha
  obtain ⟨hd, hmb⟩ := dec_of_num_zero hb
  rw [hd]
  rw [ordKey_eq, ordKey_eq, hna, hma, hmb] at h
  cases hn : negOf f b with
  | true => rfl
  | false =>
    rw [hn] at h
    simp at h

/-- At or above +0 the only zero is +0. -/
theorem dec_posZero_of_le (ha : FV.dec f a = .zero false) (h : ordKey f a ≤ ordKey f b) (hb : (FV.dec f b).num = (FV.zero true).num) :
    FV.dec f b = .zero false := by
  obtain ⟨hna, hma⟩ := zero_of_dec ha
  obtain ⟨hd, hmb⟩ := dec_of_num_zero hb
  rw [hd]
  rw [ordKey_eq, ordKey_eq, hna, hma, hmb] at h
  cases hn : negOf f b with
  | false => rfl
  | true =>
    rw [hn] at h
    simp at h

/-- What `fminmax` and `PickGives` do with two values that are no NaN. -/
theorem fminmax_of_num (mx : Bool) (ha : (FV.dec f a).num ≠ none) (hb : (FV.dec f b).num ≠ none) :
    fminmax f mx a b = if mx then (if ordKey f a < ordKey f b then b else a) else (if ordKey f b < ordKey f a then b else a) := by
  unfold fminmax
  cases hda : FV.dec f a with
  | nan n fr => exact absurd (by rw [hda]; rfl) ha
  | _ => cases hdb : FV.dec f b with
    | nan n fr => exact absurd (by rw [hdb]; rfl) hb
    | _ => rfl

theorem pickGives_of_num {larger : Bool} {z : Nat} (ha : (FV.dec f a).num ≠ none) (hb : (FV.dec f b).num ≠ none) (hz : z = a ∨ z = b)
    (ho : if larger then ordKey f a ≤ ordKey f z ∧ ordKey f b ≤ ordKey f z else ordKey f z ≤ ordKey f a ∧ ordKey f z ≤ ordKey f b) :
    PickGives f larger a b z := by
  have hnz : (FV.dec f z).num ≠ none := by rcases hz with rfl | rfl <;> assumption
  have hrel : ∀ w ∈ [FV.dec f a, FV.dec f b], FRel (if larger then .ge else .le) (FV.dec f z).num w.num := by
    simp only [List.mem_cons, List.not_mem_nil, or_false, forall_eq_or_imp, forall_eq]
    cases larger with
    | true =>
      obtain ⟨h1, h2⟩ := ho
      obtain ⟨u, v, hu, hv, hl⟩ := num_le_of_ordKey_le ha hnz h1
      obtain ⟨u', v', hu', hv', hl'⟩ := num_le_of_ordKey_le hb hnz h2
      exact ⟨⟨v, u, hv, hu, hl⟩, v', u', hv', hu', hl'⟩
    | false => exact ⟨num_le_of_ordKey_le hnz ha ho.1, num_le_of_ordKey_le hnz hb ho.2⟩
  have hneg : (FV.dec f a = .zero true ∨ FV.dec f b = .zero true) → larger = false → (FV.dec f z).num = (FV.zero true).num →
      FV.dec f z = .zero true := by
    rintro h rfl h0
    rcases h with h | h
    · exact dec_negZero_of_le h ho.1 h0
    · exact dec_negZero_of_le h ho.2 h0
  have hpos : (FV.dec f a = .zero false ∨ FV.dec f b = .zero false) → larger = true → (FV.dec f z).num = (FV.zero true).num →
      FV.dec f z = .zero false := by
    rintro h rfl h0
    rcases h with h | h
    · exact dec_posZero_of_le h ho.1 h0
    · exact dec_posZero_of_le h ho.2 h0
  unfold PickGives
  cases hda : FV.dec f a with
  | nan n fr => exact absurd (by rw [hda]; rfl) ha
  | _ => cases hdb : FV.dec f b with
    | nan n fr => exact absurd (by rw [hdb]; rfl) hb
    | _ =>
      rw [hda, hdb] at hrel hneg hpos
      exact ⟨hz, hrel, hneg, hpos⟩

/-- `fmin` and `fmax` pick as R283 says. -/
theorem pickGives_fminmax (f : Fmt) (larger : Bool) (a b : Nat) : PickGives f larger a b (fminmax f larger a b) := by
  by_cases ha : (FV.dec f a).num = none
  · obtain ⟨n, fr, ha⟩ := num_eq_none.mp ha
    unfold PickGives fminmax
    rw [ha]
    cases FV.dec f b <;> rfl
  by_cases hb : (FV.dec f b).num = none
  · obtain ⟨n, fr, hb⟩ := num_eq_none.mp hb
    unfold PickGives fminmax
    rw [hb]
    cases hd : FV.dec f a with
    | nan n fr => exact absurd (by rw [hd]; rfl) ha
    | _ => rfl
  rw [fminmax_of_num larger ha hb]
  cases larger with
  | true =>
    rw [if_pos rfl]
    refine pickGives_of_num ha hb (by split <;> simp) ?_
    rw [if_pos rfl]
    split <;> omega
  | false =>
    rw [if_neg Bool.false_ne_true]
    refine pickGives_of_num ha hb (by split <;> simp) ?_
    rw [if_neg Bool.false_ne_true]
    split <;> omega

end

end Sys2Proof.Machine
end

section
/-! Reciprocals, roots and quotients (R285, R286): each is a truncated exact result. -/
namespace Sys2Proof.Machine

/-! ### Widths -/

section
variable {f : Fmt}

theorem two_pow_width (f : Fmt) : 2 ^ f.width = 2 ^ (f.ebits + f.fbits) + 2 ^ (f.ebits + f.fbits) := by
  rw [Fmt.width, add_assoc, add_comm, pow_succ]
  ring

theorem signBit_add_lt {M : Nat} (h : M < 2 ^ (f.ebits + f.fbits)) (n : Bool) : signBit f n + M < 2 ^ f.width := by
  rw [two_pow_width, signBit]
  cases n <;> simp <;> omega

theorem signBit_lt (n : Bool) : signBit f n < 2 ^ f.width := signBit_add_lt (M := 0) (Nat.two_pow_pos _) n

theorem infBits_lt (n : Bool) : infBits f n < 2 ^ f.width := by
  unfold infBits
  refine signBit_add_lt ?_ n
  cases f <;> decide

theorem defaultNan_lt : defaultNan f < 2 ^ f.width := by cases f <;> decide

theorem nanBits_lt (n : Bool) (fr : Nat) : nanBits f n fr < 2 ^ f.width := by
  unfold nanBits
  split
  · next h => exact signBit_add_lt (by subst h; decide) n
  · have hq : 0 < 2 ^ (f.fbits - 1) := Nat.two_pow_pos _
    have hr : fr / 2 ^ (52 - f.fbits) % 2 ^ (f.fbits - 1) < 2 ^ (f.fbits - 1) := Nat.mod_lt _ hq
    have hm : f.emask * 2 ^ f.fbits + 2 * 2 ^ (f.fbits - 1) ≤ 2 ^ (f.ebits + f.fbits) := by cases f <;> decide
    rw [add_assoc]
    exact signBit_add_lt (by omega) n

theorem overflowBits_lt (r : Rnd) (n : Bool) : overflowBits f r n < 2 ^ f.width := by
  unfold overflowBits
  have hmax := maxFinite_lt f
  split
  · exact signBit_add_lt hmax n
  · refine signBit_add_lt ?_ n
    have hite : ∀ b : Bool, (if b then f.emask * 2 ^ f.fbits else maxFinite f) < 2 ^ (f.ebits + f.fbits) := by
      intro b
      cases b
      · exact hmax
      · exact infMag_lt
    exact hite _

theorem roundBits_lt (r : Rnd) (n : Bool) (m : Nat) (e : Int) (st : Bool) : roundBits f r n m e st < 2 ^ f.width := by
  have hmax := maxFinite_lt f
  unfold roundBits
  extract_lets
  split
  · exact overflowBits_lt r n
  · exact signBit_add_lt (by omega) n

theorem flush_lt {b : Nat} (h : b < 2 ^ f.width) (ftz : Bool) : flush f ftz b < 2 ^ f.width := by
  unfold flush
  extract_lets sb
  split
  · have hsb : 0 < sb := Nat.two_pow_pos _
    have hm : b / sb % 2 ≤ 1 := by omega
    calc b / sb % 2 * sb ≤ 1 * sb := Nat.mul_le_mul_right _ hm
      _ < 2 ^ f.width := by rw [two_pow_width]; omega
  · exact h

theorem limited_lt {b : Nat} (h : b < 2 ^ f.width) (c : Ctl) : limited f c b < 2 ^ f.width := by
  have hsat : satBits f c.sat b < 2 ^ f.width := by
    unfold satBits
    split
    · split
      · exact signBit_add_lt (maxFinite_lt f) _
      · exact h
    · exact h
  have hbias : f.bias * 2 ^ f.fbits < 2 ^ f.width := by cases f <;> decide
  have hzero : 0 < 2 ^ f.width := Nat.two_pow_pos _
  unfold limited clampBits
  split
  · exact hsat
  · split
    · exact hzero
    · split <;> assumption
    · exact hzero
    · split
      · exact hzero
      · split <;> assumption

/-- A NaN among the exact results is an encoding of the format. -/
def Ex.Fits (f : Fmt) (x : Ex) : Prop := ∀ b, x = .nan b → b < 2 ^ f.width

theorem finishEx_lt {x : Ex} (h : x.Fits f) (c : Ctl) : finishEx f c x < 2 ^ f.width := by
  unfold finishEx
  refine limited_lt ?_ c
  split
  · exact h _ rfl
  · exact infBits_lt _
  · exact signBit_lt _
  · exact flush_lt (roundBits_lt ..) _
  · split <;> exact flush_lt (roundBits_lt ..) _

theorem firstNan_lt {xs : List FV} {b : Nat} (h : firstNan f xs = some b) : b < 2 ^ f.width := by
  obtain ⟨y, -, hy⟩ := List.exists_of_findSome?_eq_some h
  cases y <;> cases hy
  exact nanBits_lt ..

theorem exDiv_fits (x y : FV) : (exDiv f x y).Fits f := by
  intro b h
  unfold exDiv at h
  split at h
  · next hn => cases h; exact firstNan_lt hn
  · split at h <;> cases h <;> exact defaultNan_lt

theorem exSqrt_fits (x : FV) : (exSqrt f x).Fits f := by
  intro b h
  unfold exSqrt at h
  split at h
  · cases h; exact nanBits_lt ..
  · cases h
  · split at h <;> cases h; exact defaultNan_lt
  · split at h <;> cases h; exact defaultNan_lt

theorem exRsqrt_fits (x : FV) : (exRsqrt f x).Fits f := by
  intro b h
  unfold exRsqrt at h
  split at h
  · cases h; exact nanBits_lt ..
  · cases h
  · split at h <;> cases h; exact defaultNan_lt
  · split at h <;> cases h; exact defaultNan_lt

end

/-! ### Truncated results -/

/-- The exact result is the real v, truncated to more bits than the format has. -/
def Ex.IsTruncated (f : Fmt) (x : Ex) (v : ℝ) : Prop :=
  ∃ n m e st, x = .fin n m e st ∧ m ≠ 0 ∧ (st = true → 2 ^ (f.fbits + 1) ≤ m) ∧ Truncates m e st |v| ∧ (n = true ↔ v < 0)

theorem leaves_isTruncated {f : Fmt} {x : Ex} {v : ℝ} (c : Ctl) (h : x.IsTruncated f v) :
    Leaves f c (RoundsTo f c.rnd) v (finishEx f c x) := by
  obtain ⟨n, m, e, st, rfl, hm, hst, ht, hn⟩ := h
  exact leaves_fin c hm hst ht hn

theorem le_two_pow_fbits {f : Fmt} {m : Nat} (h : 2 ^ 64 ≤ m) : 2 ^ (f.fbits + 1) ≤ m :=
  le_trans (Nat.pow_le_pow_right (by omega) (by cases f <;> decide)) h

/-- A quotient of whole numbers, with its remainder. -/
theorem truncates_div (a : Nat) {p : Nat} (hp : p ≠ 0) (e : Int) : Truncates (a / p) e (a % p != 0) ((a : ℝ) / p * 2 ^ e) := by
  have hpos : (0 : ℝ) < p := by exact_mod_cast Nat.pos_of_ne_zero hp
  have hz := two_zpow_pos (K := ℝ) e
  have hdm : (p : ℝ) * (a / p : Nat) + (a % p : Nat) = a := by exact_mod_cast Nat.div_add_mod a p
  have hlt : ((a % p : Nat) : ℝ) < p := by exact_mod_cast Nat.mod_lt a (Nat.pos_of_ne_zero hp)
  rcases Nat.eq_zero_or_pos (a % p) with h0 | h0
  · rw [h0]
    show _ = _
    rw [h0, Nat.cast_zero, add_zero] at hdm
    rw [← hdm, mul_div_cancel_left₀ _ hpos.ne']
  · have h0' : (0 : ℝ) < (a % p : Nat) := by exact_mod_cast h0
    rw [show (a % p != 0) = true by simp; omega]
    refine ⟨mul_lt_mul_of_pos_right ?_ hz, mul_lt_mul_of_pos_right ?_ hz⟩
    · rw [lt_div_iff₀ hpos]
      linarith [mul_comm (p : ℝ) (a / p : Nat)]
    · rw [div_lt_iff₀ hpos]
      push_cast
      linarith [mul_comm (p : ℝ) (a / p : Nat)]

/-- A root of a real between two squares. -/
theorem truncates_sqrt {r : Nat} {q : ℝ} (h0 : (r : ℝ) * r ≤ q) (h1 : q < ((r + 1 : Nat) : ℝ) * (r + 1 : Nat)) {st : Bool}
    (hst : st = true ↔ (r : ℝ) * r ≠ q) (e : Int) : Truncates r e st (√q * 2 ^ e) := by
  have hz := two_zpow_pos (K := ℝ) e
  cases st with
  | false =>
    have he : (r : ℝ) * r = q := not_not.mp (mt hst.mpr Bool.false_ne_true)
    show _ = _
    rw [← he, Real.sqrt_mul_self (Nat.cast_nonneg r)]
  | true =>
    have hlt := lt_of_le_of_ne h0 (hst.mp rfl)
    refine ⟨mul_lt_mul_of_pos_right (Real.lt_sqrt_of_sq_lt ?_) hz, mul_lt_mul_of_pos_right ?_ hz⟩
    · rwa [sq]
    · rw [Real.sqrt_lt' (by positivity), sq]
      exact h1

/-! ### Quotients -/

theorem abs_fin (n : Bool) (m : Nat) (e : Int) : |((sgn n * (m : ℚ) * 2 ^ e : ℚ) : ℝ)| = m * 2 ^ e := by
  have : (0 : ℝ) ≤ m * 2 ^ e := mul_nonneg (Nat.cast_nonneg m) (two_zpow_pos e).le
  cases n <;> push_cast [sgn_true, sgn_false] <;> simp [abs_of_nonneg, this]

theorem fin_neg_iff {n : Bool} {m : Nat} (hm : m ≠ 0) (e : Int) : ((sgn n * (m : ℚ) * 2 ^ e : ℚ) : ℝ) < 0 ↔ n = true := by
  have : (0 : ℝ) < m * 2 ^ e := mul_pos (by exact_mod_cast Nat.pos_of_ne_zero hm) (two_zpow_pos e)
  cases n <;> push_cast [sgn_true, sgn_false]
  · simpa using this.le
  · simpa using this

theorem exDiv_fin {f : Fmt} (n k : Bool) (m p : Nat) (e d : Int) : exDiv f (.fin n m e) (.fin k p d) =
    .fin (n != k) (m * 2 ^ (64 + bitLen p) / p) (e - d - (64 + bitLen p : Nat)) (m * 2 ^ (64 + bitLen p) % p != 0) := rfl

theorem le_quotient {m p : Nat} (hm : m ≠ 0) (hp : p ≠ 0) : 2 ^ 64 ≤ m * 2 ^ (64 + bitLen p) / p := by
  rw [Nat.le_div_iff_mul_le (Nat.pos_of_ne_zero hp), pow_add]
  have := (lt_two_pow_bitLen p).le
  calc 2 ^ 64 * p ≤ 2 ^ 64 * 2 ^ bitLen p := Nat.mul_le_mul_left _ this
    _ ≤ m * (2 ^ 64 * 2 ^ bitLen p) := Nat.le_mul_of_pos_left _ (Nat.pos_of_ne_zero hm)

theorem exDiv_isTruncated {f : Fmt} {n k : Bool} {m p : Nat} (hm : m ≠ 0) (hp : p ≠ 0) (e d : Int) :
    (exDiv f (.fin n m e) (.fin k p d)).IsTruncated f
      (((sgn n * (m : ℚ) * 2 ^ e : ℚ) : ℝ) / ((sgn k * (p : ℚ) * 2 ^ d : ℚ) : ℝ)) := by
  have hq := le_quotient hm hp
  rw [exDiv_fin]
  refine ⟨_, _, _, _, rfl, by omega, fun _ => le_two_pow_fbits hq, ?_, ?_⟩
  · have h := truncates_div (m * 2 ^ (64 + bitLen p)) hp (e - d - (64 + bitLen p : Nat))
    have hval : |((sgn n * (m : ℚ) * 2 ^ e : ℚ) : ℝ) / ((sgn k * (p : ℚ) * 2 ^ d : ℚ) : ℝ)| =
        ((m * 2 ^ (64 + bitLen p) : Nat) : ℝ) / p * 2 ^ (e - d - (64 + bitLen p : Nat)) := by
      rw [abs_div, abs_fin, abs_fin, zpow_sub₀ two_ne_zero, zpow_sub₀ two_ne_zero, zpow_natCast]
      push_cast
      have := (two_zpow_pos (K := ℝ) d).ne'
      field_simp
    rwa [hval]
  · have hn := fin_neg_iff (n := n) hm e
    have hk := fin_neg_iff (n := k) hp d
    have hn0 := (Rat.cast_ne_zero (α := ℝ)).mpr (sgn_mul_ne_zero (n := n) (e := e) hm)
    have hk0 := (Rat.cast_ne_zero (α := ℝ)).mpr (sgn_mul_ne_zero (n := k) (e := d) hp)
    generalize ((sgn n * (m : ℚ) * 2 ^ e : ℚ) : ℝ) = a at *
    generalize ((sgn k * (p : ℚ) * 2 ^ d : ℚ) : ℝ) = b at *
    rw [div_neg_iff, hn, hk]
    have hn' : 0 < a ↔ n = false := by rw [← Bool.not_eq_true, ← hn, not_lt]; exact ⟨le_of_lt, fun h => lt_of_le_of_ne h hn0.symm⟩
    have hk' : 0 < b ↔ k = false := by rw [← Bool.not_eq_true, ← hk, not_lt]; exact ⟨le_of_lt, fun h => lt_of_le_of_ne h hk0.symm⟩
    rw [hn', hk']
    cases n <;> cases k <;> simp

/-! ### Roots -/

theorem isqrtGo_spec {n : Nat} : ∀ {k r : Nat}, r * r ≤ n → n < (r + 2 ^ k) * (r + 2 ^ k) →
    isqrtGo n k r * isqrtGo n k r ≤ n ∧ n < (isqrtGo n k r + 1) * (isqrtGo n k r + 1)
  | 0, _, h0, h1 => ⟨h0, h1⟩
  | k + 1, r, h0, h1 => by
    rw [isqrtGo]
    split
    · next h => exact isqrtGo_spec h (by rwa [add_assoc, ← two_mul, ← pow_succ'])
    · next h => exact isqrtGo_spec h0 (not_le.mp h)

theorem isqrt_spec (n : Nat) : isqrt n * isqrt n ≤ n ∧ n < (isqrt n + 1) * (isqrt n + 1) := by
  refine isqrtGo_spec (Nat.zero_le _) ?_
  rw [Nat.zero_add, ← pow_add]
  exact (lt_two_pow_bitLen n).trans_le (Nat.pow_le_pow_right (by omega) (by omega))

theorem le_isqrt {k n : Nat} (h : 2 ^ (2 * k) ≤ n) : 2 ^ k ≤ isqrt n := by
  by_contra hlt
  have h1 := (isqrt_spec n).2
  have h2 : (isqrt n + 1) * (isqrt n + 1) ≤ 2 ^ k * 2 ^ k := Nat.mul_le_mul (by omega) (by omega)
  rw [← pow_add, ← two_mul] at h2
  omega

/-- The significand and the exponent of a root's argument, its exponent made even. -/
def evenSig (m : Nat) (e : Int) : Nat := if e % 2 = 0 then m else 2 * m
def evenExp (e : Int) : Int := if e % 2 = 0 then e else e - 1

theorem evenSig_pos {m : Nat} (hm : m ≠ 0) (e : Int) : 0 < evenSig m e := by unfold evenSig; split <;> omega

theorem evenExp_half (e : Int) : evenExp e = evenExp e / 2 + evenExp e / 2 := by unfold evenExp; split <;> omega

theorem even_value (m : Nat) (e : Int) : (m : ℝ) * 2 ^ e = evenSig m e * 2 ^ evenExp e := by
  unfold evenSig evenExp
  split
  · rfl
  · rw [zpow_sub_one₀ two_ne_zero]
    push_cast
    ring

theorem sqrt_mul_zpow {a : ℝ} (ha : 0 ≤ a) (k : Int) : √(a * 2 ^ (k + k)) = √a * 2 ^ k := by
  rw [zpow_add₀ two_ne_zero, Real.sqrt_mul ha, Real.sqrt_mul_self (two_zpow_pos k).le]

theorem exSqrt_fin {f : Fmt} (m : Nat) (e : Int) : exSqrt f (.fin false m e) = .fin false (isqrt (evenSig m e * 2 ^ 128))
    (evenExp e / 2 - 64) (isqrt (evenSig m e * 2 ^ 128) * isqrt (evenSig m e * 2 ^ 128) != evenSig m e * 2 ^ 128) := rfl

theorem exSqrt_isTruncated {f : Fmt} {m : Nat} (hm : m ≠ 0) (e : Int) :
    (exSqrt f (.fin false m e)).IsTruncated f √((sgn false * (m : ℚ) * 2 ^ e : ℚ) : ℝ) := by
  have hpos := evenSig_pos hm e
  have hroot : 2 ^ 64 ≤ isqrt (evenSig m e * 2 ^ 128) := le_isqrt (by omega)
  obtain ⟨h0, h1⟩ := isqrt_spec (evenSig m e * 2 ^ 128)
  rw [exSqrt_fin]
  refine ⟨_, _, _, _, rfl, by omega, fun _ => le_two_pow_fbits hroot, ?_, iff_of_false Bool.false_ne_true (Real.sqrt_nonneg _).not_gt⟩
  have hval : √((sgn false * (m : ℚ) * 2 ^ e : ℚ) : ℝ) = √((evenSig m e * 2 ^ 128 : Nat) : ℝ) * 2 ^ (evenExp e / 2 - 64) := by
    rw [← sqrt_mul_zpow (Nat.cast_nonneg _)]
    congr 1
    push_cast [sgn_false]
    rw [one_mul, even_value, show evenExp e / 2 - 64 + (evenExp e / 2 - 64) = evenExp e - 128 by have := evenExp_half e; omega,
      zpow_sub₀ two_ne_zero, zpow_ofNat]
    ring
  rw [hval, abs_of_nonneg (mul_nonneg (Real.sqrt_nonneg _) (two_zpow_pos _).le)]
  generalize evenSig m e * 2 ^ 128 = N at *
  refine truncates_sqrt (by exact_mod_cast h0) (by exact_mod_cast h1) ?_ _
  rw [bne_iff_ne]
  exact_mod_cast Iff.rfl

/-- The bits of a reciprocal root's argument, an even number. -/
def rsqrtBits (m : Nat) : Nat := if (bitLen m + 140) % 2 = 0 then bitLen m + 140 else bitLen m + 140 + 1

theorem exRsqrt_fin {f : Fmt} (m : Nat) (e : Int) : exRsqrt f (.fin false m e) = .fin false
    (isqrt (2 ^ rsqrtBits (evenSig m e) / evenSig m e)) (-(evenExp e / 2) - (rsqrtBits (evenSig m e) / 2 : Nat))
    (isqrt (2 ^ rsqrtBits (evenSig m e) / evenSig m e) * isqrt (2 ^ rsqrtBits (evenSig m e) / evenSig m e)
      != 2 ^ rsqrtBits (evenSig m e) / evenSig m e || 2 ^ rsqrtBits (evenSig m e) % evenSig m e != 0) := rfl

theorem le_rsqrt_quotient {p : Nat} (hp : 0 < p) : 2 ^ 128 ≤ 2 ^ rsqrtBits p / p := by
  have hs : 128 + bitLen p ≤ rsqrtBits p := by unfold rsqrtBits; split <;> omega
  rw [Nat.le_div_iff_mul_le hp]
  calc 2 ^ 128 * p ≤ 2 ^ 128 * 2 ^ bitLen p := Nat.mul_le_mul_left _ (lt_two_pow_bitLen p).le
    _ = 2 ^ (128 + bitLen p) := (pow_add ..).symm
    _ ≤ _ := Nat.pow_le_pow_right (by omega) hs

/-- The root of a quotient's whole part is the whole part of the quotient's root. -/
theorem truncates_sqrt_div (a : Nat) {p : Nat} (hp : 0 < p) (e : Int) :
    Truncates (isqrt (a / p)) e (isqrt (a / p) * isqrt (a / p) != a / p || a % p != 0) (√((a : ℝ) / p) * 2 ^ e) := by
  obtain ⟨h0, h1⟩ := isqrt_spec (a / p)
  have hpos : (0 : ℝ) < p := by exact_mod_cast hp
  generalize isqrt (a / p) = r at *
  have hle : r * r * p ≤ a := (Nat.le_div_iff_mul_le hp).mp h0
  have hlt : a < (r + 1) * (r + 1) * p := (Nat.div_lt_iff_lt_mul hp).mp h1
  refine truncates_sqrt ?_ ?_ ?_ e
  · rw [le_div_iff₀ hpos]
    exact_mod_cast hle
  · rw [div_lt_iff₀ hpos]
    exact_mod_cast hlt
  · have hiff : (r : ℝ) * r = a / p ↔ r * r * p = a := by
      rw [eq_div_iff hpos.ne']
      exact_mod_cast Iff.rfl
    rw [Ne, hiff, Bool.or_eq_true, bne_iff_ne, bne_iff_ne, ← not_and_or]
    refine not_congr ⟨fun ⟨hr, hm⟩ => ?_, fun h => ?_⟩
    · have := Nat.div_add_mod a p
      rw [← hr, hm, Nat.add_zero] at this
      rw [mul_comm, this]
    · rw [← h]
      exact ⟨(Nat.mul_div_cancel _ hp).symm, Nat.mul_mod_left ..⟩

theorem exRsqrt_isTruncated {f : Fmt} {m : Nat} (hm : m ≠ 0) (e : Int) :
    (exRsqrt f (.fin false m e)).IsTruncated f (1 / √((sgn false * (m : ℚ) * 2 ^ e : ℚ) : ℝ)) := by
  have hpos := evenSig_pos hm e
  have hroot : 2 ^ 64 ≤ isqrt (2 ^ rsqrtBits (evenSig m e) / evenSig m e) := le_isqrt (le_rsqrt_quotient hpos)
  rw [exRsqrt_fin]
  have hval : 1 / √((sgn false * (m : ℚ) * 2 ^ e : ℚ) : ℝ) = √(((2 ^ rsqrtBits (evenSig m e) : Nat) : ℝ) / evenSig m e)
      * 2 ^ (-(evenExp e / 2) - (rsqrtBits (evenSig m e) / 2 : Nat) : Int) := by
    have heven : (rsqrtBits (evenSig m e) : Int) = (rsqrtBits (evenSig m e) / 2 : Nat) + (rsqrtBits (evenSig m e) / 2 : Nat) := by
      have : rsqrtBits (evenSig m e) % 2 = 0 := by unfold rsqrtBits; split <;> omega
      omega
    rw [← sqrt_mul_zpow (by positivity), one_div, ← Real.sqrt_inv]
    congr 1
    push_cast [sgn_false]
    rw [one_mul, even_value, mul_inv, ← zpow_neg, ← zpow_natCast (2 : ℝ) (rsqrtBits (evenSig m e)), div_eq_mul_inv, mul_right_comm,
      ← zpow_add₀ two_ne_zero, mul_comm]
    congr 2
    have := evenExp_half e
    omega
  refine ⟨_, _, _, _, rfl, by omega, fun _ => le_two_pow_fbits hroot, ?_, ?_⟩
  · rw [hval, abs_of_nonneg (mul_nonneg (Real.sqrt_nonneg _) (two_zpow_pos _).le)]
    exact truncates_sqrt_div _ hpos _
  · exact iff_of_false Bool.false_ne_true (one_div_nonneg.mpr (Real.sqrt_nonneg _)).not_gt

/-! ### The functions of R285 that a quotient or a root gives -/

/-- x is the exact result of function fn on the values xs: the first NaN, what R286 gives, or the real. -/
structure FnMeans (fn : Fn) (f : Fmt) (xs : List FV) (x : Ex) : Prop where
  fits : x.Fits f
  nan : ∀ b, firstNan f xs = some b → x = .nan b
  special : ∀ b, firstNan f xs = none → fn.special f xs = some b → x.special f = some b
  real : ∀ qs, fn.special f xs = none → xs.map FV.rat = qs.map some → x.IsTruncated f (fn.real qs)

theorem rats_one {x : FV} {qs : List ℚ} (h : [x].map FV.rat = qs.map some) : ∃ p, qs = [p] ∧ x.rat = some p := by
  obtain ⟨p, ps, rfl, hp, h⟩ := List.map_eq_cons_iff.mp h.symm
  obtain rfl := List.map_eq_nil_iff.mp h
  exact ⟨p, rfl, hp.symm⟩

section
variable {f : Fmt} {x y : FV}

theorem exDiv_nan {n : Nat} (h : firstNan f [x, y] = some n) : exDiv f x y = .nan n := by unfold exDiv; rw [h]

theorem fnMeans_div (hx : x.Proper) (hy : y.Proper) : FnMeans .div f [x, y] (exDiv f x y) where
  fits := exDiv_fits x y
  nan _ := exDiv_nan
  special b hn hb := by
    rcases x with ⟨n, fr⟩ | n | n | ⟨n, m, e⟩ <;> rcases y with ⟨k, fk⟩ | k | k | ⟨k, l, d⟩ <;> cases hb <;> rfl
  real qs hs hq := by
    obtain ⟨p, q, rfl, hp, hq⟩ := rats_two hq
    rcases x with ⟨n, fr⟩ | n | n | ⟨n, m, e⟩ <;> rcases y with ⟨k, fk⟩ | k | k | ⟨k, l, d⟩ <;> cases hp <;> cases hq
    case fin.fin => exact exDiv_isTruncated hx hy e d
    all_goals cases hs

/-- The reciprocal as a quotient. -/
def exRcp (f : Fmt) (x : FV) : Ex :=
  match x with
  | .nan n fr => .nan (nanBits f n fr)
  | _ => exDiv f (.fin false 1 0) x

theorem fnMeans_rcp (hx : x.Proper) : FnMeans .rcp f [x] (exRcp f x) where
  fits := by
    unfold exRcp
    split
    · intro b h; cases h; exact nanBits_lt ..
    · exact exDiv_fits _ _
  nan b hb := by rcases x with ⟨n, fr⟩ | n | n | ⟨n, m, e⟩ <;> cases hb; rfl
  special b _ hb := by
    rcases x with ⟨n, fr⟩ | n | n | ⟨n, m, e⟩ <;> cases hb
    · show some (signBit f (false != n)) = _
      rw [Bool.false_bne]
    · show some (infBits f (false != n)) = _
      rw [Bool.false_bne]
  real qs hs hq := by
    obtain ⟨p, rfl, hp⟩ := rats_one hq
    rcases x with ⟨n, fr⟩ | n | n | ⟨n, m, e⟩ <;> cases hp
    case fin =>
      have h := exDiv_isTruncated (f := f) (n := false) (k := n) one_ne_zero hx 0 e
      rwa [show (sgn false * ((1 : Nat) : ℚ) * 2 ^ (0 : Int) : ℚ) = 1 by simp, Rat.cast_one] at h
    all_goals cases hs

theorem fnMeans_sqrt (hx : x.Proper) : FnMeans .sqrt f [x] (exSqrt f x) where
  fits := exSqrt_fits x
  nan b hb := by rcases x with ⟨n, fr⟩ | n | n | ⟨n, m, e⟩ <;> cases hb; rfl
  special b _ hb := by rcases x with ⟨n, fr⟩ | ⟨_ | _⟩ | n | ⟨⟨_ | _⟩, m, e⟩ <;> cases hb <;> rfl
  real qs hs hq := by
    obtain ⟨p, rfl, hp⟩ := rats_one hq
    rcases x with ⟨n, fr⟩ | n | n | ⟨⟨_ | _⟩, m, e⟩ <;> cases hp
    case fin.false => exact exSqrt_isTruncated hx e
    all_goals cases hs

theorem fnMeans_rsqrt (hx : x.Proper) : FnMeans .rsqrt f [x] (exRsqrt f x) where
  fits := exRsqrt_fits x
  nan b hb := by rcases x with ⟨n, fr⟩ | n | n | ⟨n, m, e⟩ <;> cases hb; rfl
  special b _ hb := by rcases x with ⟨n, fr⟩ | ⟨_ | _⟩ | n | ⟨⟨_ | _⟩, m, e⟩ <;> cases hb <;> rfl
  real qs hs hq := by
    obtain ⟨p, rfl, hp⟩ := rats_one hq
    rcases x with ⟨n, fr⟩ | n | n | ⟨⟨_ | _⟩, m, e⟩ <;> cases hp
    case fin.false => exact exRsqrt_isTruncated hx e
    all_goals cases hs

end

/-! ### The instructions -/

/-- A unit of one element. -/
theorem elements_one {ty : Ty} {f : Fmt} (h : (ty = .f32 ∧ f = .f32) ∨ (ty = .f64 ∧ f = .f64)) {F : Nat → Nat} (hF : F 0 < 2 ^ f.width) :
    elements ty F = BitVec.ofNat 64 (F 0) := by
  have hpack : ∀ w, F 0 < 2 ^ w → packElems w [F 0] = BitVec.ofNat 64 (F 0) := fun w hw => by
    show BitVec.ofNat 64 (F 0 % 2 ^ w + 0 * 2 ^ w) = _
    rw [Nat.mod_eq_of_lt hw, Nat.zero_mul, Nat.add_zero]
  rcases h with ⟨rfl, rfl⟩ | ⟨rfl, rfl⟩
  · exact hpack 32 hF
  · exact hpack 64 hF

theorem fmtD_of {ty : Ty} {f : Fmt} (h : (ty = .f32 ∧ f = .f32) ∨ (ty = .f64 ∧ f = .f64)) : Ty.fmtD ty = f := by
  rcases h with ⟨rfl, rfl⟩ | ⟨rfl, rfl⟩ <;> rfl

/-- An instruction of `functionSpec` but for the powers rounds the exact result of its sources. -/
theorem functionSpec_means {i : Instr} {h : Hd} {ty : Ty} {d : Opnd} {xs : List Opnd} {fn : Fn} {f : Fmt} {s : State} {r : GRef} {t : Team}
    {g : Group} (e : functionSpec i = some (h, ty, d, xs, fn)) (he : fn ≠ .exp2) (hl : fn ≠ .log2)
    (hf : (ty = .f32 ∧ f = .f32) ∨ (ty = .f64 ∧ f = .f64)) (hi : Issuing s r t g) (ha : Alone h) (hp : Passes i t g s.m.draw)
    (hact : Active h g s.m.draw) :
    ∃ x : Nat → Nat → Ex,
      Yields i h s r g d ty.wide (fun l => elements ty (fun k => finishEx f (ctlOf h (fpcOf s.m t.ctx)) (x l k)))
        ∧ ∀ l k, FnMeans fn f (xs.mapIdx (fun j o => FV.dec f (floatSrc h ty (ctlOf h (fpcOf s.m t.ctx)) g s.m.draw j o l k))) (x l k) := by
  obtain rfl := fmtD_of hf
  cases i
  case fdiv =>
    cases e
    exact ⟨_, yields_farith2 (k := .round .div) rfl rfl hi ha hp hact, fun _ _ => fnMeans_div (dec_proper ..) (dec_proper ..)⟩
  case frcp =>
    cases e
    exact ⟨_, yields_farith1 (k := .round .rcp) rfl rfl hi ha hp hact, fun _ _ => fnMeans_rcp (dec_proper ..)⟩
  case fsqrt =>
    cases e
    exact ⟨_, yields_farith1 (k := .round .sqrt) rfl rfl hi ha hp hact, fun _ _ => fnMeans_sqrt (dec_proper ..)⟩
  case frsqrt =>
    cases e
    exact ⟨_, yields_farith1 (k := .round .rsqrt) rfl rfl hi ha hp hact, fun _ _ => fnMeans_rsqrt (dec_proper ..)⟩
  case fexp2 => cases e; exact absurd rfl he
  case flog2 => cases e; exact absurd rfl hl
  all_goals cases e

/-- The minimum and the maximum of an instruction pick one source of each element. -/
theorem minmax_gives {i : Instr} {h : Hd} {ty : Ty} {d a b : Opnd} {larger : Bool} {s : State} {r : GRef} {t : Team} {g : Group}
    (ho : opOf i = some (h, farith2 (.minmax larger) h ty d a b)) (hreg : regOnly i = some (h, d.ids ty.wide)) (hi : Issuing s r t g)
    (ha : Alone h) (hp : Passes i t g s.m.draw) (hact : Active h g s.m.draw) :
    let f := Ty.fmtD ty
    let c := ctlOf h (fpcOf s.m t.ctx)
    let x := fun j o l k => floatSrc h ty c g s.m.draw j o l k
    ∃ F : Nat → Nat → Nat, Yields i h s r g d ty.wide (fun l => elements ty (F l))
      ∧ ∀ l k, ∃ y, PickGives f larger (x 0 a l k) (x 1 b l k) y ∧ F l k = flush f c.ftz y :=
  ⟨_, yields_farith2 ho hreg hi ha hp hact, fun _ _ => ⟨_, pickGives_fminmax .., rfl⟩⟩

/-- Settles O26: each function leaves its exact result truncated to more bits than its format has (`FnMeans`), and the minimum and
maximum pick by an order that is that of the values. -/
theorem floatFunctions : Obligations.FloatFunctions := by
  unfold Obligations.FloatFunctions
  refine ⟨?_, ?_⟩
  · intro i h ty d xs fn f s r t g e he hl hf hi ha hp hact c src
    obtain ⟨x, hy, hm⟩ := functionSpec_means e he hl hf hi ha hp hact
    refine ⟨fun l => finishEx f c (x l 0), hy.congr fun l _ => elements_one hf (finishEx_lt (hm l 0).fits c), fun l =>
      ⟨fun n fr pre rest hsrc hpre => ?_, fun hnum => ⟨fun b hb => ?_, fun qs hs hqs => ?_⟩⟩⟩
    · have hfirst : firstNan f (src l) = some (nanBits f n fr) := hsrc ▸ firstNan_nan hpre
      exact finishEx_special c (by rw [(hm l 0).nan _ hfirst]; rfl)
    · exact finishEx_special c ((hm l 0).special b (firstNan_none hnum) hb)
    · exact leaves_isTruncated c ((hm l 0).real qs hs hqs)
  · intro i h ty d a b larger s r t g hspec _ hi ha hp hact
    rcases hspec with ⟨rfl, rfl⟩ | ⟨rfl, rfl⟩ | ⟨rfl, rfl⟩ | ⟨rfl, rfl⟩ <;> exact minmax_gives rfl rfl hi ha hp hact

end Sys2Proof.Machine
end

section
/-! Votes, reductions and scans over the lanes of one group (R97, R268 to R271). -/
namespace Sys2Proof.Machine

/-! ### Integers of a width -/

section
variable {w : Nat} {signed : Bool}

theorem wrapTo_lt (w : Nat) (v : Int) : wrapTo w v < 2 ^ w := by
  have hp : (0 : Int) < (2 ^ w : Nat) := by exact_mod_cast Nat.two_pow_pos w
  have := Int.emod_nonneg v hp.ne'
  have := Int.emod_lt_of_pos v hp
  unfold wrapTo
  omega

theorem wrapTo_intOf (signed : Bool) {x : Nat} (h : x < 2 ^ w) : wrapTo w (intOf signed w x) = x := by
  unfold wrapTo intOf
  rw [Nat.mod_eq_of_lt h]
  have hx : ((x : Int) % (2 ^ w : Nat)) = x := by exact_mod_cast congrArg Nat.cast (Nat.mod_eq_of_lt h)
  dsimp only
  split
  · rw [Int.sub_emod_right, hx, Int.toNat_natCast]
  · rw [hx, Int.toNat_natCast]

theorem intOf_wrapTo {v : Int} (hw : w ≠ 0) (hlo : intMin signed w ≤ v) (hhi : v ≤ intMax signed w) : intOf signed w (wrapTo w v) = v := by
  obtain ⟨n, rfl⟩ := Nat.exists_eq_succ_of_ne_zero hw
  have hlt := wrapTo_lt (n + 1) v
  unfold intOf
  rw [Nat.mod_eq_of_lt hlt]
  have hpow : 2 ^ (n + 1) = 2 * 2 ^ n := by ring
  have hmod : (wrapTo (n + 1) v : Int) = v % (2 ^ (n + 1) : Nat) := by
    unfold wrapTo
    exact Int.toNat_of_nonneg (Int.emod_nonneg v (by exact_mod_cast (Nat.two_pow_pos (n + 1)).ne'))
  have hdm := Int.emod_add_mul_ediv v (2 ^ (n + 1) : Nat)
  simp only [Nat.succ_eq_add_one, Nat.add_sub_cancel]
  unfold intMin at hlo
  unfold intMax at hhi
  simp only [Nat.succ_eq_add_one, Nat.add_sub_cancel] at hlo hhi
  have hpn := Nat.two_pow_pos n
  rw [← hmod] at hdm
  generalize wrapTo (n + 1) v = x at *
  generalize v / ((2 ^ (n + 1) : Nat) : Int) = q at *
  rw [hpow] at *
  generalize 2 ^ n = p at *
  push_cast at hdm hlo hhi
  have hp0 : (0 : Int) < p := by exact_mod_cast hpn
  have hx0 : (0 : Int) ≤ x := Int.natCast_nonneg x
  have hx1 : (x : Int) < 2 * p := by exact_mod_cast hlt
  cases signed with
  | true =>
    simp only [if_true, true_and] at *
    have : q = 0 ∨ q = -1 := by
      have h1 : q < 1 := by by_contra hq; nlinarith
      have h2 : -2 < q := by by_contra hq; nlinarith
      omega
    rcases this with rfl | rfl
    · rw [if_neg (by omega)]
      omega
    · rw [if_pos (by omega)]
      omega
  | false =>
    simp only [Bool.false_eq_true, if_false, false_and] at *
    have : q = 0 := by
      have h1 : q < 1 := by by_contra hq; nlinarith
      have h2 : -1 < q := by by_contra hq; nlinarith
      omega
    subst this
    omega

theorem intMin_le_intMax : intMin signed w ≤ intMax signed w := by
  have h1 : (0 : Int) < (2 ^ (w - 1) : Nat) := by exact_mod_cast Nat.two_pow_pos (w - 1)
  have h2 : (0 : Int) < (2 ^ w : Nat) := by exact_mod_cast Nat.two_pow_pos w
  unfold intMin intMax
  cases signed <;> simp only [if_true, Bool.false_eq_true, if_false] <;> omega

end

/-! ### Numbers by their bits -/

theorem ofBits_succ (w : Nat) (f : Nat → Bool) : ofBits (w + 1) f = ofBits w f + if f w then 2 ^ w else 0 := by
  rw [ofBits, List.range_succ, List.foldl_concat, ofBits]

theorem ofBits_lt (w : Nat) (f : Nat → Bool) : ofBits w f < 2 ^ w := by
  induction w with
  | zero => exact Nat.one_pos
  | succ w ih =>
    rw [ofBits_succ, pow_succ]
    split <;> omega

theorem testBit_ofBits (w : Nat) (f : Nat → Bool) (i : Nat) : (ofBits w f).testBit i = (decide (i < w) && f i) := by
  induction w with
  | zero => simp [ofBits]
  | succ w ih =>
    rw [ofBits_succ, Nat.add_comm]
    rcases Nat.lt_trichotomy i w with hlt | rfl | hgt
    · rw [show decide (i < w + 1) = decide (i < w) by simp [hlt, Nat.lt_succ_of_lt hlt], ← ih]
      split
      · exact Nat.testBit_two_pow_add_gt hlt _
      · rw [Nat.zero_add]
    · rw [decide_eq_true (Nat.lt_succ_self i), Bool.true_and]
      have hz : (ofBits i f).testBit i = false := by rw [ih]; simp
      split
      · next h => rw [Nat.testBit_two_pow_add_eq, hz, h]; rfl
      · next h => rw [Nat.zero_add, hz]; simpa using h
    · rw [decide_eq_false (by omega), Bool.false_and, Nat.add_comm, ← ofBits_succ]
      exact Nat.testBit_lt_two_pow ((ofBits_lt _ _).trans_le (Nat.pow_le_pow_right (by omega) (by omega)))

/-- A number below 2^w is known by its low w bits. -/
theorem eq_ofBits {w n : Nat} {f : Nat → Bool} (hn : n < 2 ^ w) (h : ∀ i, i < w → n.testBit i = f i) : n = ofBits w f := by
  refine Nat.eq_of_testBit_eq fun i => ?_
  rw [testBit_ofBits]
  by_cases hi : i < w
  · rw [h i hi, decide_eq_true hi, Bool.true_and]
  · rw [decide_eq_false hi, Bool.false_and]
    exact Nat.testBit_lt_two_pow (hn.trans_le (Nat.pow_le_pow_right (by omega) (by omega)))

/-! ### Integer reductions -/

section
variable {w : Nat} {signed : Bool}

/-- A fold that keeps one of two encodings keeps the smaller, or the larger, of their integers. -/
theorem foldl_pick {op : Int → Int → Int} {pick : Nat → Nat → Nat} (hassoc : ∀ a b c, op (op a b) c = op a (op b c))
    (hcomm : ∀ a b, op a b = op b a) (hpick : ∀ s x, pick s x = s ∨ pick s x = x)
    (hop : ∀ s x, intOf signed w (pick s x) = op (intOf signed w x) (intOf signed w s)) (xs : List Nat) (hxs : ∀ x ∈ xs, x < 2 ^ w) :
    ∀ s, s < 2 ^ w → xs.foldl pick s = wrapTo w ((xs.map (intOf signed w)).foldr op (intOf signed w s)) := by
  have hleft : ∀ (l : List Int) a b, l.foldr op (op a b) = op a (l.foldr op b) := by
    intro l a b
    induction l with
    | nil => rfl
    | cons c l ih => rw [List.foldr_cons, ih, List.foldr_cons, ← hassoc, hcomm c a, hassoc]
  induction xs with
  | nil => exact fun s hs => (wrapTo_intOf signed hs).symm
  | cons x xs ih =>
    intro s hs
    have hx := hxs x (List.mem_cons_self ..)
    have hlt : pick s x < 2 ^ w := by rcases hpick s x with h | h <;> rw [h] <;> assumption
    rw [List.foldl_cons, ih (fun y hy => hxs y (List.mem_cons_of_mem _ hy)) _ hlt, hop, hleft, List.map_cons, List.foldr_cons]

theorem foldl_add (int : Nat → Int) (xs : List Nat) : xs.foldl (fun s x => s + int x) 0 = (xs.map int).sum := by
  rw [List.sum_eq_foldl, List.foldl_map]

theorem testBit_foldl_and (xs : List Nat) (i : Nat) : ∀ s, (xs.foldl (fun s x => s &&& x) s).testBit i = (s.testBit i && xs.all (·.testBit i)) := by
  induction xs with
  | nil => simp
  | cons x xs ih => intro s; rw [List.foldl_cons, ih, Nat.testBit_and, List.all_cons, Bool.and_assoc]

theorem testBit_foldl_or (xs : List Nat) (i : Nat) : ∀ s, (xs.foldl (fun s x => s ||| x) s).testBit i = (s.testBit i || xs.any (·.testBit i)) := by
  induction xs with
  | nil => simp
  | cons x xs ih => intro s; rw [List.foldl_cons, ih, Nat.testBit_or, List.any_cons, Bool.or_assoc]

/-- A list holds an odd number of elements. -/
theorem odd_length_cons {α : Type} (x : α) (l : List α) : ((x :: l).length % 2 == 1) = !(l.length % 2 == 1) := by
  rw [Bool.eq_iff_iff]
  simp only [List.length_cons, Bool.not_eq_true', beq_iff_eq, beq_eq_false_iff_ne]
  omega

theorem testBit_foldl_xor (xs : List Nat) (i : Nat) : ∀ s, (xs.foldl (fun s x => s ^^^ x) s).testBit i
    = (s.testBit i ^^ ((xs.filter (·.testBit i)).length % 2 == 1)) := by
  induction xs with
  | nil => simp
  | cons x xs ih =>
    intro s
    rw [List.foldl_cons, ih, Nat.testBit_xor, List.filter_cons]
    cases hx : x.testBit i
    · simp
    · rw [if_pos rfl, odd_length_cons]
      cases s.testBit i <;> simp

theorem foldl_lt {f : Nat → Nat → Nat} (hf : ∀ a b, a < 2 ^ w → b < 2 ^ w → f a b < 2 ^ w) (xs : List Nat) (hxs : ∀ x ∈ xs, x < 2 ^ w) :
    ∀ s, s < 2 ^ w → xs.foldl f s < 2 ^ w := by
  induction xs with
  | nil => exact fun _ h => h
  | cons x xs ih =>
    exact fun s hs => ih (fun y hy => hxs y (List.mem_cons_of_mem _ hy)) _ (hf s x hs (hxs x (List.mem_cons_self ..)))

end

section
variable {ty : Ty} {sat : Bool} {xs : List Nat}

theorem xredInt_add : xredInt .add ty sat xs = fitInt ty.signed ty.ew sat (xs.map (intOf ty.signed ty.ew)).sum := by
  rw [← foldl_add]
  rfl

variable (hint : ty.fmt? = none) (hw : ty.ew ≠ 0) (hxs : ∀ x ∈ xs, x < 2 ^ ty.ew)
include hint hw hxs

theorem xredInt_min : xredInt .min ty sat xs = wrapTo ty.ew ((xs.map (intOf ty.signed ty.ew)).foldr min (intMax ty.signed ty.ew)) := by
  have h := foldl_pick (signed := ty.signed) (op := min)
    (pick := fun s x => if intOf ty.signed ty.ew x < intOf ty.signed ty.ew s then x else s) (fun a b c => min_assoc a b c) (fun a b => min_comm a b)
    (fun s x => by split <;> simp) (fun s x => by split <;> omega) xs hxs _ (wrapTo_lt _ (intMax ty.signed ty.ew))
  rw [intOf_wrapTo hw intMin_le_intMax le_rfl] at h
  rw [← h]
  show xs.foldl _ (xredEmpty .min ty) = _
  rw [xredEmpty, hint]

theorem xredInt_max : xredInt .max ty sat xs = wrapTo ty.ew ((xs.map (intOf ty.signed ty.ew)).foldr max (intMin ty.signed ty.ew)) := by
  have h := foldl_pick (signed := ty.signed) (op := max)
    (pick := fun s x => if intOf ty.signed ty.ew s < intOf ty.signed ty.ew x then x else s) (fun a b c => max_assoc a b c) (fun a b => max_comm a b)
    (fun s x => by split <;> simp) (fun s x => by split <;> omega) xs hxs _ (wrapTo_lt _ (intMin ty.signed ty.ew))
  rw [intOf_wrapTo hw le_rfl intMin_le_intMax] at h
  rw [← h]
  show xs.foldl _ (xredEmpty .max ty) = _
  rw [xredEmpty, hint]

omit hint hw in
theorem xredInt_and : xredInt .and ty sat xs = ofBits ty.ew (fun i => xs.all (·.testBit i)) := by
  refine eq_ofBits (foldl_lt (fun a b ha _ => Nat.and_lt_two_pow _ ‹_›) xs hxs _ (by have := Nat.two_pow_pos ty.ew; omega)) fun i hi => ?_
  show (xs.foldl (fun s x => s &&& x) (2 ^ ty.ew - 1)).testBit i = _
  rw [testBit_foldl_and, Nat.testBit_two_pow_sub_one, decide_eq_true hi, Bool.true_and]

omit hint hw in
theorem xredInt_or : xredInt .or ty sat xs = ofBits ty.ew (fun i => xs.any (·.testBit i)) := by
  refine eq_ofBits (foldl_lt (fun a b => Nat.or_lt_two_pow) xs hxs _ (Nat.two_pow_pos _)) fun i _ => ?_
  show (xs.foldl (fun s x => s ||| x) 0).testBit i = _
  rw [testBit_foldl_or, Nat.zero_testBit, Bool.false_or]

omit hint hw in
theorem xredInt_xor : xredInt .xor ty sat xs = ofBits ty.ew (fun i => (xs.filter (·.testBit i)).length % 2 == 1) := by
  refine eq_ofBits (foldl_lt (fun a b => Nat.xor_lt_two_pow) xs hxs _ (Nat.two_pow_pos _)) fun i _ => ?_
  show (xs.foldl (fun s x => s ^^^ x) 0).testBit i = _
  rw [testBit_foldl_xor, Nat.zero_testBit, Bool.false_xor]

end

/-! ### The fixed tree (R97) -/

/-- Two positions combined; one that holds nothing passes the other up. -/
def pairOpt (g : Nat → Nat → Nat) : Option Nat → Option Nat → Option Nat
  | some x, some y => some (g x y)
  | some x, none => some x
  | none, y => y

/-- The tree over 2^k positions, from the root down. -/
def treeTop (g : Nat → Nat → Nat) : Nat → (Nat → Option Nat) → Option Nat
  | 0, f => f 0
  | k + 1, f => pairOpt g (treeTop g k f) (treeTop g k (fun i => f (i + 2 ^ k)))

/-- One level of the tree, from the leaves up. -/
def pairLevel (g : Nat → Nat → Nat) (f : Nat → Option Nat) (i : Nat) : Option Nat := pairOpt g (f (2 * i)) (f (2 * i + 1))

section
variable (g : Nat → Nat → Nat)

theorem treeTop_pairLevel (k : Nat) : ∀ f, treeTop g (k + 1) f = treeTop g k (pairLevel g f) := by
  induction k with
  | zero => exact fun f => rfl
  | succ k ih =>
    intro f
    rw [treeTop, ih, ih, treeTop]
    congr 2
    funext i
    simp only [pairLevel]
    congr 2 <;> ring_nf

theorem pairUp_cons (x y : Option Nat) (r : List (Option Nat)) : pairUp g (x :: y :: r) = pairOpt g x y :: pairUp g r := by
  cases x <;> cases y <;> rfl

theorem pairUp_range (n : Nat) : ∀ f, pairUp g ((List.range (2 * n)).map f) = (List.range n).map (pairLevel g f) := by
  induction n with
  | zero => exact fun f => rfl
  | succ n ih =>
    intro f
    rw [show 2 * (n + 1) = 2 * n + 1 + 1 by ring, List.range_succ_eq_map, List.range_succ_eq_map, List.range_succ_eq_map]
    simp only [List.map_cons, List.map_map]
    rw [pairUp_cons]
    have h := ih (fun i => f (i + 2))
    exact congrArg₂ _ rfl h

theorem treeRed_range (k : Nat) : ∀ n f, k ≤ n → treeRed g n ((List.range (2 ^ k)).map f) = treeTop g k f := by
  induction k with
  | zero => intro n f _; cases n <;> rfl
  | succ k ih =>
    intro n f hn
    obtain ⟨n, rfl⟩ := Nat.exists_eq_succ_of_ne_zero (show n ≠ 0 by omega)
    have hstep : ∀ x y r, treeRed g (n + 1) (x :: y :: r) = treeRed g n (pairUp g (x :: y :: r)) := fun x y r => rfl
    have hlen : 2 ≤ ((List.range (2 ^ (k + 1))).map f).length := by
      rw [List.length_map, List.length_range, pow_succ]
      have := Nat.two_pow_pos k
      omega
    have hred : treeRed g (n + 1) ((List.range (2 ^ (k + 1))).map f) = treeRed g n (pairUp g ((List.range (2 ^ (k + 1))).map f)) := by
      generalize (List.range (2 ^ (k + 1))).map f = l at hlen
      match l, hlen with
      | x :: y :: r, _ => exact hstep x y r
    rw [Nat.succ_eq_add_one, hred, pow_succ, Nat.mul_comm, pairUp_range, ih n _ (by omega), treeTop_pairLevel]

variable {g} {comb : Nat → Nat → Nat → Prop} (hc : ∀ x y, comb x y (g x y))
include hc

theorem treeGives_treeTop (k : Nat) : ∀ f, TreeGives comb k f (treeTop g k f) := by
  induction k with
  | zero => exact fun f => rfl
  | succ k ih =>
    intro f
    refine ⟨_, _, ih f, ih _, ?_⟩
    rw [treeTop]
    cases treeTop g k f with
    | none => rfl
    | some x =>
      cases treeTop g k (fun i => f (i + 2 ^ k)) with
      | none => rfl
      | some y => exact ⟨_, hc x y, rfl⟩

end

/-! ### Scans (R270) -/

/-- A scan of a list that is not empty. -/
theorem scanGives_foldl {comb : Nat → Nat → Nat → Prop} {g : Nat → Nat → Nat} (hc : ∀ x y, comb x y (g x y)) (out first : Nat → Nat)
    (xs : List Nat) (hne : xs ≠ []) : ∃ s, xs.foldl (fun (acc : Option Nat) x => match acc with
      | none => some (first x)
      | some s => some (out (g s x))) none = some s ∧ ScanGives comb out first xs.reverse s := by
  induction xs using List.reverseRecOn with
  | nil => exact absurd rfl hne
  | append_singleton xs x ih =>
    rw [List.foldl_concat, List.reverse_concat]
    by_cases hxs : xs = []
    · subst hxs
      exact ⟨_, rfl, rfl⟩
    · obtain ⟨s, hs, hg⟩ := ih hxs
      rw [hs]
      refine ⟨_, rfl, ?_⟩
      have hr : xs.reverse ≠ [] := by simpa using hxs
      cases hrev : xs.reverse with
      | nil => exact absurd hrev hr
      | cons y ys =>
        rw [hrev] at hg
        exact ⟨s, _, hg, hc s x, rfl⟩

end Sys2Proof.Machine
end

section
/-! The cross-lane instructions of one group (R268 to R271). -/
namespace Sys2Proof.Machine

/-! ### Sources of a width -/

theorem packElems_one_lt (w v : Nat) : (packElems w [v]).toNat < 2 ^ w := by
  show (BitVec.ofNat 64 (v % 2 ^ w + 0 * 2 ^ w)).toNat < _
  rw [BitVec.toNat_ofNat, Nat.zero_mul, Nat.add_zero]
  exact (Nat.mod_le ..).trans_lt (Nat.mod_lt _ (Nat.two_pow_pos w))

theorem toNat_setWidth_lt {n : Nat} (b : BitVec n) (hn : n ≤ 32) : (b.setWidth 64).toNat < 2 ^ 32 := by
  rw [BitVec.toNat_setWidth]
  exact ((Nat.mod_le ..).trans_lt b.isLt).trans_le (Nat.pow_le_pow_right (by omega) hn)

/-- A source of a type of 32 or 64 bits fits in the width. -/
theorem srcVal_lt {ty : Ty} (hw : ty.ew = 32 ∨ ty.ew = 64) (lead g : Group) (draw slot : Nat) (o : Opnd) (l : Nat) :
    (srcVal lead g draw slot ty o l).toNat < 2 ^ ty.ew := by
  rcases hw with hw | hw
  · have hnw : ty.wide = false := by cases ty <;> first | rfl | cases hw
    have hc : ty.count = 1 := by simp only [Ty.count, hw]
    rw [hw]
    cases o with
    | v n => rw [srcVal, if_neg (by simp [hnw])]; exact toNat_setWidth_lt _ (by omega)
    | s n => rw [srcVal, if_neg (by simp [hnw])]; exact toNat_setWidth_lt _ (by omega)
    | x n => exact toNat_setWidth_lt _ (by omega)
    | p n =>
      rw [srcVal]
      cases readPBit g n.toNat l draw (2 * slot) <;> decide
    | c n => rw [srcVal, constVal, hc, hw]; exact packElems_one_lt _ _
    | h n => exact Nat.two_pow_pos _
    | a n => exact Nat.two_pow_pos _
    | bad n => exact Nat.two_pow_pos _
  · rw [hw]
    exact BitVec.isLt _

theorem laneSrc_lt {ty : Ty} (hw : ty.ew = 32 ∨ ty.ew = 64) (g : Group) (draw slot : Nat) (o : Opnd) (j : Nat) :
    (laneSrc g draw slot ty o j).toNat < 2 ^ ty.ew := by
  unfold laneSrc
  split
  · exact srcVal_lt hw ..
  · exact Nat.two_pow_pos _

/-! ### The lanes of one group -/

section
variable {m : Mach} {t : Team} {g : Group} {mb : Member}

theorem cross_lanes_one : (Cross.mk m t [some (g, mb)]).lanes = (List.range 32).filter (fun j => mb.act.has j) :=
  List.filter_congr fun j hj => cross_active_one m t g mb j (List.mem_range.mp hj)

theorem cross_part_int {ty : Ty} (hint : ty.fmt? = none) (a : Opnd) {j : Nat} (hj : j < 32) :
    (Cross.mk m t [some (g, mb)]).part ty a j = (laneSrc g m.draw 0 ty a j).toNat := by
  unfold Cross.part
  rw [hint, cross_src_one _ _ _ _ _ _ _ _ hj]

theorem cross_part_float {ty : Ty} {f : Fmt} (hf : ty.fmt? = some f) (a : Opnd) {j : Nat} (hj : j < 32) :
    (Cross.mk m t [some (g, mb)]).part ty a j = srcMods f ((fpcOf m t.ctx).getLsbD 0) false false (laneSrc g m.draw 0 ty a j).toNat := by
  unfold Cross.part
  rw [hf, cross_src_one _ _ _ _ _ _ _ _ hj]

theorem map_part_int {ty : Ty} (hint : ty.fmt? = none) (a : Opnd) {l : List Nat} (hl : ∀ j ∈ l, j < 32) :
    l.map ((Cross.mk m t [some (g, mb)]).part ty a) = l.map (fun j => (laneSrc g m.draw 0 ty a j).toNat) :=
  List.map_congr_left fun j hj => cross_part_int hint a (hl j hj)

theorem map_part_float {ty : Ty} {f : Fmt} (hf : ty.fmt? = some f) (a : Opnd) {l : List Nat} (hl : ∀ j ∈ l, j < 32) :
    l.map ((Cross.mk m t [some (g, mb)]).part ty a) =
      l.map (fun j => srcMods f ((fpcOf m t.ctx).getLsbD 0) false false (laneSrc g m.draw 0 ty a j).toNat) :=
  List.map_congr_left fun j hj => cross_part_float hf a (hl j hj)

theorem lt_of_mem_lanes {p : Nat → Bool} {j : Nat} (hj : j ∈ (List.range 32).filter p) : j < 32 :=
  List.mem_range.mp (List.mem_filter.mp hj).1

end

/-! ### The instructions -/

/-- The lane space of an instruction of one group. -/
def oneCross (h : Hd) (s : State) (t : Team) (g : Group) : Cross := { m := s.m, t := t, space := [some (g, memberOf g h s.m.draw)] }

theorem any_congr_mem {α : Type} {l : List α} {p q : α → Bool} (h : ∀ x ∈ l, p x = q x) : l.any p = l.any q := by
  rw [Bool.eq_iff_iff, List.any_eq_true, List.any_eq_true]
  exact exists_congr fun x => and_congr_right fun hx => by rw [h x hx]

theorem all_congr_mem {α : Type} {l : List α} {p q : α → Bool} (h : ∀ x ∈ l, p x = q x) : l.all p = l.all q := by
  rw [Bool.eq_iff_iff, List.all_eq_true, List.all_eq_true]
  exact forall_congr' fun x => forall_congr' fun hx => by rw [h x hx]

theorem bit_eq_ite (b : Bool) : bit 64 b = if b then 1 else 0 := by cases b <;> rfl

section
variable {i : Instr} {h : Hd} {ty : Ty} {d a b : Opnd} {s : State} {r : GRef} {t : Team} {g : Group}

/-- The active lanes of the group. -/
theorem oneCross_lanes : (oneCross h s t g).lanes = (List.range 32).filter (fun j => (memberOf g h s.m.draw).act.has j) := cross_lanes_one

theorem oneCross_pred {j : Nat} (hj : j < 32) : ((oneCross h s t g).src 0 .b32 a j).getLsbD 0 = predSrc g s.m.draw a j := by
  unfold oneCross predSrc
  rw [cross_src_one _ _ _ _ _ _ _ _ hj]

variable (hi : Issuing s r t g) (ha : Alone h) (hl : h.scope = .lane)
include hi ha hl

/-- A cross-lane instruction of one group gives its function of the group's lane space. -/
theorem yields_cross {op : Op} {ids : List RegId} {ws : List Want} {wide : Bool} {tag : BitVec 4} {f : Cross → Nat → DWord}
    (ho : opOf i = some (h, op)) (hop : op = crossOp h ws d wide tag f) (hreg : regOnly i = some (h, ids)) (hp : Passes i t g s.m.draw) :
    Yields i h s r g d wide (f (oneCross h s t g)) :=
  yields_crossOp hi ha (fun hg => by rw [hl] at hg; cases hg) (hp _ _ ho) (unheld_of_regOnly hreg ..) (exec_of_opOf ho s) hop

theorem voteAny_yields (hp : Passes (.voteAny h ty d a) t g s.m.draw) : Yields (.voteAny h ty d a) h s r g d false (fun _ =>
    if (List.range 32).any (fun j => (memberOf g h s.m.draw).act.has j && predSrc g s.m.draw a j) then 1 else 0) := by
  refine (yields_cross hi ha hl (op := voteOp false h d a) rfl rfl rfl hp).congr fun l _ => ?_
  have hany : (oneCross h s t g).lanes.any (fun j => ((oneCross h s t g).src 0 .b32 a j).getLsbD 0) =
      (List.range 32).any (fun j => (memberOf g h s.m.draw).act.has j && predSrc g s.m.draw a j) := by
    rw [oneCross_lanes, any_congr_mem fun j hj => oneCross_pred (lt_of_mem_lanes hj), List.any_filter]
  show bit 64 ((oneCross h s t g).lanes.any _) = _
  rw [hany]
  exact bit_eq_ite _

theorem voteAll_yields (hp : Passes (.voteAll h ty d a) t g s.m.draw) : Yields (.voteAll h ty d a) h s r g d false (fun _ =>
    if (List.range 32).all (fun j => !(memberOf g h s.m.draw).act.has j || predSrc g s.m.draw a j) then 1 else 0) := by
  refine (yields_cross hi ha hl (op := voteOp true h d a) rfl rfl rfl hp).congr fun l _ => ?_
  have hall : (oneCross h s t g).lanes.all (fun j => ((oneCross h s t g).src 0 .b32 a j).getLsbD 0) =
      (List.range 32).all (fun j => !(memberOf g h s.m.draw).act.has j || predSrc g s.m.draw a j) := by
    rw [oneCross_lanes, all_congr_mem fun j hj => oneCross_pred (lt_of_mem_lanes hj), List.all_filter]
  show bit 64 ((oneCross h s t g).lanes.all _) = _
  rw [hall]
  exact bit_eq_ite _

theorem ballot_yields (hp : Passes (.ballot h ty d a) t g s.m.draw) : Yields (.ballot h ty d a) h s r g d false (fun _ =>
    BitVec.ofNat 64 (ofBits 32 (fun j => (memberOf g h s.m.draw).act.has j && predSrc g s.m.draw a j))) := by
  refine (yields_cross hi ha hl (op := ballotOp h d a) rfl rfl rfl hp).congr fun l _ => ?_
  show (if h.scope = .lane then ballotWord (oneCross h s t g) a 0 else _) = _
  rw [if_pos hl]
  refine BitVec.eq_of_getLsbD_eq fun j hj => ?_
  rw [BitVec.getLsbD_ofNat, decide_eq_true hj, Bool.true_and, testBit_ofBits, ballotWord, BitVec.getLsbD_setWidth, decide_eq_true hj,
    Bool.true_and]
  by_cases hj32 : j < 32
  · rw [decide_eq_true hj32, Bool.true_and]
    refine (maskOf_has _ _ hj32).trans ?_
    rw [Nat.mul_zero, Nat.zero_add, oneCross_pred hj32]
    congr 1
    exact cross_active_one _ _ _ _ _ hj32
  · rw [decide_eq_false hj32, Bool.false_and]
    exact BitVec.getLsbD_of_ge _ _ (by omega)

theorem bcast_yields (hp : Passes (.bcast h ty d a b) t g s.m.draw) : Yields (.bcast h ty d a b) h s r g d ty.wide (fun _ =>
    if (srcVal g g s.m.draw 1 .n32 b 0).toNat < 32 then laneSrc g s.m.draw 0 ty a (srcVal g g s.m.draw 1 .n32 b 0).toNat else 0) := by
  refine (yields_cross hi ha hl (op := bcastOp h ty d a b) rfl rfl rfl hp).congr fun l hl32 => ?_
  show (if ((oneCross h s t g).scalar 1 .n32 b (l / 32)).toNat < 32 then (oneCross h s t g).src 0 ty a _ else 0) = _
  rw [show l / 32 = 0 by omega, oneCross, cross_scalar_one]
  split
  · next hj => exact cross_src_one _ _ _ _ _ _ _ _ hj
  · rfl

/-- An integer reduction. -/
theorem xredOp_yields_int {op : XOp} (ho : opOf i = some (h, xredOp op h ty d a)) (hreg : regOnly i = some (h, d.ids ty.wide))
    (hp : Passes i t g s.m.draw) (hint : ty.fmt? = none) : Yields i h s r g d ty.wide (fun _ => BitVec.ofNat 64 (xredInt op ty h.sat
      (((List.range 32).filter (fun j => (memberOf g h s.m.draw).act.has j)).map (fun j => (laneSrc g s.m.draw 0 ty a j).toNat)))) := by
  refine (yields_cross hi ha hl ho rfl hreg hp).congr fun l _ => ?_
  rw [xredVal, hint, oneCross_lanes, oneCross, map_part_int hint a fun j hj => lt_of_mem_lanes hj]

/-- An integer scan. -/
theorem xscanOp_yields_int {op : XOp} (ho : opOf i = some (h, xscanOp op h ty d a)) (hreg : regOnly i = some (h, d.ids ty.wide))
    (hp : Passes i t g s.m.draw) (hint : ty.fmt? = none) : Yields i h s r g d ty.wide (fun l => BitVec.ofNat 64 (xredInt op ty h.sat
      ((((List.range 32).filter (fun j => (memberOf g h s.m.draw).act.has j)).filter (fun j => decide (j ≤ l))).map
        (fun j => (laneSrc g s.m.draw 0 ty a j).toNat)))) := by
  refine (yields_cross hi ha hl ho rfl hreg hp).congr fun l _ => ?_
  rw [xscanVal, hint, oneCross_lanes, oneCross, map_part_int hint a fun j hj => lt_of_mem_lanes (List.mem_filter.mp hj).1]

/-- A float reduction by the fixed tree. -/
theorem xredOp_yields_float {op : XOp} {f : Fmt} (ho : opOf i = some (h, xredOp op h ty d a)) (hreg : regOnly i = some (h, d.ids ty.wide))
    (hp : Passes i t g s.m.draw) (hf : ty.fmt? = some f) : Yields i h s r g d ty.wide (fun _ => BitVec.ofNat 64
      (((treeTop (xcombF f op) 5 (fun j => if (memberOf g h s.m.draw).act.has j then
          some (srcMods f ((fpcOf s.m t.ctx).getLsbD 0) false false (laneSrc g s.m.draw 0 ty a j).toNat) else none)).map
        (leaving f ((fpcOf s.m t.ctx).getLsbD 1))).getD (xredEmpty op ty))) := by
  refine (yields_cross hi ha hl ho rfl hreg hp).congr fun l _ => ?_
  have hpos : (List.range 32).map (fun j => if (oneCross h s t g).active j then some ((oneCross h s t g).part ty a j) else none) =
      (List.range (2 ^ 5)).map (fun j => if (memberOf g h s.m.draw).act.has j then
        some (srcMods f ((fpcOf s.m t.ctx).getLsbD 0) false false (laneSrc g s.m.draw 0 ty a j).toNat) else none) := by
    refine List.map_congr_left fun j hj => ?_
    have hj32 := List.mem_range.mp hj
    unfold oneCross
    rw [cross_active_one _ _ _ _ _ hj32, cross_part_float hf a hj32]
  have htree := congrArg (treeRed (xcombF f op) 32) hpos
  rw [treeRed_range _ 5 32 _ (by omega)] at htree
  rw [xredVal, hf]
  dsimp only
  rw [show (oneCross h s t g).n = 32 from rfl, htree]
  cases treeTop (xcombF f op) 5 _ <;> rfl

/-- A float scan. -/
theorem xscanOp_yields_float {op : XOp} {f : Fmt} (ho : opOf i = some (h, xscanOp op h ty d a)) (hreg : regOnly i = some (h, d.ids ty.wide))
    (hp : Passes i t g s.m.draw) (hf : ty.fmt? = some f) : Yields i h s r g d ty.wide (fun l => BitVec.ofNat 64
      (scanF f op ((fpcOf s.m t.ctx).getLsbD 1)
        ((((List.range 32).filter (fun j => (memberOf g h s.m.draw).act.has j)).filter (fun j => decide (j ≤ l))).map
          (fun j => srcMods f ((fpcOf s.m t.ctx).getLsbD 0) false false (laneSrc g s.m.draw 0 ty a j).toNat)))) := by
  refine (yields_cross hi ha hl ho rfl hreg hp).congr fun l _ => ?_
  rw [xscanVal, hf, oneCross_lanes, oneCross, map_part_float hf a fun j hj => lt_of_mem_lanes (List.mem_filter.mp hj).1]

end

/-! ### Combinations of floats -/

theorem plainCtl_plain : plainCtl.Plain := ⟨rfl, rfl, rfl⟩

theorem xcombF_add (f : Fmt) (x y : Nat) : SumGives f .rne false (FV.dec f x) (FV.dec f y) (xcombF f .add x y) :=
  sumGives_exAdd plainCtl_plain (dec_proper ..) (dec_proper ..)

theorem xcombF_min (f : Fmt) (x y : Nat) : PickGives f false x y (xcombF f .min x y) := pickGives_fminmax ..
theorem xcombF_max (f : Fmt) (x y : Nat) : PickGives f true x y (xcombF f .max x y) := pickGives_fminmax ..

theorem leave_eq_leaving (f : Fmt) (ftz : Bool) : leave f ftz = leaving f ftz := rfl

theorem scanF_gives {f : Fmt} {op : XOp} {comb : Nat → Nat → Nat → Prop} (hc : ∀ x y, comb x y (xcombF f op x y)) (ftz : Bool)
    {xs : List Nat} (hne : xs ≠ []) : ScanGives comb (flush f ftz) (leaving f ftz) xs.reverse (scanF f op ftz xs) := by
  obtain ⟨s, hs, hg⟩ := scanGives_foldl hc (flush f ftz) (leaving f ftz) xs hne
  have : scanF f op ftz xs = s := by
    unfold scanF
    rw [leave_eq_leaving]
    exact congrArg (Option.getD · 0) hs
  rwa [this]

/-- The format of a float type of 32 or 64 bits. -/
theorem fmt?_of {ty : Ty} {f : Fmt} (h : (ty = .f32 ∧ f = .f32) ∨ (ty = .f64 ∧ f = .f64)) : ty.fmt? = some f := by
  rcases h with ⟨rfl, rfl⟩ | ⟨rfl, rfl⟩ <;> rfl

/-- Settles O17: the lane space of one group is its 32 lanes; the integer folds are sums, least and greatest values and bit by bit
ones, the tree is the same from its leaves as from its root, and a scan combines each value with what comes before it. -/
theorem votesAndReductions : Obligations.VotesAndReductions := by
  unfold Obligations.VotesAndReductions
  intro h ty d a b s r t g hi ha hl act on lanes w raw int fpc gives upTo
  have hraw : ∀ (l : List Nat), w = 32 ∨ w = 64 → ∀ x ∈ l.map raw, x < 2 ^ ty.ew := by
    rintro l hw x hx
    obtain ⟨j, -, rfl⟩ := List.mem_map.mp hx
    exact laneSrc_lt hw ..
  have hw0 : w = 32 ∨ w = 64 → ty.ew ≠ 0 := fun hw => by
    change ty.ew = 32 ∨ ty.ew = 64 at hw
    omega
  have hint : ∀ l : List Nat, (l.map raw).map (intOf ty.signed ty.ew) = l.map int := fun l => List.map_map
  refine ⟨voteAny_yields hi ha hl, voteAll_yields hi ha hl, ballot_yields hi ha hl, bcast_yields hi ha hl,
    fun hp hn hw => ?_, fun hp hn hw => ?_, fun hp hn hw => ?_, fun hp hn hw => ?_, fun hp hn hw => ?_, fun hp hn hw => ?_,
    fun hp hn hw => ?_, fun hp hn hw => ?_, fun f hf => ?_⟩
  · refine (xredOp_yields_int hi ha hl rfl rfl hp hn).congr fun l _ => ?_
    rw [xredInt_add, hint]
  · refine (xredOp_yields_int hi ha hl rfl rfl hp hn).congr fun l _ => ?_
    rw [xredInt_min hn (hw0 hw) (hraw _ hw), hint]
  · refine (xredOp_yields_int hi ha hl rfl rfl hp hn).congr fun l _ => ?_
    rw [xredInt_max hn (hw0 hw) (hraw _ hw), hint]
  · refine (xredOp_yields_int hi ha hl rfl rfl hp hn).congr fun l _ => ?_
    rw [xredInt_and (hraw _ hw)]
    simp only [List.all_map, Function.comp_def]
    rfl
  · refine (xredOp_yields_int hi ha hl rfl rfl hp hn).congr fun l _ => ?_
    rw [xredInt_or (hraw _ hw)]
    simp only [List.any_map, Function.comp_def]
    rfl
  · refine (xredOp_yields_int hi ha hl rfl rfl hp hn).congr fun l _ => ?_
    rw [xredInt_xor (hraw _ hw)]
    simp only [List.filter_map, List.length_map, Function.comp_def]
    rfl
  · refine (xscanOp_yields_int hi ha hl rfl rfl hp hn).congr fun l _ => ?_
    rw [xredInt_add, hint]
  · refine (xscanOp_yields_int hi ha hl rfl rfl hp hn).congr fun l _ => ?_
    rw [xredInt_max hn (hw0 hw) (hraw _ hw), hint]
  intro part sum pos
  refine ⟨fun i comb empty hspec hp => ?_, fun i comb hspec hp => ?_⟩
  · have hgives : ∀ (op : XOp) (comb : Nat → Nat → Nat → Prop), (∀ x y, comb x y (xcombF f op x y)) → ∀ i empty,
        opOf i = some (h, xredOp op h ty d a) → regOnly i = some (h, d.ids ty.wide) → Passes i t g s.m.draw → xredEmpty op ty = empty →
        ∃ top, TreeGives comb 5 pos top ∧ Yields i h s r g d ty.wide (fun _ =>
          BitVec.ofNat 64 ((top.map (leaving f (fpc.getLsbD 1))).getD empty)) := fun op comb hc i empty ho hreg hp he =>
      ⟨_, treeGives_treeTop hc 5 pos, he ▸ xredOp_yields_float hi ha hl ho hreg hp (fmt?_of hf)⟩
    rcases hspec with ⟨rfl, rfl, rfl⟩ | ⟨rfl, rfl, rfl⟩ | ⟨rfl, rfl, rfl⟩
    · exact hgives .add _ (xcombF_add f) _ _ rfl rfl hp (by simp only [xredEmpty, fmt?_of hf])
    · exact hgives .min _ (xcombF_min f) _ _ rfl rfl hp (by simp only [xredEmpty, fmt?_of hf])
    · exact hgives .max _ (xcombF_max f) _ _ rfl rfl hp (by simp only [xredEmpty, fmt?_of hf])
  · have hne : ∀ l, act.has l = true → l < 32 → (upTo l).map part ≠ [] := fun l hal hl32 => by
      have hmem : l ∈ upTo l := List.mem_filter.mpr ⟨List.mem_filter.mpr ⟨List.mem_range.mpr hl32, hal⟩, by simp⟩
      exact List.ne_nil_of_mem (List.mem_map_of_mem hmem)
    rcases hspec with ⟨rfl, rfl⟩ | ⟨rfl, rfl⟩
    · exact ⟨_, fun l hal hl32 => scanF_gives (xcombF_add f) _ (hne l hal hl32), xscanOp_yields_float hi ha hl rfl rfl hp (fmt?_of hf)⟩
    · exact ⟨_, fun l hal hl32 => scanF_gives (xcombF_max f) _ (hne l hal hl32), xscanOp_yields_float hi ha hl rfl rfl hp (fmt?_of hf)⟩

end Sys2Proof.Machine
end

section
/-! Rationals rounded to integers (R91, R96): `roundInt` by the whole and the broken part of a magnitude. -/
namespace Sys2Proof.Machine

/-- A magnitude of k whole units and a rest ρ of a unit goes up to the next integer. -/
def intUp (r : Rnd) (n : Bool) (k : Nat) (ρ : ℚ) : Prop :=
  match r with
  | .rne => 1 / 2 < ρ ∨ (ρ = 1 / 2 ∧ k % 2 = 1)
  | .rz => False
  | .ru => n = false ∧ ρ ≠ 0
  | .rd => n = true ∧ ρ ≠ 0

section
variable {r : Rnd} {n : Bool} {k : Nat} {ρ : ℚ}

/-- The integer of a magnitude, with its sign. -/
def sgnInt (n : Bool) (k : Nat) : Int := if n then -(k : Int) else k

theorem floor_parts (h0 : 0 ≤ ρ) (h1 : ρ < 1) : ⌊(k : ℚ) + ρ⌋ = k := by
  rw [Int.floor_eq_iff]
  push_cast
  exact ⟨by linarith, by linarith⟩

theorem ceil_parts (h0 : 0 ≤ ρ) (h1 : ρ < 1) : ⌈(k : ℚ) + ρ⌉ = if ρ = 0 then (k : Int) else k + 1 := by
  split
  · next h => rw [h, add_zero, Int.ceil_natCast]
  · next h =>
    have hpos := lt_of_le_of_ne h0 (Ne.symm h)
    rw [Int.ceil_eq_iff]
    push_cast
    exact ⟨by linarith, by linarith⟩

/-- The whole part, or the next integer, is the rounded value. -/
theorem roundsInt_parts (h0 : 0 ≤ ρ) (h1 : ρ < 1) {up : Bool} (hup : up = true ↔ intUp r n k ρ) :
    RoundsInt r (sgn n * (k + ρ)) (sgnInt n (k + up.toNat)) := by
  have hk : (0 : ℚ) ≤ k := Nat.cast_nonneg k
  have hfl := floor_parts (k := k) h0 h1
  have hcl := ceil_parts (k := k) h0 h1
  cases r with
  | rz =>
    obtain rfl : up = false := by simpa [intUp] using hup
    cases n
    · show sgnInt false _ = if _ then _ else _
      rw [sgn_false, one_mul, if_neg (by linarith), hfl]
      rfl
    · show sgnInt true _ = if _ then _ else _
      rw [sgn_true, neg_one_mul]
      split
      · rw [Int.ceil_neg, hfl]; rfl
      · next h =>
        have : (k : ℚ) + ρ = 0 := by linarith
        have hk0 : (k : ℚ) = 0 := by linarith
        rw [this, neg_zero, Int.floor_zero, Nat.cast_eq_zero.mp hk0]
        rfl
  | ru =>
    cases n
    · show sgnInt false _ = ⌈_⌉
      rw [sgn_false, one_mul, hcl]
      split
      · next h => rw [show up = false by simpa [intUp, h] using hup]; rfl
      · next h => rw [show up = true by simpa [intUp, h] using hup]; rfl
    · show sgnInt true _ = ⌈_⌉
      rw [sgn_true, neg_one_mul, Int.ceil_neg, hfl, show up = false by simpa [intUp] using hup]
      rfl
  | rd =>
    cases n
    · show sgnInt false _ = ⌊_⌋
      rw [sgn_false, one_mul, hfl, show up = false by simpa [intUp] using hup]
      rfl
    · show sgnInt true _ = ⌊_⌋
      rw [sgn_true, neg_one_mul, Int.floor_neg, hcl]
      split
      · next h => rw [show up = false by simpa [intUp, h] using hup]; rfl
      · next h => rw [show up = true by simpa [intUp, h] using hup]; rfl
  | rne =>
    have hcast : ((sgnInt n (k + up.toNat) : Int) : ℚ) = sgn n * (k + up.toNat) := by cases n <;> simp [sgnInt, sgn]
    have habs : |sgn n * (k + ρ) - ((sgnInt n (k + up.toNat) : Int) : ℚ)| = |ρ - up.toNat| := by
      rw [hcast, ← mul_sub, abs_mul, abs_sgn, one_mul, add_sub_add_left_eq_sub]
    have hdvd : 2 ∣ sgnInt n (k + up.toNat) ↔ (k + up.toNat) % 2 = 0 := by
      unfold sgnInt
      split <;> omega
    show |_| ≤ 1 / 2 ∧ (|_| = 1 / 2 → _)
    rw [habs, hdvd]
    cases up with
    | true =>
      have h := hup.mp rfl
      rw [show ((true.toNat : Nat) : ℚ) = 1 from Nat.cast_one, abs_of_neg (by linarith)]
      rcases h with h | ⟨h, hodd⟩
      · exact ⟨by linarith, fun he => by linarith⟩
      · exact ⟨by linarith, fun _ => by show (k + 1) % 2 = 0; omega⟩
    | false =>
      have h : ¬ intUp .rne n k ρ := fun h => Bool.false_ne_true (hup.mpr h)
      rw [intUp, not_or, not_lt, not_and] at h
      rw [show ((false.toNat : Nat) : ℚ) = 0 from Nat.cast_zero, sub_zero, abs_of_nonneg h0]
      exact ⟨h.1, fun he => by have := h.2 he; show (k + 0) % 2 = 0; omega⟩

end

/-- `roundInt` rounds as R91 says. -/
theorem roundsInt_roundInt (r : Rnd) (n : Bool) (m : Nat) (e : Int) : RoundsInt r (sgn n * (m : ℚ) * 2 ^ e) (roundInt r n m e) := by
  have hdec := unit_decomp (K := ℚ) m e 0
  have hrem := unitRem_lt m (0 - e)
  have hden := unitDen_pos (0 - e)
  have hsplit : unitQuot m (0 - e) = (if 0 ≤ e then m * 2 ^ e.toNat else m / 2 ^ (-e).toNat)
      ∧ unitRem m (0 - e) = (if 0 ≤ e then 0 else m % 2 ^ (-e).toNat) ∧ unitDen (0 - e) = (if 0 ≤ e then 1 else 2 ^ (-e).toNat) := by
    unfold unitQuot unitRem unitDen
    by_cases he : 0 ≤ e
    · have hs : -e ≤ 0 := by omega
      simp only [zero_sub, if_pos hs, if_pos he, neg_neg, and_self]
    · have hs : ¬ -e ≤ 0 := by omega
      simp only [zero_sub, if_neg hs, if_neg he, and_self]
  unfold roundInt
  obtain ⟨hk, hr, hd⟩ := hsplit
  rw [← hk, ← hr, ← hd]
  generalize unitQuot m (0 - e) = k at *
  generalize unitRem m (0 - e) = rem at *
  generalize unitDen (0 - e) = den at *
  have hdenQ : (0 : ℚ) < den := by exact_mod_cast hden
  have hremQ : (rem : ℚ) < den := by exact_mod_cast hrem
  have hval : (m : ℚ) * 2 ^ e = k + rem / den := by
    rw [zpow_zero, mul_one] at hdec
    push_cast at hdec
    field_simp
    linarith
  have hhalf : (rem : ℚ) / den = 1 / 2 ↔ 2 * rem = den := by
    rw [div_eq_div_iff hdenQ.ne' two_ne_zero]
    constructor <;> intro h
    · have : (rem : ℚ) * 2 = den := by linarith
      exact_mod_cast (mul_comm _ _).trans this
    · have : 2 * (rem : ℚ) = den := by exact_mod_cast h
      linarith
  have hgt : 1 / 2 < (rem : ℚ) / den ↔ den < 2 * rem := by
    rw [div_lt_div_iff₀ two_pos hdenQ, one_mul]
    constructor <;> intro h
    · have : (den : ℚ) < 2 * rem := by linarith
      exact_mod_cast this
    · have : (den : ℚ) < 2 * rem := by exact_mod_cast h
      linarith
  have hzero : (rem : ℚ) / den ≠ 0 ↔ rem ≠ 0 := by
    rw [Ne, div_eq_zero_iff, or_iff_left hdenQ.ne', Nat.cast_eq_zero]
  rw [mul_assoc, hval]
  have key := fun (up : Bool) => roundsInt_parts (r := r) (n := n) (k := k) (ρ := rem / den) (up := up) (by positivity) (by rw [div_lt_one hdenQ]; exact hremQ)
  have hsgn : ∀ up : Bool, (if n = true then -(((if up = true then k + 1 else k) : Nat) : Int) else ((if up = true then k + 1 else k) : Nat))
      = sgnInt n (k + up.toNat) := by
    intro up
    cases up <;> rfl
  dsimp only
  rw [hsgn]
  refine key _ ?_
  cases r with
  | rne =>
    simp only [intUp, hhalf, hgt, Bool.or_eq_true, Bool.and_eq_true, decide_eq_true_eq, beq_iff_eq, gt_iff_lt]
  | rz => simp [intUp]
  | ru => simp only [intUp, hzero, Bool.and_eq_true, Bool.not_eq_true', bne_iff_ne]
  | rd => simp only [intUp, hzero, Bool.and_eq_true, bne_iff_ne]

/-- Rationals between the same two half integers round alike. -/
theorem roundsInt_of_between {r : Rnd} {q q' : ℚ} {N : Int} (h : (N : ℚ) / 2 < q ∧ q < (N + 1) / 2) (h' : (N : ℚ) / 2 < q' ∧ q' < (N + 1) / 2)
    {z : Int} (hz : RoundsInt r q' z) : RoundsInt r q z := by
  obtain ⟨h1, h2⟩ := h
  obtain ⟨h3, h4⟩ := h'
  have hdiv : (N : ℚ) = 2 * (N / 2 : Int) + (N % 2 : Int) := by exact_mod_cast (Int.mul_ediv_add_emod N 2).symm
  have hmod : (0 : ℚ) ≤ (N % 2 : Int) ∧ ((N % 2 : Int) : ℚ) ≤ 1 := by
    have : 0 ≤ N % 2 ∧ N % 2 ≤ 1 := by omega
    exact_mod_cast this
  have hfloor : ∀ x : ℚ, (N : ℚ) / 2 < x → x < (N + 1) / 2 → ⌊x⌋ = N / 2 ∧ ⌈x⌉ = N / 2 + 1 := by
    intro x hl hr
    rw [Int.floor_eq_iff, Int.ceil_eq_iff]
    push_cast
    exact ⟨⟨by linarith, by linarith⟩, by linarith, by linarith⟩
  obtain ⟨hf, hc⟩ := hfloor q h1 h2
  obtain ⟨hf', hc'⟩ := hfloor q' h3 h4
  have hneg : q < 0 ↔ q' < 0 := by
    have hsign : ∀ x : ℚ, (N : ℚ) / 2 < x → x < (N + 1) / 2 → (x < 0 ↔ N < 0) := by
      intro x hl hr
      constructor <;> intro hx
      · by_contra hN
        have : (0 : ℚ) ≤ N := by exact_mod_cast not_lt.mp hN
        linarith
      · have : (N : ℚ) + 1 ≤ 0 := by exact_mod_cast hx
        linarith
    rw [hsign q h1 h2, hsign q' h3 h4]
  cases r with
  | rz => exact hz.trans (by simp only [hneg, hf, hc, hf', hc'])
  | ru => exact hz.trans (hc'.trans hc.symm)
  | rd => exact hz.trans (hf'.trans hf.symm)
  | rne =>
    obtain ⟨hd, -⟩ := hz
    rw [abs_le] at hd
    have hlo : 2 * z - 1 < N + 1 := by
      have : ((2 * z - 1 : Int) : ℚ) < (N + 1 : Int) := by push_cast; linarith
      exact_mod_cast this
    have hhi : N < 2 * z + 1 := by
      have : (N : ℚ) < (2 * z + 1 : Int) := by push_cast; linarith
      exact_mod_cast this
    have hloQ : (2 * z - 1 : ℚ) ≤ N := by exact_mod_cast Int.lt_add_one_iff.mp hlo
    have hhiQ : (N : ℚ) + 1 ≤ 2 * z + 1 := by exact_mod_cast hhi
    have hlt : |q - z| < 1 / 2 := by rw [abs_lt]; constructor <;> linarith
    exact ⟨hlt.le, fun he => absurd he hlt.ne⟩

theorem exists_roundsInt (r : Rnd) (q : ℚ) : ∃ z, RoundsInt r q z := by
  cases r with
  | rz => exact ⟨_, rfl⟩
  | ru => exact ⟨_, rfl⟩
  | rd => exact ⟨_, rfl⟩
  | rne =>
    have h0 := Int.fract_nonneg q
    have h1 := Int.fract_lt_one q
    have hq := Int.floor_add_fract q
    rcases lt_trichotomy (Int.fract q) (1 / 2) with h | h | h
    · have hlt : |q - ⌊q⌋| < 1 / 2 := by rw [abs_lt]; constructor <;> linarith
      exact ⟨⌊q⌋, hlt.le, fun he => absurd he hlt.ne⟩
    · rcases Int.even_or_odd ⌊q⌋ with he | ho
      · refine ⟨⌊q⌋, ?_, fun _ => he.two_dvd⟩
        rw [abs_le]
        constructor <;> linarith
      · refine ⟨⌊q⌋ + 1, ?_, fun _ => (ho.add_odd odd_one).two_dvd⟩
        rw [abs_le]
        push_cast
        constructor <;> linarith
    · have hlt : |q - ((⌊q⌋ + 1 : Int) : ℚ)| < 1 / 2 := by
        rw [abs_lt]
        push_cast
        constructor <;> linarith
      exact ⟨_, hlt.le, fun he => absurd he hlt.ne⟩

/-- A rounded integer is within 1 of its rational. -/
theorem roundsInt_near {r : Rnd} {q : ℚ} {z : Int} (h : RoundsInt r q z) : |q - z| ≤ 1 := by
  have hf := Int.floor_le q
  have hf' := Int.lt_floor_add_one q
  have hc := Int.le_ceil q
  have hc' := Int.ceil_lt_add_one q
  cases r with
  | rz =>
    obtain rfl := (show z = _ from h)
    split <;> rw [abs_le] <;> constructor <;> linarith
  | ru => obtain rfl := (show z = _ from h); rw [abs_le]; constructor <;> linarith
  | rd => obtain rfl := (show z = _ from h); rw [abs_le]; constructor <;> linarith
  | rne => exact h.1.trans (by norm_num)

theorem clampInt_eq {lo hi : Int} (h : lo ≤ hi) (v : Int) : clampInt lo hi v = max lo (min hi v) := by
  unfold clampInt
  split
  · omega
  · split <;> omega

end Sys2Proof.Machine
end

section
/-! Conversions of one element (R96, R98, R99, R290 to R292), classes (R287) and integral values (R288). -/
namespace Sys2Proof.Machine

/-! ### Values that a format holds exactly -/

section
variable {f : Fmt}

/-- A short significand at or above the least unit is a value of the grid. -/
theorem exists_magVal {m : Nat} {e : Int} (hm : m ≠ 0) (hlen : m < 2 ^ (f.fbits + 1)) (he : f.emin - f.fbits ≤ e) :
    ∃ M, magVal ℚ f M = m * 2 ^ e := by
  have h := atGrid_half (K := ℚ) f.fbits (f.emin - f.fbits) hm e
  have hbits : bitLen m ≤ f.fbits + 1 := by
    have hlt := (two_pow_bitLen_le hm).trans_lt hlen
    have := (Nat.pow_lt_pow_iff_right (by omega)).mp hlt
    omega
  have hsh : unitExp f.fbits (f.emin - f.fbits) m e - e ≤ 0 := by
    unfold unitExp
    omega
  have hrem : unitRem m (unitExp f.fbits (f.emin - f.fbits) m e - e) = 0 := if_pos hsh
  have hden : unitDen (unitExp f.fbits (f.emin - f.fbits) m e - e) = 1 := if_pos hsh
  dsimp only at h
  rw [hrem, hden, if_neg (by omega), Nat.add_zero] at h
  exact ⟨_, ((show _ = _ from h).trans (grid_two_mul _)).symm⟩

/-- A value of the format rounds to itself. -/
theorem roundBits_magVal {m M : Nat} {e : Int} (hm : m ≠ 0) (hM : M ≤ maxFinite f) (h : magVal ℚ f M = m * 2 ^ e) (r : Rnd) (n : Bool) :
    roundBits f r n m e false = signBit f n + M := by
  have hat : AtHalf f (2 * M) true ((m : ℚ) * 2 ^ e) := h.symm.trans (grid_two_mul M).symm
  have hup : roundsUp r n (2 * M) true = false := by cases r <;> simp [roundsUp]
  rw [roundBits_of_atHalf hm rfl hat, roundAt, roundMag, hup, encMag]
  simp [Nat.not_lt.mpr hM]

theorem ofMag_fin {n n' : Bool} {M m : Nat} {e : Int} (h : FV.ofMag f n M = .fin n' m e) :
    n' = n ∧ (m : ℚ) * 2 ^ e = magVal ℚ f M ∧ M ≠ 0 ∧ m < 2 ^ (f.fbits + 1) ∧ f.emin - f.fbits ≤ e := by
  unfold FV.ofMag at h
  split at h
  · cases h
  · next h0 =>
    cases h
    refine ⟨rfl, rfl, h0, ?_, by omega⟩
    have := Nat.mod_lt M (Nat.two_pow_pos f.fbits)
    rw [pow_succ]
    split <;> omega

theorem dec_fin {b : Nat} {n : Bool} {m : Nat} {e : Int} (h : FV.dec f b = .fin n m e) :
    n = negOf f b ∧ magOf f b ≤ maxFinite f ∧ (m : ℚ) * 2 ^ e = magVal ℚ f (magOf f b) ∧ magOf f b ≠ 0 ∧ m < 2 ^ (f.fbits + 1)
      ∧ f.emin - f.fbits ≤ e := by
  rcases le_or_gt (magOf f b) (maxFinite f) with hle | hgt
  · rw [dec_of_le hle] at h
    obtain ⟨h1, h2, h3, h4, h5⟩ := ofMag_fin h
    exact ⟨h1, hle, h2, h3, h4, h5⟩
  · rcases dec_of_gt hgt with ⟨-, -, hd⟩ | ⟨fr, hd⟩ <;> rw [hd] at h <;> cases h

theorem dec_nanBits (n : Bool) (fr : Nat) : ∃ n' fr', FV.dec f (nanBits f n fr) = .nan n' fr' := by
  have hbig : ∃ M, nanBits f n fr = signBit f n + M ∧ M < 2 ^ (f.ebits + f.fbits) ∧ maxFinite f < M ∧ (f ≠ .e4 → M ≠ f.emask * 2 ^ f.fbits) := by
    unfold nanBits
    split
    · next h => subst h; exact ⟨0x7F, rfl, by decide, by decide, fun h => absurd rfl h⟩
    · next hf =>
      have hq : 0 < 2 ^ (f.fbits - 1) := Nat.two_pow_pos _
      have hr : fr / 2 ^ (52 - f.fbits) % 2 ^ (f.fbits - 1) < 2 ^ (f.fbits - 1) := Nat.mod_lt _ hq
      have hm : f.emask * 2 ^ f.fbits + 2 * 2 ^ (f.fbits - 1) ≤ 2 ^ (f.ebits + f.fbits) := by cases f <;> decide
      have hs := maxFinite_succ hf
      exact ⟨_, add_assoc .., by omega, by omega, fun _ => by omega⟩
  obtain ⟨M, he, hlt, hgt, hne⟩ := hbig
  have hmag : magOf f (nanBits f n fr) = M := by rw [he, magOf_signBit_add hlt]
  rcases dec_of_gt (by rwa [hmag]) with ⟨hf, hinf, -⟩ | ⟨fr', hd⟩
  · exact absurd (hmag.symm.trans hinf) (hne hf)
  · exact ⟨_, fr', hd⟩

/-- SAT leaves a NaN as it is. -/
theorem limited_nanBits (c : Ctl) (n : Bool) (fr : Nat) : limited f c (nanBits f n fr) = clampBits f c.clamp (nanBits f n fr) := by
  obtain ⟨n', fr', h⟩ := dec_nanBits (f := f) n fr
  unfold limited satBits
  rw [h]

end

/-! ### Floats and integers converted -/

theorem val_fin (n : Bool) (m : Nat) (e : Int) : (FV.fin n m e).val = .real (sgn n * (m : ℚ) * 2 ^ e) := rfl

theorem convertsTo_float {ty : Ty} {f : Fmt} (hf : ty.fmt? = some f) {c : Ctl} {x : Val} {b : Nat} :
    ConvertsTo ty c x b ↔ match x with
      | .nan n fr => b = limited f c (nanBits f n fr)
      | .inf n => b = limited f c (infBits f n)
      | .zero n => b = limited f c (signBit f n)
      | .real q => Leaves f c (RoundsTo f c.rnd) (q : ℝ) b
      | .int v => if v = 0 then b = limited f c (signBit f false) else Leaves f c (RoundsTo f c.rnd) (v : ℝ) b := by
  cases x <;> simp only [ConvertsTo, hf]

theorem leaves_fin_exact {f : Fmt} (c : Ctl) {n : Bool} {m : Nat} (hm : m ≠ 0) (e : Int) :
    Leaves f c (RoundsTo f c.rnd) ((sgn n * (m : ℚ) * 2 ^ e : ℚ) : ℝ) (finishEx f c (.fin n m e false)) :=
  leaves_isReal c (isReal_fin (sgn_mul_ne_zero hm))

theorem cvtFF_converts {ty : Ty} {f : Fmt} (hf : ty.fmt? = some f) (src : Fmt) (c : Ctl) (b : Nat) :
    ConvertsTo ty c (FV.dec src b).val (cvtFF src f c b) := by
  rw [convertsTo_float hf]
  unfold cvtFF
  have hp := dec_proper src b
  generalize FV.dec src b = x at *
  cases x with
  | nan n fr => exact (limited_nanBits ..).symm
  | inf n => rfl
  | zero n => rfl
  | fin n m e => exact leaves_fin_exact c hp e

theorem cvtIF_converts {ty : Ty} {f : Fmt} (hf : ty.fmt? = some f) (c : Ctl) (v : Int) : ConvertsTo ty c (.int v) (cvtIF f c v) := by
  rw [convertsTo_float hf]
  unfold cvtIF
  dsimp only
  split
  · rfl
  · next hv =>
    have h := isReal_ofInt (e0 := 0) hv
    rw [zpow_zero, mul_one] at h
    have := leaves_isReal (f := f) c h
    rwa [Rat.cast_intCast] at this

theorem intOf_real {ty : Ty} {r : Rnd} {scale : Int} {q : ℚ} {y : Int} (h : RoundsInt r (q * 2 ^ scale) y) :
    IntOf ty r scale (.real q) (clampInt (intMin ty.signed ty.ew) (intMax ty.signed ty.ew) y) :=
  ⟨y, h, clampInt_eq intMin_le_intMax y⟩

theorem cvtFI_intOf (ty : Ty) (r : Rnd) (scale : Int) (x : FV) :
    IntOf ty r scale x.val (cvtFI r scale (intMin ty.signed ty.ew) (intMax ty.signed ty.ew) x) := by
  cases x with
  | nan n fr => rfl
  | inf n => rfl
  | zero n => rfl
  | fin n m e =>
    refine intOf_real ?_
    have h := roundsInt_roundInt r n m (e + scale)
    rwa [zpow_add₀ two_ne_zero, ← mul_assoc] at h

/-! ### QN4 elements -/

/-- A rational with a sign, as what a conversion reads. -/
def Rat4.val : Rat4 → Val
  | .nan n fr => .nan n fr
  | .inf n => .inf n
  | .zero n => .zero n
  | .rat n a d e => .real (sgn n * ((a : ℚ) / d) * 2 ^ e)

/-- A rational that is not 0. -/
def Rat4.Proper : Rat4 → Prop
  | .rat _ a d _ => a ≠ 0 ∧ d ≠ 0
  | _ => True

theorem Rat4.mods_val (ab ng : Bool) (x : Rat4) : (Rat4.mods ab ng x).val = x.val.mods ab ng := by
  cases x with
  | nan n fr => rfl
  | inf n => rfl
  | zero n => rfl
  | rat n a d e =>
    have habs : |sgn n * ((a : ℚ) / d) * 2 ^ e| = (a : ℚ) / d * 2 ^ e := by
      rw [abs_mul, abs_mul, abs_sgn, one_mul, abs_of_nonneg (by positivity), abs_of_pos (two_zpow_pos e)]
    show Val.real _ = Val.real (sgn ng * if ab then |sgn n * ((a : ℚ) / d) * 2 ^ e| else sgn n * ((a : ℚ) / d) * 2 ^ e)
    congr 1
    rw [habs, sgn_bne, mul_comm (sgn _) (sgn ng)]
    cases ab <;> cases n <;> simp [mul_assoc]

theorem Rat4.Proper.mods {x : Rat4} (h : x.Proper) (ab ng : Bool) : (Rat4.mods ab ng x).Proper := by cases x <;> exact h

theorem qLevel_ne_zero : ∀ c < 16, qLevel c ≠ 0 := by decide

theorem qLevel_eq (c : Nat) : (qLevel c : ℚ) = sgn (decide (qLevel c < 0)) * ((qLevel c).natAbs : ℚ) := by
  rw [Nat.cast_natAbs]
  rcases lt_or_ge (qLevel c) 0 with h | h
  · rw [decide_eq_true h, abs_of_neg h]
    simp
  · rw [decide_eq_false (by omega), abs_of_nonneg h]
    simp

theorem qValue_val (c s b : Nat) : (qValue c s b).val = q4Val c (FV.dec .f32 s) b := by
  unfold qValue q4Val
  cases FV.dec .f32 s with
  | nan n fr => rfl
  | inf n => dsimp only; split <;> rfl
  | zero n => rfl
  | fin n m e =>
    dsimp only
    split
    · rfl
    · show Val.real _ = Val.real (sgn n * (m : ℚ) * 2 ^ e * (b / 255) * ((qLevel c : ℚ) / 127))
      rw [qLevel_eq, sgn_bne]
      push_cast
      congr 1
      ring

theorem qValue_proper {c : Nat} (hc : c < 16) (s b : Nat) : (qValue c s b).Proper := by
  unfold qValue
  have hp := dec_proper .f32 s
  generalize FV.dec .f32 s = x at *
  cases x with
  | nan n fr => trivial
  | inf n => dsimp only; split <;> trivial
  | zero n => trivial
  | fin n m e =>
    dsimp only
    split
    · trivial
    · next hb =>
      have hq := qLevel_ne_zero c hc
      exact ⟨mul_ne_zero (mul_ne_zero hp hb) (by omega), by norm_num⟩

theorem le_shifted_quotient (k : Nat) {a d : Nat} (ha : a ≠ 0) (hd : d ≠ 0) : 2 ^ k ≤ a * 2 ^ (k + bitLen d) / d := by
  rw [Nat.le_div_iff_mul_le (Nat.pos_of_ne_zero hd), pow_add]
  calc 2 ^ k * d ≤ 2 ^ k * 2 ^ bitLen d := Nat.mul_le_mul_left _ (lt_two_pow_bitLen d).le
    _ ≤ a * (2 ^ k * 2 ^ bitLen d) := Nat.le_mul_of_pos_left _ (Nat.pos_of_ne_zero ha)

theorem toEx_isTruncated {f : Fmt} {n : Bool} {a d : Nat} (ha : a ≠ 0) (hd : d ≠ 0) (e : Int) :
    ((Rat4.rat n a d e).toEx f).IsTruncated f ((sgn n * ((a : ℚ) / d) * 2 ^ e : ℚ) : ℝ) := by
  have hq : 2 ^ 96 ≤ a * 2 ^ (96 + bitLen d) / d := le_shifted_quotient 96 ha hd
  have hpos : (0 : ℝ) < a / d * 2 ^ e := by positivity
  have hsgn : ((sgn n * ((a : ℚ) / d) * 2 ^ e : ℚ) : ℝ) = (if n then -1 else 1) * (a / d * 2 ^ e) := by
    cases n <;> push_cast [sgn_true, sgn_false] <;> simp
  refine ⟨n, _, _, _, rfl, by omega, fun _ => le_two_pow_fbits (by omega), ?_, ?_⟩
  · have h := truncates_div (a * 2 ^ (96 + bitLen d)) hd (e - (96 + bitLen d : Nat))
    have hval : |((sgn n * ((a : ℚ) / d) * 2 ^ e : ℚ) : ℝ)| =
        ((a * 2 ^ (96 + bitLen d) : Nat) : ℝ) / d * 2 ^ (e - (96 + bitLen d : Nat)) := by
      rw [hsgn, abs_mul, abs_of_pos hpos, zpow_sub₀ two_ne_zero, zpow_natCast]
      have habs : |(if n = true then -1 else 1 : ℝ)| = 1 := by cases n <;> simp
      rw [habs]
      push_cast
      field_simp
    rwa [hval]
  · rw [hsgn]
    cases n
    · simpa using hpos.le
    · simpa using hpos

theorem toEx_converts {ty : Ty} {f : Fmt} (hf : ty.fmt? = some f) (c : Ctl) {x : Rat4} (hx : x.Proper) :
    ConvertsTo ty c x.val (finishEx f c (x.toEx f)) := by
  rw [convertsTo_float hf]
  cases x with
  | nan n fr => rfl
  | inf n => rfl
  | zero n => rfl
  | rat n a d e => exact leaves_isTruncated c (toEx_isTruncated hx.1 hx.2 e)

/-! ### QN4 elements to integers -/

theorem intRange (ty : Ty) : -2 ^ 64 ≤ intMin ty.signed ty.ew ∧ intMax ty.signed ty.ew ≤ 2 ^ 64 := by cases ty <;> decide

/-- Two magnitudes far beyond the range saturate alike. -/
theorem clampInt_far {ty : Ty} {r : Rnd} {n : Bool} {x x' : ℚ} (hx : 2 ^ 95 ≤ x) (hx' : 2 ^ 95 ≤ x') {y y' : Int}
    (hy : RoundsInt r (sgn n * x) y) (hy' : RoundsInt r (sgn n * x') y') :
    clampInt (intMin ty.signed ty.ew) (intMax ty.signed ty.ew) y = clampInt (intMin ty.signed ty.ew) (intMax ty.signed ty.ew) y' := by
  obtain ⟨hlo, hhi⟩ := intRange ty
  have hle := intMin_le_intMax (signed := ty.signed) (w := ty.ew)
  have hfar : ∀ (x : ℚ) (y : Int), 2 ^ 95 ≤ x → RoundsInt r (sgn n * x) y → if n then y < -2 ^ 64 else 2 ^ 64 < y := by
    intro x y hx hy
    have hnear := abs_le.mp (roundsInt_near hy)
    cases n with
    | true =>
      rw [sgn_true, neg_one_mul] at hnear
      have : (y : ℚ) < (-2 ^ 64 : Int) := by push_cast; linarith
      exact_mod_cast this
    | false =>
      rw [sgn_false, one_mul] at hnear
      have : ((2 ^ 64 : Int) : ℚ) < y := by push_cast; linarith
      exact_mod_cast this
  have h1 := hfar x y hx hy
  have h2 := hfar x' y' hx' hy'
  rw [clampInt_eq hle, clampInt_eq hle]
  cases n
  · simp only [Bool.false_eq_true, if_false] at h1 h2
    omega
  · simp only [if_true] at h1 h2
    omega

/-- Between two numbers of units 2^E, E below −1, there is no half integer. -/
theorem between_half {Q : Nat} {E : Int} (hE : E ≤ -1) : ∃ N : Nat, ∀ x : ℚ, (Q : ℚ) * 2 ^ E < x → x < ((Q + 1 : Nat) : ℚ) * 2 ^ E →
    (N : ℚ) / 2 < x ∧ x < ((N : ℚ) + 1) / 2 := by
  obtain ⟨K, hK⟩ : ∃ K : Nat, K = 2 ^ (-E - 1).toNat := ⟨_, rfl⟩
  have hKpos : 0 < K := hK ▸ Nat.two_pow_pos _
  have hunit : (K : ℚ) * 2 ^ E = 1 / 2 := by
    rw [hK, ← zpow_toNat (by omega), ← zpow_add₀ two_ne_zero, show -E - 1 + E = -1 by ring]
    norm_num
  refine ⟨Q / K, fun x hl hr => ?_⟩
  have h1 : Q / K * K ≤ Q := Nat.div_mul_le_self Q K
  have h2 : Q + 1 ≤ (Q / K + 1) * K := by
    have := Nat.lt_mul_div_succ Q hKpos
    rw [Nat.mul_comm]
    omega
  have hz := (two_zpow_pos (K := ℚ) E).le
  constructor
  · calc ((Q / K : Nat) : ℚ) / 2 = ((Q / K * K : Nat) : ℚ) * 2 ^ E := by push_cast; rw [mul_assoc, hunit]; ring
      _ ≤ (Q : ℚ) * 2 ^ E := mul_le_mul_of_nonneg_right (by exact_mod_cast h1) hz
      _ < x := hl
  · calc x < ((Q + 1 : Nat) : ℚ) * 2 ^ E := hr
      _ ≤ (((Q / K + 1) * K : Nat) : ℚ) * 2 ^ E := mul_le_mul_of_nonneg_right (by exact_mod_cast h2) hz
      _ = (((Q / K : Nat) : ℚ) + 1) / 2 := by push_cast; rw [mul_assoc, hunit]; ring

theorem roundsInt_of_between_nat {r : Rnd} {n : Bool} {x x' : ℚ} {N : Nat} (h : (N : ℚ) / 2 < x ∧ x < ((N : ℚ) + 1) / 2)
    (h' : (N : ℚ) / 2 < x' ∧ x' < ((N : ℚ) + 1) / 2) {z : Int} (hz : RoundsInt r (sgn n * x') z) : RoundsInt r (sgn n * x) z := by
  obtain ⟨h1, h2⟩ := h
  obtain ⟨h3, h4⟩ := h'
  cases n with
  | false =>
    rw [sgn_false, one_mul] at hz ⊢
    exact roundsInt_of_between (N := N) (by rw [Int.cast_natCast]; exact ⟨h1, h2⟩) (by rw [Int.cast_natCast]; exact ⟨h3, h4⟩) hz
  | true =>
    rw [sgn_true, neg_one_mul] at hz ⊢
    refine roundsInt_of_between (N := -(N : Int) - 1) ?_ ?_ hz <;> push_cast <;> constructor <;> linarith

/-- A truncated quotient with half a unit for its rest rounds as the quotient, within the range. -/
theorem toInt_intOf_rat {ty : Ty} {r : Rnd} {scale : Int} {n : Bool} {a d : Nat} (ha : a ≠ 0) (hd : d ≠ 0) (e : Int) :
    IntOf ty r scale (.real (sgn n * ((a : ℚ) / d) * 2 ^ e))
      ((Rat4.rat n a d e).toInt r scale (intMin ty.signed ty.ew) (intMax ty.signed ty.ew)) := by
  have hQ : 2 ^ 96 ≤ a * 2 ^ (96 + bitLen d) / d := le_shifted_quotient 96 ha hd
  have hdm := Nat.div_add_mod (a * 2 ^ (96 + bitLen d)) d
  have hmod := Nat.mod_lt (a * 2 ^ (96 + bitLen d)) (Nat.pos_of_ne_zero hd)
  have hdQ : (0 : ℚ) < d := by exact_mod_cast Nat.pos_of_ne_zero hd
  have hval : sgn n * ((a : ℚ) / d) * 2 ^ e * 2 ^ scale =
      sgn n * (((a * 2 ^ (96 + bitLen d) : Nat) : ℚ) / d * 2 ^ (e - (96 + bitLen d : Nat) + scale)) := by
    rw [zpow_add₀ two_ne_zero, zpow_sub₀ two_ne_zero, zpow_natCast]
    push_cast
    field_simp
  unfold Rat4.toInt
  dsimp only
  rw [show e - ((96 + bitLen d : Nat) : Int) - 1 + scale = e - (96 + bitLen d : Nat) + scale - 1 by ring]
  generalize e - ((96 + bitLen d : Nat) : Int) + scale = E at *
  generalize a * 2 ^ (96 + bitLen d) = A at *
  generalize hq : A / d = Q at *
  have hAd : (A : ℚ) / d = Q + ((A % d : Nat) : ℚ) / d := by
    have : (d : ℚ) * Q + (A % d : Nat) = A := by exact_mod_cast hdm
    field_simp
    linarith
  have hE : (2 : ℚ) ^ E = 2 * 2 ^ (E - 1) := by rw [zpow_sub_one₀ two_ne_zero]; ring
  have hmodel := roundsInt_roundInt r n (if A % d != 0 then 2 * Q + 1 else 2 * Q) (E - 1)
  by_cases hrem : A % d = 0
  · rw [if_neg (by simp [hrem])] at hmodel ⊢
    refine intOf_real ?_
    rw [hval, hAd, hrem, Nat.cast_zero, zero_div, add_zero, hE]
    convert hmodel using 1
    push_cast
    ring
  · rw [if_pos (by simp [hrem])] at hmodel ⊢
    have hθ0 : (0 : ℚ) < ((A % d : Nat) : ℚ) / d := div_pos (by exact_mod_cast Nat.pos_of_ne_zero hrem) hdQ
    have hθ1 : ((A % d : Nat) : ℚ) / d < 1 := by rw [div_lt_one hdQ]; exact_mod_cast hmod
    have hz := two_zpow_pos (K := ℚ) E
    have hz1 := two_zpow_pos (K := ℚ) (E - 1)
    have hx : (Q : ℚ) * 2 ^ E < (A : ℚ) / d * 2 ^ E ∧ (A : ℚ) / d * 2 ^ E < ((Q + 1 : Nat) : ℚ) * 2 ^ E := by
      push_cast
      exact ⟨mul_lt_mul_of_pos_right (by linarith) hz, mul_lt_mul_of_pos_right (by linarith) hz⟩
    have hx' : (Q : ℚ) * 2 ^ E < ((2 * Q + 1 : Nat) : ℚ) * 2 ^ (E - 1) ∧ ((2 * Q + 1 : Nat) : ℚ) * 2 ^ (E - 1) < ((Q + 1 : Nat) : ℚ) * 2 ^ E := by
      rw [hE]
      push_cast
      constructor <;> nlinarith
    rw [mul_assoc] at hmodel
    rcases le_or_gt E (-1) with hneg | hpos
    · obtain ⟨N, hN⟩ := between_half (Q := Q) hneg
      refine intOf_real ?_
      rw [hval]
      exact roundsInt_of_between_nat (hN _ hx.1 hx.2) (hN _ hx'.1 hx'.2) hmodel
    · obtain ⟨y, hy⟩ := exists_roundsInt r (sgn n * ((A : ℚ) / d * 2 ^ E))
      have hfar : (2 : ℚ) ^ 95 ≤ Q * 2 ^ E := by
        have h1 : (1 : ℚ) ≤ 2 ^ E := one_le_zpow₀ one_le_two (by omega)
        have h2 : ((2 ^ 96 : Nat) : ℚ) ≤ Q := by exact_mod_cast hQ
        push_cast at h2
        nlinarith
      rw [clampInt_far (ty := ty) (hfar.trans hx'.1.le) (hfar.trans hx.1.le) hmodel hy]
      exact intOf_real (by rwa [hval])

theorem toInt_intOf {ty : Ty} (r : Rnd) (scale : Int) {x : Rat4} (hx : x.Proper) :
    IntOf ty r scale x.val (x.toInt r scale (intMin ty.signed ty.ew) (intMax ty.signed ty.ew)) := by
  cases x with
  | nan n fr => rfl
  | inf n => rfl
  | zero n => rfl
  | rat n a d e => exact toInt_intOf_rat hx.1 hx.2 e

theorem convertsTo_int {ty : Ty} (hf : ty.fmt? = none) {c : Ctl} {x : Val} {z : Int} (hx : ∀ v, x ≠ .int v) (h : IntOf ty c.rnd c.scale x z) :
    ConvertsTo ty c x (wrapTo ty.ew z) := by
  unfold ConvertsTo
  rw [hf]
  cases x with
  | int v => exact absurd rfl (hx v)
  | _ => exact ⟨z, h, rfl⟩

theorem val_ne_int (x : FV) (v : Int) : x.val ≠ .int v := by cases x <;> exact nofun
theorem Rat4.val_ne_int (x : Rat4) (v : Int) : x.val ≠ .int v := by cases x <;> exact nofun

/-- One element of a conversion. -/
theorem convElem_converts (h : Hd) (c : Ctl) (src ty : Ty) (s b : Nat) {raw : Nat} (hraw : raw < 2 ^ src.ew) :
    ConvertsTo ty c (cvtSrc h c src s b raw) (convElem h c src ty s b raw) := by
  unfold convElem cvtSrc
  cases hs : src.fmt? with
  | some fs =>
    cases hd : ty.fmt? with
    | some fd => exact cvtFF_converts hd fs c _
    | none => exact convertsTo_int hd (val_ne_int _) (cvtFI_intOf ty c.rnd c.scale _)
  | none =>
    by_cases hq : src = .q4
    · subst hq
      have hp := (qValue_proper (c := raw) hraw (srcMods .f32 c.daz false false s) (b % 256)).mods (Hd.mods h).absA (Hd.mods h).negA
      have hv := Rat4.mods_val (Hd.mods h).absA (Hd.mods h).negA (qValue raw (srcMods .f32 c.daz false false s) (b % 256))
      rw [qValue_val] at hv
      dsimp only
      rw [if_pos rfl, ← hv]
      cases hd : ty.fmt? with
      | some fd => exact toEx_converts hd c hp
      | none => exact convertsTo_int hd (Rat4.val_ne_int _) (toInt_intOf c.rnd c.scale hp)
    · dsimp only
      rw [if_neg hq]
      cases hd : ty.fmt? with
      | some fd => dsimp only; rw [if_neg hq]; exact cvtIF_converts hd c _
      | none =>
        dsimp only
        rw [if_neg hq]
        unfold ConvertsTo
        rw [hd]

end Sys2Proof.Machine
end

section
/-! `cvt`, `fclass` and `frint` (R287, R288, R290 to R292). -/
namespace Sys2Proof.Machine

/-! ### Classes (R287) -/

section
variable {f : Fmt} {b : Nat}

theorem magVal_two_pow : magVal ℚ f (2 ^ f.fbits) = 2 ^ f.emin := by
  have h := grid_enc (K := ℚ) (p := f.fbits) (k := 2 ^ f.fbits) (u := 0) (q := f.emin - f.fbits) (.inl rfl) (Nat.pow_le_pow_right (by omega) (by omega))
  rw [Nat.zero_mul, Nat.add_zero] at h
  rw [magVal, h, Nat.cast_zero, add_zero]
  push_cast
  rw [← zpow_natCast, ← zpow_add₀ two_ne_zero]
  congr 1
  ring

/-- A finite value is below the normal ones where its exponent field is 0. -/
theorem subnormal_iff {n : Bool} {m : Nat} {e : Int} (h : FV.dec f b = .fin n m e) :
    (b / 2 ^ f.fbits) % 2 ^ f.ebits = 0 ↔ (m : ℚ) * 2 ^ e < 2 ^ f.emin := by
  obtain ⟨-, -, hval, -, -, -⟩ := dec_fin h
  rw [hval, ← magVal_two_pow, magVal_strictMono.lt_iff_lt, ← exp_magOf, Nat.div_eq_zero_iff]
  have := Nat.two_pow_pos f.fbits
  omega

theorem frac_lt {n : Bool} {fr : Nat} (hf : f = .f32 ∨ f = .f64) (h : FV.dec f b = .nan n fr) : fr < 2 ^ 52 := by
  have hfr := Nat.mod_lt b (Nat.two_pow_pos f.fbits)
  have hbits : f.fbits ≤ 52 := by rcases hf with rfl | rfl <;> decide
  have hscaled : b % 2 ^ f.fbits * 2 ^ (52 - f.fbits) < 2 ^ 52 := by
    calc b % 2 ^ f.fbits * 2 ^ (52 - f.fbits) < 2 ^ f.fbits * 2 ^ (52 - f.fbits) := Nat.mul_lt_mul_of_pos_right hfr (Nat.two_pow_pos _)
      _ = 2 ^ 52 := by rw [← pow_add]; congr 1; omega
  unfold FV.dec at h
  dsimp only at h
  rw [if_neg (fun he => by rcases hf with rfl | rfl <;> cases he.1)] at h
  split at h
  · split at h <;> cases h
    exact hscaled
  · split at h
    · split at h <;> cases h
    · cases h

theorem fclassBits_eq (hf : f = .f32 ∨ f = .f64) : fclassBits f b = 2 ^ (FV.dec f b).cls f := by
  unfold fclassBits
  cases hd : FV.dec f b with
  | nan n fr =>
    have hlt := frac_lt hf hd
    have hiff : fr / 2 ^ 51 % 2 = 1 ↔ 2 ^ 51 ≤ fr := by omega
    simp only [FV.cls, hiff]
    split <;> rfl
  | inf n => cases n <;> rfl
  | zero n => cases n <;> rfl
  | fin n m e =>
    have hiff := subnormal_iff hd
    simp only [FV.cls, beq_iff_eq, hiff]
    cases n <;> simp only [Bool.false_eq_true, if_true, if_false] <;> split <;> rfl

end

/-! ### Integral values (R288) -/

section
variable {f : Fmt}

theorem natAbs_roundInt (r : Rnd) (n : Bool) (m : Nat) (e : Int) : roundInt r n m e = sgnInt n (roundInt r n m e).natAbs := by
  unfold roundInt sgnInt
  extract_lets
  cases n
  · simp only [Bool.false_eq_true, if_false]; omega
  · simp only [if_true]; omega

theorem sgnInt_cast (n : Bool) (k : Nat) : ((sgnInt n k : Int) : ℚ) = sgn n * k := by cases n <;> simp [sgnInt]

theorem roundsInt_self (r : Rnd) (z : Int) : RoundsInt r (z : ℚ) z := by
  cases r with
  | rz =>
    show z = if _ then _ else _
    split
    · exact (Int.ceil_intCast z).symm
    · exact (Int.floor_intCast z).symm
  | ru => exact (Int.ceil_intCast z).symm
  | rd => exact (Int.floor_intCast z).symm
  | rne =>
    refine ⟨by rw [sub_self, abs_zero]; norm_num, fun h => ?_⟩
    rw [sub_self, abs_zero] at h
    norm_num at h

/-- The formats hold every integer of as many bits as their significand. -/
theorem exists_magVal_nat {k : Nat} (hk : k ≠ 0) (hlt : k < 2 ^ (f.fbits + 1)) : ∃ M ≤ maxFinite f, magVal ℚ f M = k := by
  obtain ⟨M, hM⟩ := exists_magVal (f := f) hk hlt (e := 0) (by cases f <;> decide)
  rw [zpow_zero, mul_one] at hM
  refine ⟨M, ?_, hM⟩
  have htop := grid_enc (K := ℚ) (p := f.fbits) (k := 2 ^ f.fbits) (u := f.fbits + f.bias) (q := f.emin - f.fbits) (.inr le_rfl)
    (Nat.pow_le_pow_right (by omega) (by omega))
  rw [show f.emin - (f.fbits : Int) + ((f.fbits + f.bias : Nat) : Int) = 1 by unfold Fmt.emin; push_cast; ring, zpow_one] at htop
  have hle : M ≤ 2 ^ f.fbits + (f.fbits + f.bias) * 2 ^ f.fbits := by
    rw [← magVal_le_iff (K := ℚ) (f := f), hM, magVal, htop]
    exact_mod_cast hlt.le
  exact hle.trans (by cases f <;> decide)

theorem dec_roundBits_nat {k : Nat} (hk : k ≠ 0) (hlt : k < 2 ^ (f.fbits + 1)) (r : Rnd) (n : Bool) :
    (FV.dec f (roundBits f r n k 0 false)).rat = some (sgn n * (k : ℚ)) := by
  obtain ⟨M, hM, hval⟩ := exists_magVal_nat hk hlt
  rw [roundBits_magVal hk hM (by rw [zpow_zero, mul_one]; exact hval), dec_signBit_add hM, ofMag_rat, hval]

/-- The magnitude of a fraction of a short significand rounds to a short integer. -/
theorem natAbs_roundInt_lt {r : Rnd} {n : Bool} {m p : Nat} {e : Int} (hp : p ≠ 0) (hm : m < 2 ^ (p + 1)) (he : e < 0) :
    (roundInt r n m e).natAbs < 2 ^ (p + 1) := by
  have hnear := roundsInt_near (roundsInt_roundInt r n m e)
  have hk := natAbs_roundInt r n m e
  generalize (roundInt r n m e).natAbs = k at *
  rw [hk, sgnInt_cast, mul_assoc, ← mul_sub, abs_mul, abs_sgn, one_mul, abs_le] at hnear
  have hhalf : (m : ℚ) * 2 ^ e ≤ m * (1 / 2) := by
    refine mul_le_mul_of_nonneg_left ?_ (Nat.cast_nonneg m)
    calc (2 : ℚ) ^ e ≤ 2 ^ (-1 : Int) := zpow_le_zpow_right₀ one_le_two (by omega)
      _ = 1 / 2 := by norm_num
  have hmQ : (m : ℚ) < 2 * (2 ^ p : Nat) := by
    rw [pow_succ'] at hm
    exact_mod_cast hm
  obtain ⟨j, rfl⟩ := Nat.exists_eq_succ_of_ne_zero hp
  have hk : (k : ℚ) < ((2 ^ (j + 1) + 1 : Nat) : ℚ) := by
    rw [Nat.succ_eq_add_one] at hmQ
    push_cast at hmQ ⊢
    linarith
  have : k < 2 ^ (j + 1) + 1 := by exact_mod_cast hk
  have h2 := Nat.two_pow_pos j
  rw [pow_succ (n := j + 1)]
  have : (2 : Nat) ^ (j + 1) = 2 * 2 ^ j := by ring
  omega

theorem zeroed_lt {sb : Nat} (hsb : 0 < sb) (b : Nat) : b / sb % 2 * sb < sb + sb := by
  have hmul : b / sb % 2 * sb ≤ 1 * sb := Nat.mul_le_mul_right _ (by omega)
  omega

theorem negated_lt {sb b : Nat} (hsb : 0 < sb) (h : b < sb + sb) : (if b / sb % 2 = 1 then b - sb else b + sb) < sb + sb := by
  split
  · omega
  · next hn =>
    have hlt : b / sb < 2 := by rw [Nat.div_lt_iff_lt_mul hsb]; omega
    have hz : b / sb = 0 := by
      generalize b / sb = q at *
      omega
    have := Nat.div_eq_zero_iff.mp hz
    omega

theorem srcMods_lt {b : Nat} (h : b < 2 ^ f.width) (daz ab ng : Bool) : srcMods f daz ab ng b < 2 ^ f.width := by
  have hsb : 0 < 2 ^ (f.ebits + f.fbits) := Nat.two_pow_pos _
  rw [two_pow_width] at h ⊢
  unfold srcMods
  generalize 2 ^ (f.ebits + f.fbits) = sb at *
  have h1 : (if daz && f.flushes && (b / 2 ^ f.fbits) % 2 ^ f.ebits == 0 then (b / sb % 2) * sb else b) < sb + sb := by
    split
    · exact zeroed_lt hsb b
    · exact h
  dsimp only
  generalize (if daz && f.flushes && (b / 2 ^ f.fbits) % 2 ^ f.ebits == 0 then (b / sb % 2) * sb else b) = b1 at *
  have h2 : (if ab then b1 % sb else b1) < sb + sb := by
    have := Nat.mod_lt b1 hsb
    split <;> omega
  generalize (if ab then b1 % sb else b1) = b2 at *
  split
  · exact negated_lt hsb h2
  · exact h2

/-- What R288 says of an integral value. -/
def IntegralGives (f : Fmt) (r : Rnd) (x b : Nat) : Prop :=
  match FV.dec f x with
  | .nan n fr => b = nanBits f n fr
  | .inf _ | .zero _ => b = x
  | .fin n m e => ∃ z, RoundsInt r ((if n then -1 else 1) * (m : ℚ) * 2 ^ e) z
    ∧ (z = 0 → b = signBit f n) ∧ (z ≠ 0 → b < 2 ^ f.width ∧ (FV.dec f b).rat = some (z : ℚ))

theorem frintBits_gives {x : Nat} (hx : x < 2 ^ f.width) (r : Rnd) : IntegralGives f r x (frintBits f r x) := by
  unfold IntegralGives frintBits
  cases hd : FV.dec f x with
  | nan n fr => rfl
  | inf n => rfl
  | zero n => rfl
  | fin n m e =>
    obtain ⟨-, -, -, -, hlen, -⟩ := dec_fin hd
    have hm : m ≠ 0 := by have := dec_proper f x; rw [hd] at this; exact this
    dsimp only
    by_cases he : 0 ≤ e
    · rw [if_pos he]
      have hval : sgn n * (m : ℚ) * 2 ^ e = ((sgnInt n (m * 2 ^ e.toNat) : Int) : ℚ) := by
        rw [sgnInt_cast, zpow_toNat he]
        push_cast
        ring
      have hk : m * 2 ^ e.toNat ≠ 0 := mul_ne_zero hm (Nat.two_pow_pos _).ne'
      refine ⟨sgnInt n (m * 2 ^ e.toNat), ?_, fun h0 => ?_, fun _ => ⟨hx, ?_⟩⟩
      · have h := roundsInt_self r (sgnInt n (m * 2 ^ e.toNat))
        rwa [← hval] at h
      · unfold sgnInt at h0
        split at h0 <;> omega
      · rw [hd, ← hval]
        rfl
    · rw [if_neg he]
      refine ⟨roundInt r n m e, roundsInt_roundInt r n m e, fun h0 => if_pos h0, fun h0 => ?_⟩
      rw [if_neg h0]
      refine ⟨roundBits_lt .., ?_⟩
      rw [dec_roundBits_nat (by omega) (natAbs_roundInt_lt (fbits_ne_zero f) hlen (by omega))]
      conv_rhs => rw [natAbs_roundInt, sgnInt_cast]

end

/-! ### The instructions -/

section
variable {h : Hd} {ty src : Ty} {d a b c : Opnd} {s : State} {r : GRef} {t : Team} {g : Group} (hi : Issuing s r t g) (ha : Alone h)
  (hact : Active h g s.m.draw)
include hi ha hact

omit hi ha hact in
/-- A source of one element. -/
theorem elem_srcVal {f : Fmt} (hf : (ty = .f32 ∧ f = .f32) ∨ (ty = .f64 ∧ f = .f64)) (lead g : Group) (draw slot : Nat) (o : Opnd) (l : Nat) :
    elem ty.ew 0 (srcVal lead g draw slot ty o l) = (srcVal lead g draw slot ty o l).toNat := by
  rw [elem, Nat.mul_zero, pow_zero, Nat.div_one]
  exact Nat.mod_eq_of_lt (srcVal_lt (by rcases hf with ⟨rfl, -⟩ | ⟨rfl, -⟩ <;> decide) ..)

theorem fclass_yields {f : Fmt} (hf : (ty = .f32 ∧ f = .f32) ∨ (ty = .f64 ∧ f = .f64)) (hp : Passes (.fclass h ty d a) t g s.m.draw) :
    Yields (.fclass h ty d a) h s r g d false (fun l =>
      BitVec.ofNat 64 (2 ^ (FV.dec f (elem ty.ew 0 (srcVal g g s.m.draw 0 ty a l))).cls f)) := by
  refine (yields_valOp (op := fclassOp h ty d a) hi ha hact (hp _ _ rfl) (unheld_of_regOnly rfl ..) (exec_of_opOf rfl s) rfl).congr fun l _ => ?_
  rw [← fclassBits_eq (by rcases hf with ⟨-, rfl⟩ | ⟨-, rfl⟩ <;> simp), elem_srcVal hf, ← fmtD_of hf]
  rfl

theorem frint_yields {f : Fmt} (hf : (ty = .f32 ∧ f = .f32) ∨ (ty = .f64 ∧ f = .f64)) (hp : Passes (.frint h ty d a) t g s.m.draw) :
    Yields (.frint h ty d a) h s r g d ty.wide (fun l => BitVec.ofNat 64 (frintBits f (ctlOf h (fpcOf s.m t.ctx)).rnd
      (floatSrc h ty (ctlOf h (fpcOf s.m t.ctx)) g s.m.draw 0 a l 0))) := by
  refine (yields_valOp (op := frintOp h ty d a) hi ha hact (hp _ _ rfl) (unheld_of_regOnly rfl ..) (exec_of_opOf rfl s) rfl).congr fun l _ => ?_
  show _ = BitVec.ofNat 64 (frintBits f _ (modA h (Ty.fmtD ty) _ (elem ty.ew 0 _)))
  rw [elem_srcVal hf, ← fmtD_of hf]
  rfl

omit hi ha hact in
theorem floatSrc_lt {f : Fmt} (hf : (ty = .f32 ∧ f = .f32) ∨ (ty = .f64 ∧ f = .f64)) (ctl : Ctl) (j : Nat) (o : Opnd) (l k : Nat) :
    floatSrc h ty ctl g s.m.draw j o l k < 2 ^ f.width := by
  have he : elem ty.ew k (srcVal g g s.m.draw j ty o l) < 2 ^ f.width := by
    rw [show f.width = ty.ew by rcases hf with ⟨rfl, rfl⟩ | ⟨rfl, rfl⟩ <;> rfl]
    exact Nat.mod_lt _ (Nat.two_pow_pos _)
  unfold floatSrc
  rw [fmtD_of hf]
  dsimp only
  split
  · exact srcMods_lt he ..
  · split <;> exact srcMods_lt he ..

/-- The unit of D after a conversion, element by element. -/
def cvtElem (h : Hd) (ctl : Ctl) (src ty : Ty) (s b : Nat) (x old : DWord) (j : Nat) : Nat :=
  if ty.count ≤ src.count then convElem h ctl src ty s b (elem src.ew (Hd.part h * min src.count ty.count + j) x)
  else if Hd.part h * min src.count ty.count ≤ j ∧ j < Hd.part h * min src.count ty.count + min src.count ty.count then
    convElem h ctl src ty s b (elem src.ew (j - Hd.part h * min src.count ty.count) x)
  else elem ty.ew j old

omit hi ha hact in
theorem convUnit_eq (ctl : Ctl) (s b : Nat) (x old : DWord) :
    convUnit h ctl src ty s b x old = elements ty (cvtElem h ctl src ty s b x old) := by
  unfold convUnit elements cvtElem
  dsimp only
  split <;> rfl

theorem cvt_yields (hp : Passes (.cvt h ty src d a b c) t g s.m.draw) : Yields (.cvt h ty src d a b c) h s r g d ty.wide (fun l =>
    elements ty (cvtElem h (ctlOf h (fpcOf s.m t.ctx)) src ty (srcVal g g s.m.draw 1 .f32 b l).toNat (srcVal g g s.m.draw 2 .n32 c l).toNat
      (srcVal g g s.m.draw 0 src a l) (srcVal g g s.m.draw 3 (if ty.wide then .n64 else .n32) d l))) := by
  have hy := yields_of_body (op := cvtOp h ty src d a b c) (d := d) (wide := ty.wide) (tag := ty.tag)
    (f := fun l => convUnit h (ctlOf h (fpcOf s.m t.ctx)) src ty (srcVal g g s.m.draw 1 .f32 b l).toNat (srcVal g g s.m.draw 2 .n32 c l).toNat
      (srcVal g g s.m.draw 0 src a l) (srcVal g g s.m.draw 3 (if ty.wide then .n64 else .n32) d l))
    hi ha hact (hp _ _ rfl) (unheld_of_regOnly rfl ..) (exec_of_opOf (i := .cvt h ty src d a b c) rfl s)
    (by dsimp only [cvtOp, valOp]; rw [regBody_one ha.1 hi.here (hi.member h), hi.ref]; rfl)
  exact hy.congr fun l _ => convUnit_eq ..

end

end Sys2Proof.Machine
end

section
/-! Narrowing with error feedback to a float format (R100): the element is read back exactly, and the residual is one subtraction. -/
namespace Sys2Proof.Machine

/-! ### Narrow formats read as F32 -/

theorem finishEx_plain {f : Fmt} {c : Ctl} (h : c.Plain) (n : Bool) (m : Nat) (e : Int) :
    finishEx f c (.fin n m e false) = flush f c.ftz (roundBits f c.rnd n m e false) := by
  rw [finishEx_fin, limited_of_plain h, h.scale, add_zero]

theorem flush_false (f : Fmt) (b : Nat) : flush f false b = b := rfl

/-- The formats that CVTEF writes. -/
def Fmt.narrow : Fmt → Bool
  | .f64 | .f32 => false
  | _ => true

section
variable {f : Fmt} (hf : f.narrow = true)
include hf

/-- Every finite value of a narrow format is below 2^128. -/
theorem magVal_narrow_lt {M : Nat} (hM : M ≤ maxFinite f) : magVal ℚ f M < 2 ^ (128 : Int) := by
  refine (magVal_strictMono (Nat.lt_succ_of_le hM)).trans_le ?_
  cases f with
  | f64 | f32 => cases hf
  | f16 => show grid ℚ 10 (-24) 0x7C00 ≤ _; norm_num [grid]
  | bf16 => show grid ℚ 7 (-133) 0x7F80 ≤ _; norm_num [grid]
  | e5 => show grid ℚ 2 (-16) 0x7C ≤ _; norm_num [grid]
  | e4 => show grid ℚ 3 (-9) 0x7F ≤ _; norm_num [grid]

omit hf in
theorem lt_maxFinite_f32 {M : Nat} (h : magVal ℚ .f32 M < 2 ^ (128 : Int)) : M ≤ maxFinite .f32 := by
  have htop := grid_enc (K := ℚ) (p := 23) (k := 2 ^ 23) (u := 254) (q := -149) (.inr le_rfl) (by norm_num)
  have htop' : magVal ℚ .f32 (maxFinite .f32 + 1) = 2 ^ (128 : Int) := htop.trans (by norm_num)
  rw [← htop', magVal_strictMono.lt_iff_lt] at h
  omega

/-- A finite value of a narrow format is one of F32. -/
theorem cvtFF_f32_fin {y : Nat} {n : Bool} {m : Nat} {e : Int} (hd : FV.dec f y = .fin n m e) :
    ∃ M ≤ maxFinite .f32, M ≠ 0 ∧ magVal ℚ .f32 M = m * 2 ^ e ∧ cvtFF f .f32 plainCtl y = signBit .f32 n + M := by
  obtain ⟨-, hle, hval, hne, hlen, he⟩ := dec_fin hd
  have hm : m ≠ 0 := by have := dec_proper f y; rw [hd] at this; exact this
  have hbits : f.fbits ≤ 23 ∧ -149 ≤ f.emin - f.fbits := by
    cases f
    case f64 | f32 => cases hf
    all_goals decide
  obtain ⟨M, hM⟩ := exists_magVal (f := .f32) hm (hlen.trans_le (Nat.pow_le_pow_right (by omega) (by exact Nat.succ_le_succ hbits.1)))
    (hbits.2.trans he)
  have hMmax := lt_maxFinite_f32 (hM.trans hval ▸ magVal_narrow_lt hf hle)
  have hM0 : M ≠ 0 := by
    rintro rfl
    rw [magVal_zero] at hM
    exact mul_ne_zero (by exact_mod_cast hm) (two_zpow_pos e).ne' hM.symm
  refine ⟨M, hMmax, hM0, hM, ?_⟩
  unfold cvtFF
  rw [hd]
  exact (finishEx_plain plainCtl_plain n m e).trans (roundBits_magVal hm hMmax hM .rne n)

end

/-! ### The same value in two formats -/

/-- Two values that are equal, but that one may be written with other significands. -/
def SameVal (x y : FV) : Prop :=
  x = y ∨ ∃ n m e m' e', x = .fin n m e ∧ y = .fin n m' e' ∧ (m : ℚ) * 2 ^ e = m' * 2 ^ e'

theorem SameVal.rat {x y : FV} (h : SameVal x y) : x.rat = y.rat := by
  rcases h with rfl | ⟨n, m, e, m', e', rfl, rfl, h⟩
  · rfl
  · show some (sgn n * (m : ℚ) * 2 ^ e) = some (sgn n * (m' : ℚ) * 2 ^ e')
    rw [mul_assoc, mul_assoc, h]

theorem SameVal.neg {x y : FV} (h : SameVal x y) : SameVal x.neg y.neg := by
  rcases h with rfl | ⟨n, m, e, m', e', rfl, rfl, h⟩
  · exact .inl rfl
  · exact .inr ⟨!n, m, e, m', e', rfl, rfl, h⟩

theorem sumSpecial_sameVal {f : Fmt} {down : Bool} {x y y' : FV} (h : SameVal y y') : sumSpecial f down x y = sumSpecial f down x y' := by
  rcases h with rfl | ⟨n, m, e, m', e', rfl, rfl, h⟩
  · rfl
  · cases x with
    | fin k p d =>
      show (if sgn k * (p : ℚ) * 2 ^ d + sgn n * (m : ℚ) * 2 ^ e = 0 then _ else _) = (if sgn k * (p : ℚ) * 2 ^ d + sgn n * (m' : ℚ) * 2 ^ e' = 0 then _ else _)
      rw [mul_assoc (sgn n), mul_assoc (sgn n), h]
    | _ => rfl

/-- A sum depends on the value of its second source. -/
theorem SumGives.sameVal {f : Fmt} {r : Rnd} {ftz : Bool} {x y y' : FV} {b : Nat} (h : SameVal y y') (hs : SumGives f r ftz x y b) :
    SumGives f r ftz x y' b := by
  rcases h with rfl | ⟨n, m, e, m', e', rfl, rfl, h⟩
  · exact hs
  · have hv : SameVal (.fin n m e) (.fin n m' e') := .inr ⟨n, m, e, m', e', rfl, rfl, h⟩
    by_cases hx : x.num = none
    · obtain ⟨k, fr, rfl⟩ := num_eq_none.mp hx
      exact hs
    · rw [sumGives_iff hx (by exact Option.some_ne_none _)] at hs ⊢
      rwa [← sumSpecial_sameVal hv, ← hv.rat]

/-- A difference with neither scale nor limits, with the sign of a NaN kept. -/
theorem sumGives_exSub {f : Fmt} {c : Ctl} (h : c.Plain) {x y : FV} (hx : x.Proper) (hy : y.Proper) :
    SumGives f c.rnd c.ftz x y.neg (finishEx f c (exSub f c.rnd x y)) := by
  cases hn : firstNan f [x, y] with
  | none => exact exSub_of_none hn ▸ sumGives_exAdd h hx hy.neg
  | some n =>
    have hn' : firstNan f [x, y.neg] = some n := by rw [← hn]; cases x <;> cases y <;> rfl
    rw [exSub_nan hn, ← exAdd_nan (r := c.rnd) hn']
    exact sumGives_exAdd h hx hy.neg

/-- A narrow element read back as F32 holds the same value, or both are NaNs. -/
theorem cvtFF_f32_sameVal {f : Fmt} (hf : f.narrow = true) (y : Nat) :
    SameVal (FV.dec .f32 (cvtFF f .f32 plainCtl y)) (FV.dec f y)
      ∨ (FV.dec .f32 (cvtFF f .f32 plainCtl y)).rat = none ∧ (FV.dec f y).rat = none := by
  cases hd : FV.dec f y with
  | nan n fr =>
    obtain ⟨n', fr', hn⟩ := dec_nanBits (f := .f32) n fr
    have hb : cvtFF f .f32 plainCtl y = nanBits .f32 n fr := by
      unfold cvtFF
      rw [hd]
      exact (limited_nanBits plainCtl n fr).symm.trans (limited_of_plain plainCtl_plain _)
    exact .inr ⟨by rw [hb, hn]; rfl, rfl⟩
  | inf n =>
    have hb : cvtFF f .f32 plainCtl y = infBits .f32 n := by
      unfold cvtFF
      rw [hd]
      exact limited_of_plain plainCtl_plain _
    exact .inl (.inl (by rw [hb, dec_infBits (by decide)]))
  | zero n =>
    have hb : cvtFF f .f32 plainCtl y = signBit .f32 n + 0 := by
      unfold cvtFF
      rw [hd]
      exact limited_of_plain plainCtl_plain _
    exact .inl (.inl (by rw [hb, dec_signBit_add (Nat.zero_le _)]; rfl))
  | fin n m e =>
    obtain ⟨M, hM, h0, hval, hb⟩ := cvtFF_f32_fin hf hd
    refine .inl (.inr ?_)
    rw [hb, dec_signBit_add hM]
    have hfin : ∃ m' e', FV.ofMag .f32 n M = .fin n m' e' := ⟨_, _, if_neg h0⟩
    obtain ⟨m', e', hfin⟩ := hfin
    obtain ⟨-, hv, -⟩ := ofMag_fin hfin
    exact ⟨n, m', e', m, e, hfin, rfl, hv.trans hval⟩

/-! ### One step of a block -/

theorem f32Fin_iff (t : Nat) : f32Fin t = true ↔ magOf .f32 t ≤ maxFinite .f32 := by
  show decide (magOf .f32 t < maxFinite .f32 + 1) = true ↔ _
  rw [decide_eq_true_iff, Nat.lt_succ_iff]

theorem f32Fin_iff_rat (t : Nat) : f32Fin t = true ↔ (FV.dec .f32 t).rat ≠ none := by
  rw [f32Fin_iff]
  constructor
  · intro h
    rw [dec_of_le h, ofMag_rat]
    exact Option.some_ne_none _
  · intro h
    by_contra hgt
    rcases dec_of_gt (not_le.mp hgt) with ⟨-, -, hd⟩ | ⟨fr, hd⟩ <;> rw [hd] at h <;> exact h rfl

/-- The magnitude of a rational value of F32. -/
theorem abs_rat_f32 {t : Nat} {p : ℚ} (h : (FV.dec .f32 t).rat = some p) : |p| = magVal ℚ .f32 (magOf .f32 t) := by
  have hfin := (f32Fin_iff t).mp ((f32Fin_iff_rat t).mpr (by rw [h]; exact Option.some_ne_none _))
  rw [dec_of_le hfin, ofMag_rat] at h
  rw [← Option.some.inj h, abs_mul, abs_sgn, one_mul, abs_of_nonneg (magVal_nonneg _)]

/-- The largest value of a narrow format as F32. -/
theorem cvtFF_maxFinite {f : Fmt} (hf : f.narrow = true) :
    ∃ z, (FV.dec f (maxFinite f)).rat = some z ∧ magVal ℚ .f32 (cvtFF f .f32 plainCtl (maxFinite f)) = z := by
  have hd : FV.dec f (maxFinite f) = FV.ofMag f false (maxFinite f) := by
    have := dec_signBit_add (f := f) le_rfl false
    rwa [show signBit f false + maxFinite f = maxFinite f by simp [signBit]] at this
  have h0 : maxFinite f ≠ 0 := by cases f <;> decide
  obtain ⟨m, e, hfin⟩ : ∃ m e, FV.ofMag f false (maxFinite f) = .fin false m e := ⟨_, _, if_neg h0⟩
  obtain ⟨M, -, -, hval, hb⟩ := cvtFF_f32_fin hf (hd.trans hfin)
  refine ⟨m * 2 ^ e, ?_, ?_⟩
  · rw [hd, hfin]
    show some (sgn false * (m : ℚ) * 2 ^ e) = _
    rw [sgn_false, one_mul]
  · rw [hb, show signBit .f32 false + M = M by simp [signBit], hval]

/-- The residual is kept where t and its element are finite and t is not beyond the largest value of the type (R100). -/
def EfKept (f : Fmt) (t y : Nat) : Prop :=
  ∃ p q z, (FV.dec .f32 t).rat = some p ∧ (FV.dec f y).rat = some q ∧ (FV.dec f (maxFinite f)).rat = some z ∧ |p| ≤ z

theorem efKept_iff {f : Fmt} (hf : f.narrow = true) (t y : Nat) : EfKept f t y ↔
    (!f32Fin t || !f32Fin (cvtFF f .f32 plainCtl y) || decide (cvtFF f .f32 plainCtl (maxFinite f) < t % 2 ^ 31)) = false := by
  obtain ⟨z, hz, hM⟩ := cvtFF_maxFinite hf
  have hy : f32Fin (cvtFF f .f32 plainCtl y) = true ↔ (FV.dec f y).rat ≠ none := by
    rw [f32Fin_iff_rat]
    rcases cvtFF_f32_sameVal hf y with h | ⟨h1, h2⟩
    · rw [h.rat]
    · rw [h1, h2]
  have hcmp : ∀ p, (FV.dec .f32 t).rat = some p → (¬ cvtFF f .f32 plainCtl (maxFinite f) < t % 2 ^ 31 ↔ |p| ≤ z) := fun p hp => by
    rw [abs_rat_f32 hp, ← hM, magVal_le_iff, not_lt]
    rfl
  rw [Bool.or_eq_false_iff, Bool.or_eq_false_iff, Bool.not_eq_false', Bool.not_eq_false', decide_eq_false_iff_not, f32Fin_iff_rat, hy]
  constructor
  · rintro ⟨p, q, z', hp, hq, hz', hle⟩
    obtain rfl := Option.some.inj (hz'.symm.trans hz)
    exact ⟨⟨by rw [hp]; exact Option.some_ne_none _, by rw [hq]; exact Option.some_ne_none _⟩, (hcmp p hp).mpr hle⟩
  · rintro ⟨⟨ht, hq⟩, hlt⟩
    obtain ⟨p, hp⟩ := Option.ne_none_iff_exists'.mp ht
    obtain ⟨q, hq⟩ := Option.ne_none_iff_exists'.mp hq
    exact ⟨p, q, z, hp, hq, hz, (hcmp p hp).mp hlt⟩

/-- The control of a block's sums. -/
def efCtl (ftz : Bool) : Ctl := { plainCtl with ftz := ftz }

theorem efCtl_plain (ftz : Bool) : (efCtl ftz).Plain := ⟨rfl, rfl, rfl⟩

/-- The element with the residual added. -/
def efSum (daz ftz : Bool) (e x : Nat) : Nat := fop .f32 (efCtl ftz) .add (srcMods .f32 daz false false x) (srcMods .f32 daz false false e) 0

theorem efSum_gives (daz ftz : Bool) (e x : Nat) : SumGives .f32 .rne ftz (FV.dec .f32 (srcMods .f32 daz false false x))
    (FV.dec .f32 (srcMods .f32 daz false false e)) (efSum daz ftz e x) := sumGives_exAdd (efCtl_plain ftz) (dec_proper ..) (dec_proper ..)

theorem efSub_gives (ftz : Bool) (t v : Nat) :
    SumGives .f32 .rne ftz (FV.dec .f32 t) (FV.dec .f32 v).neg (fop .f32 (efCtl ftz) .sub t v 0) :=
  sumGives_exSub (efCtl_plain ftz) (dec_proper ..) (dec_proper ..)

/-- A step towards a float format. -/
theorem efStep_float {ty : Ty} {f : Fmt} (hf : ty.fmt? = some f) (hn : f.narrow = true) (daz ftz : Bool) (s : FV) (sN b bN e x : Nat) :
    EfStep ty daz ftz s b e x (efStep ty daz ftz sN bN e x).1 (efStep ty daz ftz sN bN e x).2 := by
  refine ⟨efSum daz ftz e x, efSum_gives daz ftz e x, ?_⟩
  have hstep : efStep ty daz ftz sN bN e x = (cvtFF .f32 f plainCtl (efSum daz ftz e x),
      if !f32Fin (efSum daz ftz e x) || !f32Fin (cvtFF f .f32 plainCtl (cvtFF .f32 f plainCtl (efSum daz ftz e x)))
        || decide (cvtFF f .f32 plainCtl (maxFinite f) < efSum daz ftz e x % 2 ^ 31) then 0
      else fop .f32 (efCtl ftz) .sub (efSum daz ftz e x) (cvtFF f .f32 plainCtl (cvtFF .f32 f plainCtl (efSum daz ftz e x))) 0) := by
    unfold efStep
    simp only [hf]
    rfl
  rw [hstep]
  generalize efSum daz ftz e x = t
  simp only [hf]
  refine ⟨cvtFF_converts hf .f32 plainCtl t, fun hk => ?_, fun hk => ?_⟩
  · have hk' : EfKept f t (cvtFF .f32 f plainCtl t) := hk
    rw [if_neg (by rw [(efKept_iff hn ..).mp hk']; exact Bool.false_ne_true)]
    obtain ⟨p, q, z, hp, hq, -⟩ := hk'
    rcases cvtFF_f32_sameVal hn (cvtFF .f32 f plainCtl t) with h | ⟨-, h⟩
    · exact (efSub_gives ftz t _).sameVal h.neg
    · rw [h] at hq
      cases hq
  · have hk' : ¬ EfKept f t (cvtFF .f32 f plainCtl t) := hk
    rw [efKept_iff hn, Bool.not_eq_false] at hk'
    rw [if_pos hk']

end Sys2Proof.Machine
end

section
/-! Narrowing with error feedback to QN4 (R101): the code of the nearest level, and its residual. -/
namespace Sys2Proof.Machine

/-! ### The nearest level -/

/-- The magnitudes of the codebook, in order (R98). -/
def qMag (i : Nat) : Nat := [5, 16, 27, 39, 53, 69, 90, 127].getD i 0

/-- The code of a magnitude with a sign. -/
def codeOf (neg : Bool) (i : Nat) : Nat := if neg then 7 - i else 8 + i

theorem qLevel_codeOf : ∀ neg, ∀ i < 8, qLevel (codeOf neg i) = sgnInt neg (qMag i) := by decide

theorem codeOf_lt {neg : Bool} {i : Nat} (h : i < 8) : codeOf neg i < 16 := by unfold codeOf; split <;> omega

theorem exists_codeOf {c : Nat} (h : c < 16) : ∃ neg, ∃ i < 8, c = codeOf neg i := by
  rcases lt_or_ge c 8 with hc | hc
  · exact ⟨true, 7 - c, by omega, by show c = 7 - (7 - c); omega⟩
  · exact ⟨false, c - 8, by omega, by show c = 8 + (c - 8); omega⟩

theorem qMag_le : ∀ i < 8, ∀ j < 8, i ≤ j → qMag i ≤ qMag j := by decide
theorem qMag_pos : ∀ i < 8, 0 < qMag i := by decide

/-- A level as a rational. -/
abbrev level (c : Nat) : ℚ := (qLevel c : Int)

theorem level_codeOf {neg : Bool} {i : Nat} (h : i < 8) : level (codeOf neg i) = sgn neg * qMag i := by
  rw [level, qLevel_codeOf neg i h, sgnInt_cast]

theorem abs_level_codeOf {neg : Bool} {i : Nat} (h : i < 8) : |level (codeOf neg i)| = qMag i := by
  rw [level_codeOf h, abs_mul, abs_sgn, one_mul, Nat.abs_cast]

/-- i is the first of the magnitudes that are nearest to Q. -/
def Nearest (Q : ℚ) (i : Nat) : Prop :=
  i < 8 ∧ ∀ j < 8, |(qMag i : ℚ) - Q| ≤ |(qMag j : ℚ) - Q| ∧ (|(qMag i : ℚ) - Q| = |(qMag j : ℚ) - Q| → i ≤ j)

/-- The nearest magnitude with the sign of the quotient is the nearest level, and the smaller of two. -/
theorem Nearest.level {Q : ℚ} {i : Nat} (h : Nearest Q i) (hQ : 0 ≤ Q) (neg : Bool) {c : Nat} (hc : c < 16) :
    |level (codeOf neg i) - sgn neg * Q| ≤ |Machine.level c - sgn neg * Q|
      ∧ (|Machine.level (codeOf neg i) - sgn neg * Q| = |Machine.level c - sgn neg * Q| → |Machine.level (codeOf neg i)| ≤ |Machine.level c|) := by
  obtain ⟨hi, hn⟩ := h
  obtain ⟨ng, j, hj, rfl⟩ := exists_codeOf hc
  obtain ⟨hle, heq⟩ := hn j hj
  have hsame : ∀ k < 8, |Machine.level (codeOf neg k) - sgn neg * Q| = |(qMag k : ℚ) - Q| := fun k hk => by
    rw [level_codeOf hk, ← mul_sub, abs_mul, abs_sgn, one_mul]
  have hmag : i ≤ j → |Machine.level (codeOf neg i)| ≤ |Machine.level (codeOf ng j)| := fun hij => by
    rw [abs_level_codeOf hi, abs_level_codeOf hj]
    exact_mod_cast qMag_le i hi j hj hij
  by_cases hng : ng = neg
  · subst hng
    rw [hsame i hi, hsame j hj]
    exact ⟨hle, fun he => hmag (heq he)⟩
  · have hpos : (0 : ℚ) < qMag j := by exact_mod_cast qMag_pos j hj
    have hfar : |Machine.level (codeOf ng j) - sgn neg * Q| = qMag j + Q := by
      rw [level_codeOf hj]
      cases ng <;> cases neg <;> simp only [sgn_true, sgn_false, one_mul, neg_one_mul, not_true_eq_false] at hng ⊢
      · rw [sub_neg_eq_add, abs_of_pos (by linarith)]
      · rw [abs_of_neg (by linarith)]
        ring
    have htri : |(qMag j : ℚ) - Q| ≤ qMag j + Q := by rw [abs_le]; constructor <;> linarith
    rw [hsame i hi, hfar]
    exact ⟨hle.trans htri, fun he => hmag (heq (le_antisymm hle (htri.trans_eq he.symm)))⟩

/-- A search for the first least value. -/
theorem argmin_foldl (dist : Nat → Nat) (n : Nat) :
    let r := (List.range n).foldl (fun best i => if dist i < dist best then i else best) 0
    (r < n ∨ r = 0) ∧ ∀ j < n, dist r ≤ dist j ∧ (dist r = dist j → r ≤ j) := by
  induction n with
  | zero => exact ⟨.inr rfl, fun j hj => absurd hj (Nat.not_lt_zero j)⟩
  | succ n ih =>
    rw [List.range_succ, List.foldl_concat]
    generalize (List.range n).foldl (fun best i => if dist i < dist best then i else best) 0 = r at *
    obtain ⟨hr, hmin⟩ := ih
    dsimp only
    split
    · next hlt =>
      refine ⟨.inl (Nat.lt_succ_self n), fun j hj => ?_⟩
      rcases Nat.lt_succ_iff_lt_or_eq.mp hj with hj | rfl
      · have := (hmin j hj).1
        exact ⟨by omega, fun he => by omega⟩
      · exact ⟨le_rfl, fun _ => le_rfl⟩
    · next hge =>
      refine ⟨by omega, fun j hj => ?_⟩
      rcases Nat.lt_succ_iff_lt_or_eq.mp hj with hj | rfl
      · exact hmin j hj
      · exact ⟨by omega, fun _ => by omega⟩

/-- The index that `qCode` finds. -/
def nearIdx (num den : Nat) : Nat :=
  (List.range 8).foldl (fun best i =>
    if Int.natAbs ((num : Int) - (qMag i * den : Nat)) < Int.natAbs ((num : Int) - (qMag best * den : Nat)) then i else best) 0

theorem natAbs_dist (num mag : Nat) {den : Nat} (hden : den ≠ 0) :
    ((Int.natAbs ((num : Int) - (mag * den : Nat)) : Nat) : ℚ) = |(mag : ℚ) - num / den| * den := by
  have hpos : (0 : ℚ) < den := by exact_mod_cast Nat.pos_of_ne_zero hden
  rw [Nat.cast_natAbs, Int.cast_abs, abs_sub_comm, ← abs_of_pos hpos, ← abs_mul, sub_mul, abs_of_pos hpos, div_mul_cancel₀ _ hpos.ne']
  push_cast
  rfl

theorem nearIdx_nearest (num : Nat) {den : Nat} (hden : den ≠ 0) : Nearest ((num : ℚ) / den) (nearIdx num den) := by
  have hpos : (0 : ℚ) < den := by exact_mod_cast Nat.pos_of_ne_zero hden
  have hspec := argmin_foldl (fun i => Int.natAbs ((num : Int) - (qMag i * den : Nat))) 8
  change (nearIdx num den < 8 ∨ nearIdx num den = 0) ∧ ∀ j < 8,
    Int.natAbs ((num : Int) - (qMag (nearIdx num den) * den : Nat)) ≤ Int.natAbs ((num : Int) - (qMag j * den : Nat))
      ∧ (Int.natAbs ((num : Int) - (qMag (nearIdx num den) * den : Nat)) = Int.natAbs ((num : Int) - (qMag j * den : Nat)) →
        nearIdx num den ≤ j) at hspec
  obtain ⟨hr, hmin⟩ := hspec
  refine ⟨by omega, fun j hj => ?_⟩
  obtain ⟨hle, heq⟩ := hmin j hj
  have hle' : ((Int.natAbs ((num : Int) - (qMag (nearIdx num den) * den : Nat)) : Nat) : ℚ) ≤ (Int.natAbs ((num : Int) - (qMag j * den : Nat)) : Nat) := by
    exact_mod_cast hle
  rw [natAbs_dist _ _ hden, natAbs_dist _ _ hden] at hle'
  refine ⟨le_of_mul_le_mul_right hle' hpos, fun he => heq ?_⟩
  have := congrArg (· * (den : ℚ)) he
  rw [← natAbs_dist _ _ hden, ← natAbs_dist _ _ hden] at this
  exact_mod_cast this

theorem nearest_zero : Nearest 0 0 := by
  refine ⟨by omega, fun j hj => ?_⟩
  rw [sub_zero, sub_zero, Nat.abs_cast, Nat.abs_cast]
  exact ⟨by exact_mod_cast qMag_le 0 (by omega) j hj (Nat.zero_le j), fun _ => Nat.zero_le j⟩

/-! ### The quotient t × 127 × 255 / (S × b) -/

/-- The parts of the quotient's magnitude, as `qCode` forms them. -/
def qNum (m : Nat) (e d : Int) : Nat := m * 2 ^ (e - min e d).toNat * 127 * 255
def qDen (p b : Nat) (e d : Int) : Nat := p * 2 ^ (d - min e d).toNat * b

theorem qDen_ne_zero {p b : Nat} (hp : p ≠ 0) (hb : b ≠ 0) (e d : Int) : qDen p b e d ≠ 0 :=
  mul_ne_zero (mul_ne_zero hp (Nat.two_pow_pos _).ne') hb

theorem quotient_eq {p b m : Nat} (hp : p ≠ 0) (hb : b ≠ 0) (n k : Bool) (e d : Int) :
    sgn k * (m : ℚ) * 2 ^ e * 127 * 255 / (sgn n * (p : ℚ) * 2 ^ d * b) = sgn (k != n) * ((qNum m e d : ℚ) / qDen p b e d) := by
  have he : (2 : ℚ) ^ e = ((2 ^ (e - min e d).toNat : Nat) : ℚ) * 2 ^ min e d := by
    rw [← zpow_toNat (by omega), ← zpow_add₀ two_ne_zero]; congr 1; ring
  have hd : (2 : ℚ) ^ d = ((2 ^ (d - min e d).toNat : Nat) : ℚ) * 2 ^ min e d := by
    rw [← zpow_toNat (by omega), ← zpow_add₀ two_ne_zero]; congr 1; ring
  have hz := (two_zpow_pos (K := ℚ) (min e d)).ne'
  have hp' : (p : ℚ) ≠ 0 := by exact_mod_cast hp
  have hb' : (b : ℚ) ≠ 0 := by exact_mod_cast hb
  have hd' : ((2 ^ (d - min e d).toNat : Nat) : ℚ) ≠ 0 := by exact_mod_cast (Nat.two_pow_pos _).ne'
  rw [he, hd, sgn_bne, qNum, qDen]
  push_cast at hd' ⊢
  cases n <;> cases k <;> simp only [sgn_true, sgn_false] <;> field_simp

/-! ### One step of a block -/

section
variable {t s b m p : Nat} {n k : Bool} {e d : Int}

theorem qCode_fin (ht : FV.dec .f32 t = .fin k m e) (hs : FV.dec .f32 s = .fin n p d) (hb : b ≠ 0) :
    qCode t s b = codeOf (k != n) (if 127 * qDen p b e d < qNum m e d then 7 else nearIdx (qNum m e d) (qDen p b e d)) := by
  unfold qCode
  rw [ht, hs]
  dsimp only
  rw [if_neg hb]
  rfl

theorem qOver_fin (ht : FV.dec .f32 t = .fin k m e) (hs : FV.dec .f32 s = .fin n p d) (hb : b ≠ 0) :
    qOver t s b = decide (127 * qDen p b e d < qNum m e d) := by
  unfold qOver
  rw [ht, hs]
  dsimp only
  rw [show (b != 0) = true by simp [hb], Bool.true_and]
  rfl

theorem qCode_zero (ht : FV.dec .f32 t = .zero k) (hs : FV.dec .f32 s = .fin n p d) (hb : b ≠ 0) : qCode t s b = codeOf (k != n) 0 := by
  unfold qCode
  rw [ht, hs]
  exact if_neg hb

theorem qOver_zero (ht : FV.dec .f32 t = .zero k) : qOver t s b = false := by
  unfold qOver
  rw [ht]

theorem qCode_inf (ht : FV.dec .f32 t = .inf k) (hs : FV.dec .f32 s = .fin n p d) (hb : b ≠ 0) : qCode t s b = if n = k then 15 else 0 := by
  unfold qCode
  rw [ht, hs]
  cases n <;> cases k <;> exact if_neg hb

theorem qCode_nan {fr : Nat} (ht : FV.dec .f32 t = .nan k fr) (hs : FV.dec .f32 s = .fin n p d) : qCode t s b = 8 := by
  simp only [qCode, ht, hs]

end

/-- The residual of a code, by the value that the code stands for. -/
def q4Residual (ftz : Bool) (t y s b : Nat) : Nat := fop .f32 (efCtl ftz) .sub t (finishEx .f32 plainCtl ((qValue y s b).toEx .f32)) 0

/-- A code that is the nearest level, and its residual (R101). -/
theorem q4_kept {t s b p i : Nat} {n : Bool} {d : Int} (hs : FV.dec .f32 s = .fin n p d) (hb : b ≠ 0) (ftz : Bool) {Q : ℚ} (hQ : 0 ≤ Q)
    (h : Nearest Q i) (k : Bool) :
    codeOf (k != n) i < 16
      ∧ (∀ c < 16, |level (codeOf (k != n) i) - sgn (k != n) * Q| ≤ |level c - sgn (k != n) * Q|
        ∧ (|level (codeOf (k != n) i) - sgn (k != n) * Q| = |level c - sgn (k != n) * Q| → |level (codeOf (k != n) i)| ≤ |level c|))
      ∧ (sgn (k != n) * Q = 0 → (level (codeOf (k != n) i) < 0 ↔ n ≠ k))
      ∧ ∃ w, RoundsTo .f32 .rne ((sgn n * (p : ℚ) * 2 ^ d * b / 255 * (level (codeOf (k != n) i) / 127) : ℚ) : ℝ) w
        ∧ SumGives .f32 .rne ftz (FV.dec .f32 t) (FV.dec .f32 w).neg (q4Residual ftz t (codeOf (k != n) i) s b) := by
  have hi := h.1
  refine ⟨codeOf_lt hi, fun c hc => h.level hQ _ hc, fun _ => ?_, ?_⟩
  · have hpos : (0 : ℚ) < qMag i := by exact_mod_cast qMag_pos i hi
    rw [level_codeOf hi]
    cases k <;> cases n <;> simp [hpos, hpos.le]
  · have hy := codeOf_lt (neg := k != n) hi
    generalize codeOf (k != n) i = y at *
    have hval : (qValue y s b).val = .real (sgn n * (p : ℚ) * 2 ^ d * b / 255 * (level y / 127)) := by
      rw [qValue_val, hs]
      unfold q4Val
      dsimp only
      rw [if_neg hb]
      congr 1
      show sgn n * (p : ℚ) * 2 ^ d * (b / 255) * ((qLevel y : ℚ) / 127) = _
      ring
    have hconv := toEx_converts (ty := .f32) rfl plainCtl (qValue_proper hy s b)
    rw [hval, convertsTo_float rfl] at hconv
    obtain ⟨w, hw, he⟩ := leaves_plain plainCtl_plain hconv
    exact ⟨w, hw, by rw [show w = finishEx .f32 plainCtl ((qValue y s b).toEx .f32) from he.symm]; exact efSub_gives ftz t _⟩

/-- A step towards QN4. -/
theorem efStep_q4_eq (daz ftz : Bool) (s b e x : Nat) : efStep .q4 daz ftz s b e x =
    if b = 0 ∨ magOf .f32 s = 0 ∨ 0x7F800000 ≤ magOf .f32 s then (8, if f32Fin (efSum daz ftz e x) then efSum daz ftz e x else 0)
    else (qCode (efSum daz ftz e x) s b, if !f32Fin (efSum daz ftz e x) || qOver (efSum daz ftz e x) s b then 0
      else q4Residual ftz (efSum daz ftz e x) (qCode (efSum daz ftz e x) s b) s b) := rfl

theorem kept_or_zero (t : Nat) : (if f32Fin t then t else 0) = if (FV.dec .f32 t).rat = none then 0 else t := by
  by_cases h : (FV.dec .f32 t).rat = none
  · rw [if_pos h, if_neg (by rw [f32Fin_iff_rat]; exact not_not.mpr h)]
  · rw [if_neg h, if_pos ((f32Fin_iff_rat t).mpr h)]

/-- A code and its residual by the quotient's magnitude Q and its sign (R101). -/
theorem q4_gives {t s b p i y e' : Nat} {n k : Bool} {d : Int} {q Q : ℚ} {ftz : Bool} (hs : FV.dec .f32 s = .fin n p d) (hb : b ≠ 0)
    (hq : q = sgn (k != n) * Q) (hQ : 0 ≤ Q) (hn : Nearest Q i) (hy : y = codeOf (k != n) (if 127 < Q then 7 else i))
    (he : e' = if 127 < Q then 0 else q4Residual ftz t y s b) :
    (127 < q → y = 15 ∧ e' = 0) ∧ (q < -127 → y = 0 ∧ e' = 0) ∧ (|q| ≤ 127 → y < 16
      ∧ (∀ c < 16, |level y - q| ≤ |level c - q| ∧ (|level y - q| = |level c - q| → |level y| ≤ |level c|))
      ∧ (q = 0 → (level y < 0 ↔ n ≠ k))
      ∧ ∃ w, RoundsTo .f32 .rne ((sgn n * (p : ℚ) * 2 ^ d * b / 255 * (level y / 127) : ℚ) : ℝ) w
        ∧ SumGives .f32 .rne ftz (FV.dec .f32 t) (FV.dec .f32 w).neg e') := by
  subst hq
  have hover : 127 < Q → e' = 0 ∧ y = codeOf (k != n) 7 := fun h => by
    rw [if_pos h] at hy he
    exact ⟨he, hy⟩
  refine ⟨fun h => ?_, fun h => ?_, fun h => ?_⟩
  · cases hng : (k != n) <;> rw [hng] at h hover
    · rw [sgn_false, one_mul] at h
      exact ⟨(hover h).2, (hover h).1⟩
    · rw [sgn_true, neg_one_mul] at h
      linarith
  · cases hng : (k != n) <;> rw [hng] at h hover
    · rw [sgn_false, one_mul] at h
      linarith
    · rw [sgn_true, neg_one_mul] at h
      have h127 : 127 < Q := by linarith
      exact ⟨(hover h127).2, (hover h127).1⟩
  · rw [abs_mul, abs_sgn, one_mul, abs_of_nonneg hQ] at h
    rw [if_neg (not_lt.mpr h)] at hy he
    subst hy he
    exact q4_kept hs hb ftz hQ hn k

theorem efStep_q4 (daz ftz : Bool) (s b e x : Nat) :
    EfStep .q4 daz ftz (FV.dec .f32 s) b e x (efStep .q4 daz ftz s b e x).1 (efStep .q4 daz ftz s b e x).2 := by
  refine ⟨efSum daz ftz e x, efSum_gives daz ftz e x, ?_⟩
  have hstep := efStep_q4_eq daz ftz s b e x
  generalize efStep .q4 daz ftz s b e x = r at *
  generalize efSum daz ftz e x = t at *
  obtain ⟨y, e'⟩ := r
  have hinf : 0x7F800000 = maxFinite .f32 + 1 := rfl
  have hnone : (FV.dec .f32 s).rat = none ∨ magOf .f32 s = 0 → y = 8 ∧ e' = if (FV.dec .f32 t).rat = none then 0 else t := fun h => by
    have hcond : magOf .f32 s = 0 ∨ 0x7F800000 ≤ magOf .f32 s := by
      refine h.symm.imp_right fun hr => ?_
      have := mt (f32Fin_iff s).mpr (mt (f32Fin_iff_rat s).mp (not_not.mpr hr))
      omega
    rw [if_pos (.inr hcond), kept_or_zero] at hstep
    exact Prod.mk.inj hstep
  dsimp only [Ty.fmt?]
  cases hs : FV.dec .f32 s with
  | nan k fr => exact hnone (.inl (by rw [hs]; rfl))
  | inf k => exact hnone (.inl (by rw [hs]; rfl))
  | zero k => exact hnone (.inr (zero_of_dec hs).2)
  | fin n p d =>
    obtain ⟨-, hle, -, hne, -, -⟩ := dec_fin hs
    have hp : p ≠ 0 := by have := dec_proper .f32 s; rw [hs] at this; exact this
    dsimp only
    by_cases hb : b = 0
    · rw [if_pos hb]
      rw [if_pos (.inl hb), kept_or_zero] at hstep
      exact Prod.mk.inj hstep
    · rw [if_neg hb]
      rw [if_neg (by omega)] at hstep
      obtain ⟨hy, he⟩ := Prod.mk.inj hstep
      cases ht : FV.dec .f32 t with
      | nan k fr =>
        have hfin : f32Fin t = false := by rw [← Bool.not_eq_true, f32Fin_iff_rat, ht]; exact fun h => h rfl
        rw [hfin] at he
        exact ⟨hy.trans (qCode_nan ht hs), he⟩
      | inf k =>
        have hfin : f32Fin t = false := by rw [← Bool.not_eq_true, f32Fin_iff_rat, ht]; exact fun h => h rfl
        rw [hfin] at he
        exact ⟨hy.trans (qCode_inf ht hs hb), he⟩
      | zero k =>
        have hfin : f32Fin t = true := by rw [f32Fin_iff_rat, ht]; exact Option.some_ne_none _
        rw [hfin, qOver_zero ht, ← hy] at he
        rw [qCode_zero ht hs hb] at hy
        refine ⟨0, k, rfl, by simp, ?_⟩
        rw [← ht]
        exact q4_gives hs hb (by simp) le_rfl nearest_zero (by rw [hy, if_neg (by norm_num)]) (by rw [he, if_neg (by norm_num)]; rfl)
      | fin k m e =>
        have hm : m ≠ 0 := by have := dec_proper .f32 t; rw [ht] at this; exact this
        have hfin : f32Fin t = true := by rw [f32Fin_iff_rat, ht]; exact Option.some_ne_none _
        have hden := qDen_ne_zero hp hb e d
        have hover : 127 * qDen p b e d < qNum m e d ↔ 127 < (qNum m e d : ℚ) / qDen p b e d := by
          rw [lt_div_iff₀ (by exact_mod_cast Nat.pos_of_ne_zero hden)]
          exact_mod_cast Iff.rfl
        rw [hfin, qOver_fin ht hs hb, ← hy] at he
        rw [qCode_fin ht hs hb] at hy
        simp only [hover, Bool.not_true, Bool.false_or, decide_eq_true_eq] at hy he
        refine ⟨_, k, rfl, ?_, ?_⟩
        · have hneg := fin_neg_iff (n := k) hm e
          rw [Rat.cast_lt_zero] at hneg
          exact hneg.symm.trans (or_iff_left (by exact nofun)).symm
        · rw [← ht]
          exact q4_gives hs hb (quotient_eq hp hb n k e d) (by positivity) (nearIdx_nearest _ hden) hy he

end Sys2Proof.Machine
end

section
/-! The instruction CVTEF (R293): the elements of its lanes in order, and where each result goes. -/
namespace Sys2Proof.Machine

/-! ### Blocks -/

theorem efBlock_fst (ty : Ty) (daz ftz : Bool) (s b : Nat) (xs : List (Nat × Nat)) :
    ∀ e, (efBlock ty daz ftz s b e xs).map Prod.fst = xs.map Prod.fst := by
  induction xs with
  | nil => exact fun _ => rfl
  | cons x xs ih => exact fun e => congrArg (x.1 :: ·) (ih _)

/-- The elements of a block are its steps. -/
theorem efBlock_gives {ty : Ty} {daz ftz : Bool} {s b : Nat} {step : Nat → Nat → Nat → Nat → Prop}
    (hstep : ∀ e x, step e x (efStep ty daz ftz s b e x).1 (efStep ty daz ftz s b e x).2) (xs : List (Nat × Nat)) :
    ∀ e, EfBlock step e (xs.map Prod.snd) ((efBlock ty daz ftz s b e xs).map Prod.snd) := by
  induction xs with
  | nil => exact fun _ => trivial
  | cons x xs ih => exact fun e => ⟨_, hstep e x.2, ih _⟩

theorem efBlock_lt {ty : Ty} {daz ftz : Bool} {s b w : Nat} (hstep : ∀ e x, (efStep ty daz ftz s b e x).1 < 2 ^ w) (xs : List (Nat × Nat)) :
    ∀ e, ∀ y ∈ (efBlock ty daz ftz s b e xs).map Prod.snd, y < 2 ^ w := by
  induction xs with
  | nil => exact fun _ y hy => absurd hy List.not_mem_nil
  | cons x xs ih =>
    intro e y hy
    rcases List.mem_cons.mp hy with rfl | hy
    · exact hstep e x.2
    · exact ih _ y hy

/-- The first pair with a key, where the keys differ. -/
theorem find?_key {l : List (Nat × Nat)} (hnd : (l.map Prod.fst).Nodup) {i j : Nat} (hj : (l.map Prod.fst)[j]? = some i) :
    ((l.find? (fun p => p.1 == i)).map Prod.snd).getD 0 = (l.map Prod.snd).getD j 0 := by
  induction l generalizing j with
  | nil => simp at hj
  | cons x l ih =>
    rw [List.map_cons, List.nodup_cons] at hnd
    cases j with
    | zero =>
      obtain rfl : x.1 = i := by simpa using hj
      simp
    | succ j =>
      rw [List.map_cons, List.getElem?_cons_succ] at hj
      have hne : (x.1 == i) = false := by
        rw [beq_eq_false_iff_ne]
        rintro rfl
        exact hnd.1 (List.mem_of_getElem? hj)
      rw [List.find?_cons, hne, List.map_cons, List.getD_cons_succ]
      exact ih hnd.2 hj

/-! ### The order of the elements -/

/-- The places of a block's elements: register by register, lane by lane. -/
def efKeys (kb : Nat) (lanes : List Nat) : List Nat := (List.range kb).flatMap (fun k => lanes.map (fun l => 32 * k + l))

theorem efKeys_succ (kb : Nat) (lanes : List Nat) : efKeys (kb + 1) lanes = efKeys kb lanes ++ lanes.map (fun l => 32 * kb + l) := by
  rw [efKeys, List.range_succ, List.flatMap_append, List.flatMap_singleton, efKeys]

theorem efKeys_length (kb : Nat) (lanes : List Nat) : (efKeys kb lanes).length = kb * lanes.length := by
  induction kb with
  | zero => simp [efKeys]
  | succ kb ih => rw [efKeys_succ, List.length_append, ih, List.length_map, Nat.succ_mul]

theorem efKeys_getElem? {kb k l : Nat} {lanes : List Nat} (hk : k < kb) (hl : l ∈ lanes) :
    (efKeys kb lanes)[k * lanes.length + lanes.idxOf l]? = some (32 * k + l) := by
  have hidx := List.idxOf_lt_length_of_mem hl
  induction kb with
  | zero => exact absurd hk (Nat.not_lt_zero k)
  | succ kb ih =>
    rw [efKeys_succ]
    rcases Nat.lt_succ_iff_lt_or_eq.mp hk with hk | rfl
    · have hlt : k * lanes.length + lanes.idxOf l < (efKeys kb lanes).length := by
        rw [efKeys_length]
        calc k * lanes.length + lanes.idxOf l < k * lanes.length + lanes.length := Nat.add_lt_add_left hidx _
          _ = (k + 1) * lanes.length := (Nat.succ_mul ..).symm
          _ ≤ kb * lanes.length := Nat.mul_le_mul_right _ hk
      rw [List.getElem?_append_left hlt]
      exact ih hk
    · rw [List.getElem?_append_right (by rw [efKeys_length]; omega), efKeys_length, Nat.add_sub_cancel_left, List.getElem?_map,
        List.getElem?_eq_getElem hidx, Option.map_some, List.getElem_idxOf]

theorem efKeys_lt {kb : Nat} {lanes : List Nat} (hlanes : ∀ l ∈ lanes, l < 32) : ∀ i ∈ efKeys kb lanes, i < 32 * kb := by
  intro i hi
  obtain ⟨k, hk, hi⟩ := List.mem_flatMap.mp hi
  obtain ⟨l, hl, rfl⟩ := List.mem_map.mp hi
  have := List.mem_range.mp hk
  have := hlanes l hl
  omega

theorem efKeys_nodup {lanes : List Nat} (hlanes : ∀ l ∈ lanes, l < 32) (hnd : lanes.Nodup) (kb : Nat) : (efKeys kb lanes).Nodup := by
  induction kb with
  | zero => exact List.nodup_nil
  | succ kb ih =>
    rw [efKeys_succ, List.nodup_append]
    refine ⟨ih, hnd.map (fun a b h => by simpa using h), fun i hi j hj => ?_⟩
    have hlt := efKeys_lt hlanes i hi
    obtain ⟨l, -, rfl⟩ := List.mem_map.mp hj
    omega

/-! ### Elements of a unit -/

theorem testBit_elem (w k : Nat) (v : DWord) (i : Nat) : (elem w k v).testBit i = (decide (i < w) && v.toNat.testBit (w * k + i)) := by
  rw [elem, Nat.testBit_mod_two_pow, Nat.testBit_div_two_pow, Nat.add_comm]

/-- The number that `setElem` forms. -/
theorem testBit_setElem {w k : Nat} (hw : w * k + w ≤ 64) (old : DWord) (v i : Nat) : (setElem w k old v).toNat.testBit i =
    if w * k ≤ i ∧ i < w * k + w then v.testBit (i - w * k) else old.toNat.testBit i := by
  have hform : old.toNat % 2 ^ (w * k) + (v % 2 ^ w) * 2 ^ (w * k) + (old.toNat / 2 ^ (w * k + w)) * 2 ^ (w * k + w)
      = 2 ^ (w * k) * (2 ^ w * (old.toNat / 2 ^ (w * k + w)) + v % 2 ^ w) + old.toNat % 2 ^ (w * k) := by
    rw [pow_add]
    ring
  have hbit : (old.toNat % 2 ^ (w * k) + (v % 2 ^ w) * 2 ^ (w * k) + (old.toNat / 2 ^ (w * k + w)) * 2 ^ (w * k + w)).testBit i =
      if w * k ≤ i ∧ i < w * k + w then v.testBit (i - w * k) else old.toNat.testBit i := by
    rw [hform, Nat.testBit_two_pow_mul_add _ (Nat.mod_lt _ (Nat.two_pow_pos _))]
    by_cases h1 : i < w * k
    · rw [if_pos h1, if_neg (by omega), Nat.testBit_mod_two_pow, decide_eq_true h1, Bool.true_and]
    · rw [if_neg h1, Nat.testBit_two_pow_mul_add _ (Nat.mod_lt _ (Nat.two_pow_pos _))]
      by_cases h2 : i < w * k + w
      · rw [if_pos (by omega), if_pos (by omega), Nat.testBit_mod_two_pow, decide_eq_true (by omega), Bool.true_and]
      · rw [if_neg (by omega), if_neg (by omega), Nat.testBit_div_two_pow]
        congr 1
        omega
  rw [setElem, BitVec.toNat_ofNat, Nat.testBit_mod_two_pow, hbit]
  by_cases hi : i < 64
  · rw [decide_eq_true hi, Bool.true_and]
  · rw [decide_eq_false hi, Bool.false_and, if_neg (by omega)]
    exact (Nat.testBit_lt_two_pow (old.isLt.trans_le (Nat.pow_le_pow_right (by omega) (by omega)))).symm

theorem elem_setElem {w k : Nat} (hw : w * k + w ≤ 64) (old : DWord) (v j : Nat) :
    elem w j (setElem w k old v) = if j = k then v % 2 ^ w else elem w j old := by
  refine Nat.eq_of_testBit_eq fun i => ?_
  rw [testBit_elem, testBit_setElem hw]
  by_cases hi : i < w
  · rw [decide_eq_true hi, Bool.true_and]
    rcases Nat.lt_trichotomy j k with hjk | rfl | hjk
    · have : w * j + w ≤ w * k := by rw [← Nat.mul_succ]; exact Nat.mul_le_mul_left _ hjk
      rw [if_neg (by omega), if_neg (by omega), testBit_elem, decide_eq_true hi, Bool.true_and]
    · rw [if_pos (by omega), if_pos rfl, Nat.testBit_mod_two_pow, decide_eq_true hi, Bool.true_and, Nat.add_sub_cancel_left]
    · have : w * k + w ≤ w * j := by rw [← Nat.mul_succ]; exact Nat.mul_le_mul_left _ hjk
      rw [if_neg (by omega), if_neg (by omega), testBit_elem, decide_eq_true hi, Bool.true_and]
  · rw [decide_eq_false hi, Bool.false_and]
    split
    · rw [Nat.testBit_mod_two_pow, decide_eq_false hi, Bool.false_and]
    · rw [testBit_elem, decide_eq_false hi, Bool.false_and]

theorem setElem_lt {w k n : Nat} (hw : w * k + w ≤ n) (hn : n ≤ 64) {old : DWord} (h : old.toNat < 2 ^ n) (v : Nat) :
    (setElem w k old v).toNat < 2 ^ n := by
  refine Nat.lt_pow_two_of_testBit _ fun i hi => ?_
  rw [testBit_setElem (hw.trans hn), if_neg (by omega)]
  exact Nat.testBit_lt_two_pow (h.trans_le (Nat.pow_le_pow_right (by omega) hi))

/-- A unit is its elements. -/
theorem elements_elem {ty : Ty} {v : DWord} (h : v.toNat < 2 ^ (ty.ew * ty.count)) : elements ty (fun j => elem ty.ew j v) = v := by
  have hsum : ∀ (w c n : Nat), ((List.range c).map (fun j => n / 2 ^ (w * j) % 2 ^ w)).foldr (fun x acc => x % 2 ^ w + acc * 2 ^ w) 0
      = n % 2 ^ (w * c) := by
    intro w c
    induction c with
    | zero => intro n; rw [Nat.mul_zero, pow_zero, Nat.mod_one]; rfl
    | succ c ih =>
      intro n
      have hshift : (List.range c).map ((fun j => n / 2 ^ (w * j) % 2 ^ w) ∘ Nat.succ) =
          (List.range c).map (fun j => n / 2 ^ w / 2 ^ (w * j) % 2 ^ w) :=
        List.map_congr_left fun j _ => by
          show n / 2 ^ (w * (j + 1)) % 2 ^ w = _
          rw [Nat.div_div_eq_div_mul, ← pow_add, Nat.mul_succ, Nat.add_comm]
      rw [List.range_succ_eq_map, List.map_cons, List.map_map, hshift, List.foldr_cons, ih, Nat.mul_zero, pow_zero, Nat.div_one,
        Nat.mod_mod, Nat.mul_succ, Nat.add_comm (w * c), pow_add, Nat.mod_mul, Nat.mul_comm (_ % _)]
  have := hsum ty.ew ty.count v.toNat
  show BitVec.ofNat 64 (((List.range ty.count).map (fun j => v.toNat / 2 ^ (ty.ew * j) % 2 ^ ty.ew)).foldr _ 0) = v
  rw [this, Nat.mod_eq_of_lt h, BitVec.ofNat_toNat, BitVec.setWidth_eq]

/-! ### Steps of each target -/

/-- The types that CVTEF writes. -/
theorem narrow_of_mem {ty : Ty} (h : ty ∈ [Ty.f16, .bf16, .e4, .e5, .q4]) :
    ty = .q4 ∨ ty ≠ .q4 ∧ ∃ f, ty.fmt? = some f ∧ f.narrow = true ∧ ty.ew = f.width := by
  simp only [List.mem_cons, List.not_mem_nil, or_false] at h
  rcases h with rfl | rfl | rfl | rfl | rfl
  · exact .inr ⟨by decide, .f16, rfl, rfl, rfl⟩
  · exact .inr ⟨by decide, .bf16, rfl, rfl, rfl⟩
  · exact .inr ⟨by decide, .e4, rfl, rfl, rfl⟩
  · exact .inr ⟨by decide, .e5, rfl, rfl, rfl⟩
  · exact .inl rfl

theorem unit_of_mem {ty : Ty} (h : ty ∈ [Ty.f16, .bf16, .e4, .e5, .q4]) : ty.ew * ty.count = 32 := by
  simp only [List.mem_cons, List.not_mem_nil, or_false] at h
  rcases h with rfl | rfl | rfl | rfl | rfl <;> rfl

theorem cvtFF_lt (src dst : Fmt) (b : Nat) : cvtFF src dst plainCtl b < 2 ^ dst.width := by
  have hfits : ∀ x : Ex, (∀ b, x ≠ .nan b) → x.Fits dst := fun x hx b hb => absurd hb (hx b)
  unfold cvtFF
  split
  · exact nanBits_lt ..
  · exact finishEx_lt (hfits (.inf _) fun _ => nofun) _
  · exact finishEx_lt (hfits (.zero _) fun _ => nofun) _
  · exact finishEx_lt (hfits (.fin _ _ _ _) fun _ => nofun) _

theorem efStep_q4_lt (daz ftz : Bool) (s b e x : Nat) : (efStep .q4 daz ftz s b e x).1 < 2 ^ 4 := by
  rw [efStep_q4_eq]
  split
  · show 8 < 16
    omega
  · next h =>
    obtain ⟨hb, h0, hinf⟩ : b ≠ 0 ∧ magOf .f32 s ≠ 0 ∧ ¬ 0x7F800000 ≤ magOf .f32 s := by omega
    have hmax : maxFinite .f32 = 0x7F7FFFFF := rfl
    have hd := dec_of_le (f := .f32) (b := s) (by omega)
    obtain ⟨p, d, hfin⟩ : ∃ p d, FV.ofMag .f32 (negOf .f32 s) (magOf .f32 s) = .fin (negOf .f32 s) p d := ⟨_, _, if_neg h0⟩
    have hs := hd.trans hfin
    show qCode (efSum daz ftz e x) s b < 16
    cases ht : FV.dec .f32 (efSum daz ftz e x) with
    | nan k fr => rw [qCode_nan ht hs]; omega
    | inf k => rw [qCode_inf ht hs hb]; split <;> omega
    | zero k => rw [qCode_zero ht hs hb]; exact codeOf_lt (by omega)
    | fin k m e =>
      have hp : p ≠ 0 := by have := dec_proper .f32 s; rw [hs] at this; exact this
      have hnear := (nearIdx_nearest (qNum m e d) (qDen_ne_zero hp hb e d)).1
      rw [qCode_fin ht hs hb]
      exact codeOf_lt (by split <;> omega)

/-- The element of a step fits in its type. -/
theorem efStep_lt {ty : Ty} (hty : ty ∈ [Ty.f16, .bf16, .e4, .e5, .q4]) (daz ftz : Bool) (s b e x : Nat) :
    (efStep ty daz ftz s b e x).1 < 2 ^ ty.ew := by
  rcases narrow_of_mem hty with rfl | ⟨-, f, hf, -, hw⟩
  · exact efStep_q4_lt ..
  · have hfst : (efStep ty daz ftz s b e x).1 = cvtFF .f32 f plainCtl (efSum daz ftz e x) := by
      unfold efStep
      simp only [hf]
      rfl
    rw [hfst, hw]
    exact cvtFF_lt ..

/-- A step with the superscale and the block scale that the model passes. -/
theorem efStep_gives {ty : Ty} (hty : ty ∈ [Ty.f16, .bf16, .e4, .e5, .q4]) (daz ftz : Bool) (s b e x : Nat) :
    EfStep ty daz ftz (FV.dec .f32 s) b e x (efStep ty daz ftz (if ty = .q4 then s else 0) (if ty = .q4 then b else 0) e x).1
      (efStep ty daz ftz (if ty = .q4 then s else 0) (if ty = .q4 then b else 0) e x).2 := by
  rcases narrow_of_mem hty with rfl | ⟨-, f, hf, hn, -⟩
  · exact efStep_q4 ..
  · exact efStep_float hf hn ..

/-! ### The instruction -/

theorem checkWants_pair {valloc : Nat} {ws : List Want} {w : Want} {n : Nat} (h : checkWants valloc ws = none) (hw : w ∈ ws)
    (hp : w.pair = true) (hn : w.o.vnum? = some n) : n % 2 = 0 := by
  by_contra hodd
  unfold checkWants at h
  split at h
  · cases h
  · split at h
    · cases h
    · split at h
      · cases h
      · next hodd' =>
        refine hodd' (List.any_eq_true.mpr ⟨w, hw, ?_⟩)
        simp only [hp, hn, Bool.true_and, beq_iff_eq]
        omega

section
variable {i : Instr} {kb : Nat} {h : Hd} {ty : Ty} {d a b c : Opnd} {s : State} {r : GRef} {t : Team} {g : Group} {n : BitVec 8}

/-- P names a place of the unit, and the sources of `cvtefX2` are a pair. -/
theorem cvtef_checked (hc : check h (cvtefOp kb h ty d (.v n) b c) t g s.m.draw = none) :
    Hd.part h < ty.count / kb ∧ (kb = 2 → n.toNat % 2 = 0) := by
  unfold check at hc
  split at hc
  · cases hc
  · dsimp only [cvtefOp] at hc
    split at hc
    · cases hc
    · next hw =>
      split at hc
      · cases hc
      · next hpart =>
        refine ⟨by omega, fun hkb => ?_⟩
        exact checkWants_pair (w := { o := .v n, ok := (Opnd.v n).isV, span := kb, pair := kb == 2 }) hw (by simp) (by simp [hkb]) rfl

/-- The places and the elements that CVTEF reads. -/
def efPairs (g : Group) (draw : Nat) (n : BitVec 8) (kb : Nat) (lanes : List Nat) : List (Nat × Nat) :=
  (List.range kb).flatMap (fun k => lanes.map (fun l => (32 * k + l, (srcVal g g draw k .f32 (.v (BitVec.ofNat 8 (n.toNat + k))) l).toNat)))

theorem efPairs_fst (g : Group) (draw : Nat) (n : BitVec 8) (kb : Nat) (lanes : List Nat) :
    (efPairs g draw n kb lanes).map Prod.fst = efKeys kb lanes := by
  simp only [efPairs, efKeys, List.map_flatMap, List.map_map, Function.comp_def]

theorem efPairs_snd (g : Group) (draw : Nat) {n : BitVec 8} {kb : Nat} (hn : n.toNat + kb ≤ 256) (lanes : List Nat) :
    (efPairs g draw n kb lanes).map Prod.snd =
      (List.range kb).flatMap (fun k => lanes.map (fun l => (readVLane g (n.toNat + k) l draw (2 * k)).toNat)) := by
  simp only [efPairs, List.map_flatMap, List.map_map, Function.comp_def]
  refine List.flatMap_congr fun k hk => List.map_congr_left fun l _ => ?_
  have hk := List.mem_range.mp hk
  show ((readVLane g (BitVec.ofNat 8 (n.toNat + k)).toNat l draw (2 * k)).setWidth 64).toNat = _
  rw [BitVec.toNat_ofNat, Nat.mod_eq_of_lt (by omega), BitVec.toNat_setWidth, Nat.mod_eq_of_lt]
  exact (BitVec.isLt _).trans_le (by norm_num)

/-- The elements that CVTEF writes, with their places. -/
def efResults (ty : Ty) (c : Bool × Bool) (s b : Nat) (xs : List (Nat × Nat)) : List (Nat × Nat) :=
  efBlock ty c.1 c.2 (if ty = .q4 then s else 0) (if ty = .q4 then b else 0) 0 xs

/-- The unit that CVTEF leaves in a lane. -/
def efUnit (ty : Ty) (kb p l : Nat) (ys : List (Nat × Nat)) (old : DWord) : DWord :=
  (List.range kb).foldl (fun v k => setElem ty.ew (p * kb + k) v (((ys.find? (fun q => q.1 == 32 * k + l)).map Prod.snd).getD 0)) old

omit i h d a b c s r t g n kb ty in
/-- A run of elements set one after the other. -/
theorem elem_foldl_setElem {w q m : Nat} (hw : w * (q + m) ≤ 64) (f : Nat → Nat) (old : DWord) (j : Nat) :
    elem w j ((List.range m).foldl (fun v k => setElem w (q + k) v (f k)) old) =
      if q ≤ j ∧ j < q + m then f (j - q) % 2 ^ w else elem w j old := by
  induction m with
  | zero => rw [if_neg (by omega)]; rfl
  | succ m ih =>
    have hstep : w * (q + m) + w ≤ 64 := by rwa [← Nat.mul_succ]
    rw [List.range_succ, List.foldl_concat, elem_setElem hstep]
    split
    · next hj => rw [if_pos (by omega), hj, Nat.add_sub_cancel_left]
    · next hj =>
      rw [ih (by omega)]
      by_cases hin : q ≤ j ∧ j < q + m
      · rw [if_pos hin, if_pos (by omega)]
      · rw [if_neg hin, if_neg (by omega)]

theorem foldl_setElem_lt {w q m : Nat} (hw : w * (q + m) ≤ 32) (f : Nat → Nat) {old : DWord} (h : old.toNat < 2 ^ 32) :
    ((List.range m).foldl (fun v k => setElem w (q + k) v (f k)) old).toNat < 2 ^ 32 := by
  induction m with
  | zero => exact h
  | succ m ih =>
    have hstep : w * (q + m) + w ≤ 32 := by rwa [← Nat.mul_succ]
    rw [List.range_succ, List.foldl_concat]
    exact setElem_lt hstep (by omega) (ih (by omega)) _

theorem cvtef_yields (ho : opOf i = some (h, cvtefOp kb h ty d (.v n) b c)) (hreg : regOnly i = some (h, d.ids false)) (hi : Issuing s r t g)
    (ha : Alone h) (hact : Active h g s.m.draw) (hp : Passes i t g s.m.draw) : Yields i h s r g d false (fun l =>
      efUnit ty kb (Hd.part h) l (efResults ty ((fpcOf s.m t.ctx).getLsbD 0, (fpcOf s.m t.ctx).getLsbD 1)
        (srcMods .f32 ((fpcOf s.m t.ctx).getLsbD 0) false false (srcVal g g s.m.draw 1 .f32 b 0).toNat)
        ((srcVal g g s.m.draw 2 .n32 c 0).toNat % 256) (efPairs g s.m.draw n kb (lanesOf (memberOf g h s.m.draw).act)))
        (srcVal g g s.m.draw 3 .n32 d l)) :=
  yields_of_body (tag := ty.tag) hi ha hact (hp _ _ ho) (unheld_of_regOnly hreg ..) (exec_of_opOf ho s)
    (by dsimp only [cvtefOp]; rw [regBody_one ha.1 hi.here (hi.member h), hi.ref]; rfl)

/-- CVTEF writes the elements of its block at the places that P names. -/
theorem cvtef_gives (ho : opOf i = some (h, cvtefOp kb h ty d (.v n) b c)) (hreg : regOnly i = some (h, d.ids false)) (hi : Issuing s r t g)
    (ha : Alone h) (hact : Active h g s.m.draw) (hp : Passes i t g s.m.draw) (hkb : kb = 1 ∨ kb = 2)
    (hty : ty ∈ [Ty.f16, .bf16, .e4, .e5, .q4]) :
    let fpc := fpcOf s.m t.ctx
    let lanes := lanesOf (memberOf g h s.m.draw).act
    let x := (List.range kb).flatMap (fun k => lanes.map (fun l => (readVLane g (n.toNat + k) l s.m.draw (2 * k)).toNat))
    let scale := FV.dec .f32 (srcMods .f32 (fpc.getLsbD 0) false false (srcVal g g s.m.draw 1 .f32 b 0).toNat)
    let block := (srcVal g g s.m.draw 2 .n32 c 0).toNat % 256
    ∃ (y : List Nat) (F : Nat → Nat → Nat), EfBlock (EfStep ty (fpc.getLsbD 0) (fpc.getLsbD 1) scale block) 0 x y
      ∧ Yields i h s r g d false (fun l => elements ty (F l)) ∧ ∀ l ∈ lanes, ∀ j, j < ty.count →
        F l j = if Hd.part h * kb ≤ j ∧ j < Hd.part h * kb + kb then y.getD ((j - Hd.part h * kb) * lanes.length + lanes.idxOf l) 0
          else elem ty.ew j (srcVal g g s.m.draw 3 .n32 d l) := by
  intro fpc lanes x scale block
  obtain ⟨hpart, heven⟩ := cvtef_checked (hp _ _ ho)
  have hunit := unit_of_mem hty
  have hplaces : ty.ew * (Hd.part h * kb + kb) ≤ 32 := by
    rw [← hunit, ← Nat.succ_mul]
    exact Nat.mul_le_mul_left _ ((Nat.mul_le_mul_right _ hpart).trans (Nat.div_mul_le_self ..))
  have hsnd := efPairs_snd g s.m.draw (n := n) (kb := kb) (by have := n.isLt; omega) lanes
  have hlanes : ∀ l ∈ lanes, l < 32 := fun l hl => (mem_lanesOf.mp hl).1
  have hnd : lanes.Nodup := List.nodup_range.filter _
  have hy := cvtef_yields ho hreg hi ha hact hp
  generalize hys : efResults ty _ _ _ _ = ys at hy
  have hkeys : ys.map Prod.fst = efKeys kb lanes := by rw [← hys, efResults, efBlock_fst, efPairs_fst]
  have hnum : (Ty.n32).ew = 32 ∨ (Ty.n32).ew = 64 := .inl rfl
  have hlt : ∀ y ∈ ys.map Prod.snd, y < 2 ^ ty.ew := by
    rw [← hys]
    exact efBlock_lt (fun e x => efStep_lt hty _ _ _ _ e x) _ _
  refine ⟨ys.map Prod.snd, fun l j => elem ty.ew j (efUnit ty kb (Hd.part h) l ys (srcVal g g s.m.draw 3 .n32 d l)), ?_, ?_, ?_⟩
  · have hblock := efBlock_gives (efStep_gives hty (fpc.getLsbD 0) (fpc.getLsbD 1)
      (srcMods .f32 (fpc.getLsbD 0) false false (srcVal g g s.m.draw 1 .f32 b 0).toNat) block) (efPairs g s.m.draw n kb lanes) 0
    rw [hsnd] at hblock
    rw [← hys]
    exact hblock
  · refine hy.congr fun l _ => (elements_elem ?_).symm
    rw [hunit]
    exact foldl_setElem_lt hplaces _ (srcVal_lt hnum ..)
  · intro l hl j _
    show elem ty.ew j (efUnit ty kb (Hd.part h) l ys _) = _
    rw [efUnit, elem_foldl_setElem (hplaces.trans (by norm_num)) (fun k => ((ys.find? (fun q => q.1 == 32 * k + l)).map Prod.snd).getD 0)]
    split
    · next hj =>
      have hkey : (ys.map Prod.fst)[(j - Hd.part h * kb) * lanes.length + lanes.idxOf l]? = some (32 * (j - Hd.part h * kb) + l) := by
        rw [hkeys]
        exact efKeys_getElem? (by omega) hl
      rw [find?_key (by rw [hkeys]; exact efKeys_nodup hlanes hnd kb) hkey]
      refine Nat.mod_eq_of_lt ?_
      rcases getD_mem_or_eq (ys.map Prod.snd) ((j - Hd.part h * kb) * lanes.length + lanes.idxOf l) 0 with hm | h0
      · exact hlt _ hm
      · rw [h0]
        exact Nat.two_pow_pos _
    · rfl

end

/-- Settles O28: each element is converted by its own case (`convElem_converts`), a block is its steps in the order of its places,
and the class and the integral value are read off the decoded encoding. -/
theorem conversions : Obligations.Conversions := by
  unfold Obligations.Conversions
  intro h ty src d a b c s r t g hi ha hact ctl raw p old act
  refine ⟨fun hp => ?_, fun i kb n hspec hav hp hl hty => ?_, fun f hf => ⟨fclass_yields hi ha hact hf, fun hp => ?_⟩⟩
  · intro n x
    have hraw : ∀ l k, raw l k < 2 ^ src.ew := fun l k => Nat.mod_lt _ (Nat.two_pow_pos _)
    refine ⟨_, cvt_yields hi ha hact hp, fun l j hj => ⟨fun hle => ?_, fun hlt h1 h2 => ?_, fun hlt hout => ?_⟩⟩
    · unfold cvtElem
      rw [if_pos hle]
      exact convElem_converts h ctl src ty _ _ (hraw l _)
    · unfold cvtElem
      rw [if_neg (Nat.not_le.mpr hlt), if_pos ⟨h1, h2⟩]
      exact convElem_converts h ctl src ty _ _ (hraw l _)
    · unfold cvtElem
      rw [if_neg (Nat.not_le.mpr hlt), if_neg (fun hin => hout.elim (Nat.not_lt.mpr hin.1) (Nat.not_le.mpr hin.2))]
  · subst hav
    rcases hspec with ⟨rfl, rfl⟩ | ⟨rfl, rfl⟩
    · exact cvtef_gives rfl rfl hi ha hact hp (.inl rfl) hty
    · exact cvtef_gives rfl rfl hi ha hact hp (.inr rfl) hty
  · exact ⟨_, frint_yields hi ha hact hf hp, fun l => frintBits_gives (floatSrc_lt hf ..) _⟩

end Sys2Proof.Machine
end

section
/-! The series behind 2^A and log2 A (log entry 12): how far the whole numbers that `atanhGo` and `expGo` sum lie from the reals. -/
namespace Sys2Proof.Machine

/-- A quotient of whole numbers loses less than 1. -/
theorem natDiv_bounds (a b : Nat) : (a : ℝ) / b - 1 ≤ (a / b : Nat) ∧ ((a / b : Nat) : ℝ) ≤ a / b := by
  refine ⟨?_, Nat.cast_div_le⟩
  rw [← Nat.floor_div_eq_div (K := ℝ)]
  exact (Nat.sub_one_lt_floor _).le

/-! ### The logarithm -/

/-- The first terms of the series of the inverse hyperbolic tangent. -/
noncomputable def atanhSum (z : ℝ) (j : Nat) : ℝ := ∑ i ∈ Finset.range j, z ^ (2 * i + 1) / (2 * i + 1)

theorem atanhSum_succ (z : ℝ) (j : Nat) : atanhSum z (j + 1) = atanhSum z j + z ^ (2 * j + 1) / (2 * j + 1) := Finset.sum_range_succ ..

/-- What `atanhGo` holds before term j, in units of 2^−k: the power of z and the sum, each a little low. -/
structure AtanhAt (k : Nat) (z : ℝ) (j p acc : Nat) : Prop where
  power_le : (p : ℝ) ≤ 2 ^ k * z ^ (2 * j + 1)
  le_power : 2 ^ k * z ^ (2 * j + 1) ≤ p + 2
  sum_le : (acc : ℝ) ≤ 2 * 2 ^ k * atanhSum z j
  le_sum : 2 * 2 ^ k * atanhSum z j ≤ acc + 5 * j

theorem AtanhAt.succ {k a b j p acc : Nat} (h3 : 3 * a ≤ b) (hb : 0 < b) (h : AtanhAt k (a / b) j p acc) :
    AtanhAt k (a / b) (j + 1) (p * a * a / (b * b)) (acc + 2 * p / (2 * j + 1)) := by
  obtain ⟨h1, h2, h4, h5⟩ := h
  have hb' : (0 : ℝ) < b := by exact_mod_cast hb
  have hz0 : (0 : ℝ) ≤ a / b := by positivity
  have hz1 : (a / b : ℝ) ≤ 1 / 3 := by
    rw [div_le_iff₀ hb']
    have : (3 : ℝ) * a ≤ b := by exact_mod_cast h3
    linarith
  obtain ⟨hp1, hp2⟩ := natDiv_bounds (p * a * a) (b * b)
  obtain ⟨ht1, ht2⟩ := natDiv_bounds (2 * p) (2 * j + 1)
  have hp : ((p * a * a : Nat) : ℝ) / (b * b : Nat) = p * (a / b : ℝ) ^ 2 := by
    push_cast
    field_simp
  have hpow : (2 : ℝ) ^ k * (a / b : ℝ) ^ (2 * (j + 1) + 1) = 2 ^ k * (a / b : ℝ) ^ (2 * j + 1) * (a / b : ℝ) ^ 2 := by ring
  rw [hp] at hp1 hp2
  push_cast at ht1 ht2
  generalize (a / b : ℝ) = z at *
  have hsq0 : 0 ≤ z ^ 2 := sq_nonneg z
  have hsq1 : z ^ 2 ≤ 1 / 9 := by nlinarith
  have hj : (0 : ℝ) ≤ j := Nat.cast_nonneg j
  have hden : (0 : ℝ) < 2 * j + 1 := by linarith
  have hterm : 2 * (2 : ℝ) ^ k * atanhSum z (j + 1) = 2 * 2 ^ k * atanhSum z j + 2 * (2 ^ k * z ^ (2 * j + 1)) / (2 * j + 1) := by
    rw [atanhSum_succ]
    ring
  have hlow : 2 * (p : ℝ) / (2 * j + 1) ≤ 2 * (2 ^ k * z ^ (2 * j + 1)) / (2 * j + 1) := by gcongr
  have hhigh : 2 * (2 ^ k * z ^ (2 * j + 1)) / (2 * j + 1) ≤ 2 * (p : ℝ) / (2 * j + 1) + 4 := by
    rw [div_add' _ _ _ hden.ne', div_le_div_iff_of_pos_right hden]
    linarith
  refine ⟨?_, ?_, ?_, ?_⟩
  · rw [hpow]
    exact hp2.trans (mul_le_mul_of_nonneg_right h1 hsq0)
  · rw [hpow]
    have := mul_le_mul_of_nonneg_right h2 hsq0
    linarith
  · rw [hterm]
    push_cast
    linarith
  · rw [hterm]
    push_cast
    linarith

/-- A sum stopped where its power is next to nothing is near the logarithm. -/
theorem AtanhAt.near {k j p acc : Nat} {z : ℝ} (hz0 : 0 ≤ z) (hz1 : z ≤ 1 / 3) (h : AtanhAt k z j p acc) (hstop : 2 ^ k * z ^ (2 * j + 1) ≤ 2) :
    (acc : ℝ) ≤ 2 ^ k * Real.log ((1 + z) / (1 - z)) ∧ 2 ^ k * Real.log ((1 + z) / (1 - z)) ≤ acc + 5 * j + 5 := by
  obtain ⟨-, -, h4, h5⟩ := h
  have hpow : (0 : ℝ) < 2 ^ k := by positivity
  have hlow := Real.sum_range_le_log_div hz0 (by linarith) j
  have hhigh := Real.log_div_le_sum_range_add hz0 (by linarith) j
  rw [← atanhSum] at hlow hhigh
  have hden : (8 / 9 : ℝ) ≤ 1 - z ^ 2 := by nlinarith
  have hrest : z ^ (2 * j + 1) / (1 - z ^ 2) ≤ z ^ (2 * j + 1) * (9 / 8) := by
    rw [div_le_iff₀ (by linarith)]
    have : 0 ≤ z ^ (2 * j + 1) := by positivity
    nlinarith
  constructor
  · have := mul_le_mul_of_nonneg_left hlow hpow.le
    linarith
  · have := mul_le_mul_of_nonneg_left (hhigh.trans (add_le_add_right hrest _)) hpow.le
    linarith

/-- Both bounds of `atanhGo` are near the logarithm. -/
theorem atanhGo_near {k a b : Nat} (h3 : 3 * a ≤ b) (hb : 0 < b) {N : Nat} (hN : 2 ^ k * (a / b : ℝ) ^ (2 * N + 1) ≤ 2) :
    ∀ n j p acc, n + j = N → AtanhAt k (a / b) j p acc →
      |((atanhGo k a b n j p acc).1 : ℝ) - 2 ^ k * Real.log ((1 + a / b) / (1 - a / b))| ≤ 5 * N + 5
        ∧ |((atanhGo k a b n j p acc).2 : ℝ) - 2 ^ k * Real.log ((1 + a / b) / (1 - a / b))| ≤ 5 * N + 5 := by
  have hz0 : (0 : ℝ) ≤ a / b := by positivity
  have hz1 : (a / b : ℝ) ≤ 1 / 3 := by
    rw [div_le_iff₀ (by exact_mod_cast hb)]
    have : (3 : ℝ) * a ≤ b := by exact_mod_cast h3
    linarith
  intro n
  induction n with
  | zero =>
    intro j p acc hj h
    obtain rfl : j = N := by omega
    obtain ⟨hlow, hhigh⟩ := h.near hz0 hz1 hN
    have : (0 : ℝ) ≤ j := Nat.cast_nonneg j
    rw [atanhGo, abs_le, abs_le]
    push_cast
    exact ⟨⟨by linarith, by linarith⟩, by linarith, by linarith⟩
  | succ n ih =>
    intro j p acc hj h
    rw [atanhGo]
    by_cases hp : p = 0
    · rw [if_pos hp]
      have hstop := h.le_power
      rw [hp, Nat.cast_zero, zero_add] at hstop
      obtain ⟨hlow, hhigh⟩ := h.near hz0 hz1 hstop
      have hjN : (j : ℝ) ≤ N := by exact_mod_cast (by omega : j ≤ N)
      have : (0 : ℝ) ≤ j := Nat.cast_nonneg j
      rw [abs_le, abs_le]
      push_cast
      exact ⟨⟨by linarith, by linarith⟩, by linarith, by linarith⟩
    · rw [if_neg hp]
      exact ih _ _ _ (by omega) (h.succ h3 hb)

theorem atanhAt_zero (k a b : Nat) : AtanhAt k (a / b) 0 (2 ^ k * a / b) 0 := by
  obtain ⟨h1, h2⟩ := natDiv_bounds (2 ^ k * a) b
  have he : ((2 ^ k * a : Nat) : ℝ) / b = 2 ^ k * (a / b : ℝ) ^ (2 * 0 + 1) := by
    push_cast
    ring
  rw [he] at h1 h2
  exact ⟨h2, by linarith, by simp [atanhSum], by simp [atanhSum]⟩

/-- The power of z has gone when the fuel has. -/
theorem atanh_power_le (k : Nat) {z : ℝ} (h0 : 0 ≤ z) (h1 : z ≤ 1 / 3) : 2 ^ k * z ^ (2 * (2 * k) + 1) ≤ 2 := by
  have hle : z ^ (2 * (2 * k)) ≤ (1 / 3) ^ (2 * (2 * k)) := pow_le_pow_left₀ h0 h1 _
  have hk : (2 : ℝ) ^ k * (1 / 3) ^ (2 * (2 * k)) ≤ 1 := by
    rw [show 2 * (2 * k) = 4 * k by ring, pow_mul, ← mul_pow]
    exact pow_le_one₀ (by norm_num) (by norm_num)
  calc 2 ^ k * z ^ (2 * (2 * k) + 1) = 2 ^ k * z ^ (2 * (2 * k)) * z := by ring
    _ ≤ 1 * 1 := mul_le_mul ((mul_le_mul_of_nonneg_left hle (by positivity)).trans hk) (by linarith) h0 zero_le_one
    _ ≤ 2 := by norm_num

/-- A whole number is within w units of 2^−k of the real v. -/
def NearAt (k : Nat) (w : ℝ) (n : Nat) (v : ℝ) : Prop := |(n : ℝ) - 2 ^ k * v| ≤ w

/-- Both bounds of 2 × atanh(a / b) are within three units. -/
theorem atanh2_near {k a b : Nat} (hk : k ≤ 1000) (h3 : 3 * a ≤ b) (hb : 0 < b) :
    NearAt k 3 (atanh2 k a b).1 (Real.log ((b + a) / (b - a))) ∧ NearAt k 3 (atanh2 k a b).2 (Real.log ((b + a) / (b - a))) := by
  have hb' : (0 : ℝ) < b := by exact_mod_cast hb
  have h3' : (3 : ℝ) * a ≤ b := by exact_mod_cast h3
  have hz1 : (a / b : ℝ) ≤ 1 / 3 := by
    rw [div_le_iff₀ hb']
    linarith
  have harg : ((1 + a / b) / (1 - a / b) : ℝ) = (b + a) / (b - a) := by
    have : (b - a : ℝ) ≠ 0 := by
      have : (0 : ℝ) ≤ a := Nat.cast_nonneg a
      linarith
    field_simp
  obtain ⟨h1, h2⟩ := atanhGo_near h3 hb (atanh_power_le (k + 32) (by positivity) hz1) (2 * (k + 32)) 0 _ 0 rfl (atanhAt_zero ..)
  rw [harg] at h1 h2
  have hscale : ∀ {x : Nat}, |(x : ℝ) - 2 ^ (k + 32) * Real.log ((b + a) / (b - a))| ≤ 5 * (2 * (k + 32) : Nat) + 5 →
      NearAt k 2 (x / 2 ^ 32) (Real.log ((b + a) / (b - a))) := by
    intro x hx
    have hk' : (k : ℝ) ≤ 1000 := by exact_mod_cast hk
    obtain ⟨hd1, hd2⟩ := natDiv_bounds x (2 ^ 32)
    rw [pow_add] at hx
    rw [NearAt, abs_le]
    rw [abs_le] at hx
    push_cast at hx hd1 hd2
    constructor <;> linarith [hx.1, hx.2]
  have hlo := hscale h1
  have hhi := hscale h2
  have hfst : (atanh2 k a b).1 = (atanhGo (k + 32) a b (2 * (k + 32)) 0 (2 ^ (k + 32) * a / b) 0).1 / 2 ^ 32 := rfl
  have hsnd : (atanh2 k a b).2 = (atanhGo (k + 32) a b (2 * (k + 32)) 0 (2 ^ (k + 32) * a / b) 0).2 / 2 ^ 32 + 1 := rfl
  obtain ⟨h3, h4⟩ := abs_le.mp hlo
  obtain ⟨h5, h6⟩ := abs_le.mp hhi
  rw [hfst, hsnd, NearAt, NearAt, abs_le, abs_le, Nat.cast_add, Nat.cast_one]
  exact ⟨⟨by linarith, by linarith⟩, by linarith, by linarith⟩

theorem ln2Iv_near {k : Nat} (hk : k ≤ 1000) : NearAt k 3 (ln2Iv k).1 (Real.log 2) ∧ NearAt k 3 (ln2Iv k).2 (Real.log 2) := by
  have h := atanh2_near (k := k) (a := 1) (b := 3) hk le_rfl (by norm_num)
  rwa [show (((3 : Nat) : ℝ) + (1 : Nat)) / ((3 : Nat) - (1 : Nat)) = 2 by norm_num] at h

/-! ### The exponential -/

/-- The first terms of the exponential series. -/
noncomputable def expSum (x : ℝ) (j : Nat) : ℝ := ∑ i ∈ Finset.range j, x ^ i / i.factorial

/-- What `expGo` holds after term j, in units of 2^−k: the term and the sum. -/
structure ExpAt (k : Nat) (x : ℝ) (j t acc : Nat) : Prop where
  term : NearAt k 4 t (x ^ j / j.factorial)
  sum : NearAt k (4 * j) acc (expSum x (j + 1))

/-- The next term, with its rest or without. -/
theorem ExpAt.next {k y j t acc : Nat} (hx : (y : ℝ) / 2 ^ k ≤ 3 / 4) (h : ExpAt k (y / 2 ^ k) j t acc) {u : Nat}
    (hu : u = t * y / (2 ^ k * (j + 1)) ∨ u = t * y / (2 ^ k * (j + 1)) + 1) :
    NearAt k 4 u ((y / 2 ^ k : ℝ) ^ (j + 1) / (j + 1).factorial) := by
  have hk : (0 : ℝ) < 2 ^ k := by positivity
  have hj : (1 : ℝ) ≤ j + 1 := by
    have : (0 : ℝ) ≤ j := Nat.cast_nonneg j
    linarith
  have hx0 : (0 : ℝ) ≤ y / 2 ^ k := by positivity
  obtain ⟨hd1, hd2⟩ := natDiv_bounds (t * y) (2 ^ k * (j + 1))
  have hq : ((t * y : Nat) : ℝ) / (2 ^ k * (j + 1) : Nat) = t * ((y / 2 ^ k) / (j + 1)) := by
    push_cast
    field_simp
  have hnext : (2 : ℝ) ^ k * ((y / 2 ^ k : ℝ) ^ (j + 1) / (j + 1).factorial)
      = 2 ^ k * ((y / 2 ^ k : ℝ) ^ j / j.factorial) * ((y / 2 ^ k) / (j + 1)) := by
    rw [Nat.factorial_succ]
    push_cast
    generalize (y / 2 ^ k : ℝ) = x
    field_simp
    exact pow_succ x j
  obtain ⟨hl, hr⟩ := abs_le.mp h.term
  rw [hq] at hd1 hd2
  rw [NearAt, hnext, abs_le]
  generalize (2 : ℝ) ^ k * ((y / 2 ^ k : ℝ) ^ j / j.factorial) = T at *
  have hf0 : (0 : ℝ) ≤ (y / 2 ^ k) / (j + 1) := by positivity
  have hf1 : ((y / 2 ^ k) / (j + 1) : ℝ) ≤ 3 / 4 := by
    rw [div_le_iff₀ (by linarith)]
    linarith
  generalize ((y / 2 ^ k) / (j + 1) : ℝ) = q at *
  have h1 : (t - T) * q ≤ 4 * q := mul_le_mul_of_nonneg_right hr hf0
  have h2 : -4 * q ≤ (t - T) * q := mul_le_mul_of_nonneg_right (by linarith) hf0
  rcases hu with rfl | rfl <;> push_cast <;> constructor <;> linarith

theorem ExpAt.succ {k j t acc u : Nat} {x : ℝ} (h : ExpAt k x j t acc) (hu : NearAt k 4 u (x ^ (j + 1) / (j + 1).factorial)) :
    ExpAt k x (j + 1) u (acc + u) := by
  refine ⟨hu, ?_⟩
  have hs : expSum x (j + 1 + 1) = expSum x (j + 1) + x ^ (j + 1) / (j + 1).factorial := Finset.sum_range_succ ..
  obtain ⟨h1, h2⟩ := abs_le.mp h.sum
  obtain ⟨h3, h4⟩ := abs_le.mp hu
  rw [NearAt, hs, abs_le]
  push_cast
  constructor <;> linarith

/-- A sum stopped before a term of at most five units is near the exponential. -/
theorem ExpAt.near {k j t acc : Nat} {x : ℝ} (h0 : 0 ≤ x) (h1 : x ≤ 3 / 4) (h : ExpAt k x j t acc)
    (hstop : 2 ^ k * (x ^ (j + 1) / (j + 1).factorial) ≤ 5) : NearAt k (4 * j + 10) acc (Real.exp x) := by
  have hk : (0 : ℝ) < 2 ^ k := by positivity
  have hlow : expSum x (j + 1) ≤ Real.exp x := Real.sum_le_exp_of_nonneg h0 _
  have hhigh : Real.exp x ≤ expSum x (j + 1) + x ^ (j + 1) * ((j + 1 : Nat) + 1) / ((j + 1).factorial * (j + 1 : Nat)) :=
    Real.exp_bound' h0 (by linarith) (Nat.succ_pos j)
  have hrest : x ^ (j + 1) * ((j + 1 : Nat) + 1) / ((j + 1).factorial * (j + 1 : Nat)) ≤ x ^ (j + 1) / (j + 1).factorial * 2 := by
    rw [mul_div_mul_comm]
    refine mul_le_mul_of_nonneg_left ?_ (by positivity)
    rw [div_le_iff₀ (by positivity)]
    push_cast
    linarith [Nat.cast_nonneg (α := ℝ) j]
  obtain ⟨h2, h3⟩ := abs_le.mp h.sum
  have h4 := mul_le_mul_of_nonneg_left hlow hk.le
  have h5 := mul_le_mul_of_nonneg_left (hhigh.trans (add_le_add_right hrest _)) hk.le
  rw [NearAt, abs_le]
  constructor <;> linarith

/-- The sum of `expGo` is near the exponential, with a bound on the rest or without. -/
theorem expGo_near {k y : Nat} (hx : (y : ℝ) / 2 ^ k ≤ 3 / 4) {N : Nat}
    (hN : 2 ^ k * ((y / 2 ^ k : ℝ) ^ (N + 1) / (N + 1).factorial) ≤ 5) (upper : Bool) :
    ∀ n j t acc, n + j = N → ExpAt k (y / 2 ^ k) j t acc →
      NearAt k (5 * N + 14) (expGo k y upper n (j + 1) t acc) (Real.exp (y / 2 ^ k)) := by
  have hx0 : (0 : ℝ) ≤ y / 2 ^ k := by positivity
  intro n
  induction n with
  | zero =>
    intro j t acc hj h
    obtain rfl : j = N := by omega
    obtain ⟨h1, h2⟩ := abs_le.mp (h.near hx0 hx hN)
    have hj0 := Nat.cast_nonneg (α := ℝ) j
    rw [expGo, NearAt, abs_le]
    cases upper <;> simp only [if_true, Bool.false_eq_true, if_false] <;> push_cast <;> constructor <;> linarith
  | succ n ih =>
    intro j t acc hj h
    have hj0 := Nat.cast_nonneg (α := ℝ) j
    have hjN : (n + 1 + j : ℝ) = N := by exact_mod_cast hj
    have hn0 := Nat.cast_nonneg (α := ℝ) n
    obtain ⟨u, hu, hgo⟩ : ∃ u, (u = t * y / (2 ^ k * (j + 1)) ∨ u = t * y / (2 ^ k * (j + 1)) + 1) ∧
        expGo k y upper (n + 1) (j + 1) t acc = if u = 0 then acc else if upper && u == 1 then acc + n + 4
          else expGo k y upper n (j + 1 + 1) u (acc + u) := by
      cases upper
      · exact ⟨_, .inl rfl, rfl⟩
      · exact ⟨_, .inr rfl, rfl⟩
    have hnext := h.next hx hu
    obtain ⟨h3, -⟩ := abs_le.mp hnext
    rw [hgo]
    split
    · next h0 =>
      rw [h0, Nat.cast_zero] at h3
      obtain ⟨h1, h2⟩ := abs_le.mp (h.near hx0 hx (by linarith))
      rw [NearAt, abs_le]
      constructor <;> linarith
    · split
      · next h1 =>
        rw [Bool.and_eq_true, beq_iff_eq] at h1
        rw [h1.2, Nat.cast_one] at h3
        obtain ⟨h1, h2⟩ := abs_le.mp (h.near hx0 hx (by linarith))
        rw [NearAt, abs_le]
        push_cast
        constructor <;> linarith
      · exact ih _ _ _ (by omega) (h.succ hnext)

/-- The last term is next to nothing when the fuel has gone. -/
theorem exp_term_le (k : Nat) {x : ℝ} (h0 : 0 ≤ x) (h1 : x ≤ 1) : 2 ^ k * (x ^ (k + 1) / (k + 1).factorial) ≤ 5 := by
  have hfac : (2 : ℝ) ^ k ≤ (k + 1).factorial := by
    have := Nat.factorial_mul_pow_le_factorial (m := 1) (n := k)
    rw [Nat.factorial_one, one_mul, Nat.add_comm 1 k] at this
    exact_mod_cast this
  calc (2 : ℝ) ^ k * (x ^ (k + 1) / (k + 1).factorial) = x ^ (k + 1) * (2 ^ k / (k + 1).factorial) := by ring
    _ ≤ 1 * 1 := mul_le_mul (pow_le_one₀ h0 h1) (div_le_one_of_le₀ hfac (by positivity)) (by positivity) zero_le_one
    _ ≤ 5 := by norm_num

/-- `expGo` from its start is near the exponential. -/
theorem expGo_start_near {k y : Nat} (hx : (y : ℝ) / 2 ^ k ≤ 3 / 4) (upper : Bool) :
    NearAt k (5 * k + 14) (expGo k y upper k 1 (2 ^ k) (2 ^ k)) (Real.exp (y / 2 ^ k)) := by
  refine expGo_near hx (exp_term_le k (by positivity) (by linarith)) upper k 0 _ _ rfl ⟨?_, ?_⟩ <;>
    simp [NearAt, expSum]

/-! ### 2^(a / 2^t) -/

/-- Two arguments of the exponential within four units give values within 16. -/
theorem nearAt_exp {k w n : Nat} {x y : ℝ} (h : NearAt k w n (Real.exp y)) (hxy : |y - x| ≤ 4 / 2 ^ k) (hx : Real.exp x ≤ 2) (hk : 2 ≤ k) :
    NearAt k (w + 16) n (Real.exp x) := by
  have hpow : (0 : ℝ) < 2 ^ k := by positivity
  have h4 : (2 : ℝ) ^ 2 ≤ 2 ^ k := pow_le_pow_right₀ one_le_two hk
  have hsmall : |y - x| ≤ 1 := hxy.trans (by rw [div_le_one hpow]; linarith)
  have hdiff : |Real.exp y - Real.exp x| ≤ 16 / 2 ^ k := by
    have he : Real.exp y - Real.exp x = Real.exp x * (Real.exp (y - x) - 1) := by
      rw [mul_sub, ← Real.exp_add, mul_one, add_sub_cancel]
    rw [he, abs_mul, abs_of_pos (Real.exp_pos x)]
    calc Real.exp x * |Real.exp (y - x) - 1| ≤ 2 * (2 * (4 / 2 ^ k)) :=
          mul_le_mul hx ((Real.abs_exp_sub_one_le hsmall).trans (by linarith)) (abs_nonneg _) zero_le_two
      _ = 16 / 2 ^ k := by ring
  have hscaled : |2 ^ k * (Real.exp y - Real.exp x)| ≤ 16 := by
    rw [abs_mul, abs_of_pos hpow, mul_comm]
    exact (le_div_iff₀ hpow).mp hdiff
  obtain ⟨h1, h2⟩ := abs_le.mp h
  obtain ⟨h5, h6⟩ := abs_le.mp hscaled
  rw [NearAt, abs_le]
  constructor <;> linarith

/-- Both bounds of 2^(a / 2^t) are near it. -/
theorem exp2Iv_near {k a t : Nat} (hk : 10 ≤ k) (hk' : k ≤ 1000) (ha : a < 2 ^ t) :
    NearAt k (5 * k + 31) (exp2Iv k a t).1 (2 ^ ((a : ℝ) / 2 ^ t)) ∧ NearAt k (5 * k + 31) (exp2Iv k a t).2 (2 ^ ((a : ℝ) / 2 ^ t)) := by
  have hpow : (0 : ℝ) < 2 ^ k := by positivity
  have hbig : (2 : ℝ) ^ 10 ≤ 2 ^ k := pow_le_pow_right₀ one_le_two hk
  have hr0 : (0 : ℝ) ≤ a / 2 ^ t := by positivity
  have hr1 : (a / 2 ^ t : ℝ) ≤ 1 := by
    rw [div_le_one (by positivity)]
    exact_mod_cast ha.le
  have hval : (2 : ℝ) ^ ((a : ℝ) / 2 ^ t) = Real.exp (a / 2 ^ t * Real.log 2) := by
    rw [Real.rpow_def_of_pos two_pos, mul_comm]
  have htwo : Real.exp (a / 2 ^ t * Real.log 2) ≤ 2 := by
    rw [← hval]
    exact (Real.rpow_le_rpow_of_exponent_le one_le_two hr1).trans_eq (Real.rpow_one 2)
  have hln := Real.log_two_lt_d9
  have hln0 := Real.log_pos one_lt_two
  have harg : ∀ {l y : Nat}, NearAt k 3 l (Real.log 2) → y = a * l / 2 ^ t ∨ y = a * l / 2 ^ t + 1 →
      |(y : ℝ) / 2 ^ k - a / 2 ^ t * Real.log 2| ≤ 4 / 2 ^ k := by
    intro l y hl hy
    obtain ⟨h1, h2⟩ := abs_le.mp hl
    obtain ⟨hd1, hd2⟩ := natDiv_bounds (a * l) (2 ^ t)
    rw [show ((a * l : Nat) : ℝ) / (2 ^ t : Nat) = a / 2 ^ t * l by push_cast; ring] at hd1 hd2
    have h3 := mul_le_mul_of_nonneg_left h1 hr0
    have h4 := mul_le_mul_of_nonneg_left h2 hr0
    rw [div_sub' hpow.ne', abs_div, abs_of_pos hpow, div_le_div_iff_of_pos_right hpow, abs_le]
    rcases hy with rfl | rfl <;> push_cast <;> constructor <;> linarith
  have hsum : ∀ {l y : Nat} (upper : Bool), NearAt k 3 l (Real.log 2) → y = a * l / 2 ^ t ∨ y = a * l / 2 ^ t + 1 →
      NearAt k (5 * k + 30) (expGo k y upper k 1 (2 ^ k) (2 ^ k)) (2 ^ ((a : ℝ) / 2 ^ t)) := by
    intro l y upper hl hy
    have hclose := harg hl hy
    have hsmall : (4 / 2 ^ k : ℝ) ≤ 1 / 256 := by
      rw [div_le_iff₀ hpow]
      linarith
    have hle : (a / 2 ^ t : ℝ) * Real.log 2 ≤ Real.log 2 := mul_le_of_le_one_left hln0.le hr1
    have h34 : (y : ℝ) / 2 ^ k ≤ 3 / 4 := by
      have := (abs_le.mp hclose).2
      linarith
    have h := nearAt_exp (w := 5 * k + 14) (by exact_mod_cast expGo_start_near h34 upper) hclose htwo (by omega)
    rw [hval]
    refine h.trans ?_
    push_cast
    linarith
  obtain ⟨hl, hh⟩ := ln2Iv_near hk'
  have hlo := hsum false hl (.inl rfl)
  have hhi := hsum true hh (.inr rfl)
  have hfst : (exp2Iv k a t).1 = expGo k (a * (ln2Iv k).1 / 2 ^ t) false k 1 (2 ^ k) (2 ^ k) := rfl
  have hsnd : (exp2Iv k a t).2 = min (expGo k (a * (ln2Iv k).2 / 2 ^ t + 1) true k 1 (2 ^ k) (2 ^ k) + 1) (2 ^ (k + 1)) := rfl
  rw [hfst, hsnd]
  refine ⟨hlo.trans (by linarith), ?_⟩
  rw [← hval] at htwo
  obtain ⟨h1, h2⟩ := abs_le.mp hhi
  have hcap : (2 : ℝ) ^ k * 2 ^ ((a : ℝ) / 2 ^ t) ≤ 2 ^ (k + 1) := by
    rw [pow_succ]
    exact mul_le_mul_of_nonneg_left htwo hpow.le
  have hk0 := Nat.cast_nonneg (α := ℝ) k
  generalize expGo k (a * (ln2Iv k).2 / 2 ^ t + 1) true k 1 (2 ^ k) (2 ^ k) = x at *
  rw [NearAt, abs_le]
  push_cast
  constructor
  · rcases min_choice ((x : ℝ) + 1) (2 ^ (k + 1)) with hm | hm <;> rw [hm] <;> linarith
  · have := min_le_left ((x : ℝ) + 1) (2 ^ (k + 1))
    linarith

end Sys2Proof.Machine
end

section
/-! Powers and logarithms (R285, R286, log entry 12): how their exact and their near results leave. -/
namespace Sys2Proof.Machine

/-! ### Near results -/

section
variable {f : Fmt} {n : Bool} {v : ℝ} (c : Ctl)

/-- A result of whole units leaves as near as can be. -/
theorem leaves_near_exact {m : Nat} {e : Int} (hm : m ≠ 0) (hv : |v| = m * 2 ^ e) (hn : n = true ↔ v < 0) :
    Leaves f c (RoundsNear f c.rnd) v (finishEx f c (.fin n m e false)) := by
  have hz := two_zpow_pos (K := ℝ) c.scale
  refine ⟨_, ⟨n, m, e + c.scale, hm, by rw [scaled_neg_iff]; exact hn, ?_, rfl⟩, finishEx_fin ..⟩
  rw [abs_scaled, hv, zpow_add₀ two_ne_zero, mul_assoc, sub_self, abs_zero]
  positivity

/-- An irrational result is rounded in the middle of a unit beside one of its bounds. -/
theorem finishEx_iv {lo hi : Nat} (hlo : lo ≠ 0) (e : Int) : ∃ m, (m = lo ∨ m = hi - 1)
    ∧ finishEx f c (.iv n lo hi e) = limited f c (flush f c.ftz (roundBits f c.rnd n (2 * m + 1) (e + c.scale - 1) false)) := by
  unfold finishEx
  dsimp only
  rw [if_neg hlo]
  split
  · exact ⟨lo, .inl rfl, rfl⟩
  · exact ⟨hi - 1, .inr rfl, rfl⟩

/-- The middle of a unit beside a near bound is near. -/
theorem nearAt_middle {k lo hi m : Nat} {w u : ℝ} (hlo : NearAt k w lo u) (hhi : NearAt k w hi u) (hpos : w < 2 ^ k * u)
    (hm : m = lo ∨ m = hi - 1) : |((2 * m + 1 : Nat) : ℝ) - 2 ^ (k + 1) * u| ≤ 2 * (w + 1) := by
  obtain ⟨h1, h2⟩ := abs_le.mp hlo
  obtain ⟨h3, h4⟩ := abs_le.mp hhi
  have hhi1 : 1 ≤ hi := by
    have : (0 : ℝ) < hi := by linarith
    exact_mod_cast this
  rw [pow_succ, abs_le]
  rcases hm with rfl | rfl <;> push_cast [Nat.cast_sub hhi1] <;> constructor <;> linarith

/-- An irrational result with both bounds within w units of 2^−320 leaves near its real. -/
theorem leaves_near_iv {lo hi : Nat} {w u : ℝ} {i : Int} (hv : |v| = u * 2 ^ i) (hlo : NearAt fnBits w lo u) (hhi : NearAt fnBits w hi u)
    (hw : w + 1 ≤ 2 ^ 80 * u) (hn : n = true ↔ v < 0) :
    Leaves f c (RoundsNear f c.rnd) v (finishEx f c (.iv n lo hi (i - fnBits))) := by
  have hw0 : 0 ≤ w := (abs_nonneg _).trans hlo
  have hu : 0 < u := by
    by_contra h
    linarith
  have hbits : (2 : ℝ) ^ fnBits = 2 ^ 80 * 2 ^ 240 := by rw [← pow_add]; rfl
  have hpos : w < 2 ^ fnBits * u := by
    rw [hbits]
    have : (2 : ℝ) ^ 80 * u ≤ 2 ^ 80 * 2 ^ 240 * u := by
      rw [mul_right_comm]
      exact le_mul_of_one_le_right (by positivity) (one_le_pow₀ one_le_two)
    linarith
  have hlo0 : lo ≠ 0 := by
    rintro rfl
    have := (abs_le.mp hlo).1
    rw [Nat.cast_zero] at this
    linarith
  obtain ⟨m, hm, he⟩ := finishEx_iv (f := f) (n := n) (hi := hi) c hlo0 (i - fnBits)
  refine ⟨_, ⟨n, 2 * m + 1, _, Nat.succ_ne_zero _, by rw [scaled_neg_iff]; exact hn, ?_, rfl⟩, he⟩
  have hmid := nearAt_middle hlo hhi hpos hm
  have hz := two_zpow_pos (K := ℝ) (i + c.scale)
  have hunit : (2 : ℝ) ^ (i - fnBits + c.scale - 1) = 2 ^ (i + c.scale) / 2 ^ (fnBits + 1) := by
    rw [show i - fnBits + c.scale - 1 = (i + c.scale) - ((fnBits + 1 : Nat) : Int) by push_cast; ring, zpow_sub₀ two_ne_zero, zpow_natCast]
  have hK : (0 : ℝ) < 2 ^ (fnBits + 1) := by positivity
  have hdiff : u - ((2 * m + 1 : Nat) : ℝ) / 2 ^ (fnBits + 1) = -(((2 * m + 1 : Nat) : ℝ) - 2 ^ (fnBits + 1) * u) / 2 ^ (fnBits + 1) := by
    field_simp
    ring
  rw [abs_scaled, hv, mul_assoc, ← zpow_add₀ two_ne_zero, hunit,
    show u * (2 : ℝ) ^ (i + c.scale) - ((2 * m + 1 : Nat) : ℝ) * (2 ^ (i + c.scale) / 2 ^ (fnBits + 1))
      = (u - ((2 * m + 1 : Nat) : ℝ) / 2 ^ (fnBits + 1)) * 2 ^ (i + c.scale) by ring,
    abs_mul, abs_of_pos hz, mul_right_comm, hdiff, abs_div, abs_neg, abs_of_pos hK]
  refine mul_le_mul_of_nonneg_right ?_ hz.le
  rw [div_le_iff₀ hK, show u * (2 : ℝ) ^ (-240 : Int) * 2 ^ (fnBits + 1) = 2 * (2 ^ 80 * u) by
    rw [pow_succ, hbits, zpow_neg, zpow_ofNat]
    have : (2 : ℝ) ^ 240 ≠ 0 := pow_ne_zero _ two_ne_zero
    field_simp]
  linarith

end

/-! ### Far beyond a format -/

/-- The least magnitude that is not finite, and the greatest half of a least unit, of the formats of functions. -/
theorem magVal_maxFinite_le {f : Fmt} (hf : f = .f32 ∨ f = .f64) : magVal ℝ f (maxFinite f + 1) ≤ 2 ^ (2000 : Int) := by
  have hplace : maxFinite f + 1 = 2 ^ f.fbits + (f.emask - 1) * 2 ^ f.fbits := by rcases hf with rfl | rfl <;> rfl
  have hexp : (f.fbits : Int) + (f.emin - f.fbits + ((f.emask - 1 : Nat) : Int)) ≤ 2000 := by rcases hf with rfl | rfl <;> decide
  rw [hplace, magVal, grid_enc (.inr le_rfl) (Nat.pow_le_pow_right two_pos (Nat.le_succ _))]
  push_cast
  rw [← zpow_natCast, ← zpow_add₀ two_ne_zero]
  exact zpow_le_zpow_right₀ one_le_two hexp

theorem le_grid_half_one {f : Fmt} (hf : f = .f32 ∨ f = .f64) :
    (2 : ℝ) ^ (-2000 : Int) < grid ℝ (f.fbits + 1) (f.emin - f.fbits - 1) (0 + 1) := by
  have hexp : (-2000 : Int) < f.emin - f.fbits - 1 := by rcases hf with rfl | rfl <;> decide
  refine lt_of_lt_of_le ?_ (grid_succ_le 0)
  rw [grid_zero, zero_add]
  exact zpow_lt_zpow_right₀ one_lt_two hexp

/-- Every magnitude from 2^2000 on overflows alike. -/
theorem roundBits_huge {f : Fmt} (hf : f = .f32 ∨ f = .f64) {m : Nat} {e : Int} (hm : m ≠ 0) (h : (2 : ℝ) ^ (2000 : Int) ≤ m * 2 ^ e)
    (r : Rnd) (n : Bool) : roundBits f r n m e false = overflowBits f r n := by
  have hx0 : (0 : ℝ) ≤ m * 2 ^ e := mul_nonneg (Nat.cast_nonneg m) (two_zpow_pos e).le
  obtain ⟨i, ex, hi⟩ := exists_atGrid (p := f.fbits + 1) (q := f.emin - f.fbits - 1) hx0
  have hle : maxFinite f + 1 ≤ i / 2 := AtHalf.le_half hi ((magVal_maxFinite_le hf).trans h)
  rw [roundBits_of_atHalf hm rfl hi, roundAt, encMag, if_pos]
  unfold roundMag
  omega

/-- Every magnitude up to 2^−2000 underflows alike. -/
theorem roundBits_tiny {f : Fmt} (hf : f = .f32 ∨ f = .f64) {m : Nat} {e : Int} (hm : m ≠ 0) (h : m * (2 : ℝ) ^ e ≤ 2 ^ (-2000 : Int))
    (r : Rnd) (n : Bool) : roundBits f r n m e false = roundAt f r n 0 false := by
  have hx0 : (0 : ℝ) < m * 2 ^ e := mul_pos (by exact_mod_cast Nat.pos_of_ne_zero hm) (two_zpow_pos e)
  exact roundBits_of_atHalf hm rfl (show AtHalf f 0 false _ from ⟨by rw [grid_zero]; exact hx0, h.trans_lt (le_grid_half_one hf)⟩) r n

/-- What holds on either side of 0. -/
theorem side_imp {q : ℚ} {A B A' B' : Prop} (h : if q < 0 then A else B) (hA : A → A') (hB : B → B') : if q < 0 then A' else B' := by
  split
  · next hq => exact hA (by rwa [if_pos hq] at h)
  · next hq => exact hB (by rwa [if_neg hq] at h)

/-- The working exponent of a power that is out of every format (log entry 12). -/
def farExp (q : ℚ) : Int := if q < 0 then -20000 else 20000

/-- m units of 2^e are far beyond the formats of functions, on the side of q. -/
def Beyond (q : ℚ) (m : Nat) (e : Int) : Prop :=
  m ≠ 0 ∧ if q < 0 then m * (2 : ℝ) ^ e ≤ 2 ^ (-2000 : Int) else (2 : ℝ) ^ (2000 : Int) ≤ m * 2 ^ e

theorem Beyond.roundBits_eq {f : Fmt} (hf : f = .f32 ∨ f = .f64) {q : ℚ} {m p : Nat} {e d : Int} (h : Beyond q m e) (h' : Beyond q p d)
    (r : Rnd) (n : Bool) : roundBits f r n m e false = roundBits f r n p d false := by
  obtain ⟨hm, h⟩ := h
  obtain ⟨hp, h'⟩ := h'
  split at h
  · next hq =>
    rw [if_pos hq] at h'
    rw [roundBits_tiny hf hm h, roundBits_tiny hf hp h']
  · next hq =>
    rw [if_neg hq] at h'
    rw [roundBits_huge hf hm h, roundBits_huge hf hp h']

/-- Powers of two with an exponent of 5000 and more are. -/
theorem beyond_one {q : ℚ} {e : Int} (h : if q < 0 then e ≤ -5000 else 5000 ≤ e) : Beyond q 1 e := by
  refine ⟨one_ne_zero, ?_⟩
  rw [Nat.cast_one, one_mul]
  exact side_imp h (fun h => zpow_le_zpow_right₀ one_le_two (by omega)) (fun h => zpow_le_zpow_right₀ one_le_two (by omega))

theorem beyond_mul {q : ℚ} {m k : Nat} {e : Int} (hm : m ≠ 0) (hk : m ≤ 2 ^ k) (h : if q < 0 then e + k ≤ -5000 else 5000 ≤ e) :
    Beyond q m e := by
  have hz := two_zpow_pos (K := ℝ) e
  refine ⟨hm, side_imp h (fun h => ?_) (fun h => ?_)⟩
  · calc m * (2 : ℝ) ^ e ≤ 2 ^ (k : Int) * 2 ^ e := mul_le_mul_of_nonneg_right (by rw [zpow_natCast]; exact_mod_cast hk) hz.le
      _ = 2 ^ (e + k) := by rw [mul_comm, zpow_add₀ two_ne_zero]
      _ ≤ _ := zpow_le_zpow_right₀ one_le_two (by omega)
  · calc (2 : ℝ) ^ (2000 : Int) ≤ 2 ^ e := zpow_le_zpow_right₀ one_le_two (by omega)
      _ ≤ _ := le_mul_of_one_le_left hz.le (by exact_mod_cast Nat.pos_of_ne_zero hm)

/-! ### 2^A -/

/-- The exponent of a power within the working range (log entry 12). -/
def clampExp (i : Int) : Int := if 20000 < i then 20000 else if i < -20000 then -20000 else i

theorem clampExp_near {i : Int} (h : |i| ≤ 16384) : clampExp i = i := by
  rw [abs_le] at h
  unfold clampExp
  split
  · omega
  · split <;> omega

theorem clampExp_far {q : ℚ} {i : Int} (h : if q < 0 then i ≤ -16384 else 16384 ≤ i) :
    if q < 0 then clampExp i ≤ -16384 else 16384 ≤ clampExp i := by
  have hle : i ≤ -16384 → clampExp i ≤ -16384 := fun h => by unfold clampExp; split_ifs <;> omega
  have hge : 16384 ≤ i → 16384 ≤ clampExp i := fun h => by unfold clampExp; split_ifs <;> omega
  exact side_imp h hle hge

/-- The exponent of an exact power: the source itself where it lies below 2^14, and otherwise one as far beyond the formats. -/
structure PowExp (q : ℚ) (z : Int) : Prop where
  near : |q| < 16384 → q = z
  far : 16384 ≤ |q| → if q < 0 then z ≤ -16384 else 16384 ≤ z

theorem far_of_int {q : ℚ} {z : Int} (hq : q = z) (h : 16384 ≤ |q|) : if q < 0 then z ≤ -16384 else 16384 ≤ z := by
  subst hq
  split
  · next hn =>
    rw [abs_of_neg hn] at h
    have : (z : ℚ) ≤ ((-16384 : Int) : ℚ) := by push_cast; linarith
    exact_mod_cast this
  · next hn =>
    rw [abs_of_nonneg (not_lt.mp hn)] at h
    exact_mod_cast h

theorem powExp_int {q : ℚ} {z : Int} (hq : q = z) : PowExp q z := ⟨fun _ => hq, far_of_int hq⟩

theorem powExp_clamp {q : ℚ} {z : Int} (hq : q = z) : PowExp q (clampExp z) where
  near h := by
    rw [clampExp_near, hq]
    rw [hq] at h
    exact_mod_cast h.le
  far h := clampExp_far (far_of_int hq h)

theorem powExp_far {q : ℚ} (h : 16384 ≤ |q|) : PowExp q (farExp q) where
  near h' := absurd h (not_le.mpr h')
  far _ := by unfold farExp; split <;> norm_num

/-- A power that is not 2^z for a whole z: whole and fractional part of the source, and the bounds. -/
structure PowFrac (q : ℚ) (i : Int) (a t : Nat) : Prop where
  lt : a < 2 ^ t
  value : q = i + a / 2 ^ t

theorem sgnInt_value (n : Bool) (m : Nat) : (((if n then -(m : Int) else m : Int)) : ℚ) = sgn n * m := by cases n <;> simp

theorem farExp_fin {n : Bool} {m : Nat} (hm : m ≠ 0) (e : Int) : farExp (sgn n * m * 2 ^ e) = if n then -20000 else 20000 := by
  have hpos : (0 : ℚ) < (m : ℚ) * 2 ^ e := mul_pos (by exact_mod_cast Nat.pos_of_ne_zero hm) (two_zpow_pos e)
  rw [farExp, mul_assoc]
  cases n with
  | false => rw [sgn_false, one_mul, if_neg hpos.not_gt]; rfl
  | true => rw [sgn_true, if_pos (by linarith)]; rfl

/-- A source of 2^14 and more. -/
theorem abs_ge_of_bits {n : Bool} {m : Nat} (hm : m ≠ 0) {e : Int} (he : 0 ≤ e) (h : 14 < e + bitLen m) :
    (16384 : ℚ) ≤ |sgn n * m * 2 ^ e| := by
  have hpos := bitLen_pos hm
  have hle : 2 ^ 14 ≤ m * 2 ^ e.toNat :=
    calc 2 ^ 14 ≤ 2 ^ (bitLen m - 1 + e.toNat) := Nat.pow_le_pow_right two_pos (by omega)
      _ = 2 ^ (bitLen m - 1) * 2 ^ e.toNat := pow_add ..
      _ ≤ _ := Nat.mul_le_mul_right _ (two_pow_bitLen_le hm)
  rw [mul_assoc, abs_mul, abs_sgn, one_mul, zpow_toNat he, abs_of_nonneg (by positivity)]
  exact_mod_cast hle

/-- 2^A of a finite source that is a whole number of units of 1. -/
theorem exExp2_whole (f : Fmt) (n : Bool) {m : Nat} (hm : m ≠ 0) {e : Int} (he : 0 ≤ e) :
    ∃ z, exExp2 f (.fin n m e) = .fin false 1 z false ∧ PowExp (sgn n * m * 2 ^ e) z := by
  unfold exExp2
  dsimp only
  rw [if_pos he]
  by_cases hbig : 14 < e + bitLen m
  · refine ⟨farExp (sgn n * m * 2 ^ e), ?_, powExp_far (abs_ge_of_bits hm he hbig)⟩
    rw [if_pos hbig, farExp_fin hm]
    cases n <;> rfl
  · rw [if_neg hbig]
    refine ⟨_, rfl, powExp_int ?_⟩
    rw [zpow_toNat he, ← sgnInt_value]
    push_cast
    rfl

/-- 2^A by the whole part i and the fraction a / 2^t of its source. -/
def expParts (i : Int) (a t : Nat) : Ex :=
  if a = 0 then .fin false 1 (clampExp i) false
  else .iv false (exp2Iv fnBits a t).1 (exp2Iv fnBits a t).2 (clampExp i - fnBits)

theorem exExp2_parts (f : Fmt) (n : Bool) (m : Nat) {t : Nat} (ht : 0 < t) : ∃ i a, exExp2 f (.fin n m (-(t : Int))) = expParts i a t
    ∧ PowFrac (sgn n * m * 2 ^ (-(t : Int))) i a t := by
  have hpos : (0 : Int) < (2 ^ t : Nat) := by exact_mod_cast Nat.two_pow_pos t
  refine ⟨(if n then -(m : Int) else m) / (2 ^ t : Nat), ((if n then -(m : Int) else m) % (2 ^ t : Nat)).toNat, ?_, ?_, ?_⟩
  · unfold exExp2 expParts clampExp
    dsimp only
    rw [if_neg (by omega), neg_neg, Int.toNat_natCast]
  · have := Int.emod_lt_of_pos (if n then -(m : Int) else m) hpos
    omega
  · rw [← sgnInt_value]
    generalize (if n then -(m : Int) else m) = v
    have hmod := Int.emod_nonneg v hpos.ne'
    have hdm := Int.ediv_mul_add_emod v (2 ^ t : Nat)
    have hcast : ((v % (2 ^ t : Nat)).toNat : ℚ) = ((v % (2 ^ t : Nat) : Int) : ℚ) := by
      rw [← Int.cast_natCast, Int.toNat_of_nonneg hmod]
    rw [hcast, zpow_neg, zpow_natCast, ← div_eq_mul_inv, div_eq_iff (by positivity), add_mul, div_mul_cancel₀ _ (by positivity)]
    exact_mod_cast hdm.symm

/-- 2^A of a finite source. -/
theorem exExp2_fin (f : Fmt) (n : Bool) {m : Nat} (hm : m ≠ 0) (e : Int) :
    (∃ z, exExp2 f (.fin n m e) = .fin false 1 z false ∧ PowExp (sgn n * m * 2 ^ e) z)
      ∨ ∃ i a t, exExp2 f (.fin n m e) = .iv false (exp2Iv fnBits a t).1 (exp2Iv fnBits a t).2 (clampExp i - fnBits)
        ∧ a ≠ 0 ∧ PowFrac (sgn n * m * 2 ^ e) i a t := by
  rcases le_or_gt 0 e with he | he
  · exact .inl (exExp2_whole f n hm he)
  · obtain ⟨t, rfl⟩ : ∃ t : Nat, e = -(t : Int) := ⟨(-e).toNat, by omega⟩
    obtain ⟨i, a, hx, hq⟩ := exExp2_parts f n m (t := t) (by omega)
    rw [hx]
    by_cases ha : a = 0
    · refine .inl ⟨_, if_pos ha, powExp_clamp ?_⟩
      rw [hq.value, ha, Nat.cast_zero, zero_div, add_zero]
    · exact .inr ⟨i, a, t, if_neg ha, ha, hq⟩

/-! ### What 2^A leaves -/

section
variable {f : Fmt} (c : Ctl) {q : ℚ} {z i : Int} {a t : Nat}

theorem rpow_int {q : ℚ} {z : Int} (h : q = z) : (2 : ℝ) ^ ((q : ℚ) : ℝ) = 2 ^ z := by
  rw [h, Rat.cast_intCast, Real.rpow_intCast]

theorem rpow_frac (h : PowFrac q i a t) : (2 : ℝ) ^ ((q : ℚ) : ℝ) = 2 ^ ((a : ℝ) / 2 ^ t) * 2 ^ i := by
  rw [h.value]
  push_cast
  rw [add_comm, Real.rpow_add two_pos, Real.rpow_intCast]

theorem rpow_sign (x : ℝ) : false = true ↔ (2 : ℝ) ^ x < 0 := iff_of_false Bool.false_ne_true (Real.rpow_pos_of_pos two_pos x).not_gt

theorem abs_rpow (x : ℝ) : |(2 : ℝ) ^ x| = 2 ^ x := abs_of_pos (Real.rpow_pos_of_pos two_pos x)

/-- Below 2^14 an exact power is near, and rounds as it is. -/
theorem near_of_powExp (h : PowExp q z) (hq : |q| < 16384) :
    Leaves f c (RoundsNear f c.rnd) (2 ^ ((q : ℚ) : ℝ)) (finishEx f c (.fin false 1 z false)) :=
  leaves_near_exact c one_ne_zero (by rw [abs_rpow, rpow_int (h.near hq), Nat.cast_one, one_mul]) (rpow_sign _)

/-- From 2^14 on an exact power leaves as one far beyond the formats. -/
theorem far_of_powExp (hf : f = .f32 ∨ f = .f64) (hc : -32 ≤ c.scale ∧ c.scale ≤ 32) (h : PowExp q z) (hq : 16384 ≤ |q|) {y : Int}
    (hy : if q < 0 then y ≤ -16384 else 16384 ≤ y) : finishEx f c (.fin false 1 z false)
      = limited f c (flush f c.ftz (roundBits f c.rnd false 1 (y + c.scale) false)) := by
  have hbeyond : ∀ {y : Int}, (if q < 0 then y ≤ -16384 else 16384 ≤ y) → Beyond q 1 (y + c.scale) := by
    intro y hy
    exact beyond_one (side_imp hy (by omega) (by omega))
  rw [finishEx_fin, (hbeyond (h.far hq)).roundBits_eq hf (hbeyond hy)]

/-- An exact power rounds as the whole power it stands for. -/
theorem exact_of_powExp (hf : f = .f32 ∨ f = .f64) (hc : -32 ≤ c.scale ∧ c.scale ≤ 32) (h : PowExp q z) {y : Int} (hy : q = y) :
    Leaves f c (RoundsTo f c.rnd) (2 ^ ((q : ℚ) : ℝ)) (finishEx f c (.fin false 1 z false)) := by
  have hex := leaves_fin (f := f) (v := (2 : ℝ) ^ ((q : ℚ) : ℝ)) (m := 1) (e := y) (st := false) (n := false) c one_ne_zero (nofun)
    (show |(2 : ℝ) ^ ((q : ℚ) : ℝ)| = (1 : Nat) * 2 ^ y by rw [abs_rpow, rpow_int hy, Nat.cast_one, one_mul]) (rpow_sign _)
  rcases lt_or_ge |q| 16384 with hlt | hge
  · have hzy : z = y := by
      have := (h.near hlt).symm.trans hy
      exact_mod_cast this
    rwa [hzy]
  · rwa [far_of_powExp c hf hc h hge (far_of_int hy hge), ← finishEx_fin]

/-- A whole part is on the side of its number. -/
theorem powFrac_floor (h : PowFrac q i a t) : (i : ℚ) ≤ q ∧ q < i + 1 := by
  have hlt : (a : ℚ) / 2 ^ t < 1 := by
    rw [div_lt_one (by positivity)]
    exact_mod_cast h.lt
  have hge : (0 : ℚ) ≤ a / 2 ^ t := by positivity
  rw [h.value]
  constructor <;> linarith

theorem powFrac_near (h : PowFrac q i a t) (hq : |q| < 16384) : |i| ≤ 16384 := by
  obtain ⟨h1, h2⟩ := powFrac_floor h
  obtain ⟨h3, h4⟩ := abs_lt.mp hq
  have hlo : ((-16385 : Int) : ℚ) < i := by push_cast; linarith
  have hhi : (i : ℚ) < (16384 : Int) := by push_cast; linarith
  have hlo' : -16385 < i := by exact_mod_cast hlo
  have hhi' : i < 16384 := by exact_mod_cast hhi
  rw [abs_le]
  omega

theorem powFrac_far (h : PowFrac q i a t) (hq : 16384 ≤ |q|) : if q < 0 then i ≤ -16384 else 16384 ≤ i := by
  obtain ⟨h1, h2⟩ := powFrac_floor h
  split
  · next hn =>
    rw [abs_of_neg hn] at hq
    have : (i : ℚ) ≤ (-16384 : Int) := by push_cast; linarith
    exact_mod_cast this
  · next hn =>
    rw [abs_of_nonneg (not_lt.mp hn)] at hq
    have : ((16383 : Int) : ℚ) < i := by push_cast; linarith
    have : 16383 < i := by exact_mod_cast this
    omega

/-- A fraction is not 0 just where no whole number is the source. -/
theorem powFrac_not_int (h : PowFrac q i a t) (ha : a ≠ 0) (z : Int) : q ≠ z := by
  rintro rfl
  obtain ⟨h1, h2⟩ := powFrac_floor h
  obtain rfl : z = i := by
    have : i ≤ z := by exact_mod_cast h1
    have : z < i + 1 := by exact_mod_cast h2
    omega
  have hv := h.value
  have : (0 : ℚ) < a / 2 ^ t := div_pos (by exact_mod_cast Nat.pos_of_ne_zero ha) (by positivity)
  linarith

theorem one_le_rpow_frac (a t : Nat) : (1 : ℝ) ≤ 2 ^ ((a : ℝ) / 2 ^ t) := Real.one_le_rpow one_le_two (by positivity)

theorem fnBits_cast : ((fnBits : Nat) : ℝ) = 320 := by norm_num [fnBits]

theorem exp2Iv_fnBits (h : a < 2 ^ t) : NearAt fnBits 1631 (exp2Iv fnBits a t).1 (2 ^ ((a : ℝ) / 2 ^ t))
    ∧ NearAt fnBits 1631 (exp2Iv fnBits a t).2 (2 ^ ((a : ℝ) / 2 ^ t)) := by
  have hn := exp2Iv_near (k := fnBits) (by decide) (by decide) h
  rw [fnBits_cast] at hn
  norm_num at hn
  exact hn

/-- Below 2^14 a power that is not whole is near. -/
theorem near_of_powFrac (h : PowFrac q i a t) (hq : |q| < 16384) : Leaves f c (RoundsNear f c.rnd) (2 ^ ((q : ℚ) : ℝ))
    (finishEx f c (.iv false (exp2Iv fnBits a t).1 (exp2Iv fnBits a t).2 (clampExp i - fnBits))) := by
  obtain ⟨h1, h2⟩ := exp2Iv_fnBits h.lt
  rw [clampExp_near (powFrac_near h hq)]
  refine leaves_near_iv c (by rw [abs_rpow, rpow_frac h]) h1 h2 ?_ (rpow_sign _)
  have := one_le_rpow_frac a t
  linarith

/-- From 2^14 on it leaves as one far beyond the formats. -/
theorem far_of_powFrac (hf : f = .f32 ∨ f = .f64) (hc : -32 ≤ c.scale ∧ c.scale ≤ 32) (h : PowFrac q i a t) (hq : 16384 ≤ |q|) :
    finishEx f c (.iv false (exp2Iv fnBits a t).1 (exp2Iv fnBits a t).2 (clampExp i - fnBits))
      = limited f c (flush f c.ftz (roundBits f c.rnd false 1 (farExp q + c.scale) false)) := by
  obtain ⟨h1, h2⟩ := exp2Iv_fnBits h.lt
  have hu := one_le_rpow_frac a t
  have hu2 : (2 : ℝ) ^ ((a : ℝ) / 2 ^ t) ≤ 2 := by
    have hle : (a : ℝ) / 2 ^ t ≤ 1 := by
      rw [div_le_one (by positivity)]
      exact_mod_cast h.lt.le
    exact (Real.rpow_le_rpow_of_exponent_le one_le_two hle).trans_eq (Real.rpow_one 2)
  have hbits : (2 : ℝ) ^ 12 ≤ 2 ^ fnBits := pow_le_pow_right₀ one_le_two (by decide)
  have hpos : (1631 : ℝ) < 2 ^ fnBits * 2 ^ ((a : ℝ) / 2 ^ t) := by nlinarith
  have hlo0 : (exp2Iv fnBits a t).1 ≠ 0 := by
    intro h0
    have := (abs_le.mp h1).1
    rw [h0, Nat.cast_zero] at this
    linarith
  obtain ⟨m, hm, he⟩ := finishEx_iv (f := f) (n := false) (hi := (exp2Iv fnBits a t).2) c hlo0 (clampExp i - fnBits)
  have hmid := (abs_le.mp (nearAt_middle h1 h2 hpos hm)).2
  have hle : 2 * m + 1 ≤ 2 ^ (fnBits + 3) := by
    have : ((2 * m + 1 : Nat) : ℝ) ≤ 2 ^ (fnBits + 3) := by
      rw [pow_succ] at hmid
      rw [pow_add]
      nlinarith
    exact_mod_cast this
  have hside := clampExp_far (powFrac_far h hq)
  have hfar : Beyond q 1 (farExp q + c.scale) := beyond_one (by unfold farExp; split <;> omega)
  have hmul : Beyond q (2 * m + 1) (clampExp i - fnBits + c.scale - 1) := by
    refine beyond_mul (Nat.succ_ne_zero _) hle ?_
    have hK : fnBits = 320 := rfl
    exact side_imp hside (by omega) (by omega)
  rw [he, hmul.roundBits_eq hf hfar]

end

end Sys2Proof.Machine
end

section
/-! Logarithms (R285, R286, log entry 12), and the instructions of both. -/
namespace Sys2Proof.Machine

/-! ### log2 of a significand -/

/-- The quotient of two near numbers of units is near the quotient, with a unit more or without. -/
theorem nearAt_quotient {k l d : Nat} {L D : ℝ} (hk : 10 ≤ k) (hl : NearAt k 3 l L) (hd : NearAt k 3 d D) (hD : 1 / 2 ≤ D) (hL0 : 0 ≤ L)
    (hLD : L ≤ D) {x : Nat} (hx : x = l * 2 ^ k / d ∨ x = l * 2 ^ k / d + 1) : NearAt k 14 x (L / D) := by
  have hK : (2 : ℝ) ^ 10 ≤ 2 ^ k := pow_le_pow_right₀ one_le_two hk
  obtain ⟨h1, h2⟩ := abs_le.mp hl
  obtain ⟨h3, h4⟩ := abs_le.mp hd
  have hD0 : 0 < D := by linarith
  have hpos : (0 : ℝ) < 2 ^ k := by linarith
  obtain ⟨hq1, hq2⟩ := natDiv_bounds (l * 2 ^ k) d
  push_cast at hq1 hq2
  rw [NearAt]
  generalize (2 : ℝ) ^ k = K at *
  have hdK : K / 2 - 3 ≤ d := by nlinarith
  have hd0 : (0 : ℝ) < d := by linarith
  have hdiff : (l : ℝ) * K / d - K * (L / D) = K * ((l - K * L) * D - L * (d - K * D)) / (d * D) := by
    field_simp
    ring
  have hnum : |(l - K * L) * D - L * (d - K * D)| ≤ 6 * D := by
    rw [abs_le]
    constructor <;> nlinarith
  have hclose : |(l : ℝ) * K / d - K * (L / D)| ≤ 13 := by
    rw [hdiff, abs_div, abs_mul, abs_of_pos hpos, abs_of_pos (mul_pos hd0 hD0), div_le_iff₀ (mul_pos hd0 hD0)]
    calc K * |(l - K * L) * D - L * (d - K * D)| ≤ K * (6 * D) := mul_le_mul_of_nonneg_left hnum hpos.le
      _ = 6 * K * D := by ring
      _ ≤ 13 * d * D := mul_le_mul_of_nonneg_right (by linarith) hD0.le
      _ = 13 * (d * D) := by ring
  obtain ⟨h5, h6⟩ := abs_le.mp hclose
  rw [abs_le]
  rcases hx with rfl | rfl <;> push_cast <;> constructor <;> linarith

/-- The logarithm of a significand of b bits after its first, between 0 and 1. -/
noncomputable def logFrac (m b : Nat) : ℝ := Real.logb 2 ((m : ℝ) / 2 ^ b)

section
variable {m b : Nat}

/-- A significand between two powers of two is as far from both as its bits let it. -/
theorem logFrac_bounds (hlo : 2 ^ b < m) (hhi : m < 2 ^ (b + 1)) : 1 / 2 ^ (b + 1) ≤ logFrac m b ∧ logFrac m b ≤ 1 - 1 / 2 ^ (b + 1) := by
  have hB : (0 : ℝ) < 2 ^ b := by positivity
  have hlo' : (2 : ℝ) ^ b + 1 ≤ m := by exact_mod_cast hlo
  have hhi' : (m : ℝ) + 1 ≤ 2 * 2 ^ b := by
    rw [← pow_succ']
    exact_mod_cast hhi
  have hm0 : (0 : ℝ) < m := by linarith
  have hln := Real.log_pos one_lt_two
  have hln1 : Real.log 2 ≤ 1 := Real.log_two_lt_d9.le.trans (by norm_num)
  have hdiv : ∀ {x y : ℝ}, 0 ≤ x → x ≤ y → x ≤ y / Real.log 2 := fun h0 h => by
    rw [le_div_iff₀ hln]
    exact (mul_le_of_le_one_right h0 hln1).trans h
  have hunit : (1 : ℝ) / 2 ^ (b + 1) = 1 / (2 * 2 ^ b) := by rw [pow_succ']
  constructor
  · refine hdiv (by positivity) ?_
    refine le_trans ?_ (Real.one_sub_inv_le_log_of_pos (div_pos hm0 hB))
    rw [hunit, inv_div, one_sub_div hm0.ne', div_le_div_iff₀ (by positivity) hm0]
    nlinarith
  · have hcompl : logFrac m b = 1 - Real.log (2 * 2 ^ b / m) / Real.log 2 := by
      have hne : (m : ℝ) / 2 ^ b ≠ 0 := (div_pos hm0 hB).ne'
      rw [logFrac, Real.logb, show (2 : ℝ) * 2 ^ b / m = 2 / (m / 2 ^ b) by field_simp, Real.log_div two_ne_zero hne, sub_div, div_self hln.ne']
      ring
    rw [hcompl]
    refine sub_le_sub_left (hdiv (by positivity) ?_) 1
    refine le_trans ?_ (Real.one_sub_inv_le_log_of_pos (by positivity))
    rw [hunit, inv_div, one_sub_div (by positivity), div_le_div_iff_of_pos_right (by positivity)]
    linarith

/-- The bounds of the logarithm of a significand. -/
theorem logFrac_near (hlo : 2 ^ b < m) (hhi : m < 2 ^ (b + 1)) {l h dl dh : Nat} (ha : atanh2 fnBits (m - 2 ^ b) (m + 2 ^ b) = (l, h))
    (hd : ln2Iv fnBits = (dl, dh)) :
    NearAt fnBits 14 (l * 2 ^ fnBits / dh) (logFrac m b) ∧ NearAt fnBits 14 (h * 2 ^ fnBits / dl + 1) (logFrac m b) := by
  have hB : (0 : ℝ) < 2 ^ b := by positivity
  have hlo' : (2 : ℝ) ^ b ≤ m := by exact_mod_cast hlo.le
  have hhi' : (m : ℝ) ≤ 2 ^ b * 2 := by
    rw [← pow_succ]
    exact_mod_cast hhi.le
  have h3 : 3 * (m - 2 ^ b) ≤ m + 2 ^ b := by
    rw [pow_succ] at hhi
    omega
  obtain ⟨h1, h2⟩ := atanh2_near (k := fnBits) (by decide) h3 (by omega)
  obtain ⟨h4, h5⟩ := ln2Iv_near (k := fnBits) (by decide)
  have harg : (((m + 2 ^ b : Nat) : ℝ) + (m - 2 ^ b : Nat)) / ((m + 2 ^ b : Nat) - (m - 2 ^ b : Nat)) = m / 2 ^ b := by
    rw [Nat.cast_sub hlo.le]
    push_cast
    rw [show (m : ℝ) + 2 ^ b + (m - 2 ^ b) = 2 * m by ring, show (m : ℝ) + 2 ^ b - (m - 2 ^ b) = 2 * 2 ^ b by ring,
      mul_div_mul_left _ _ two_ne_zero]
  rw [harg, ha] at h1 h2
  rw [hd] at h4 h5
  have hL0 : 0 ≤ Real.log ((m : ℝ) / 2 ^ b) := Real.log_nonneg (by rwa [one_le_div hB])
  have hLD : Real.log ((m : ℝ) / 2 ^ b) ≤ Real.log 2 :=
    Real.log_le_log (div_pos (hB.trans_le hlo') hB) (by rwa [div_le_iff₀ hB, mul_comm])
  have hD : 1 / 2 ≤ Real.log 2 := le_trans (by norm_num) Real.log_two_gt_d9.le
  exact ⟨nearAt_quotient (by decide) h1 h5 hD hL0 hLD (.inl rfl), nearAt_quotient (by decide) h2 h4 hD hL0 hLD (.inr rfl)⟩

end

/-! ### log2 A -/

/-- log2 A between two signed numbers of units. -/
def logIv (lo hi : Int) : Ex :=
  if 0 ≤ lo then .iv false lo.toNat hi.toNat (-(fnBits : Int)) else .iv true (-hi).toNat (-lo).toNat (-(fnBits : Int))

theorem bitLen_two_pow (b : Nat) : bitLen (2 ^ b) - 1 = b := by
  rw [bitLen, if_neg (Nat.two_pow_pos b).ne', Nat.log2_two_pow]
  rfl

theorem exLog2_one (f : Fmt) (b : Nat) {e : Int} (h : e + b = 0) : exLog2 f (.fin false (2 ^ b) e) = .zero false := by
  unfold exLog2
  dsimp only
  rw [bitLen_two_pow, if_neg Bool.false_ne_true, if_pos rfl, if_pos h]

theorem exLog2_pow (f : Fmt) {b : Nat} {e : Int} (h : e + b ≠ 0) :
    exLog2 f (.fin false (2 ^ b) e) = .fin (decide (e + b < 0)) (e + b).natAbs 0 false := by
  unfold exLog2
  dsimp only
  rw [bitLen_two_pow, if_neg Bool.false_ne_true, if_pos rfl, if_neg h]

theorem exLog2_iv (f : Fmt) {m : Nat} {e : Int} (h : m ≠ 2 ^ (bitLen m - 1)) {l u dl du : Nat}
    (ha : atanh2 fnBits (m - 2 ^ (bitLen m - 1)) (m + 2 ^ (bitLen m - 1)) = (l, u)) (hd : ln2Iv fnBits = (dl, du)) :
    exLog2 f (.fin false m e) = logIv ((e + (bitLen m - 1 : Nat)) * (2 ^ fnBits : Nat) + (l * 2 ^ fnBits / du : Nat))
      ((e + (bitLen m - 1 : Nat)) * (2 ^ fnBits : Nat) + (u * 2 ^ fnBits / dl + 1 : Nat)) := by
  unfold exLog2
  dsimp only
  rw [if_neg Bool.false_ne_true, if_neg h, ha, hd]
  rfl

section
variable {f : Fmt} (c : Ctl)

/-- A logarithm whose bounds are within w units leaves near it, where it is far enough from 0 for its sign to be told. -/
theorem leaves_logIv {lo hi : Int} {v w : ℝ} (hlo : |(lo : ℝ) - 2 ^ fnBits * v| ≤ w) (hhi : |(hi : ℝ) - 2 ^ fnBits * v| ≤ w)
    (hw : w + 1 ≤ 2 ^ 80 * |v|) : Leaves f c (RoundsNear f c.rnd) v (finishEx f c (logIv lo hi)) := by
  obtain ⟨h1, h2⟩ := abs_le.mp hlo
  obtain ⟨h3, h4⟩ := abs_le.mp hhi
  have hw0 : 0 ≤ w := (abs_nonneg _).trans hlo
  have hK : (2 : ℝ) ^ 80 ≤ 2 ^ fnBits := pow_le_pow_right₀ one_le_two (by decide)
  have hfar : w + 1 ≤ 2 ^ fnBits * |v| := hw.trans (mul_le_mul_of_nonneg_right hK (abs_nonneg v))
  generalize hKdef : (2 : ℝ) ^ fnBits = K at *
  have hcast : ∀ {x : Int}, 0 ≤ x → ((x.toNat : Nat) : ℝ) = x := fun h => by
    rw [← Int.cast_natCast, Int.toNat_of_nonneg h]
  unfold logIv
  split
  · next h0 =>
    have h0' : (0 : ℝ) ≤ lo := by exact_mod_cast h0
    have hv : 0 < v := by
      by_contra hneg
      rw [abs_of_nonpos (not_lt.mp hneg)] at hfar
      linarith
    rw [abs_of_pos hv] at hfar hw
    have hhi0 : 0 ≤ hi := by
      have : (0 : ℝ) ≤ hi := by linarith
      exact_mod_cast this
    have := leaves_near_iv (f := f) (n := false) (v := v) (i := 0) (u := v) (lo := lo.toNat) (hi := hi.toNat) c
      (by rw [abs_of_pos hv, zpow_zero, mul_one]) (by rw [NearAt, hKdef, hcast h0]; exact hlo) (by rw [NearAt, hKdef, hcast hhi0]; exact hhi) hw
      (iff_of_false Bool.false_ne_true hv.not_gt)
    rwa [zero_sub] at this
  · next h0 =>
    have h0' : (lo : ℝ) ≤ -1 := by exact_mod_cast (by omega : lo ≤ -1)
    have hv : v < 0 := by
      by_contra hpos
      rw [abs_of_nonneg (not_lt.mp hpos)] at hfar
      linarith
    rw [abs_of_neg hv] at hfar hw
    have hhi0 : 0 ≤ -hi := by
      have : (hi : ℝ) ≤ 0 := by linarith
      have : hi ≤ 0 := by exact_mod_cast this
      omega
    have := leaves_near_iv (f := f) (n := true) (v := v) (i := 0) (u := -v) (w := w) (lo := (-hi).toNat) (hi := (-lo).toNat) c
      (by rw [abs_of_neg hv, zpow_zero, mul_one])
      (by rw [NearAt, hKdef, hcast hhi0, abs_le]; push_cast; constructor <;> linarith)
      (by rw [NearAt, hKdef, hcast (by omega), abs_le]; push_cast; constructor <;> linarith) hw (iff_of_true rfl hv)
    rwa [zero_sub] at this

theorem logb_fin {m b : Nat} (hm : m ≠ 0) (e : Int) : Real.logb 2 (((m : ℚ) * 2 ^ e : ℚ) : ℝ) = ((e + b : Int) : ℝ) + logFrac m b := by
  have hm' : (m : ℝ) ≠ 0 := by exact_mod_cast hm
  have hB : (2 : ℝ) ^ b ≠ 0 := by positivity
  have hz : (2 : ℝ) ^ (e + b) ≠ 0 := (two_zpow_pos _).ne'
  have hval : (((m : ℚ) * 2 ^ e : ℚ) : ℝ) = 2 ^ (e + b) * (m / 2 ^ b) := by
    push_cast
    rw [zpow_add₀ two_ne_zero, zpow_natCast]
    field_simp
  rw [hval, Real.logb_mul hz (div_ne_zero hm' hB), ← Real.rpow_intCast, Real.logb_rpow two_pos (by norm_num), logFrac]

/-- A number between two whole numbers is as far from 0 as from the nearer of them. -/
theorem le_abs_add {x y : ℝ} (i : Int) (h1 : y ≤ x) (h2 : x ≤ 1 - y) : y ≤ |(i : ℝ) + x| := by
  rcases le_or_gt 0 i with h | h
  · have : (0 : ℝ) ≤ i := by exact_mod_cast h
    exact le_abs.mpr (.inl (by linarith))
  · have : (i : ℝ) ≤ -1 := by exact_mod_cast (by omega : i ≤ -1)
    exact le_abs.mpr (.inr (by linarith))

/-- A logarithm that is not whole leaves near its real, where the significand has at most 64 bits. -/
theorem near_of_log {m : Nat} (hm : m ≠ 0) (hbits : m < 2 ^ 64) (e : Int) (h : m ≠ 2 ^ (bitLen m - 1)) :
    Leaves f c (RoundsNear f c.rnd) (Real.logb 2 (((m : ℚ) * 2 ^ e : ℚ) : ℝ)) (finishEx f c (exLog2 f (.fin false m e))) := by
  have hpos := bitLen_pos hm
  have hlo := lt_of_le_of_ne (two_pow_bitLen_le hm) (Ne.symm h)
  have hhi : m < 2 ^ (bitLen m - 1 + 1) := by
    rw [Nat.sub_add_cancel hpos]
    exact lt_two_pow_bitLen m
  have hb : bitLen m - 1 < 64 := (Nat.pow_lt_pow_iff_right one_lt_two).mp (hlo.trans hbits)
  rcases ha : atanh2 fnBits (m - 2 ^ (bitLen m - 1)) (m + 2 ^ (bitLen m - 1)) with ⟨l, u⟩
  rcases hd : ln2Iv fnBits with ⟨dl, du⟩
  obtain ⟨h1, h2⟩ := logFrac_near hlo hhi ha hd
  obtain ⟨h3, h4⟩ := logFrac_bounds hlo hhi
  rw [exLog2_iv f h ha hd, logb_fin hm e (b := bitLen m - 1)]
  generalize bitLen m - 1 = b at *
  have hshift : ∀ {x : Nat}, NearAt fnBits 14 x (logFrac m b) →
      |(((e + b) * (2 ^ fnBits : Nat) + (x : Nat) : Int) : ℝ) - 2 ^ fnBits * (((e + b : Int) : ℝ) + logFrac m b)| ≤ 14 := by
    intro x hx
    rw [NearAt] at hx
    push_cast
    rwa [show ((e : ℝ) + b) * 2 ^ fnBits + x - 2 ^ fnBits * (e + b + logFrac m b) = x - 2 ^ fnBits * logFrac m b by ring]
  refine leaves_logIv c (hshift h1) (hshift h2) ?_
  have hfar := le_abs_add (e + b) h3 h4
  have hunit : (1 : ℝ) / 2 ^ 64 ≤ 1 / 2 ^ (b + 1) :=
    one_div_le_one_div_of_le (by positivity) (pow_le_pow_right₀ one_le_two (by omega))
  linarith [hunit.trans hfar]

/-- A logarithm of a power of two is exact. -/
theorem log_isReal {b : Nat} {e : Int} (h : e + b ≠ 0) : (exLog2 f (.fin false (2 ^ b) e)).IsReal ((e + b : Int) : ℚ) := by
  rw [exLog2_pow f h]
  have := isReal_ofInt (e0 := 0) h
  rwa [zpow_zero, mul_one] at this

theorem logb_pow (b : Nat) (e : Int) : Real.logb 2 ((((2 ^ b : Nat) : ℚ) * 2 ^ e : ℚ) : ℝ) = (((e + b : Int) : ℚ) : ℝ) := by
  rw [logb_fin (b := b) (Nat.two_pow_pos b).ne' e, logFrac]
  push_cast
  rw [div_self (by positivity), Real.logb_one, add_zero]

/-- A rational exact result is near, too. -/
theorem leaves_near_isReal {x : Ex} {q : ℚ} (h : x.IsReal q) : Leaves f c (RoundsNear f c.rnd) (q : ℝ) (finishEx f c x) := by
  obtain ⟨n, m, e, rfl, hm, rfl⟩ := h
  exact leaves_near_exact c hm (abs_fin n m e) (fin_neg_iff hm e).symm

/-- The value of a power of two has a power of two for significand. -/
theorem eq_two_pow_of_value {m : Nat} {e z : Int} (h : (m : ℚ) * 2 ^ e = 2 ^ z) : ∃ b : Nat, m = 2 ^ b := by
  have hz : (m : ℚ) = 2 ^ (z - e) := by rw [zpow_sub₀ two_ne_zero, ← h, mul_div_cancel_right₀ _ (two_zpow_pos e).ne']
  have hm : 1 ≤ m := by
    have : (0 : ℚ) < m := hz ▸ two_zpow_pos _
    exact_mod_cast this
  have hge : 0 ≤ z - e := by
    by_contra hneg
    have hlt : (m : ℚ) < 1 := hz ▸ zpow_lt_one_of_neg₀ one_lt_two (by omega)
    have : m < 1 := by exact_mod_cast hlt
    omega
  refine ⟨(z - e).toNat, ?_⟩
  rw [zpow_toNat hge] at hz
  exact_mod_cast hz

end

/-! ### The instructions -/

/-- x is the exact or the near result of a power or a logarithm on the value y. -/
structure PowMeans (fn : Fn) (f : Fmt) (c : Ctl) (y : FV) (x : Ex) : Prop where
  fits : x.Fits f
  nan : ∀ n fr, y = .nan n fr → x = .nan (nanBits f n fr)
  special : ∀ b, fn.special f [y] = some b → x.special f = some b
  exact : ∀ (q : ℚ) (z : Int), fn.special f [y] = none → y.rat = some q → (fn = .exp2 → q = z) → (fn = .log2 → q = 2 ^ z) →
    Leaves f c (RoundsTo f c.rnd) (fn.real [q]) (finishEx f c x)
  near : ∀ q : ℚ, fn.special f [y] = none → y.rat = some q → fn = .log2 ∨ |q| < 16384 →
    Leaves f c (RoundsNear f c.rnd) (fn.real [q]) (finishEx f c x)
  far : ∀ q : ℚ, y.rat = some q → fn = .exp2 → 16384 ≤ |q| →
    finishEx f c x = limited f c (flush f c.ftz (roundBits f c.rnd false 1 (farExp q + c.scale) false))

section
variable {f : Fmt} {c : Ctl} {y : FV}

theorem exExp2_fits (y : FV) : (exExp2 f y).Fits f := by
  intro b h
  unfold exExp2 at h
  split at h
  · cases h
    exact nanBits_lt ..
  · cases h
  · split at h <;> cases h
  · dsimp only at h
    split_ifs at h

theorem exLog2_fits (y : FV) : (exLog2 f y).Fits f := by
  intro b h
  rcases y with ⟨n, fr⟩ | n | n | ⟨⟨_ | _⟩, m, e⟩
  · cases h
    exact nanBits_lt ..
  · cases n <;> cases h
    exact defaultNan_lt
  · cases h
  · by_cases hp : m = 2 ^ (bitLen m - 1)
    · generalize bitLen m - 1 = k at hp
      subst hp
      by_cases h0 : e + k = 0
      · rw [exLog2_one f k h0] at h
        cases h
      · rw [exLog2_pow f h0] at h
        cases h
    · rcases ha : atanh2 fnBits (m - 2 ^ (bitLen m - 1)) (m + 2 ^ (bitLen m - 1)) with ⟨l, u⟩
      rcases hd : ln2Iv fnBits with ⟨dl, du⟩
      rw [exLog2_iv f hp ha hd, logIv] at h
      split at h <;> cases h
  · cases h
    exact defaultNan_lt

/-- 2^A of a source that is a rational: exact, or by whole part and fraction. -/
theorem exExp2_rat (hy : y.Proper) {q : ℚ} (hq : y.rat = some q) : (∃ z, exExp2 f y = .fin false 1 z false ∧ PowExp q z)
    ∨ ∃ i a t, exExp2 f y = .iv false (exp2Iv fnBits a t).1 (exp2Iv fnBits a t).2 (clampExp i - fnBits) ∧ a ≠ 0 ∧ PowFrac q i a t := by
  rcases y with ⟨n, fr⟩ | n | n | ⟨n, m, e⟩ <;> cases hq
  · exact .inl ⟨0, rfl, powExp_int Int.cast_zero.symm⟩
  · exact exExp2_fin f n hy e

theorem powMeans_exp2 (hf : f = .f32 ∨ f = .f64) (hc : -32 ≤ c.scale ∧ c.scale ≤ 32) (hy : y.Proper) :
    PowMeans .exp2 f c y (exExp2 f y) where
  fits := exExp2_fits y
  nan n fr h := by rw [h]; rfl
  special b hb := by rcases y with ⟨n, fr⟩ | ⟨_ | _⟩ | n | ⟨n, m, e⟩ <;> cases hb <;> rfl
  exact q z _ hq hz _ := by
    rcases exExp2_rat (f := f) hy hq with ⟨z', hx, hp⟩ | ⟨i, a, t, -, ha, hp⟩
    · rw [hx]
      exact exact_of_powExp c hf hc hp (hz rfl)
    · exact absurd (hz rfl) (powFrac_not_int hp ha z)
  near q _ hq hlt := by
    have hlt' : |q| < 16384 := hlt.resolve_left nofun
    rcases exExp2_rat (f := f) hy hq with ⟨z, hx, hp⟩ | ⟨i, a, t, hx, -, hp⟩ <;> rw [hx]
    · exact near_of_powExp c hp hlt'
    · exact near_of_powFrac c hp hlt'
  far q hq _ hge := by
    rcases exExp2_rat (f := f) hy hq with ⟨z, hx, hp⟩ | ⟨i, a, t, hx, -, hp⟩ <;> rw [hx]
    · exact far_of_powExp c hf hc hp hge ((powExp_far hge).far hge)
    · exact far_of_powFrac c hf hc hp hge

/-- A source of log2 A that R286 does not give is positive, and not 1. -/
theorem log2_source {q : ℚ} (hs : Fn.log2.special f [y] = none) (hq : y.rat = some q) :
    ∃ m e, y = .fin false m e ∧ q = (m : ℚ) * 2 ^ e ∧ q ≠ 1 := by
  rcases y with ⟨n, fr⟩ | n | n | ⟨⟨_ | _⟩, m, e⟩ <;> cases hq
  case fin.false =>
    have hval : sgn false * (m : ℚ) * 2 ^ e = (m : ℚ) * 2 ^ e := by rw [sgn_false, one_mul]
    refine ⟨m, e, rfl, hval, fun h1 => ?_⟩
    change (if (m : ℚ) * 2 ^ e = 1 then some (signBit f false) else none) = none at hs
    rw [if_pos (hval.symm.trans h1)] at hs
    cases hs
  all_goals cases hs

theorem exponent_ne_zero {b : Nat} {e : Int} (h : ((2 ^ b : Nat) : ℚ) * 2 ^ e ≠ 1) : e + b ≠ 0 := by
  intro h0
  refine h ?_
  rw [show e = -(b : Int) by omega, zpow_neg, zpow_natCast]
  push_cast
  exact mul_inv_cancel₀ (by positivity)

theorem powMeans_log2 (hy : y.Proper) (hbits : ∀ n m e, y = .fin n m e → m < 2 ^ 64) : PowMeans .log2 f c y (exLog2 f y) where
  fits := exLog2_fits y
  nan n fr h := by rw [h]; rfl
  special b hb := by
    rcases y with ⟨n, fr⟩ | ⟨_ | _⟩ | n | ⟨⟨_ | _⟩, m, e⟩
    case fin.false =>
      change (if (m : ℚ) * 2 ^ e = 1 then some (signBit f false) else none) = some b at hb
      split at hb
      · next h1 =>
        obtain ⟨b, rfl⟩ := eq_two_pow_of_value (z := 0) (h1.trans (zpow_zero 2).symm)
        have h0 : e + b = 0 := by
          by_contra hne
          have := zpow_right_injective₀ (a := (2 : ℚ)) two_pos (by norm_num) (show (2 : ℚ) ^ (e + b) = 2 ^ (0 : Int) by
            rw [zpow_add₀ two_ne_zero, zpow_natCast, zpow_zero, ← h1]
            push_cast
            ring)
          exact hne this
        cases hb
        rw [exLog2_one f b h0]
        rfl
      · cases hb
    all_goals cases hb <;> rfl
  exact q z hs hq _ hz := by
    obtain ⟨m, e, rfl, rfl, h1⟩ := log2_source hs hq
    obtain ⟨b, rfl⟩ := eq_two_pow_of_value (hz rfl)
    have := leaves_isReal (f := f) c (log_isReal (f := f) (exponent_ne_zero h1))
    rwa [← logb_pow] at this
  near q hs hq _ := by
    obtain ⟨m, e, rfl, rfl, h1⟩ := log2_source hs hq
    by_cases hpow : m = 2 ^ (bitLen m - 1)
    · generalize bitLen m - 1 = b at hpow
      subst hpow
      have := leaves_near_isReal (f := f) c (log_isReal (f := f) (exponent_ne_zero h1))
      rwa [← logb_pow] at this
    · exact near_of_log c hy (hbits _ _ _ rfl) e hpow
  far _ _ h := nomatch h

end

theorem scale_bounds (h : Hd) (fpc : BitVec 2) : -32 ≤ (ctlOf h fpc).scale ∧ (ctlOf h fpc).scale ≤ 32 := by
  show -32 ≤ (Hd.mods h).scale.toInt ∧ (Hd.mods h).scale.toInt ≤ 32
  generalize (Hd.mods h).scale = x
  have h1 := BitVec.le_toInt x
  have h2 := BitVec.toInt_lt (x := x)
  norm_num at h1 h2
  omega

theorem dec_bits {f : Fmt} (b : Nat) (n : Bool) (m : Nat) (e : Int) (h : FV.dec f b = .fin n m e) : m < 2 ^ 64 := by
  obtain ⟨-, -, -, -, hm, -⟩ := dec_fin h
  exact hm.trans_le (Nat.pow_le_pow_right two_pos (by cases f <;> decide))

/-- `fexp2` and `flog2` give the power and the logarithm of their source. -/
theorem functionSpec_powers {i : Instr} {h : Hd} {ty : Ty} {d : Opnd} {xs : List Opnd} {fn : Fn} {f : Fmt} {s : State} {r : GRef} {t : Team}
    {g : Group} (e : functionSpec i = some (h, ty, d, xs, fn)) (hfn : fn = .exp2 ∨ fn = .log2)
    (hf : (ty = .f32 ∧ f = .f32) ∨ (ty = .f64 ∧ f = .f64)) (hi : Issuing s r t g) (ha : Alone h) (hp : Passes i t g s.m.draw)
    (hact : Active h g s.m.draw) :
    ∃ (y : Nat → Nat → FV) (x : Nat → Nat → Ex),
      Yields i h s r g d ty.wide (fun l => elements ty (fun k => finishEx f (ctlOf h (fpcOf s.m t.ctx)) (x l k)))
        ∧ ∀ l k, xs.mapIdx (fun j o => FV.dec f (floatSrc h ty (ctlOf h (fpcOf s.m t.ctx)) g s.m.draw j o l k)) = [y l k]
          ∧ PowMeans fn f (ctlOf h (fpcOf s.m t.ctx)) (y l k) (x l k) := by
  have hff : f = .f32 ∨ f = .f64 := hf.imp And.right And.right
  obtain rfl := fmtD_of hf
  cases i
  case fexp2 =>
    cases e
    exact ⟨_, _, yields_farith1 (k := .round .exp2) rfl rfl hi ha hp hact,
      fun _ _ => ⟨rfl, powMeans_exp2 hff (scale_bounds ..) (dec_proper ..)⟩⟩
  case flog2 =>
    cases e
    exact ⟨_, _, yields_farith1 (k := .round .log2) rfl rfl hi ha hp hact, fun _ _ => ⟨rfl, powMeans_log2 (dec_proper ..) (dec_bits _)⟩⟩
  case frcp | fsqrt | frsqrt | fdiv => cases e; rcases hfn with h | h <;> cases h
  all_goals cases e

/-- Settles O27: the series stay within a few thousand units of 2^−320 of their reals (`exp2Iv_near`, `atanh2_near`), and what lies
beyond 2^±16384 rounds as any other number so far beyond the formats (`Beyond.roundBits_eq`). -/
theorem floatPowers : Obligations.FloatPowers := by
  unfold Obligations.FloatPowers
  intro i h ty d xs fn f s r t g e hfn hf hi ha hp hact c src
  obtain ⟨y, x, hy, hm⟩ := functionSpec_powers e hfn hf hi ha hp hact
  refine ⟨fun l => finishEx f c (x l 0), hy.congr fun l _ => elements_one hf (finishEx_lt (hm l 0).2.fits c), fun l => ?_⟩
  obtain ⟨hsrc, hmean⟩ := hm l 0
  rw [show src l = [y l 0] from hsrc]
  refine ⟨fun n fr hn => ?_, fun b hb => finishEx_special c (hmean.special b hb), fun q hs hq => ?_⟩
  · exact finishEx_special c (by rw [hmean.nan n fr (List.singleton_inj.mp hn)]; rfl)
  · have hq' : (y l 0).rat = some q := List.singleton_inj.mp hq
    exact ⟨fun z => hmean.exact q z hs hq', hmean.near q hs hq', hmean.far q hq'⟩

end Sys2Proof.Machine
end
